-- ==== Sys2Proof/Word.lean ====
section
/-! DEFINITION. The words the hardware stores and computes with (spec/02_state.md R32), and the shape of a sparse table. -/

namespace Sys2Proof

/-- A 32-bit register value, and a 32-bit word of an instruction (R32, R56). -/
abbrev Word := BitVec 32

/-- A 64-bit scalar register value (R32). -/
abbrev DWord := BitVec 64

/-- The smallest addressable unit of memory. -/
abbrev Byte := BitVec 8

/-- A sparse table: keys strictly rising, an unlisted key reads as the reader's default. -/
abbrev Tab (α : Type) := List (Nat × α)

end Sys2Proof
end

