-- ==== Sys2Proof/Config.lean ====
section
/-! DEFINITION. What the spec leaves open: free values, constants without a body, so that nothing can evaluate one or
prove a value of one. Each names its log entry. -/

namespace Sys2Proof.Config

/-- What lane `l` of V register `n` of the group numbered `uid` holds before anything wrote it (R32: undefined). Log entry 9, DESIGN CHOICE; safe. -/
opaque unwrittenV (uid n l : Nat) : Word

/-- Which value a read of a register returns before its covering count allows it (R73): true the new one.
It depends on the issue that reads, the lane and the result under way. Log entry 10, DESIGN CHOICE; safe. -/
opaque raceRead (tick lane flight : Nat) : Bool

/-- The FP32 result, within the bound of R230, of the special function numbered `fn` (FRSQ, FEX2, FLG2, FSIN, FCOS). Log entry 11, DESIGN CHOICE; safe. -/
opaque approx (fn : Nat) (x : Word) : Word

/-- Whether a word of a range that a stopped engine had not written yet holds its copied value (R314). Log entry 12, DESIGN CHOICE; safe. -/
opaque stopped (op word : Nat) : Bool

/-- A byte that the part writes and the spec does not fix: an engine record (R102), memory past the
directory after a save that did not fit (R102). Log entry 13, DESIGN CHOICE; safe. -/
opaque freeByte (tag k : Nat) : Byte

/-- The identity key of the module, and the nonces that its signatures draw (R433). Log entry 13, DESIGN CHOICE; safe. -/
opaque identityKey : Nat
opaque signNonce (tag k : Nat) : Nat

/-- Which member of a gang gives the scalar operands of its operation (R350 does not say when they differ). Log entry 14, DESIGN CHOICE; safe. -/
opaque gangPick (n : Nat) : Nat

/-- A choice that the spec leaves to Orrery: where a cluster goes (R132, R133), which local slot a team gets (R256). Log entry 6, DESIGN CHOICE; safe. -/
opaque place (n : Nat) : Nat

/-- The fabric context number that a request carries when the window maps none to its context (R408, R409). Log entry 15, DESIGN CHOICE; safe. -/
opaque unmappedFctx (ctx : Nat) : Nat

/-- Whether firmware turns encryption on for a port (R411, R428). Log entry 16, DESIGN CHOICE; safe. -/
opaque enc (port : Nat) : Bool

/-- Which 8-byte words of a peer's request are performed first (R286): true those of odd number. Log entry 80, DESIGN CHOICE; safe. -/
opaque highFirst (tick : Nat) : Bool

/-- Whether a store at TEAM scope is performed at that scope before it is performed at its home (R283, R287, R441). Log entry 23, DEDUCED; safe. -/
opaque teamFirst (tick : Nat) : Bool

/-- The channels whose beats are broken of a flit that comes back to the module itself (R399, R404): 0 where it arrives whole. Log entry 83, DESIGN CHOICE; safe. -/
opaque loopBroken (tick : Nat) : BitVec 16

/-- How many microseconds pass on an Orrery's timer, or cycles on a unit's counter, by a given step. Log entry 17, DESIGN CHOICE; safe. -/
opaque clockSkew (unit turn : Nat) : Nat

end Sys2Proof.Config
end

