-- ==== Sys2Proof/Machine/Bits.lean ====
section
/-! DEFINITION. Bit fields, sign extension and byte order: the plain helpers of every other file (spec/03_encoding.md). -/

namespace Sys2Proof.Machine

/-- The field of `w` bits of `x` from bit `off` up. -/
def fld (x off w : Nat) : Nat := x / 2 ^ off % 2 ^ w

/-- Bit `i` of `x`. -/
def bitOf (x i : Nat) : Bool := x / 2 ^ i % 2 == 1

/-- 1 for true, 0 for false. -/
def b2n (b : Bool) : Nat := if b then 1 else 0

/-- SignExt(x, w): the low `w` bits of `x` read as two's complement. -/
def sext (w x : Nat) : Int := if bitOf x (w - 1) && decide (0 < w) then (x % 2 ^ w : Nat) - (2 ^ w : Int) else (x % 2 ^ w : Nat)

/-- The low `w` bits of an integer, wrapping. -/
def wrapZ (w : Nat) (x : Int) : Nat := (x % (2 ^ w : Int)).toNat

/-- Sat(x, lo, hi). -/
def satZ (x lo hi : Int) : Int := if x < lo then lo else if hi < x then hi else x

/-- The bytes of `x`, `n` of them, low byte first. -/
def leBytes : Nat → Nat → List Byte
  | 0, _ => []
  | n + 1, x => BitVec.ofNat 8 x :: leBytes n (x / 256)

/-- The number whose bytes are `bs`, low byte first. -/
def leNat : List Byte → Nat
  | [] => 0
  | b :: bs => b.toNat + 256 * leNat bs

/-- Bits `i` below `n` for which `p` holds, as a mask. -/
def maskOf (n : Nat) (p : Nat → Bool) : Nat := (List.range n).foldl (fun m i => if p i then m + 2 ^ i else m) 0

/-- The number of bits set below bit `n`. -/
def popN (n x : Nat) : Nat := ((List.range n).filter (bitOf x)).length

/-- The place of the highest 1 bit among the low `n`, or `none`. -/
def topBit (n x : Nat) : Option Nat := ((List.range n).filter (bitOf x)).getLast?

/-- The bytes that a list of numbers gives, one each. -/
def toBytes (l : List Nat) : List Byte := l.map (BitVec.ofNat 8)

end Sys2Proof.Machine
end

