-- ==== Sys2Proof/Syntax.lean ====
section
/-! DEFINITION. Abstract syntax: one constructor of `Instr` for each row of spec/opcode_table.json. The first 162 are
the instructions of the opcode map (spec/03_encoding.md R79; FMOV has a constructor for each direction); the others are
the steps that engines, Orrery, links, the host and the management controller take by themselves, which have no
encoding and carry their choices and their data as arguments. -/

namespace Sys2Proof

/-- An operand field of R63: a vector, operand-buffer, last-result or scalar register, an immediate byte or a special
register number. -/
inductive Opnd where
  | v (n : BitVec 10)
  | o (n : BitVec 3)
  | z (n : BitVec 1)
  | s (n : BitVec 8)
  | imm (n : BitVec 8)
  | sr (n : BitVec 8)
  deriving DecidableEq, Repr

/-- The fields of word 0 beside LEN and OPC (R57). -/
structure Hdr where
  stall : BitVec 4
  y : Bool
  gp : BitVec 3
  gn : Bool
  wsb : BitVec 3
  wait : BitVec 6
  deriving DecidableEq, Repr

/-- WID of R203. -/
inductive Wid where | w32 | w64 | x2 | x4
  deriving DecidableEq, Repr
/-- CMP of ISETP (R216). -/
inductive Cmp where | eq | ne | lt | le | gt | ge
  deriving DecidableEq, Repr
/-- BOP of R216. -/
inductive Bop where | none | and | or | xor
  deriving DecidableEq, Repr
/-- RND of R223, with RS (R195). -/
inductive Rnd where | rn | rz | rd | ru | dyn | rs
  deriving DecidableEq, Repr
/-- CMP of FSETP and DSETP (R227). -/
inductive FCmp where | eq | ne | lt | le | gt | ge | num | nan | equ | neu | ltu | leu | gtu | geu
  deriving DecidableEq, Repr
/-- CV of FCVT (R232), destination first. -/
inductive Cv where
  | f32f64 | f64f32 | f16f32 | f32f16 | bf16f32 | f32bf16 | f16f64 | f64f16 | bf16f64 | f64bf16
  | s32f32 | f32s32 | u32f32 | f32u32 | s32f64 | f64s32 | u32f64 | f64u32 | s64f64 | f64s64
  | u64f64 | f64u64 | s64f32 | f32s64 | u64f32 | f32u64 | f16x2f32 | bf16x2f32 | f32f16x2 | f32bf16x2
  deriving DecidableEq, Repr
/-- STD of CVTN (R234). -/
inductive Std where | f32 | f16x2 | bf16x2
  deriving DecidableEq, Repr
/-- DST of RQNT (R220). -/
inductive QDst where | i8 | u8 | i4 | u4
  deriving DecidableEq, Repr
/-- RM of RQNT (R220). -/
inductive QRm where | rn | rz | rd | ru
  deriving DecidableEq, Repr
/-- SW of the cross-lane instructions (R242): the width of a sub-group. -/
inductive Sw where | full | sg2 | sg4 | sg8 | sg16 | sg32 | sg64
  deriving DecidableEq, Repr
/-- OP of REDX and SCAN (R246). -/
inductive RedOp where | add | minS | minU | maxS | maxU | and | or | xor | fadd | fmin | fmax
  deriving DecidableEq, Repr
/-- SZ of the loads and stores (R264). -/
inductive Sz where | u8 | s8 | u16 | s16 | b32 | b64 | b128
  deriving DecidableEq, Repr
/-- POL of LDG and STG (R261). -/
inductive Pol where | l1 | l2 | st | sys
  deriving DecidableEq, Repr
/-- SCOPE of R269. -/
inductive Scope where | group | team | cluster | device | pod | system
  deriving DecidableEq, Repr
/-- ORD of R270. -/
inductive Order where | rlx | acq | rel | ar
  deriving DecidableEq, Repr
/-- KIND of FENCE (R275); the code is one more than the place in this list. -/
inductive FenceKind where | acq | rel | ar
  deriving DecidableEq, Repr
/-- OP of the atomics (R270). -/
inductive AtomOp where | add | fadd | bfadd2 | min | max | and | or | xor | exch | cas | inc | dec
  deriving DecidableEq, Repr
/-- OP of CCTL (R274). -/
inductive CctlOp where | iv | ivall | clean
  deriving DecidableEq, Repr
/-- A memory space of COPY, COPY2D and RCOPY (R315). -/
inductive Spc where | g | sh | ts
  deriving DecidableEq, Repr
/-- TYPE of MMA (R351). -/
inductive MmaTy where | bf16 | f16 | n8 | i8 | n4 | i4 | f64
  deriving DecidableEq, Repr
/-- MODE of PCONS (R249) with the register it writes. -/
inductive PconsDst where
  | every (pd : BitVec 3)
  | some (pd : BitVec 3)
  | same (pd : BitVec 3)
  | mask (d : Opnd)
  deriving DecidableEq, Repr
/-- The source of SPFORM (R150): a register, or with PRED a predicate. -/
inductive FormSrc where
  | reg (a : Opnd)
  | pred (p : BitVec 3)
  deriving DecidableEq, Repr
/-- The destination of UNSEAL (R280): an S register, or with NB a handle. -/
inductive UnsealDst where
  | status (d : Opnd)
  | handle (h : BitVec 4)
  deriving DecidableEq, Repr
/-- The key or value source of ATTS and ATTV (R362): an address map, or with KV a sequence descriptor. -/
inductive KvSrc where
  | map (am : BitVec 4)
  | desc (a : Opnd)
  deriving DecidableEq, Repr
/-- The shared MODA fields of the integer instructions (R203). -/
structure IMod where
  wid : Wid
  sgn : Bool
  sat : Bool
  deriving DecidableEq, Repr
/-- The carry fields of ADDC, SUBB and MADC (R209). -/
structure Carry where
  pci : BitVec 3
  pco : BitVec 3
  nci : Bool
  deriving DecidableEq, Repr
/-- The shared MODA fields of the floating-point arithmetic instructions (R223). -/
structure FMod where
  rnd : Rnd
  nega : Bool
  negb : Bool
  negc : Bool
  absa : Bool
  sat : Bool
  deriving DecidableEq, Repr
/-- The fields of FSETP and DSETP (R227). -/
structure FSetMod where
  cmp : FCmp
  nega : Bool
  negb : Bool
  absa : Bool
  bop : Bop
  deriving DecidableEq, Repr
/-- The fields of the lane gathers and broadcasts (R242). -/
structure XMod where
  sw : Sw
  x64 : Bool
  deriving DecidableEq, Repr
/-- The fields of the atomics (R270). -/
structure AMod where
  op : AtomOp
  sgn : Bool
  x64 : Bool
  scope : Scope
  ord : Order
  deriving DecidableEq, Repr
/-- The fields of COPY and COPY2D beside their operands (R315). -/
structure CopyMod where
  dsp : Spc
  ssp : Spc
  fix : Bool
  ch : BitVec 3
  deriving DecidableEq, Repr
/-- The fields of MMA (R337, R351). -/
structure MmaMod where
  ty : MmaTy
  new : Bool
  nb : Bool
  blk : BitVec 2
  fmta : BitVec 3
  fmtb : BitVec 3
  sgna : Bool
  sgnb : Bool
  deriving DecidableEq, Repr
/-- The fields ATTS and ATTV share (R362). -/
structure AttMod where
  nh : BitVec 2
  f16 : Bool
  hd : Option (BitVec 4)
  nk : BitVec 6
  deriving DecidableEq, Repr
/-- Quarter and width of ARD and AWR (R337). -/
structure FragMod where
  q : BitVec 2
  qsel : Bool
  f64 : Bool
  deriving DecidableEq, Repr

/-- The fields of a context descriptor (R97). -/
structure CtxDesc where
  ctx : BitVec 12
  ptroot : BitVec 52
  savebase : BitVec 49
  savelen : BitVec 40
  evq : BitVec 49
  evqsz : BitVec 5
  deriving DecidableEq, Repr
/-- The fields of a queue descriptor (R115). -/
structure QueueDesc where
  qnum : BitVec 12
  ctx : BitVec 12
  home : Bool
  feed : Bool
  base : BitVec 49
  size : BitVec 5
  cbase : BitVec 49
  cls : BitVec 2
  prio : BitVec 3
  tlimit : BitVec 32
  qmin : BitVec 13
  qcap : BitVec 13
  deriving DecidableEq, Repr
/-- A request that the peer and this module exchange (R408): read, write or atomic, of 1 to 256 bytes. -/
inductive ReqKind where
  | read (n : Nat)
  | write (data : List (BitVec 8)) (mask : List Bool)
  | atomic (m : AMod) (b c : BitVec 64)
  | release (value : BitVec 64)
  deriving DecidableEq, Repr
/-- A request with its extension (R408), as it travels. -/
structure Req where
  peer : Nat
  stream : Nat
  seq : Nat
  version : Nat
  fctx : Nat
  addr : Nat
  kind : ReqKind
  deriving DecidableEq, Repr
/-- A control message about the link that a receiver watches (R405, R411), to its sender: channels lost, channels trained again,
a flit that failed authentication; and the new key that a sender agrees. -/
inductive Control where
  | lost (channels : Nat)
  | back (channels : Nat)
  | authFail (run : Nat)
  | rekey (epoch : Nat)
  deriving DecidableEq, Repr
/-- What flits carry (R402, R408, R391, R393): requests and replies, and the notices and control messages of TYPE 2. -/
inductive Cargo where
  | request (r : Req)
  | reply (peer stream seq status : Nat) (data : List (BitVec 8))
  | version (v ctx : Nat) (ancestors : List Nat)
  | commit (v target : Nat) (marks : List Nat)
  | dead (v : Nat) (marks : List Nat)
  | ack (v : Nat) (dead : Bool)
  | control (c : Control)
  deriving DecidableEq, Repr
/-- A part of a cargo in a flit's payload: its first byte and its length (R402). -/
structure Chunk where
  cargo : Cargo
  start : Nat
  len : Nat
  deriving DecidableEq, Repr
/-- A flit (R402): its header, and what its payload carries. -/
structure Flit where
  fseq : Nat
  ack : Nat
  ty : Nat
  nak : Bool
  chunks : List Chunk
  deriving DecidableEq, Repr
/-- How a flit arrives (R404, R405, R411): whole, with beats of some channels broken, or with a tag that does not verify. -/
inductive FlitCheck where
  | good
  | crc (channels : BitVec 16)
  | auth
  deriving DecidableEq, Repr
/-- What comes with a flit's FSEQ, ACK and NAK: its TYPE, what its payload carries, and how it arrives (R402, R404). -/
structure Arrival where
  ty : Nat
  chunks : List Chunk
  check : FlitCheck
  deriving DecidableEq, Repr
/-- A direction of the link between this module and a peer: that to the peer, or the incoming one (R401). -/
structure LinkEnd where
  peer : Nat
  incoming : Bool
  mask : BitVec 16 := 0
  deriving DecidableEq, Repr
/-- What a peer acknowledges: the commit notice or the dead notice of a version (R393). -/
structure VerAck where
  version : Nat
  dead : Bool
  deriving DecidableEq, Repr
/-- Data that the host gives back with a half, none where it has not changed it, and whether it is poisoned (R424). -/
structure HostData where
  data : List (BitVec 8)
  poison : Bool
  deriving DecidableEq, Repr
/-- A host snoop: whether the part gives the line up, and the data of a host write of the line (R301, R426). -/
structure Snoop where
  inval : Bool
  data : List (BitVec 8)
  deriving DecidableEq, Repr
/-- A window field with no row of its own (R431, R468, R126, R383-R385, R409, R423). -/
inductive WinReg where
  | freeFrames (ctx die : Nat) (frames : List Nat)
  | spillPool (ctx : Nat) (base size : Nat)
  | overlayDir (ctx : Nat) (va : Nat)
  | vways (die : Nat) (n : Nat)
  | fabricCtx (fctx ctx : Nat)
  | linkQueue (base size : Nat)
  | ahist (ctx : Nat) (avg : BitVec 16)
  | draftCap (ctx : Nat) (dmin dmax : BitVec 8)
  | msix (ctx : Option Nat) (vector : Nat)
  deriving DecidableEq, Repr
/-- What the management controller reads (R434, R435). -/
structure Readings where
  power : Nat
  inlet : Int
  outlet : Int
  flow : Nat
  hot0 : Int
  hot1 : Int
  supply : Nat
  deriving DecidableEq, Repr
/-- A firmware image as the boot ROM reads it from a slot (R428): its bytes, those of its configuration block, its version, and the
signature, `sigR` and `sigS`, over the SHA-512 digest of `code` (log entry 54). -/
structure Image where
  code : List Byte
  config : List Byte
  version : Nat
  sigR : Nat
  sigS : Nat
  deriving DecidableEq, Repr

/-- Every row of spec/opcode_table.json. -/
inductive Instr where
  -- control, registers, predicates, system
  | nop (h : Hdr)
  | bra (h : Hdr) (off : BitVec 32)
  | brx (h : Hdr) (a : Opnd)
  | call (h : Hdr) (off : BitVec 32)
  | callx (h : Hdr) (a : Opnd)
  | ret (h : Hdr)
  | exit (h : Hdr)
  | jset (h : Hdr) (j : BitVec 4) (add : Bool)
  | join (h : Hdr) (j : BitVec 4)
  | jpush (h : Hdr) (j : BitVec 4)
  | jpop (h : Hdr) (j : BitVec 4)
  | brk (h : Hdr) (off : BitVec 32) (j n1 : BitVec 4)
  | yield (h : Hdr) (a : Opnd)
  | monw (h : Hdr) (a : Opnd)
  | mwait (h : Hdr) (d a : Opnd)
  | gsync (h : Hdr)
  | spmat (h : Hdr)
  | gfold (h : Hdr)
  | spform (h : Hdr) (d : Opnd) (src : FormSrc)
  | rgnld (h : Hdr) (base : BitVec 10) (mask : BitVec 8) (offs : BitVec 32)
  | rshrink (h : Hdr) (a : Opnd) (s : BitVec 4)
  | rgrow (h : Hdr) (a : Opnd) (s : BitVec 4)
  | plop (h : Hdr) (pd pa pb : BitVec 3) (lut : BitVec 4)
  | pmov (h : Hdr) (pd pa : BitVec 3) (neg : Bool)
  | trap (h : Hdr) (tag : BitVec 8)
  | bpt (h : Hdr) (tag : BitVec 8)
  | srd (h : Hdr) (d a : Opnd)
  | swr (h : Hdr) (d a : Opnd)
  | cyc (h : Hdr) (d : Opnd) (hi : Bool)
  -- barriers
  | bar (h : Hdr) (b : BitVec 4)
  | bara (h : Hdr) (d : Opnd) (b : BitVec 4)
  | barw (h : Hdr) (b : BitVec 4) (a : Opnd)
  | barinit (h : Hdr) (b : BitVec 4) (a : Opnd)
  | cbar (h : Hdr)
  | gbar (h : Hdr)
  -- launch, queues, versions
  | launch (h : Hdr) (d a : Opnd) (nb : Bool)
  | enq (h : Hdr) (d a b : Opnd) (nb : Bool)
  | qstat (h : Hdr) (d a : Opnd) (child : Bool)
  | splnch (h : Hdr) (d a b c : Opnd) (slot : BitVec 4) (ps nb : Bool) (lit : BitVec 32)
  | resolve (h : Hdr) (d a b : Opnd) (slot : BitVec 4)
  | vqry (h : Hdr) (d a : Opnd) (drops : Bool)
  | vabort (h : Hdr) (d a : Opnd)
  -- integer, logic, address
  | iadd (h : Hdr) (m : IMod) (d a b : Opnd)
  | isub (h : Hdr) (m : IMod) (d a b : Opnd)
  | imul (h : Hdr) (m : IMod) (d a b : Opnd)
  | imulh (h : Hdr) (m : IMod) (d a b : Opnd)
  | imad (h : Hdr) (m : IMod) (d a b c : Opnd)
  | imadw (h : Hdr) (m : IMod) (d a b c : Opnd)
  | addc (h : Hdr) (m : IMod) (cy : Carry) (d a b : Opnd)
  | subb (h : Hdr) (m : IMod) (cy : Carry) (d a b : Opnd)
  | madc (h : Hdr) (m : IMod) (hi : Bool) (cy : Carry) (d a b c : Opnd)
  | imin (h : Hdr) (m : IMod) (d a b : Opnd)
  | imax (h : Hdr) (m : IMod) (d a b : Opnd)
  | iabs (h : Hdr) (m : IMod) (d a : Opnd)
  | shl (h : Hdr) (m : IMod) (wrap : Bool) (d a b : Opnd)
  | shr (h : Hdr) (m : IMod) (wrap : Bool) (d a b : Opnd)
  | shra (h : Hdr) (m : IMod) (wrap : Bool) (d a b : Opnd)
  | shf (h : Hdr) (m : IMod) (right wrap : Bool) (d a b c : Opnd)
  | bitfn (h : Hdr) (m : IMod) (fn : BitVec 8) (d a b c : Opnd)
  | popc (h : Hdr) (m : IMod) (d a : Opnd)
  | clz (h : Hdr) (m : IMod) (d a : Opnd)
  | brev (h : Hdr) (m : IMod) (d a : Opnd)
  | bfe (h : Hdr) (m : IMod) (d a b : Opnd)
  | bfi (h : Hdr) (m : IMod) (d a b c : Opnd)
  | bysel (h : Hdr) (m : IMod) (d a b c : Opnd)
  | isetp (h : Hdr) (m : IMod) (cmp : Cmp) (bop : Bop) (pd : BitVec 3) (a b : Opnd) (pc : BitVec 3)
  | sel (h : Hdr) (m : IMod) (d a b : Opnd) (pc : BitVec 3)
  | mov (h : Hdr) (m : IMod) (d a : Opnd)
  | movi (h : Hdr) (m : IMod) (d : Opnd) (lit : BitVec 32)
  | lea (h : Hdr) (m : IMod) (sh : BitVec 5) (d a b : Opnd)
  | rqnt (h : Hdr) (dst : QDst) (rm : QRm) (pos : BitVec 3) (shift : BitVec 6) (pack : Bool) (d a b c : Opnd)
  | idp4 (h : Hdr) (m : IMod) (bsgn : Bool) (d a b c : Opnd)
  | idp8 (h : Hdr) (m : IMod) (bsgn : Bool) (d a b c : Opnd)
  -- floating point, conversion, quantisation
  | fadd (h : Hdr) (m : FMod) (d a b : Opnd)
  | fmul (h : Hdr) (m : FMod) (d a b : Opnd)
  | ffma (h : Hdr) (m : FMod) (d a b c : Opnd)
  | fmin (h : Hdr) (m : FMod) (d a b : Opnd)
  | fmax (h : Hdr) (m : FMod) (d a b : Opnd)
  | fsetp (h : Hdr) (m : FSetMod) (pd : BitVec 3) (a b : Opnd) (pc : BitVec 3)
  | frnd (h : Hdr) (rnd : Rnd) (f64 : Bool) (d a : Opnd)
  | fclass (h : Hdr) (f64 : Bool) (d a : Opnd)
  | dadd (h : Hdr) (m : FMod) (d a b : Opnd)
  | dmul (h : Hdr) (m : FMod) (d a b : Opnd)
  | dfma (h : Hdr) (m : FMod) (d a b c : Opnd)
  | dsetp (h : Hdr) (m : FSetMod) (pd : BitVec 3) (a b : Opnd) (pc : BitVec 3)
  | hfma2 (h : Hdr) (m : FMod) (d a b c : Opnd)
  | bfma2 (h : Hdr) (m : FMod) (d a b c : Opnd)
  | frcp (h : Hdr) (rnd : Rnd) (f64 : Bool) (d a : Opnd)
  | frsq (h : Hdr) (d a : Opnd)
  | fsqrt (h : Hdr) (rnd : Rnd) (f64 : Bool) (d a : Opnd)
  | fex2 (h : Hdr) (d a : Opnd)
  | flg2 (h : Hdr) (d a : Opnd)
  | fsin (h : Hdr) (d a : Opnd)
  | fcos (h : Hdr) (d a : Opnd)
  | fcvt (h : Hdr) (rnd : Rnd) (cv : Cv) (d a : Opnd)
  | cvtn (h : Hdr) (rnd : Rnd) (from_ : Bool) (std : Std) (n4 : Bool) (pos : BitVec 3) (d a : Opnd) (k : BitVec 3)
  | qnt (h : Hdr) (rnd : Rnd) (n4 : Bool) (d a : Opnd) (k : BitVec 3)
  | scacc (h : Hdr) (rnd : Rnd) (nega : Bool) (d a b c : Opnd)
  | fmtset (h : Hdr) (k : BitVec 3) (a : Opnd)
  -- cross-lane
  | lnget (h : Hdr) (m : XMod) (wrap : Bool) (d a b c : Opnd)
  | lnxor (h : Hdr) (m : XMod) (wrap : Bool) (d a b c : Opnd)
  | lnsub (h : Hdr) (m : XMod) (wrap : Bool) (d a b c : Opnd)
  | lnadd (h : Hdr) (m : XMod) (wrap : Bool) (d a b c : Opnd)
  | redx (h : Hdr) (m : XMod) (op : RedOp) (d a : Opnd)
  | scan (h : Hdr) (m : XMod) (excl : Bool) (op : RedOp) (d a c : Opnd)
  | pcons (h : Hdr) (sw : Sw) (dst : PconsDst) (pa : BitVec 3)
  | matchv (h : Hdr) (m : XMod) (d a : Opnd)
  | bcast (h : Hdr) (m : XMod) (first : Bool) (d a b c : Opnd)
  -- memory
  | ldg (h : Hdr) (sz : Sz) (pol : Pol) (d a b : Opnd)
  | stg (h : Hdr) (sz : Sz) (pol : Pol) (a b c : Opnd)
  | ldsh (h : Hdr) (sz : Sz) (d a b : Opnd)
  | stsh (h : Hdr) (sz : Sz) (a b c : Opnd)
  | ldts (h : Hdr) (sz : Sz) (d a b : Opnd)
  | stts (h : Hdr) (sz : Sz) (a b c : Opnd)
  | ldl (h : Hdr) (sz : Sz) (d a b : Opnd)
  | stl (h : Hdr) (sz : Sz) (a b c : Opnd)
  | atomg (h : Hdr) (m : AMod) (d a b c : Opnd) (off : BitVec 32)
  | atomsh (h : Hdr) (m : AMod) (d a b c : Opnd) (off : BitVec 32)
  | pref (h : Hdr) (l2 : Bool) (a : Opnd)
  | cctl (h : Hdr) (op : CctlOp) (a : Opnd)
  | fence (h : Hdr) (scope : Scope) (kind : FenceKind)
  | seal (h : Hdr) (d a b : Opnd)
  | unseal (h : Hdr) (d : UnsealDst) (a : Opnd)
  | sealq (h : Hdr) (d a : Opnd)
  | ldsc (h : Hdr) (sz : Sz) (scope : Scope) (ord : Order) (sh : Bool) (d a b : Opnd)
  | stsc (h : Hdr) (sz : Sz) (scope : Scope) (ord : Order) (sh : Bool) (a b c : Opnd)
  | pgq (h : Hdr) (d a : Opnd)
  -- futures and copies
  | copy (h : Hdr) (m : CopyMod) (lens : Bool) (hd : BitVec 4) (a b c : Opnd) (lit : BitVec 32)
  | copy2d (h : Hdr) (m : CopyMod) (hd : BitVec 4) (a b c : Opnd) (lit : BitVec 32)
  | fwait (h : Hdr) (d : Opnd) (hn : BitVec 4)
  | ftest (h : Hdr) (d : Opnd) (hn : BitVec 4)
  | fcancel (h : Hdr) (hn : BitVec 4)
  | fwp (h : Hdr) (d : Opnd) (hn : BitVec 4)
  | fmovOut (h : Hdr) (d : Opnd) (hn : BitVec 4)
  | fmovIn (h : Hdr) (hd : BitVec 4) (a : Opnd)
  -- tiles
  | tsalloc (h : Hdr) (d a : Opnd) (nb : Bool)
  | tsfree (h : Hdr) (a : Opnd)
  | amset (h : Hdr) (am : BitVec 4) (a : Opnd) (w : BitVec 3) (mem : Bool)
  | amget (h : Hdr) (d : Opnd) (am : BitVec 4) (w : BitVec 3)
  | gang (h : Hdr) (a : Opnd)
  | azero (h : Hdr) (an : BitVec 4) (f64 : Bool)
  | ald (h : Hdr) (hd : Option (BitVec 4)) (f64 : Bool) (an am : BitVec 4) (b c : Opnd)
  | ast (h : Hdr) (hd : Option (BitVec 4)) (f64 : Bool) (an am : BitVec 4) (b c : Opnd)
  | ard (h : Hdr) (m : FragMod) (d : Opnd) (an : BitVec 4)
  | awr (h : Hdr) (m : FragMod) (an : BitVec 4) (a : Opnd)
  | tld (h : Hdr) (hd : Option (BitVec 4)) (tots : Bool) (dst am : BitVec 4) (rows1 : BitVec 5) (b c : Opnd)
  | mma (h : Hdr) (m : MmaMod) (ad : BitVec 4) (ta tb : BitVec 3)
  | arel (h : Hdr) (f64 t : Bool) (n : BitVec 4)
  | asca (h : Hdr) (ad ap : BitVec 4) (ts : BitVec 3) (row : BitVec 5)
  -- attention
  | kvtr (h : Hdr) (vhalf : Bool) (d a b : Opnd)
  | atts (h : Hdr) (m : AttMod) (causal : Bool) (aset : BitVec 4) (tq : BitVec 3) (src : KvSrc) (c : Opnd) (tp : BitVec 3)
      (window : BitVec 20)
  | attv (h : Hdr) (m : AttMod) (aset : BitVec 4) (tp : BitVec 3) (src : KvSrc) (c : Opnd)
  | attmrg (h : Hdr) (nh : BitVec 2) (ad asrc : BitVec 4) (b : Opnd)
  | attfin (h : Hdr) (nh : BitVec 2) (aset : BitVec 4)
  | arset (h : Hdr) (nh : BitVec 2) (aset : BitVec 4)
  -- fabric
  | rld (h : Hdr) (sz : Sz) (ns : Bool) (stream : BitVec 4) (d a b : Opnd) (off : BitVec 32)
  | rst (h : Hdr) (sz : Sz) (stream : BitVec 4) (a b c : Opnd) (off : BitVec 32)
  | ratom (h : Hdr) (op : AtomOp) (sgn x64 ns : Bool) (stream : BitVec 4) (d a b c : Opnd) (off : BitVec 32)
  | rcopy (h : Hdr) (ssp : Spc) (lens : Bool) (stream : BitVec 4) (hd : BitVec 4) (a b c : Opnd) (lit : BitVec 32)
  | srel (h : Hdr) (stream : BitVec 4) (value a : Opnd)
  | rjoin (h : Hdr) (j : BitVec 4)
  | lnkq (h : Hdr) (str : Bool) (d a : Opnd)
  -- steps of the cores
  | vote (core : Nat)
  | variableResultLands (group ticket : Nat)
  | storePerformed (ticket : Nat)
  | mwaitTimeout (group lane : Nat)
  | yieldWake (group lane : Nat)
  | ktimeout (queue : Nat)
  | rgrowGrant (core : Nat)
  | tsallocGrant (core : Nat)
  | tsfreeRelease (team : Nat)
  | accumulatorTileGrant (core : Nat)
  | copyBeat (core ch : Nat)
  | tileRowMove (team op : Nat)
  | attentionCommit (team op : Nat)
  -- pages, seals
  | hwFaultService (die slot : Nat)
  | faultReplayWrite (slot : BitVec 16)
  | tlbInvalidate (ctx : Nat) (range : Option (Nat × Nat))
  | tlbInvalidateComplete (ctx : Nat)
  | sealComplete (ctx base : Nat)
  | unsealComplete (ctx base : Nat)
  | absentUnitFill (owner unit : Nat)
  -- contexts
  | contextDescriptorWrite (d : CtxDesc)
  | contextActivate (ctx : Nat)
  | preemptRequest (ctx : Nat)
  | preemptHalt (ctx : Nat)
  | contextSaveComplete (ctx : Nat)
  | resumeRequest (ctx : Nat)
  | restoreEagerComplete (ctx : Nat)
  | contextDestroy (ctx : Nat)
  | trapAreaReset (ctx : Nat)
  | erptrWrite (ctx : Option Nat) (count : Nat)
  -- queues and teams
  | queueDescriptorWrite (d : QueueDesc)
  | queueEnable (queue : Nat)
  | queueSuspend (queue : Nat)
  | queueResume (queue : Nat)
  | queueDrain (queue : Nat)
  | queueReset (queue : Nat)
  | queueDestroy (queue : Nat)
  | doorbellWrite (queue wptr : Nat)
  | dispatchRegisterWrite (queue pos : Nat)
  | recordTake (queue : Nat)
  | recordStart (queue : Nat)
  | queueBufferGrant (die : Nat)
  | teamDispatch (grid : Nat)
  | teamRetire (team : Nat)
  | recordComplete (queue : Nat)
  -- versions
  | squashRuleStep (ctx : Nat)
  | versionRetag (version : Nat)
  | versionNotice (peer version ctx : Nat) (ancestors : List Nat)
  | commitNotice (peer version target : Nat) (marks : List Nat)
  | deadNotice (peer version : Nat) (marks : List Nat)
  | noticeAck (peer : Nat) (version : VerAck)
  -- links
  | flitReceive (peer fseq ack : Nat) (nak : Bool) (got : Arrival)
  | lossOfLight (peer : Nat) (channels : BitVec 16)
  | restripeComplete (link : LinkEnd)
  | channelRetrained (peer ch : Nat)
  | linkTrainingComplete (link : LinkEnd) (trained : BitVec 16)
  | linkMaskWrite (peer : Nat) (mask : BitVec 16)
  | linkReset (link : LinkEnd)
  | rekey (peer : Nat)
  | remoteRequestPerform (r : Req)
  | remoteReply (peer stream seq status : Nat) (data : List (BitVec 8))
  | rcopyPieceSend (team fid : Nat)
  | flitSend (peer : Nat)
  -- host
  | hostRead (p : Nat) (own : Bool)
  | hostWriteback (p : Nat) (back : HostData)
  | hostWrite (p : Nat) (data : List (BitVec 8)) (poison : Bool)
  | recallResponse (p : Nat) (back : HostData)
  | hostSnoop (p : Nat) (snoop : Snoop)
  | bar2Access (p : Nat) (write : Option (List (BitVec 8)))
  | portDown
  -- start, trust, power
  | moduleReset
  | startTimeout
  | fullStartRequest
  | recoveryImageWrite (image : Image)
  | attestationRequest (nonce : BitVec 512)
  | fnmodeWrite (value : BitVec 32)
  | windowRegisterWrite (r : WinReg)
  | thermalStop (r : Readings)
  | clockThrottle (r : Readings)
  | clockRaise (r : Readings)
  | telemetryUpdate (r : Readings)
  | powerOff
  deriving DecidableEq, Repr

end Sys2Proof
end

