-- ==== Sys2Proof/Machine/Flags.lean ====
section
/-! DEFINITION. Floating-point formats, exact values, rounding and the FPSTAT flags (spec/10_numbers.md R186 to R200). -/

namespace Sys2Proof.Machine

/-- A format (R186, R188): widths, bias, special codes and overflow. `std` marks FP64, FP32, FP16 and BF16. -/
structure Fmt where
  w : Nat
  sgn : Bool
  e : Nat
  m : Nat
  bias : Int
  spec : Nat
  sat : Bool
  std : Bool
  deriving DecidableEq, Repr

def fp64 : Fmt := { w := 64, sgn := true, e := 11, m := 52, bias := 1023, spec := 2, sat := false, std := true }
def fp32 : Fmt := { w := 32, sgn := true, e := 8, m := 23, bias := 127, spec := 2, sat := false, std := true }
def fp16 : Fmt := { w := 16, sgn := true, e := 5, m := 10, bias := 15, spec := 2, sat := false, std := true }
def bf16 : Fmt := { w := 16, sgn := true, e := 8, m := 7, bias := 127, spec := 2, sat := false, std := true }

/-- R188: the format that a descriptor names. -/
def fmtOf (x : Nat) : Fmt :=
  let w := fld x 0 4
  let s := bitOf x 4
  let e := fld x 5 3
  { w, sgn := s, e, m := w - b2n s - e, bias := sext 8 (fld x 8 8), spec := fld x 16 2, sat := bitOf x 18, std := false }

/-- R189: a valid descriptor. -/
def fmtValid (x : Nat) : Bool :=
  let w := fld x 0 4
  let s := b2n (bitOf x 4)
  let e := fld x 5 3
  let spec := fld x 16 2
  decide (4 ≤ w) && decide (w ≤ 8) && decide (s + e ≤ w) && spec != 3 && (e != 0 || spec == 0)
  && (spec != 2 || decide (1 + s + e ≤ w)) && decide (x < 2 ^ 19)

/-- The exact value of a code: a NaN, an infinity, or (-1)^neg * m * 2^e. -/
inductive Fp where
  | nan (signal : Bool)
  | inf (neg : Bool)
  | fin (neg : Bool) (m : Nat) (e : Int)
  deriving DecidableEq, Repr

/-- Flags of R48 as bits. -/
def flagInv : Nat := 1
def flagDz : Nat := 2
def flagOf : Nat := 4
def flagUf : Nat := 8
def flagNx : Nat := 16
/-- Both flags. -/
def orN (a b : Nat) : Nat := Nat.lor a b

/-- R186, R190: the value of a code. -/
def Fmt.value (f : Fmt) (x : Nat) : Fp :=
  let neg := f.sgn && bitOf x (f.w - 1)
  let m := fld x 0 f.m
  let e := fld x f.m f.e
  let ones := e == 2 ^ f.e - 1
  if f.e == 0 then .fin neg m (-f.bias)
  else if f.spec == 1 && ones && m == 2 ^ f.m - 1 then .nan false
  else if f.spec == 2 && ones && m == 0 then .inf neg
  else if f.spec == 2 && ones then .nan (f.std && !bitOf m (f.m - 1))
  else if e == 0 then .fin neg m (1 - f.bias - f.m)
  else .fin neg (2 ^ f.m + m) ((e : Int) - f.bias - f.m)

/-- R187, R190: the NaN that is produced. -/
def Fmt.nanCode (f : Fmt) : Nat :=
  if f.std then (2 ^ f.e - 1) * 2 ^ f.m + 2 ^ (f.m - 1) else 2 ^ (f.w - b2n f.sgn) - 1
def Fmt.signBit (f : Fmt) (neg : Bool) : Nat := if f.sgn && neg then 2 ^ (f.w - 1) else 0
def Fmt.infCode (f : Fmt) (neg : Bool) : Nat := f.signBit neg + (2 ^ f.e - 1) * 2 ^ f.m
/-- The code of the greatest finite magnitude. -/
def Fmt.maxCode (f : Fmt) : Nat :=
  if f.e == 0 then 2 ^ f.m - 1
  else if f.spec == 0 then 2 ^ (f.e + f.m) - 1
  else if f.spec == 1 then 2 ^ (f.e + f.m) - 2
  else (2 ^ f.e - 1) * 2 ^ f.m - 1
def Fmt.zeroCode (f : Fmt) (neg : Bool) : Nat := f.signBit neg

/-- `floor(log2 m)` for a positive number. -/
def log2N (m : Nat) : Nat := Nat.log2 m

/-- Whether m * 2^e exceeds n * 2^k. -/
def magLt (n : Nat) (k : Int) (m : Nat) (e : Int) : Bool :=
  let b := min k e
  decide (n * 2 ^ (k - b).toNat < m * 2 ^ (e - b).toNat)

/-- emax (R189). -/
def Fmt.emax (f : Fmt) : Int :=
  match f.value f.maxCode with
  | .fin _ m e => (log2N m : Int) + e
  | _ => 0

/-- A rounding mode of R194. -/
inductive RMode where | rn | rz | rd | ru | rs
  deriving DecidableEq, Repr

/-- R47, R195: the mode of a RND field; the dynamic mode takes FPCTL.RM, and RS only where the instruction narrows. -/
def modeOf (rnd : Rnd) (fpctl : Nat) (narrow : Bool) : RMode :=
  match rnd with
  | .rn => .rn
  | .rz => .rz
  | .rd => .rd
  | .ru => .ru
  | .rs => .rs
  | .dyn =>
    let r := fpctl % 8
    if r == 1 then .rz else if r == 2 then .rd else if r == 3 then .ru else if r == 4 && narrow then .rs else .rn

/-- R194: the magnitude m * 2^e cut at 2^q, with the bits lost. -/
structure Cut where
  n : Nat
  rest : Nat
  sh : Nat
  deriving DecidableEq, Repr
def cutAt (m : Nat) (e q : Int) : Cut :=
  if q ≤ e then { n := m * 2 ^ (e - q).toNat, rest := 0, sh := 0 }
  else let s := (q - e).toNat
       { n := m / 2 ^ s, rest := m % 2 ^ s, sh := s }

/-- R194: whether the rounded magnitude is the greater neighbour. A format with E ≥ 1 and M = 0 has no mantissa bit that a tie could
look at: the leading one stands for it, which takes the greater neighbour of two normals (log entry 78, DESIGN CHOICE). -/
def Cut.up (c : Cut) (mode : RMode) (neg : Bool) (u : Nat) : Bool :=
  if c.rest == 0 then false
  else match mode with
    | .rn => decide (2 ^ c.sh < 2 * c.rest) || (2 * c.rest == 2 ^ c.sh && c.n % 2 == 1)
    | .rz => false
    | .rd => neg
    | .ru => !neg
    | .rs => decide (u < c.rest * 2 ^ 32 / 2 ^ c.sh)

/-- The quantum of a format at a magnitude: the place of its last mantissa bit. -/
def Fmt.quantum (f : Fmt) (m : Nat) (e : Int) : Int :=
  if f.e == 0 then -f.bias else max ((log2N m : Int) + e - f.m) (1 - f.bias - f.m)

/-- The code of the finite magnitude n * 2^q, q its quantum or one below it. -/
def Fmt.codeOf (f : Fmt) (neg : Bool) (n : Nat) (q : Int) : Nat :=
  if f.e == 0 then f.signBit neg + n
  else if n < 2 ^ f.m then f.signBit neg + n
  else if n == 2 ^ (f.m + 1) then f.signBit neg + (q + 1 + f.m + f.bias).toNat * 2 ^ f.m
  else f.signBit neg + (q + f.m + f.bias).toNat * 2 ^ f.m + (n - 2 ^ f.m)

/-- R196: the value on overflow. -/
def Fmt.overflow (f : Fmt) (mode : RMode) (neg : Bool) : Nat :=
  if !f.std && (f.sat || f.spec == 0) then f.signBit neg + f.maxCode
  else if f.spec == 1 then f.nanCode
  else match mode with
    | .rn | .rs => f.infCode neg
    | .rz => f.signBit neg + f.maxCode
    | .rd => if neg then f.infCode true else f.maxCode
    | .ru => if neg then f.signBit true + f.maxCode else f.infCode false

/-- R194, R196, R198: Round of a nonzero magnitude m * 2^e; `u` is the LFSR output that RS uses. The result is a code
and the flags it raises. -/
def Fmt.round (f : Fmt) (mode : RMode) (u : Nat) (neg : Bool) (m : Nat) (e : Int) : Nat × Nat :=
  if m == 0 then (f.zeroCode neg, 0)
  else
    let q := f.quantum m e
    let c := cutAt m e q
    let n := if c.up mode neg u then c.n + 1 else c.n
    let ovf := match f.value f.maxCode with
      | .fin _ gm ge => magLt gm ge n q
      | _ => false
    let nx := if c.rest == 0 then 0 else flagNx
    if ovf then (f.overflow mode neg, orN flagOf flagNx)
    else
      let sub := f.e != 0 && n != 0 && magLt n q 1 (1 - f.bias) && c.rest != 0
      (f.codeOf neg n q, orN nx (if sub then flagUf else 0))

/-- R193: whether a code of FP32 or FP16 is subnormal. -/
def Fmt.subnormal (f : Fmt) (x : Nat) : Bool := fld x f.m f.e == 0 && fld x 0 f.m != 0
/-- R193: FTZ applies to FP32 and FP16. -/
def Fmt.ftz (f : Fmt) (on : Bool) : Bool := on && f.std && (f.e == 5 || (f.e == 8 && f.m == 23))
/-- R193: a flushed operand. -/
def Fmt.flush (f : Fmt) (on : Bool) (x : Nat) : Nat :=
  if f.ftz on && f.subnormal x then f.signBit (bitOf x (f.w - 1)) else x
/-- R193: a flushed result, which raises UF and NX. -/
def Fmt.flushResult (f : Fmt) (on : Bool) (r : Nat × Nat) : Nat × Nat :=
  if f.ftz on && f.subnormal r.1 then (f.signBit (bitOf r.1 (f.w - 1)), orN r.2 (orN flagUf flagNx)) else r

/-- INV for a signalling NaN. -/
def sigFlag : Fp → Nat
  | .nan true => flagInv
  | _ => 0
def Fp.isNan : Fp → Bool
  | .nan _ => true
  | _ => false
def Fp.negate : Fp → Fp
  | .nan s => .nan s
  | .inf n => .inf !n
  | .fin n m e => .fin (!n) m e

/-- The signed integer of a finite value at exponent `b`, which is not above its own. -/
def sgnAt (neg : Bool) (m : Nat) (e b : Int) : Int :=
  let x : Int := (m * 2 ^ (e - b).toNat : Nat)
  if neg then -x else x

/-- The exact sum of two values, and INV for infinities of opposite sign; `rd` decides the sign of an exact zero (R194). -/
def Fp.add (rd : Bool) (a b : Fp) : Fp × Nat :=
  match a, b with
  | .nan _, _ | _, .nan _ => (.nan false, orN (sigFlag a) (sigFlag b))
  | .inf x, .inf y => if x == y then (.inf x, 0) else (.nan false, flagInv)
  | .inf x, _ => (.inf x, 0)
  | _, .inf y => (.inf y, 0)
  | .fin na ma ea, .fin nb mb eb =>
    let k := min ea eb
    let x := sgnAt na ma ea k + sgnAt nb mb eb k
    if x == 0 then (.fin (if na == nb then na else rd) 0 0, 0) else (.fin (decide (x < 0)) x.natAbs k, 0)

/-- The exact product, and INV for zero times infinity. -/
def Fp.mul (a b : Fp) : Fp × Nat :=
  match a, b with
  | .nan _, _ | _, .nan _ => (.nan false, orN (sigFlag a) (sigFlag b))
  | .inf x, .inf y => (.inf (x != y), 0)
  | .inf x, .fin y m _ => if m == 0 then (.nan false, flagInv) else (.inf (x != y), 0)
  | .fin x m _, .inf y => if m == 0 then (.nan false, flagInv) else (.inf (x != y), 0)
  | .fin x m e, .fin y n k => (.fin (x != y) (m * n) (e + k), 0)

/-- R194, R196, R187, R193: write a value in a format. -/
def Fmt.put (f : Fmt) (mode : RMode) (u : Nat) (ftz : Bool) (x : Fp × Nat) : Nat × Nat :=
  match x.1 with
  | .nan _ => (f.nanCode, x.2)
  | .inf n => (f.infCode n, x.2)
  | .fin n m e =>
    let r := f.flushResult ftz (f.round mode u n m e)
    (r.1, orN r.2 x.2)

/-- R225: a + b, a * b and a * b + c in a standard format, of codes already negated and flushed. -/
def Fmt.addOp (f : Fmt) (mode : RMode) (ftz : Bool) (a b : Nat) : Nat × Nat :=
  f.put mode 0 ftz (Fp.add (mode == .rd) (f.value a) (f.value b))
def Fmt.mulOp (f : Fmt) (mode : RMode) (ftz : Bool) (a b : Nat) : Nat × Nat :=
  f.put mode 0 ftz (Fp.mul (f.value a) (f.value b))
def Fmt.fmaOp (f : Fmt) (mode : RMode) (ftz : Bool) (a b c : Nat) : Nat × Nat :=
  let p := Fp.mul (f.value a) (f.value b)
  let r := Fp.add (mode == .rd) p.1 (f.value c)
  f.put mode 0 ftz (r.1, orN p.2 r.2)

/-- R225: SAT clamps a result to [0, 1]. -/
def Fmt.clamp (f : Fmt) (x : Nat) : Nat :=
  let one := f.bias.toNat * 2 ^ f.m
  match f.value x with
  | .nan _ => 0
  | .inf n => if n then 0 else one
  | .fin n m _ => if n || m == 0 then 0 else min x one

/-- R223: the sign operations of an operand. -/
def Fmt.signed (f : Fmt) (abs neg : Bool) (x : Nat) : Nat :=
  let s := bitOf x (f.w - 1)
  let body := x % 2 ^ (f.w - 1)
  body + f.signBit ((if abs then false else s) != neg)

/-- The order of two values that are no NaN: less, equal or greater, -0 equal to +0. -/
def Fp.cmp (a b : Fp) : Ordering :=
  match a, b with
  | .inf x, .inf y => if x == y then .eq else if x then .lt else .gt
  | .inf x, _ => if x then .lt else .gt
  | _, .inf y => if y then .gt else .lt
  | .fin na ma ea, .fin nb mb eb =>
    let k := min ea eb
    compare (sgnAt na ma ea k) (sgnAt nb mb eb k)
  | _, _ => .eq

/-- R227: a comparison. -/
def fcmp (c : FCmp) (a b : Fp) : Bool :=
  let un := a.isNan || b.isNan
  let o := Fp.cmp a b
  match c with
  | .eq => !un && o == .eq
  | .ne => !un && o != .eq
  | .lt => !un && o == .lt
  | .le => !un && o != .gt
  | .gt => !un && o == .gt
  | .ge => !un && o != .lt
  | .num => !un
  | .nan => un
  | .equ => un || o == .eq
  | .neu => un || o != .eq
  | .ltu => un || o == .lt
  | .leu => un || o != .gt
  | .gtu => un || o == .gt
  | .geu => un || o != .lt

/-- R226: the sign of a code, for -0 below +0. -/
def Fmt.negCode (f : Fmt) (x : Nat) : Bool := f.sgn && bitOf x (f.w - 1)
/-- R226: FMIN (`max` false) and FMAX. -/
def Fmt.minMax (f : Fmt) (max : Bool) (a b : Nat) : Nat × Nat :=
  let va := f.value a
  let vb := f.value b
  let flags := orN (sigFlag va) (sigFlag vb)
  if va.isNan && vb.isNan then (f.nanCode, flags)
  else if va.isNan then (b, flags)
  else if vb.isNan then (a, flags)
  else
    let less := Fp.cmp va vb == .lt || (Fp.cmp va vb == .eq && f.negCode a && !f.negCode b)
    (if less != max then a else b, flags)

/-- R229: FCLASS, the place of the bit that is set. -/
def Fmt.classOf (f : Fmt) (x : Nat) : Nat :=
  let n := f.negCode x
  match f.value x with
  | .nan s => if s then 0 else 1
  | .inf n => if n then 2 else 9
  | .fin _ m _ =>
    if m == 0 then (if n then 5 else 6)
    else if f.subnormal x then (if n then 4 else 7)
    else (if n then 3 else 8)

/-- R194: round an exact value to an integer under a mode. -/
def roundInt (mode : RMode) (neg : Bool) (m : Nat) (e : Int) : Int × Bool :=
  let c := cutAt m e 0
  let n : Int := ((if c.up mode neg 0 then c.n + 1 else c.n : Nat) : Int)
  (if neg then -n else n, c.rest != 0)

/-- R228: FRND; no NX. -/
def Fmt.roundIntegral (f : Fmt) (mode : RMode) (x : Nat) : Nat × Nat :=
  match f.value x with
  | .nan s => (f.nanCode, if s then flagInv else 0)
  | .inf _ => (x, 0)
  | .fin n m e =>
    if 0 ≤ e || m == 0 then (x, 0)
    else let r := roundInt mode n m e
         ((f.round .rn 0 n r.1.natAbs 0).1, 0)

/-- R197, R233: a value to an integer of `w` bits. A value outside the integers of the type raises INV and not NX (log entry 79,
DESIGN CHOICE). -/
def toIntCode (w : Nat) (sgn : Bool) (mode : RMode) (x : Fp) : Nat × Nat :=
  let lo : Int := if sgn then -(2 ^ (w - 1) : Int) else 0
  let hi : Int := if sgn then (2 ^ (w - 1) : Int) - 1 else (2 ^ w : Int) - 1
  match x with
  | .nan _ => (0, flagInv)
  | .inf n => (wrapZ w (if n then lo else hi), flagInv)
  | .fin n m e =>
    let r := roundInt mode n m e
    if r.1 < lo || hi < r.1 then (wrapZ w (satZ r.1 lo hi), flagInv)
    else (wrapZ w r.1, if r.2 then flagNx else 0)

/-- An integer as an exact value. -/
def Fp.ofInt (x : Int) : Fp := .fin (decide (x < 0)) x.natAbs 0

/-- R197, R233, R235: a value converted to a format. -/
def Fmt.convert (f : Fmt) (mode : RMode) (u : Nat) (ftz : Bool) (x : Fp) : Nat × Nat :=
  match x with
  | .nan s =>
    if !f.std && f.spec == 0 then (f.maxCode, flagInv) else (f.nanCode, if s then flagInv else 0)
  | .inf n =>
    if !f.sgn && n then (0, flagInv)
    else if f.spec == 2 then (f.infCode n, 0)
    else if f.spec == 1 && !f.sat then (f.nanCode, flagInv)
    else (f.signBit n + f.maxCode, flagInv)
  | .fin n m e =>
    if !f.sgn && n then (0, if m == 0 then 0 else flagInv)
    else f.flushResult ftz (f.round mode u n m e)

/-- R195: one step of an LFSR. -/
def lfsrStep (s : Nat) : Nat := if s % 2 == 1 then Nat.xor (s / 2) 0x80200003 else s / 2

/-- The exact quotient or root cut to an integer with a last bit that says whether something was lost: enough for one
rounding in any mode but RS. -/
def withSticky (n : Nat) (lost : Bool) : Nat := 2 * n + b2n lost

/-- R230: FRCP, correctly rounded. -/
def Fmt.rcp (f : Fmt) (mode : RMode) (ftz : Bool) (x : Nat) : Nat × Nat :=
  match f.value x with
  | .nan s => (f.nanCode, if s then flagInv else 0)
  | .inf n => (f.zeroCode n, 0)
  | .fin n m e =>
    if m == 0 then (f.infCode n, flagDz)
    else
      let k := log2N m + f.m + 4
      f.flushResult ftz (f.round mode 0 n (withSticky (2 ^ k / m) (2 ^ k % m != 0)) (-e - k - 1))

/-- The integer square root, bit by bit from bit `k - 1` down. -/
def isqrtFrom (n : Nat) : Nat → Nat → Nat
  | 0, r => r
  | k + 1, r => isqrtFrom n k (if (r + 2 ^ k) * (r + 2 ^ k) ≤ n then r + 2 ^ k else r)
def isqrt (n : Nat) : Nat := isqrtFrom n (log2N n / 2 + 1) 0

/-- R230: FSQRT, correctly rounded. -/
def Fmt.sqrtOp (f : Fmt) (mode : RMode) (ftz : Bool) (x : Nat) : Nat × Nat :=
  match f.value x with
  | .nan s => (f.nanCode, if s then flagInv else 0)
  | .inf n => if n then (f.nanCode, flagInv) else (x, 0)
  | .fin n m e =>
    if m == 0 then (x, 0)
    else if n then (f.nanCode, flagInv)
    else
      let k := 2 * (f.m + 4) + b2n (e % 2 != 0)
      let y := m * 2 ^ k
      let r := isqrt y
      f.flushResult ftz (f.round mode 0 false (withSticky r (r * r != y)) ((e - k) / 2 - 1))

end Sys2Proof.Machine
end

