-- ==== Sys2Proof/Machine/Special.lean ====
section
/-! DEFINITION. The special functions whose result the spec gives within a bound (spec/12_float.md R230): the result is
the free value of Config where it lies within the bound, and else the nearest value. The exact value is computed in
fixed point, far finer than any bound (log entry 11, DESIGN CHOICE). -/

namespace Sys2Proof.Machine

/-- 2 * atanh(a / b) at `p` bits, by its series: `n` terms from the odd number `k` on; `t` is (a/b)^k. -/
def atanhTerms (p a b : Nat) : Nat → Nat → Nat → Nat
  | 0, _, _ => 0
  | n + 1, k, t => 2 * t / k + atanhTerms p a b n (k + 2) (t * a * a / (b * b))
/-- ln 2 at `p` bits. -/
def ln2At (p : Nat) : Nat := atanhTerms p 1 3 (p / 3 + 2) 1 (2 ^ p / 3)

/-- atan(1 / b) at `p` bits, by its series. -/
def atanTerms (b : Nat) : Nat → Nat → Nat → Bool → Int
  | 0, _, _, _ => 0
  | n + 1, k, t, neg => (if neg then -((t / k : Nat) : Int) else ((t / k : Nat) : Int)) + atanTerms b n (k + 2) (t / (b * b)) !neg
/-- Pi at `p` bits. -/
def piAt (p : Nat) : Nat :=
  (16 * atanTerms 5 (p / 4 + 2) 1 (2 ^ p / 5) false - 4 * atanTerms 239 (p / 15 + 2) 1 (2 ^ p / 239) false).toNat

/-- exp(y) at `p` bits for y at `p` bits below 1: `n` terms from the `k`th on; `t` is the term. -/
def expTerms (p y : Nat) : Nat → Nat → Nat → Nat
  | 0, _, _ => 0
  | n + 1, k, t => t + expTerms p y n (k + 1) (t * y / 2 ^ p / k)

/-- 2^f at 160 bits, f at 160 bits below 1. -/
def exp2Frac (f : Nat) : Nat := expTerms 160 (f * ln2At 160 / 2 ^ 160) 45 1 (2 ^ 160)

/-- 2^x for x = (-1)^neg * m * 2^e, as a magnitude n * 2^q; x below -512 counts as -512 and above 512 as 512. -/
def exp2Val (neg : Bool) (m : Nat) (e : Int) : Nat × Int :=
  let big := magLt 512 0 m e
  let x : Int := if big then 512 * 2 ^ 160 else ((cutAt m e (-160)).n : Int)
  let x := if neg then -x else x
  let k := x / 2 ^ 160
  (exp2Frac (x % 2 ^ 160).toNat, k - 160)

/-- log2 of m * 2^e, at 160 bits. -/
def log2Val (m : Nat) (e : Int) : Int :=
  let k := log2N m
  let one := 2 ^ k
  ((k : Int) + e) * 2 ^ 160
    + ((atanhTerms 160 (m - one) (m + one) 64 1 (2 ^ 160 * (m - one) / (m + one)) * 2 ^ 160 / ln2At 160 : Nat) : Int)

/-- The sine (`c` false) or cosine series at 160 bits. -/
def trigTerms (y : Nat) : Nat → Nat → Nat → Bool → Int
  | 0, _, _, _ => 0
  | n + 1, k, t, neg =>
    (if neg then -(t : Int) else (t : Int)) + trigTerms y n (k + 2) (t * y / 2 ^ 160 * y / 2 ^ 160 / (k * (k + 1))) !neg
def sinSmall (y : Nat) : Int := trigTerms y 26 2 y false
def cosSmall (y : Nat) : Int := trigTerms y 26 1 (2 ^ 160) false

/-- Sine or cosine of (-1)^neg * m * 2^e at 160 bits, reduced with pi at 400 bits. -/
def trigVal (cos neg : Bool) (m : Nat) (e : Int) : Int :=
  let x := (cutAt m e (-400)).n
  let h := piAt 400 / 2
  let k := x / h % 4
  let y := x % h / 2 ^ 240
  let s := if k == 0 then sinSmall y else if k == 1 then cosSmall y else if k == 2 then -sinSmall y else -cosSmall y
  let c := if k == 0 then cosSmall y else if k == 1 then -sinSmall y else if k == 2 then -cosSmall y else sinSmall y
  if cos then c else if neg then -s else s

/-- 1 / sqrt(m * 2^e), as a magnitude. -/
def rsqVal (m : Nat) (e : Int) : Nat × Int :=
  let k := 2 * log2N m + 400 + b2n (e % 2 != 0)
  (isqrt (2 ^ k / m), (-e - k) / 2)

/-- |a - b| is at most `bound` quanta of 2^q. -/
def within (a : Int) (ea : Int) (b : Int) (eb : Int) (bound : Nat) (q : Int) : Bool :=
  let k := min (min ea eb) q
  decide ((a * 2 ^ (ea - k).toNat - b * 2 ^ (eb - k).toNat).natAbs ≤ bound * 2 ^ (q - k).toNat)

/-- R230: the FP32 result of a bounded function whose exact value is v * 2^q, within `bound` quanta of 2^bq. UF and NX
as R198 gives. -/
def bounded (fn : Nat) (x : Nat) (v q : Int) (bound : Nat) (bq : Int) : Nat × Nat :=
  let c := (Config.approx fn (BitVec.ofNat 32 x)).toNat
  let ok := match fp32.value c with
    | .fin n m e => within (if n then -(m : Int) else m) e v q bound bq
    | _ => false
  let r := if ok then c else (fp32.round .rn 0 (decide (v < 0)) v.natAbs q).1
  (r, orN flagNx (if fp32.subnormal r then flagUf else 0))

/-- An ulp of FP32 at a magnitude. -/
def ulpAt (v : Nat) (q : Int) : Int := fp32.quantum v q

/-- R230: FRSQ. -/
def frsqVal (x : Nat) : Nat × Nat :=
  match fp32.value x with
  | .nan s => (fp32.nanCode, if s then flagInv else 0)
  | .inf n => if n then (fp32.nanCode, flagInv) else (0, 0)
  | .fin n m e =>
    if m == 0 then (fp32.infCode n, flagDz)
    else if n then (fp32.nanCode, flagInv)
    else
      let v := rsqVal m e
      bounded 0 x v.1 v.2 1 (ulpAt v.1 v.2)

/-- R230: FEX2. -/
def fex2Val (x : Nat) : Nat × Nat :=
  match fp32.value x with
  | .nan s => (fp32.nanCode, if s then flagInv else 0)
  | .inf n => (if n then 0 else fp32.infCode false, 0)
  | .fin n m e =>
    if !n && (magLt 127 0 m e && !magLt m e 128 0) then (fp32.infCode false, orN flagOf flagNx)
    else
      let c := cutAt m e 0
      if c.rest == 0 && c.n ≤ (if n then 149 else 127) then
        fp32.round .rn 0 false 1 (if n then -(c.n : Int) else c.n)
      else
        let v := exp2Val n m e
        bounded 1 x v.1 v.2 2 (ulpAt v.1 v.2)

/-- R230: FLG2. -/
def flg2Val (x : Nat) : Nat × Nat :=
  match fp32.value x with
  | .nan s => (fp32.nanCode, if s then flagInv else 0)
  | .inf n => if n then (fp32.nanCode, flagInv) else (fp32.infCode false, 0)
  | .fin n m e =>
    if m == 0 then (fp32.infCode true, flagDz)
    else if n then (fp32.nanCode, flagInv)
    else if m == 2 ^ log2N m then
      let k : Int := (log2N m : Int) + e
      fp32.round .rn 0 (decide (k < 0)) k.natAbs 0
    else
      let v := log2Val m e
      let near := !magLt m e 1 (-1) && !magLt 1 1 m e
      if near then bounded 2 x v (-160) 1 (-22)
      else bounded 2 x v (-160) 2 (ulpAt v.natAbs (-160))

/-- R230: FSIN and FCOS. -/
def trigOp (cos : Bool) (x : Nat) : Nat × Nat :=
  match fp32.value x with
  | .nan s => (fp32.nanCode, if s then flagInv else 0)
  | .inf _ => (fp32.nanCode, flagInv)
  | .fin n m e =>
    if m == 0 then (if cos then 0x3F800000 else x, 0)
    else bounded (if cos then 4 else 3) x (trigVal cos n m e) (-160) 1 (-21)

end Sys2Proof.Machine
end

