-- ==== Sys2Proof/Machine/State.lean ====
section
/-! DEFINITION. The state of the machine as plain data, and the state after module reset. INVENTORY.md lists every piece
with the rule that names it. Numbers the part counts or indexes with are `Nat`; register contents are bit vectors. -/

namespace Sys2Proof.Machine

/-- The trap codes of R106, in the order of their numbers: code 0x01 is the first. -/
inductive TrapCode where
  | illegalOpc | illegalEnc | fetchSplit | regBound | stallShort | rangeLock | writeSealed | pageAbsent | pageProt
  | misaligned | dataPoison | remoteError | divOverflow | retUnderflow | futureDead | gangMismatch | barrierError
  | kvDepth | ktimeout | software | breakpoint
  deriving DecidableEq, Repr

/-- A register that an instruction can name (R32). -/
inductive Reg where
  | v (n : Nat) | o (n : Nat) | z (n : Nat) | s (n : Nat) | p (n : Nat) | j (n : Nat) | h (n : Nat) | fmt (n : Nat)
  | a (n : Nat) | t (n : Nat)
  deriving DecidableEq, Repr

/-- Why a lane is not ready apart from its counts (R151). `retry` is a lane that waits at issue: its instruction is
tried again after PASSES more cycles (log entry 22, DEDUCED). `mwait` and `unseal` name the result that the lane is owed
(R72), `fwait` the handle, it and `tsalloc` the S register that their result will
write (R71), and `pipe` the operation of a tensor load pipe or of the attention path that is paused at a
replayable fault (R53, R356). -/
inductive Block where
  | free
  | retry
  | yield (till : Nat)
  | mwait (deadline : Option Nat) (d : Reg) (flight : Nat)
  | join (j : Nat) (remote : Bool)
  | gsync
  | bar (b phase : Nat)
  | rgrow
  | tsalloc (d : Nat)
  | tsfree
  | unseal (base : Nat) (d : Nat) (flight : Nat)
  | fwait (h d : Nat)
  | engine (op : Nat)
  | pipe (op : Nat)
  | remote
  | gang
  | fault
  | trapWait
  deriving DecidableEq, Repr

/-- The watch of MONW (R166): the home line it watches and whether it has fired. -/
structure Watch where
  line : Nat
  fired : Bool
  deriving DecidableEq, Repr

/-- One lane of a group (R53, R72, R151, R153, R159, R166). `failures` are those of accesses that the lane has gone on from, in the
order of their numbers (R414). `due` is the S register that a lane which has woken from FWAIT or TSALLOC will write as it issues again
(R71). -/
structure Lane where
  pc : BitVec 49
  inRange : Bool
  exited : Bool
  held : Bool
  block : Block
  readyAt : Nat
  sb : List Nat
  rstack : List DWord
  lfsr : Word
  watch : Option Watch
  waits : Nat
  yielding : Bool
  handler : Bool
  failures : List (Nat × TrapCode × Nat)
  due : Option Nat := none
  deriving DecidableEq, Repr

/-- A result of an issued instruction that has not landed (R70, R73, R467): which lanes, which register, what each lane
held before, when it lands if its latency is fixed, the scoreboard that covers it and the flags it raises. A landed
result stays listed for the lanes that have not waited on its scoreboard since (R74). -/
structure Flight where
  group : Nat
  lanes : Nat
  regs : List (Reg × List Word)
  due : Option Nat
  sb : Option Nat
  flags : Nat
  landed : Bool
  deriving DecidableEq, Repr

/-- What one lane's store or atomic writes (R265, R271): the place, for an overlay page its directory index, page and
offset, the bytes, and an atomic's operand and compare value. -/
structure Piece where
  lane : Nat
  va : Nat
  loc : Nat
  ov : Option (Nat × Nat × Nat)
  bytes : List Byte
  b : DWord
  c : DWord
  deriving DecidableEq, Repr

/-- A store, atomic or load that has been issued and not performed (R265, R271, R471). Of an atomic it names the operation,
the register and the result that is owed, of a load the size, the register and the result. A B128 access is two of them, since its
halves are independent (R286): `twin` numbers the other half of a store or of a span's load, and `beside` lists the places that
this half has written, which count with its own for the poison of whole sectors (R267). `inTeam` names the team of an access to
shared memory, or with true to the tile store; its places are offsets there. `inL1` says of a store at TEAM scope that it is performed
at that scope, and not at its home yet (R283, R287, R441); `ofSpan` that a span issued it, whose accesses keep the order of their issue
(R140). -/
structure PStore where
  group : Nat
  lanes : Nat
  core : Nat
  ctx : Nat
  version : Nat
  pol : Pol
  scope : Scope
  pieces : List Piece
  atomic : Option (AMod × Reg × Nat)
  load : Option (Sz × Reg × Nat) := none
  twin : Option Nat := none
  beside : List Nat := []
  inTeam : Option (Nat × Bool) := none
  inL1 : Bool := false
  ofSpan : Bool := false
  deriving DecidableEq, Repr

/-- A group (R32, R53). `fpnew` holds the flags that entered FPSTAT in the present cycle of its core, which a clearing SWR of
that cycle leaves set (R48). `came` lists lanes of the group that have passed a JOIN while a span held them (R145, R161): the J register, the
PC of the JOIN and the lanes. -/
structure Group where
  team : Nat
  grid : Nat
  gid : Nat
  v : Tab (List Word)
  o : Tab (List Word)
  z : Tab (List Word)
  s : Tab DWord
  p : Tab Nat
  j : Tab Nat
  h : Tab DWord
  fmt : Tab Nat
  vallot : Nat
  reserve : Nat
  slim : Nat
  divdepth : Nat
  depth : Nat
  fpctl : Word
  fpstat : Word
  gctl : Word
  rowprog : Word
  trapcode : Word
  trapaddr : DWord
  lanes : List Lane
  gang : Nat
  stamps : Tab Nat
  uid : Nat
  fpnew : Word := 0
  came : List (Nat × Nat × Nat) := []
  deriving DecidableEq, Repr

/-- A named barrier (R172). -/
structure Barrier where
  expect : Nat
  mode : Nat
  teamdone : Bool
  arrived : Nat
  phase : Nat
  deriving DecidableEq, Repr

/-- An accumulator or a tile register with its flags (R42) and the future of the last asynchronous operation that writes it
(R355); `mark` is that of the last asynchronous ATTS on the set of an accumulator, which writes no O register but which later reads of the
set consume (R365). Words not listed are zero. -/
structure Tile where
  inuse : Bool
  dirty : Bool
  data : Tab Word
  writer : Option Nat
  mark : Option Nat := none
  deriving DecidableEq, Repr

/-- A future (R304 to R306, R311). -/
structure Future where
  state : Nat
  kind : Nat
  ch : Nat
  wptr : Nat
  code : Nat
  addr : Nat
  token : Bool
  cancel : Bool
  deriving DecidableEq, Repr

/-- An operation of the tensor load pipes or the attention path that is under way (R355, R367): whose lanes wait for it,
its future, its copies of the address maps, its S operands, the source of an AST as it stood at issue, the A registers whose
old tile it still reads (R347), the tile-store bytes its team held, the sealed line it reads and the source words it keeps (as
`CopyOp`), and whether ROWPROG describes it (`faulted`, R49). -/
structure TileOp where
  instr : Instr
  who : List (Nat × Nat)
  fid : Option Nat
  amap : List Byte
  amap2 : List Byte
  b : Nat
  c : Nat
  src : List Word
  gone : List Nat
  limit : Nat
  row : Nat
  paused : Bool
  faulted : Bool
  reading : Option Nat := none
  kept : List Host.Cell := []
  deriving DecidableEq, Repr

/-- An arrival at the rendezvous latch of a gang (R350): whose lanes, the group's gang mask, what it issues and where. -/
structure Latch where
  group : Nat
  lanes : Nat
  mask : Nat
  instr : Instr
  pc : BitVec 49
  deriving DecidableEq, Repr

/-- A request of this module that is owed a reply (R410, R414): who waits, for which register. `items` are the ranges of ITEM
of the grid that issued it, which name its lanes whatever group or span holds them now (R295, R297). -/
structure Owed where
  seq : Nat
  addr : Nat
  version : Nat
  ctx : Nat
  group : Nat
  lanes : List Nat
  kind : Nat
  sz : Sz
  reg : Reg
  size : Nat
  offs : List Nat
  flight : Nat
  ns : Bool
  copy : Option (Nat × Nat)
  what : ReqKind
  grid : Nat := 0
  items : List (Nat × Nat) := []
  deriving DecidableEq, Repr

/-- A range lock (R312, R313): space 0 global, 1 shared, 2 tile store; bytes from `low` up to `high` (not included). -/
structure RangeLock where
  team : Nat
  ctx : Nat
  space : Nat
  low : Nat
  high : Nat
  dest : Bool
  op : Nat
  deriving DecidableEq, Repr

/-- An operation queued on a copy channel, or of the fabric engine (R309, R416). `reading` is the sealed source line, by its number
in the address space, that it has begun and not taken the last byte of (R278); `kept` are the bytes of source words that it has read and
that a later row takes too, by their address, since it reads each word once (R299). -/
structure CopyOp where
  team : Nat
  group : Nat
  fid : Nat
  op : Nat
  dsp : Spc
  ssp : Spc
  dst : Nat
  src : Nat
  rowlen : Nat
  rows : Nat
  dstr : Int
  sstr : Int
  stream : Nat
  sent : Nat
  unacked : List (Nat × Nat)
  paused : Bool
  reading : Option Nat := none
  kept : List Host.Cell := []
  deriving DecidableEq, Repr

/-- R364: the keys that each of 32 rows masks in a pending block, with the block's first key, its valid keys and the register of its P
tile. -/
structure BlockMask where
  kpos : Nat
  nk : Nat
  tp : Nat
  rows : List Nat
  deriving DecidableEq, Repr

/-- A team on a core, or one whose context is saved (R32, R54, R132, R304). `vgone` keeps the V allotment of each group that
has retired, which stays reserved until the team retires (R135); `freeing` lists each TSFREE under way: its first slot, how many,
and the group and lanes that wait for it (R339). While the context is saved, `saved` keeps what the group
records do not lay out, and `halted` and `heldLocks` what the engine records hold: the operations that stopped, each with
its channel, and their range locks (R100). `blockMask` holds, for an attention set, which keys the ATTS masks whose pending block and P
tile stand there as it left them (R364, R366). -/
structure Team where
  uid : Nat
  grid : Nat
  index : Nat
  ctx : Nat
  core : Nat
  resident : Bool
  localSlot : Nat
  shared : Nat
  sharedMem : List Host.Cell
  granules : Nat
  freeing : List (Nat × Nat × Nat × Nat)
  store : List Host.Cell
  a : Tab Tile
  t : Tab Tile
  am : Tab (List Byte)
  bars : List Barrier
  futures : Tab Future
  ops : Tab TileOp
  latches : List Latch
  vgone : Tab Nat
  saved : Tab Group
  halted : List (Nat × CopyOp)
  heldLocks : List RangeLock
  blockMask : Tab BlockMask := []
  deriving DecidableEq, Repr

/-- A register of a span (R136): base and stride; the stride of form U is 0. -/
structure Form where
  base : Word
  stride : Word
  deriving DecidableEq, Repr

/-- A predicate of a span (R136): U, or a threshold on ITEM. -/
inductive PForm where
  | u (b : Bool)
  | lt (t : Nat)
  | ge (t : Nat)
  deriving DecidableEq, Repr

/-- Items, from `first` to `last`, that a JOIN on J register `j` at a PC has released, as lanes of a group or as a span (R145). -/
structure Came where
  j : Nat
  pc : Nat
  first : Nat
  last : Nat
  asLane : Bool
  deriving DecidableEq, Repr

/-- A span (R55, R134, R136, R142, R143), at grid level when it has no team; items are numbered by ITEM. `fpnew` is as a
group's (R48). `came` lists the items that a JOIN has released before the span came to it. -/
structure Span where
  uid : Nat
  grid : Nat
  team : Option Nat
  first : Nat
  last : Nat
  pc : BitVec 49
  v : Tab Form
  o : Tab Form
  z : Tab Form
  p : Tab PForm
  s : Tab DWord
  j : Tab (Nat × Nat)
  vlim : Nat
  slim : Nat
  gctl : Word
  fpctl : Word
  fpstat : Word
  fmt : Tab Nat
  rowprog : Word
  block : Block
  readyAt : Nat
  stamps : Tab Nat
  fpnew : Word := 0
  came : List Came := []
  deriving DecidableEq, Repr

/-- A kernel header (R129). -/
structure Kernel where
  code : Nat
  handler : Nat
  vregs : Nat
  sregs : Nat
  divdepth : Nat
  tiles : Nat
  acc : Nat
  span : Bool
  prog : Bool
  shared : Nat
  fairt : Nat
  tx : Nat
  ty : Nat
  tz : Nat
  clx : Nat
  cly : Nat
  codelen : Nat
  deriving DecidableEq, Repr

/-- A grid (R127, R131, R134, R135, R178). -/
structure Grid where
  uid : Nat
  ctx : Nat
  kernel : Kernel
  gx : Nat
  gy : Nat
  gz : Nat
  args : List DWord
  version : Nat
  queue : Nat
  pos : Nat
  level : Nat
  parent : Option Nat
  tag : Option Nat
  home : Nat
  next : Nat
  spanning : Bool
  cut : Bool
  templates : List Span
  coresident : Nat
  gbarwait : Bool
  stopped : Bool
  code : Nat
  deriving DecidableEq, Repr

/-- A launch record as taken (R118): whether it has started, was reported by a ready event (R126) and has its entry written
(R122); its grid and code; when its time began, how long it has counted and whether its limit has passed (R124). `version` is the
version it carries, `ranIn` the one its grid ran in (R123), and `qsched` the FNMODE.QSCHED that it keeps, once a write of FNMODE
finds its dependences met (R432). -/
structure Record where
  kind : Nat
  flags : Nat
  argn : Nat
  header : Nat
  gx : Nat
  gy : Nat
  gz : Nat
  argva : Nat
  dep0 : DWord
  dep1 : DWord
  vdep : Nat
  vreq : Nat
  kernel : Option Kernel
  args : List DWord
  pos : Nat
  version : Nat
  started : Bool
  ready : Bool
  go : Bool
  posted : Bool
  grid : Option Nat
  code : Nat
  startUs : Nat
  ranUs : Nat
  timed : Bool
  ranIn : Nat := 0
  qsched : Option Bool := none
  deriving DecidableEq, Repr

/-- The states of a queue (R117). -/
inductive QState where | idle | armed | running | blocked | suspended | faulted | drained | destroyed
  deriving DecidableEq, Repr

/-- A queue (R115 to R125): `codes` are those of its completed positions, `owing` the entries that wait for a page (R122),
`served` its last turn (R126). -/
structure Queue where
  desc : QueueDesc
  state : QState
  left : QState
  draining : Bool
  wptr : Nat
  rptr : Nat
  cptr : Nat
  records : Tab Record
  codes : Tab Nat
  faultAddr : Nat
  faultPos : Option Nat
  owing : List (Nat × List Byte × Bool)
  served : Nat
  deriving DecidableEq, Repr

/-- A child started by LAUNCH or SPLNCH (R127, R128, R381): grid, or a marker record, and its code when it completes; `ended` is
the code of a child whose grid has retired and which waits for its own children and remote stores (R122), and `ver` the version that
it runs in (R390). -/
structure Child where
  ctx : Nat
  parent : Nat
  queue : Nat
  pos : Nat
  home : Nat
  grid : Option Nat
  marker : Option Record
  done : Option Nat
  ended : Option Nat := none
  ver : Nat := 0
  deriving DecidableEq, Repr

/-- The states of a context (R98). -/
inductive CState where | created | ready | running | preempting | saved | restoring | faulted | destroyed
  deriving DecidableEq, Repr

/-- A unit of a restored context that has not been filled (R104, R105): what it belongs to and where its record lies. -/
structure Absent where
  owner : Nat
  kind : Nat
  index : Nat
  va : Nat
  deriving DecidableEq, Repr

/-- A context (R97, R98, R110, R126, R331, R384, R385, R468). While it is saved, `slots` are its grids by slot number (R102),
`savedSpans` keeps what the span records do not lay out, and `reissue` the remote requests that restore sends again (R99). -/
structure Context where
  desc : CtxDesc
  state : CState
  toFaulted : Bool
  halted : Bool
  heldPreempt : Bool
  heldDestroy : Bool
  ewptr : Nat
  erptr : Nat
  evqHeld : List (List Byte)
  ahist : BitVec 16
  dmin : BitVec 8
  dmax : BitVec 8
  frames0 : List Nat
  frames1 : List Nat
  spillBase : Nat
  spillSize : Nat
  ovlDir : Nat
  drops : Nat
  trapLow : Option Nat
  saveEnd : Option Nat
  absent : List Absent
  msix : Nat
  invalidate : Option (Option (Nat × Nat))
  slots : List Nat
  savedSpans : List Span
  reissue : List (Nat × Nat × Owed)
  loads : List (Nat × PStore)
  deriving DecidableEq, Repr

/-- An entry of the seal tables (R276 to R280): the result of the SEAL while the cores have not all acknowledged, and the
team and future of each UNSEAL.NB under way. Copy counts are computed from the L1 lines that hold a copy. -/
structure Seal where
  ctx : Nat
  base : Nat
  lines : Nat
  sealing : Option Nat
  unsealing : Bool
  handles : List (Nat × Nat)
  deriving DecidableEq, Repr

/-- A line of an L1 (R261, R276), with the poison of its sectors, and the sectors that it holds: of a line of host memory the halves
that were asked for (R258). -/
structure L1Line where
  ctx : Nat
  line : Nat
  data : List Byte
  isSeal : Bool
  poison : Nat
  sectors : Nat := 15
  deriving DecidableEq, Repr

/-- A leaf held by a TLB (R329); `serves` are the indices of its group that a 64 KiB leaf serves (R325). -/
structure TlbEntry where
  ctx : Nat
  page : Nat
  size : Nat
  entry : Nat
  at_ : Nat
  level : Nat
  serves : Nat := 0
  deriving DecidableEq, Repr

/-- A core (R15, R114, R132, R152, R169, R309, R339, R346): its cycle count, the group and the span that issued last, and the
cycle from which its issue slot is free. `epoch` numbers the present cycle in one order with those of every core, so that the
writes of a restored group compare with later ones (R143). -/
structure Core where
  epoch : Nat := 0
  now : Nat
  lanemap : Nat
  lastGroup : Nat
  lastSpan : Nat
  slotTill : Nat
  l1 : List L1Line
  tlb : List TlbEntry
  locks : List RangeLock
  channels : Tab (List CopyOp)
  fabric : List CopyOp
  rgrowq : List (Nat × Nat × Nat × Nat)
  tsallocq : List (Nat × Nat × Nat)
  accq : List (Nat × Nat)
  deriving DecidableEq, Repr

/-- How an access met a fault (R332): a lane of a group, an operation with 64 and its core, or a peer's request with 1000; the address,
the flags of the record and the core. -/
structure Met where
  owner : Nat
  lane : Nat
  va : Nat
  flags : Nat
  core : Nat
  deriving DecidableEq, Repr

/-- An entry of a die's pending-fault table (R330 to R332) and what is attached to it. Writes
that met a MIGRATING page have an entry of their own beside that of the ABSENT page (R328). -/
structure PFault where
  ctx : Nat
  key : Nat
  level : Nat
  va : Nat
  entry : Nat
  host : Bool
  flags : Nat
  core : Nat
  recorded : Bool
  lanes : List (Nat × Nat)
  ops : List (Nat × Nat)
  reqs : List Req
  met : List Met := []
  deriving DecidableEq, Repr

/-- Who writes a version (R384): a lane of a group or span at a PC, an operation of an engine, or a peer's stream. -/
inductive Writer where
  | lane (uid lane pc : Nat)
  | engine (op : Nat)
  | request (peer stream : Nat)
  deriving DecidableEq, Repr

/-- A version (R375 to R379, R384, R391, R393): `stalled` lists who waits to write it, `noticed` says that its first stall was, `record`
numbers the record of that stall in its context's event ring, whose writing its writers wait for (R468),
`peers` are the modules that hold an entry for it, `told` those that its own notice went to, and `owed` those whose acknowledgement of
its last notice is due; `launching` is the SPLNCH that waits to write its prediction, with the record it took, and `launchVa` where (R381). -/
structure Ver where
  ctx : Nat
  state : Nat
  parent : Nat
  slot : Nat
  opened : Bool
  pred : Nat
  target : Nat
  stalled : List Writer := []
  noticed : Bool := false
  told : List Nat := []
  peers : List Nat := []
  owed : List Nat := []
  launching : Option (Writer × Record) := none
  launchVa : Nat := 0
  record : Option Nat := none
  deriving DecidableEq, Repr

/-- A foreign version held for a peer (R384, R391, R393); `record` is as a version's, and `joined` says that the writes of a commit whose
notice has come are the target's (R394). -/
structure Foreign where
  peer : Nat
  ctx : Nat
  ancestors : List Nat
  dead : Option (List Nat) := none
  commits : Option (Nat × List Nat) := none
  stalled : List Writer := []
  noticed : Bool := false
  record : Option Nat := none
  joined : Bool := false
  deriving DecidableEq, Repr

/-- A versioned copy of a line (R383): the bytes the version wrote; spilled to the pool or not (R384). `whole` lists the sectors of the
base, by number, all of whose bytes one store of the version wrote (R267). -/
structure VLine where
  ver : Nat
  line : Nat
  bytes : List Host.Cell
  spilled : Bool
  used : Nat
  whole : List Nat := []
  deriving DecidableEq, Repr

/-- An overlay frame (R385): whose, of which 64 KiB page, which slot, where, which bytes the version wrote, and the version
that its slot still names (R388). `merged` says that a commit has taken its bytes into the frame of the merge target, or into the base;
`whole` is as a line's, with the sectors of the base page. -/
structure Frame where
  ver : Nat
  ctx : Nat
  page : Nat
  dir : Nat
  slot : Nat
  frame : Nat
  written : List Nat
  tag : Nat
  kvt : Bool
  merged : Bool := false
  whole : List Nat := []
  deriving DecidableEq, Repr

/-- A squash under way (R390): its versions, the grids in them, and the rule last completed. -/
structure Squash where
  ctx : Nat
  vers : List Nat
  grids : List Nat
  rule : Nat
  deriving DecidableEq, Repr

/-- A flit in the replay buffer: how often it has been resent (R404). -/
structure Kept where
  flit : Flit
  times : Nat
  deriving DecidableEq, Repr

/-- The link states of R401. -/
inductive LState where | dark | training | up | degraded | retraining | quarantined
  deriving DecidableEq, Repr

/-- The link from this module to a peer (R401 to R411, R419): `lost` and `retrained` are the channels that the next mask leaves
out and takes in, `byHost` says that the host gives that mask. `outbox` holds the requests and replies that wait for a flit, the
first of them packed up to byte `begun`, and `notes` what goes in control flits. `out` is the flit that left last. -/
structure Link where
  state : LState
  mask : Nat
  lost : Nat
  retrained : Nat
  byHost : Bool
  fseq : Nat
  acked : Nat
  outbox : List Cargo
  begun : Nat
  notes : List Cargo
  out : Option Flit
  replay : List Kept
  resendFrom : Option Nat
  enc : Bool
  epoch : Nat
  sealedCount : Nat
  resentTotal : Nat
  restripes : Nat
  deriving DecidableEq, Repr

/-- The link from a peer to this module (R401 to R406): `rx` is the FSEQ of the last flit taken in order, `nak` and `ackDue` what
the next flit to the peer tells it, `part` the cargo of which some bytes have come, `inbox` the cargo that has come whole and
that no event has acted on, `authRun` how many flits on end have failed authentication (R411). `flits` counts the flits, and `broken` lists those among the last 1,024 that failed their CRC, with
the channels whose beats were broken. -/
structure InLink where
  state : LState
  mask : Nat
  lost : Nat
  retrained : Nat
  rx : Nat
  nak : Bool
  ackDue : Bool
  part : Option (Cargo × Nat)
  inbox : List Cargo
  flits : Nat
  broken : List (Nat × Nat)
  authRun : Nat := 0
  deriving DecidableEq, Repr

/-- What a peer's request has done while it is half performed (R286): its 8-byte words of odd number, or with false those of even
number, with its place, how many bytes it is of, and the bytes it has read. -/
structure Half where
  odd : Bool
  loc : Nat
  ov : Option (Nat × Nat × Nat)
  bytes : List Byte
  size : Nat := 0
  deriving DecidableEq, Repr

/-- Numbering of one (destination, stream) pair at the source, and of one (source, stream) at the destination (R294,
R295, R410). `old` counts the requests that came before a reset of the link and have not been performed (R406). `half` is what the
request under way has done. -/
structure Stream where
  peer : Nat
  stream : Nat
  next : Nat
  owed : List Owed
  expect : Nat
  old : Nat
  half : Option Half := none
  deriving DecidableEq, Repr

/-- An error latch (R415). -/
structure ErrLatch where
  ctx : Nat
  peer : Nat
  stream : Nat
  addr : Nat
  deriving DecidableEq, Repr

/-- The bridge's state of a device line that the host has touched (R424, R425): which halves the host holds; of each half, bit 0
the lower, whether a recall is under way, whether the device has yielded to a host request since its snoop went, and how often
recalls of it have yielded. -/
structure Bridge where
  lower : Bool
  upper : Bool
  recalled : Nat
  stale : Nat
  yields0 : Nat
  yields1 : Nat
  deriving DecidableEq, Repr

/-- The host port and the privileged register window (R422, R423, R431). `outbox` holds the answers to host accesses: the
address, the bytes, and 0 for data or done, 1 for data marked poisoned, 2 for an error response, 3 for Completer Abort.
`unbacked` lists the ranges, each a start and a length, of host physical addresses that the host completes with an error
response (R323); which they are is the host's matter (log entry 56, DESIGN CHOICE). `held` lists the host's requests that wait for a recall
(R424, R425), oldest first, and `again` says that the request being served is one of them. -/
structure HostPort where
  mode : Nat
  width : Nat
  up : Bool
  hdmbase : Nat
  lines : Tab Bridge
  l2host : List Nat
  status : Nat
  perigeeCount : Nat
  interrupts : List Nat
  outbox : List (Nat × List Byte × Nat)
  report : List Byte
  nonce : Nat
  unbacked : List (Nat × Nat) := []
  held : List Instr := []
  again : Bool := false
  deriving DecidableEq, Repr

/-- Start, trust and power (R428 to R435). `hostAccepts` is what the host at the port accepts: bits 0 to 4 the modes of R422 in
their order, bit 5 PCIe AtomicOps (R426), bits 6 to 8 the widths x16, x8 and x4. `hang` is a step of the start that does not end
(R428; none is log entry 8, DESIGN CHOICE), `rootKey` the fused Maelter root key, a point of P-521 (R428), and `stepMs` the millisecond in which the clock last changed (R434). -/
structure Manage where
  step : Nat
  ready : Bool
  perigee : Bool
  failed : Bool
  reason : Nat
  lastReason : Nat
  badStack : Nat
  startCount : Nat
  slotA : Image
  slotB : Image
  rootKey : Nat × Nat
  floor : Nat
  measured : BitVec 512
  measuredCfg : BitVec 512
  serial : DWord
  badStacks : List Nat
  hostAccepts : Nat
  recovery : Bool
  clock : Nat
  goodMs : Nat
  ms : Nat
  readings : Readings
  reported : Bool
  stopping : Option Nat
  powered : Bool
  hang : Option Nat := none
  stepMs : Option Nat := none
  deriving DecidableEq, Repr

/-- The link event queue (R407, R468), with its MSI-X vector (R423). -/
structure LinkQueue where
  base : Nat
  size : Nat
  rptr : Nat
  wptr : Nat
  held : List (List Byte)
  lost : Nat
  msix : Nat := 0
  deriving DecidableEq, Repr

/-- Who issues: a group's lanes, or a span. -/
inductive Who where
  | group (uid : Nat) (lanes : Nat)
  | span (uid : Nat)
  deriving DecidableEq, Repr

/-- An issue that the last vote chose, or the issue under way: who, at which PC, and the words it fetched; `chk` is GCTL.CHK
as it stood at the vote, since a write to GCTL takes effect at the next vote (R46). -/
structure Issue where
  who : Who
  pc : BitVec 49
  next : BitVec 49
  word : Nat
  chk : Bool := false
  deriving DecidableEq, Repr

/-- Why the machine stops. No rule of the spec stops it, so only an access that names nothing does. -/
inductive Fault where
  /-- Raised by a step that names a core, die, link or other unit the part does not have. Safe: the hardware has no
  such unit. -/
  | noSuchUnit
  deriving DecidableEq, Repr

/-- Why the model gives no next state. -/
inductive Refusal where
  /-- Raised by an arm of exec whose instruction has no meaning yet. Safe: the model stops. -/
  | notModelled (mnemonic : String)
  deriving DecidableEq, Repr

/-- The whole machine. A core that `cores` does not list is as `Core.reset` leaves it. `dieTlb` holds the L2 TLB of each die
(R16); `pod` has a bit for each DEVICE number at which the pod holds a module (R401); `poison` lists the sectors that hold poison or an error that no correction repairs, read already or not (R267). -/
structure State where
  cores : Tab Core
  dieTlb : List (List TlbEntry)
  mem : List Host.Cell
  hostMem : List Host.Cell
  poison : List Nat
  contexts : Tab Context
  queues : Tab Queue
  orreryUs : List Nat
  grids : Tab Grid
  teams : Tab Team
  groups : Tab Group
  spans : Tab Span
  children : Tab Child
  flights : Tab Flight
  stores : Tab PStore
  seals : List Seal
  pfaults : Tab PFault
  versions : Tab Ver
  foreign : Tab Foreign
  vlines : List VLine
  frames : List Frame
  squashes : List Squash
  vways : List Nat
  links : Tab Link
  inLinks : Tab InLink
  pod : BitVec 64
  streams : List Stream
  latches : List ErrLatch
  fabricCtx : Tab Nat
  fabricCycles : Nat
  linkQueue : LinkQueue
  port : HostPort
  manage : Manage
  fnmode : Word
  device : Nat
  uids : Nat
  agenda : List Instr
  issuing : List Issue
  cur : Option Issue
  free : Nat
  turn : Nat
  deriving DecidableEq, Repr

/-- A core right after module reset (R114, R132), every lane good: LANEMAP is log entry 3, DESIGN CHOICE. -/
def Core.reset : Core :=
  { now := 0, lanemap := 0xFFFFFFFF, lastGroup := 0, lastSpan := 0, slotTill := 0, l1 := [], tlb := [], locks := [], channels := [],
    fabric := [], rgrowq := [], tsallocq := [], accq := [] }

/-- The root key, the base point, and an image of no bytes that verifies with it (log entry 8, DESIGN CHOICE). -/
def Manage.key0 : Nat × Nat :=
  (0xC6858E06B70404E9CD9E3ECB662395B4429C648139053FB521F828AF606B4D3DBAA14B5E77EFE75928FE1DC127A2FFA8DE3348B3C1856A429BF97E7E31C2E5BD66,
   0x11839296A789A3BC0045C8A5FB42C7D1BD998F54449579B446817AFBD17273E662C97EE72995EF42640C550B9013FAD0761353C7086A272C24088BE94769FD16650)
def Image.good0 : Image :=
  { code := [], config := [], version := 0,
    sigR := 0xC6858E06B70404E9CD9E3ECB662395B4429C648139053FB521F828AF606B4D3DBAA14B5E77EFE75928FE1DC127A2FFA8DE3348B3C1856A429BF97E7E31C2E5BD66,
    sigS := 0xC75511E7EC82F4A28B8F92F3B6FA03344A7285653E1096CAFE7C1D58823EBA2788E91C2FB44D6D4BD9FDA0D9FA2A7E950D9701E57ECCABBD1D9EB6B0ACBC0D97A4 }

/-- Readings of a module within every limit of R434 (log entry 8, DESIGN CHOICE). -/
def Readings.nominal : Readings := { power := 0, inlet := 20, outlet := 20, flow := 40, hot0 := 20, hot1 := 20, supply := 550 }

/-- The link event queue after reset: not placed. -/
def LinkQueue.reset : LinkQueue := { base := 0, size := 0, rptr := 0, wptr := 0, held := [], lost := 0 }

/-- The host port after reset: not trained (R422). -/
def HostPort.reset : HostPort :=
  { mode := 0, width := 0, up := false, hdmbase := 0, lines := [], l2host := [], status := 0, perigeeCount := 0,
    interrupts := [], outbox := [], report := [], nonce := 0 }

/-- The management controller after reset (R428, R434); the start has not begun. -/
def Manage.reset : Manage :=
  { step := 0, ready := false, perigee := false, failed := false, reason := 0, lastReason := 0, badStack := 0,
    startCount := 0, slotA := Image.good0, slotB := Image.good0, rootKey := Manage.key0, floor := 0, measured := 0, measuredCfg := 0, serial := 0,
    badStacks := [], hostAccepts := 0x1FF, recovery := false, clock := 2000, goodMs := 0, ms := 0,
    readings := Readings.nominal, reported := false, stopping := none, powered := true }

/-- The machine right after module reset (log entries 1, 3, 5, 7, 8 and 42, DESIGN CHOICE where R428 and the register maps are silent): nothing runs, no context and no queue exists, memory lists nothing, and the
start sequence of R428 is the next step. -/
def State.reset : State :=
  { cores := [], dieTlb := [[], []], mem := [], hostMem := [], poison := [], contexts := [],
    queues := [], orreryUs := [0, 0], grids := [], teams := [], groups := [], spans := [],
    children := [], flights := [], stores := [], seals := [], pfaults := [], versions := [], foreign := [], vlines := [],
    frames := [], squashes := [], vways := [6, 6], links := [], inLinks := [], pod := BitVec.allOnes 64, streams := [], latches := [], fabricCtx := [],
    fabricCycles := 0, linkQueue := LinkQueue.reset, port := HostPort.reset, manage := Manage.reset, fnmode := 0,
    device := 0, uids := 1, agenda := [.moduleReset], issuing := [], cur := none, free := 0, turn := 0 }

end Sys2Proof.Machine
end

