-- ==== Sys2Proof/Machine/Tab.lean ====
section
/-! DEFINITION. Sparse tables and byte memories in one canonical form: keys strictly rising; in a byte memory no entry
holds 0, which is what an unlisted address reads as. -/

namespace Sys2Proof.Machine

/-- The value at a key. -/
def Tab.get? {α : Type} : Tab α → Nat → Option α
  | [], _ => none
  | (k, a) :: t, n => if k == n then some a else if n < k then none else Tab.get? t n

/-- The value at a key, or a default. -/
def Tab.get {α : Type} (t : Tab α) (n : Nat) (d : α) : α := (Tab.get? t n).getD d

/-- Replace or insert the value at a key. -/
def Tab.set {α : Type} : Tab α → Nat → α → Tab α
  | [], n, a => [(n, a)]
  | (k, b) :: t, n, a =>
    if k == n then (n, a) :: t else if n < k then (n, a) :: (k, b) :: t else (k, b) :: Tab.set t n a

/-- Remove a key. -/
def Tab.del {α : Type} : Tab α → Nat → Tab α
  | [], _ => []
  | (k, b) :: t, n => if k == n then t else if n < k then (k, b) :: t else (k, b) :: Tab.del t n

/-- Change the value at a key, where there is one. -/
def Tab.upd {α : Type} (t : Tab α) (n : Nat) (f : α → α) : Tab α :=
  match Tab.get? t n with
  | some a => Tab.set t n (f a)
  | none => t

/-- Keys strictly rising. -/
def Tab.wf {α : Type} : Tab α → Bool
  | [] => true
  | [_] => true
  | (k, _) :: (k', b) :: t => decide (k < k') && Tab.wf ((k', b) :: t)

/-- The least number from `lo` on, among `n`, that is no key of the table. -/
def Tab.lowestFree {α : Type} (t : Tab α) : Nat → Nat → Option Nat
  | _, 0 => none
  | lo, n + 1 => if (Tab.get? t lo).isSome then Tab.lowestFree t (lo + 1) n else some lo

/-- The byte at an address: an unlisted one reads 0. -/
def Mem.read (m : List Host.Cell) (a : Nat) : Byte := Tab.get m a 0

/-- Write a byte, keeping the canonical form. -/
def Mem.write (m : List Host.Cell) (a : Nat) (b : Byte) : List Host.Cell :=
  if b == 0 then Tab.del m a else Tab.set m a b

/-- The canonical form of a byte memory. -/
def Mem.wf (m : List Host.Cell) : Bool := Tab.wf m && m.all fun c => c.2 != 0

/-- `n` bytes from an address on. -/
def Mem.readN (m : List Host.Cell) (a : Nat) : Nat → List Byte
  | 0 => []
  | n + 1 => Mem.read m a :: Mem.readN m (a + 1) n

/-- Write bytes from an address on. -/
def Mem.writeN (m : List Host.Cell) (a : Nat) : List Byte → List Host.Cell
  | [] => m
  | b :: bs => Mem.writeN (Mem.write m a b) (a + 1) bs

end Sys2Proof.Machine
end

