-- ==== Sys2Proof/WellFormed.lean ====
section
/-! DEFINITION. The checks of step 4b of spec/03_encoding.md R81 on an instruction that has its opcode: kinds of operand,
pairs, WSB, reserved values of modifiers, and register numbers of special registers. For the steps without an encoding
the check bounds the numbers of units they name. -/

namespace Sys2Proof

/-- The numbers of special registers that R44 assigns. -/
def srAssigned (n : Nat) : Bool :=
  [0x00, 0x01, 0x02, 0x03, 0x04, 0x05, 0x08, 0x09, 0x0A, 0x0B, 0x0C, 0x0D, 0x0E, 0x0F, 0x10, 0x11, 0x14, 0x18, 0x19, 0x1A,
   0x1B, 0x1C, 0x1D, 0x20, 0x21].contains n

/-- Special registers of Lane scope (R44). -/
def srLane (n : Nat) : Bool := [0x08, 0x09, 0x0A, 0x0B, 0x0C, 0x0D].contains n

/-- Special registers that a program may write (R44): FPCTL, FPSTAT and GCTL. -/
def srWritable (n : Nat) : Bool := [0x18, 0x19, 0x1A].contains n

namespace Opnd

def isV : Opnd → Bool | .v _ => true | _ => false
def isO : Opnd → Bool | .o _ => true | _ => false
def isZ : Opnd → Bool | .z _ => true | _ => false
def isS : Opnd → Bool | .s _ => true | _ => false
def isImm : Opnd → Bool | .imm _ => true | _ => false
def isSr : Opnd → Bool | .sr n => srAssigned n.toNat | _ => false
/-- A field that the instruction does not use (R67). -/
def isNone (o : Opnd) : Bool := o == .v 0
def isVO (o : Opnd) : Bool := o.isV || o.isO
def isVOS (o : Opnd) : Bool := o.isVO || o.isS
def isVOZ (o : Opnd) : Bool := o.isVO || o.isZ
def isVOZS (o : Opnd) : Bool := o.isVOZ || o.isS
def isVOZSI (o : Opnd) : Bool := o.isVOZS || o.isImm
def isSI (o : Opnd) : Bool := o.isS || o.isImm
/-- Any source of R65. -/
def isSrc (o : Opnd) : Bool := o.isVOZSI || o.isSr
/-- A source whose value is the same in every lane: S, an immediate, or a special register of Group scope or wider. -/
def isUniform (o : Opnd) : Bool :=
  match o with
  | .s _ | .imm _ => true
  | .sr n => srAssigned n.toNat && !srLane n.toNat
  | _ => false
/-- A V or O register that may stand in a pair position: even (R66). -/
def evenVO : Opnd → Bool
  | .v n => n.toNat % 2 == 0
  | .o n => n.toNat % 2 == 0
  | _ => false
/-- A V or O register number that is a multiple of 4 (R264). -/
def quadVO : Opnd → Bool
  | .v n => n.toNat % 4 == 0
  | .o n => n.toNat % 4 == 0
  | _ => false
/-- Not an odd V or O and not a Z register: what a pair position asks of an operand of any kind (R66). -/
def pairOk (o : Opnd) : Bool := if o.isVO then o.evenVO else !o.isZ
/-- A global base (R264): S, or an even V or O pair. -/
def isBase (o : Opnd) : Bool := o.isS || o.evenVO

end Opnd

/-- WSB 7, or 0 to 5 to track the source reads. -/
def Hdr.track (h : Hdr) : Bool := h.wsb != 6
/-- WSB 0 to 5: the result is variable-latency (R72). -/
def Hdr.variable (h : Hdr) : Bool := decide (h.wsb.toNat < 6)
/-- WSB 7 only. -/
def Hdr.seven (h : Hdr) : Bool := h.wsb == 7

/-- A destination and sources of an arithmetic instruction (R205, R224): V, O, or S when every source is uniform. -/
def wfAlu (d : Opnd) (srcs : List Opnd) : Bool :=
  srcs.all Opnd.isSrc && (d.isVO || (d.isS && srcs.all Opnd.isUniform))

/-- As `wfAlu`, with the operands of a pair position also even (R66). -/
def wfAluP (pair : Bool) (d : Opnd) (pairs others : List Opnd) : Bool :=
  wfAlu d (pairs ++ others) && (!pair || (d.pairOk && pairs.all Opnd.pairOk))

def IMod.in (m : IMod) (ws : List Wid) (sat : Bool) : Bool := ws.contains m.wid && (sat || !m.sat)
def IMod.w64 (m : IMod) : Bool := m.wid == .w64
def widAll : List Wid := [.w32, .w64, .x2, .x4]

/-- The MODA bits of a floating-point arithmetic instruction: RS never, NEGC and SAT where the entry assigns them. -/
def FMod.in (m : FMod) (negc sat : Bool) : Bool := m.rnd != .rs && (negc || !m.negc) && (sat || !m.sat)

/-- Conversions with a pair as source (R232). -/
def Cv.srcPair : Cv → Bool
  | .f32f64 | .f16f64 | .bf16f64 | .s32f64 | .u32f64 | .s64f64 | .u64f64 | .f64s64 | .f64u64 | .f32s64 | .f32u64
  | .f16x2f32 | .bf16x2f32 => true
  | _ => false
/-- Conversions with a pair as destination (R232). -/
def Cv.dstPair : Cv → Bool
  | .f64f32 | .f64f16 | .f64bf16 | .f64s32 | .f64u32 | .f64s64 | .f64u64 | .s64f64 | .u64f64 | .s64f32 | .u64f32
  | .f32f16x2 | .f32bf16x2 => true
  | _ => false
/-- Narrowing conversions, on which RS is allowed (R232). -/
def Cv.narrowing : Cv → Bool
  | .f32f64 | .f16f32 | .bf16f32 | .f16f64 | .bf16f64 | .f16x2f32 | .bf16x2f32 => true
  | _ => false

/-- The data or result register of a load or store of size SZ (R264). -/
def wfLoadReg (sz : Sz) (d : Opnd) : Bool :=
  match sz with
  | .b128 => d.quadVO
  | .b64 => d.evenVO
  | _ => d.isVO
def wfStoreReg (sz : Sz) (c : Opnd) : Bool :=
  match sz with
  | .b128 => c.quadVO
  | .b64 => c.evenVO || c.isS
  | _ => c.isVOZSI

/-- Sub-groups that span the whole group. -/
def Sw.isFull : Sw → Bool | .full | .sg64 => true | _ => false

/-- The operand of an atomic, and the compare of CAS (R270). -/
def wfAtom (op : AtomOp) (x64 : Bool) (d b c : Opnd) : Bool :=
  (if x64 then d.evenVO else d.isVO) && b.isVOZSI && (!x64 || b.pairOk)
  && (if op == .cas then c.isVOZSI && (!x64 || c.pairOk) else c.isNone)
  && !(x64 && (op == .fadd || op == .bfadd2 || op == .inc || op == .dec))

/-- A run of registers of ARD and AWR (R357). -/
def wfFrag (m : FragMod) (d : Opnd) : Bool :=
  match d with
  | .v n => if m.f64 then n.toNat % 8 == 0 else n.toNat % 4 == 0
  | .o n => m.qsel && (if m.f64 then n == 0 else n.toNat % 4 == 0)
  | _ => false

def evenA (f64 : Bool) (an : BitVec 4) : Bool := !f64 || an.toNat % 2 == 0

def KvSrc.wf : KvSrc → Bool | .map _ => true | .desc a => a.isS

def AttMod.wf (m : AttMod) : Bool := decide (1 ≤ m.nk.toNat) && decide (m.nk.toNat ≤ 32)

/-- OFF fields of RGNLD whose MASK bit is 0 are zero (R157), and MASK is not 0 (R168). -/
def wfRgn (mask : BitVec 8) (offs : BitVec 32) : Bool :=
  mask != 0 && (List.range 8).all fun k => mask.getLsbD k || offs.toNat / 16 ^ k % 16 == 0

/-- The bounds of MMA's fields (R351). -/
def MmaMod.wf (m : MmaMod) (ad : BitVec 4) : Bool :=
  let narrow := m.ty == .n8 || m.ty == .n4
  let int := m.ty == .i8 || m.ty == .i4
  (narrow || (m.fmta == 0 && m.fmtb == 0 && !m.nb)) && (int || (!m.sgna && !m.sgnb))
  && (m.nb || m.blk == 0) && (m.ty == .n4 || decide (m.blk.toNat ≤ 1)) && evenA (m.ty == .f64) ad

/-- The check of step 4b (R81) for an instruction; the bounds of unit numbers for a step without an encoding. -/
def Instr.wf : Instr → Bool
  | .nop h | .ret h | .exit h | .gsync h | .spmat h | .gfold h | .cbar h | .gbar h => h.seven
  | .bra h _ | .call h _ => h.seven
  | .brk h _ _ _ => h.seven
  | .brx h a | .callx h a | .monw h a => h.track && a.isBase
  | .jset h _ _ => h.seven
  | .join h _ | .jpush h _ | .jpop h _ | .rjoin h _ => h.seven
  | .yield h a => h.track && a.isSI
  | .mwait h d a => h.variable && d.isVO && a.isSI
  | .spform h d src => h.track && d.isVOS && (match src with | .reg a => a.isVOZS | .pred _ => true)
  | .rgnld h _ mask offs => h.variable && wfRgn mask offs
  | .rshrink h a _ | .rgrow h a _ => h.track && a.isSI
  | .plop h _ _ _ _ => h.track
  | .pmov h _ _ _ => h.track
  | .trap h _ | .bpt h _ => h.seven
  | .srd h d a => h.seven && d.isVOS && a.isSr
  | .swr h d a => h.seven && (match d with | .sr n => srWritable n.toNat | _ => false) && a.isSI
  | .cyc h d hi => h.seven && (if hi then d.isVO else d.isVOS)
  | .bar h _ => h.seven
  | .bara h d _ => h.variable && d.isVOS
  | .barw h _ a => h.track && a.isVOS
  | .barinit h _ a => h.track && a.isSI
  | .launch h d a _ => h.variable && d.isS && a.isS
  | .enq h d a b _ => h.variable && d.isS && a.isS && b.isS
  | .qstat h d a _ => h.variable && d.isS && a.isS
  | .splnch h d a b c _ ps _ lit =>
      h.variable && d.isS && a.isS && c.isS && (if ps then b.isS && lit == 0 else b.isNone)
  | .resolve h d a b _ => h.variable && d.isS && a.isSI && (b.isS || b.isNone)
  | .vqry h d a drops => h.variable && d.isS && (if drops then a.isNone else a.isSI)
  | .vabort h d a => h.variable && d.isS && a.isS
  | .iadd h m d a b | .isub h m d a b => h.track && m.in widAll true && wfAluP m.w64 d [a, b] []
  | .imul h m d a b => h.track && m.in [.w32, .w64, .x2] true && wfAluP m.w64 d [a, b] []
  | .imulh h m d a b => h.track && m.in [.w32, .w64] false && wfAluP m.w64 d [a, b] []
  | .imad h m d a b c => h.track && m.in [.w32, .w64] true && wfAluP m.w64 d [a, b, c] []
  | .imadw h m d a b c => h.track && m.in [.w32] true && wfAluP true d [c] [a, b]
  | .addc h m cy d a b | .subb h m cy d a b =>
      h.track && m.in [.w32] false && wfAluP false d [a, b] [] && (!cy.nci || cy.pci == 0)
  | .madc h m _ cy d a b c => h.track && m.in [.w32] false && wfAluP false d [a, b, c] [] && (!cy.nci || cy.pci == 0)
  | .imin h m d a b | .imax h m d a b => h.track && m.in widAll false && wfAluP m.w64 d [a, b] []
  | .iabs h m d a => h.track && m.in widAll true && wfAluP m.w64 d [a] []
  | .shl h m _ d a b => h.track && m.in widAll true && wfAluP m.w64 d [a] [b]
  | .shr h m _ d a b | .shra h m _ d a b => h.track && m.in widAll false && wfAluP m.w64 d [a] [b]
  | .shf h m _ _ d a b c => h.track && m.in [.w32] false && wfAluP false d [a, b, c] []
  | .bitfn h m _ d a b c => h.track && m.in [.w32, .w64] false && wfAluP m.w64 d [a, b, c] []
  | .popc h m d a | .clz h m d a =>
      h.track && m.in [.w32, .w64] false && wfAlu d [a] && (!m.w64 || a.pairOk)
  | .brev h m d a => h.track && m.in [.w32, .w64] false && wfAluP m.w64 d [a] []
  | .bfe h m d a b => h.track && m.in [.w32, .w64] false && wfAluP m.w64 d [a] [b]
  | .bfi h m d a b c => h.track && m.in [.w32, .w64] false && wfAluP m.w64 d [a, b] [c]
  | .bysel h m d a b c => h.track && m.in [.w32] false && wfAluP false d [a, b, c] []
  | .isetp h m _ bop _ a b pc =>
      h.track && m.in [.w32, .w64] false && [a, b].all Opnd.isSrc && (!m.w64 || [a, b].all Opnd.pairOk)
      && (bop != .none || pc == 0)
  | .sel h m d a b _ => h.track && m.in [.w32, .w64] false && wfAluP m.w64 d [a, b] []
  | .mov h m d a => h.track && m.in [.w32, .w64] false && wfAluP m.w64 d [a] []
  | .movi h m d _ => h.track && m.in [.w32, .w64] false && wfAluP m.w64 d [] []
  | .lea h m _ d a b => h.track && m.in [.w32, .w64] false && wfAluP m.w64 d [b] [a]
  | .rqnt h dst _ pos _ pack d a b c =>
      h.track && wfAlu d [a, b, c] && (pack || pos == 0) && (dst == .i4 || dst == .u4 || decide (pos.toNat ≤ 3))
  | .idp4 h m _ d a b c | .idp8 h m _ d a b c => h.track && m.in [.w32] true && wfAluP false d [a, b, c] []
  | .fadd h m d a b | .fmul h m d a b => h.track && m.in false true && wfAlu d [a, b]
  | .ffma h m d a b c | .hfma2 h m d a b c | .bfma2 h m d a b c => h.track && m.in true true && wfAlu d [a, b, c]
  | .fmin h m d a b | .fmax h m d a b => h.track && m.in false false && m.rnd == .rn && wfAlu d [a, b]
  | .fsetp h m _ a b pc => h.track && [a, b].all Opnd.isSrc && (m.bop != .none || pc == 0)
  | .frnd h rnd f64 d a => h.track && rnd != .rs && wfAluP f64 d [a] []
  | .fclass h f64 d a => h.track && wfAlu d [a] && (!f64 || a.pairOk)
  | .dadd h m d a b | .dmul h m d a b => h.track && m.in false false && wfAluP true d [a, b] []
  | .dfma h m d a b c => h.track && m.in true false && wfAluP true d [a, b, c] []
  | .dsetp h m _ a b pc =>
      h.track && [a, b].all Opnd.isSrc && [a, b].all Opnd.pairOk && (m.bop != .none || pc == 0)
  | .frcp h rnd f64 d a | .fsqrt h rnd f64 d a => h.variable && rnd != .rs && wfAluP f64 d [a] []
  | .frsq h d a | .fex2 h d a | .flg2 h d a | .fsin h d a | .fcos h d a => h.variable && wfAlu d [a]
  | .fcvt h rnd cv d a =>
      h.track && (rnd != .rs || cv.narrowing) && wfAlu d [a] && (!cv.srcPair || a.pairOk) && (!cv.dstPair || d.pairOk)
  | .cvtn h rnd from_ std n4 pos d a _ =>
      h.variable && (rnd != .rs || !from_) && wfAlu d [a] && (n4 || decide (pos.toNat ≤ 3))
      && (std == .f32 || pos.toNat % 2 == 0)
  | .qnt h _ _ d a _ => h.variable && wfAlu d [a]
  | .scacc h rnd _ d a b c => h.track && rnd != .rs && wfAlu d [a, b, c] && b.isVOZS
  | .fmtset h _ a => h.track && a.isS
  | .lnget h m _ d a b c | .lnxor h m _ d a b c | .lnsub h m _ d a b c | .lnadd h m _ d a b c =>
      h.variable && d.isVO && [a, b, c].all Opnd.isVOZSI && (!m.x64 || [d, a, c].all Opnd.pairOk)
  | .redx h m _ d a =>
      h.variable && (d.isVO || (d.isS && m.sw.isFull)) && a.isVOZSI && (!m.x64 || [d, a].all Opnd.pairOk)
  | .scan h m excl _ d a c =>
      h.variable && d.isVO && a.isVOZSI && (if excl then c.isVOZSI else c.isNone) && (!m.x64 || [d, a, c].all Opnd.pairOk)
  | .pcons h sw dst _ =>
      h.variable && (match dst with | .mask d => d.evenVO || (d.isS && sw.isFull) | _ => true)
  | .matchv h m d a => h.variable && d.evenVO && a.isVOZSI && (!m.x64 || a.pairOk)
  | .bcast h m first d a b c =>
      h.variable && (d.isVO || (d.isS && m.sw.isFull)) && a.isVOZSI && c.isVOZSI
      && (if first then b.isNone else b.isSI) && (!m.x64 || [d, a, c].all Opnd.pairOk)
  | .ldg h sz _ d a b =>
      h.variable && b.isVOZSI && a.isBase
      && (if d.isS then a.isS && b.isSI && sz != .b128 else wfLoadReg sz d)
  | .stg h sz _ a b c => h.track && a.isBase && b.isVOZSI && wfStoreReg sz c
  | .ldsh h sz d a b | .ldts h sz d a b | .ldl h sz d a b =>
      h.variable && wfLoadReg sz d && a.isVOZSI && b.isVOZSI
  | .stsh h sz a b c | .stts h sz a b c | .stl h sz a b c => h.track && a.isVOZSI && b.isVOZSI && wfStoreReg sz c
  | .atomg h m d a b c _ => h.variable && a.isBase && wfAtom m.op m.x64 d b c
  | .atomsh h m d a b c _ => h.variable && a.isVOZSI && wfAtom m.op m.x64 d b c
  | .pref h _ a => h.seven && a.isBase
  | .cctl h op a => h.seven && (if op == .ivall then a.isNone else a.isBase)
  | .fence h _ _ => h.seven
  | .seal h d a b => h.variable && d.isS && a.isS && b.isSI
  | .unseal h d a => (match d with | .status d => h.variable && d.isS | .handle _ => h.track) && a.isS
  | .sealq h d a => h.variable && d.isS && a.isS
  | .ldsc h sz _ ord sh d a b =>
      h.variable && (ord == .rlx || ord == .acq) && sz != .b128 && wfLoadReg sz d
      && (if sh then a.isVOZSI else a.isBase) && b.isVOZSI
  | .stsc h sz _ ord sh a b c =>
      h.track && (ord == .rlx || ord == .rel) && sz != .b128 && wfStoreReg sz c
      && (if sh then a.isVOZSI else a.isBase) && b.isVOZSI
  | .pgq h d a => h.variable && (if a.isS then d.isS else a.evenVO && d.isVO)
  | .copy h m lens _ a b c lit =>
      h.track && (m.fix || m.ch == 0) && a.isS && b.isS && (if lens then c.isS && lit == 0 else c.isNone)
  | .copy2d h m _ a b c _ => h.track && (m.fix || m.ch == 0) && a.isS && b.isS && c.isS
  | .fwait h d _ | .ftest h d _ | .fwp h d _ | .fmovOut h d _ => h.variable && d.isS
  | .fcancel h _ => h.seven
  | .fmovIn h _ a => h.track && a.isS
  | .tsalloc h d a _ => h.variable && d.isS && a.isSI
  | .tsfree h a => h.track && a.isSI
  | .amset h _ a w mem => h.track && a.isS && (!mem || w == 0)
  | .amget h d _ _ => h.variable && d.isS
  | .gang h a => h.track && a.isS
  | .azero h an f64 => h.track && evenA f64 an
  | .ald h _ f64 an _ b c | .ast h _ f64 an _ b c => h.track && evenA f64 an && b.isS && (c.isS || c.isNone)
  | .ard h m d an => h.variable && evenA m.f64 an && wfFrag m d
  | .awr h m an a => h.track && evenA m.f64 an && wfFrag m a
  | .tld h _ tots dst _ _ b c => h.track && (tots || decide (dst.toNat < 8)) && b.isS && (c.isS || c.isNone)
  | .mma h m ad _ _ => h.track && m.wf ad
  | .arel h f64 t n => h.track && (if t then decide (n.toNat < 8) else evenA f64 n)
  | .asca h _ _ _ _ => h.track
  | .kvtr h _ d a b => h.variable && a.isS && (if d.isS then b.isSI else d.evenVO && b.isVOZSI)
  | .atts h m _ _ _ src c _ _ => h.track && m.wf && src.wf && c.isS
  | .attv h m _ _ src c => h.track && m.wf && src.wf && c.isS
  | .attmrg h _ _ _ b => h.track && b.isS
  | .attfin h _ _ => h.track
  | .arset h _ _ => h.track
  | .rld h sz _ _ d a b _ => h.variable && wfLoadReg sz d && a.isBase && b.isVOZSI
  | .rst h sz _ a b c _ => h.track && a.isBase && b.isVOZSI && wfStoreReg sz c
  | .ratom h op _ x64 _ _ d a b c _ => h.variable && a.isBase && wfAtom op x64 d b c
  | .rcopy h _ lens _ _ a b c lit =>
      h.track && a.isS && b.isS && (if lens then c.isS && lit == 0 else c.isNone)
  | .srel h _ value a => h.track && value.isS && a.isS
  | .lnkq h str d a => h.variable && d.isS && (if str then a.isS else a.isSI)
  -- steps without an encoding
  | .vote core => decide (core < 258)
  | .rgrowGrant core | .tsallocGrant core | .accumulatorTileGrant core => decide (core < 256)
  | .copyBeat core ch => decide (core < 256) && decide (ch < 8)
  | .mwaitTimeout _ lane | .yieldWake _ lane => decide (lane < 64)
  | .hwFaultService die slot => decide (die < 2) && decide (slot < 256)
  | .queueBufferGrant die => decide (die < 2)
  | .ktimeout q | .queueEnable q | .queueSuspend q | .queueResume q | .queueDrain q | .queueReset q | .queueDestroy q
  | .recordTake q | .recordStart q | .recordComplete q => decide (q < 4096)
  | .doorbellWrite q _ | .dispatchRegisterWrite q _ => decide (q < 4096)
  | .contextActivate c | .preemptRequest c | .preemptHalt c | .contextSaveComplete c | .resumeRequest c
  | .restoreEagerComplete c | .contextDestroy c | .trapAreaReset c | .squashRuleStep c | .tlbInvalidateComplete c =>
      decide (c < 4096)
  | .flitReceive p _ _ _ _ => decide (p < 64)
  | .lossOfLight p _ | .linkMaskWrite p _ => decide (p < 64)
  | .restripeComplete k | .linkReset k | .linkTrainingComplete k _ => decide (k.peer < 64)
  | .rekey p | .flitSend p => decide (p < 64)
  | .channelRetrained p c => decide (p < 64) && decide (c < 16)
  | .remoteRequestPerform r => decide (r.peer < 64) && decide (r.stream < 16)
  | .remoteReply p st _ _ _ => decide (p < 64) && decide (st < 16)
  | .variableResultLands _ _ | .storePerformed _ | .tsfreeRelease _ | .tileRowMove _ _ | .attentionCommit _ _
  | .faultReplayWrite _ | .tlbInvalidate _ _ | .sealComplete _ _ | .unsealComplete _ _ | .absentUnitFill _ _
  | .contextDescriptorWrite _ | .erptrWrite _ _ | .queueDescriptorWrite _ | .teamDispatch _ | .teamRetire _
  | .versionRetag _ | .versionNotice _ _ _ _ | .commitNotice _ _ _ _ | .deadNotice _ _ _ | .noticeAck _ _
  | .rcopyPieceSend _ _ | .hostRead _ _ | .hostWriteback _ _ | .hostWrite _ _ _ | .recallResponse _ _ | .hostSnoop _ _
  | .bar2Access _ _ | .portDown | .moduleReset | .startTimeout | .fullStartRequest | .recoveryImageWrite _
  | .attestationRequest _ | .fnmodeWrite _ | .windowRegisterWrite _ | .thermalStop _ | .clockThrottle _ | .clockRaise _
  | .telemetryUpdate _ | .powerOff => true

end Sys2Proof
end

