-- ==== Sys2Proof/Machine/Access.lean ====
section
/-! DEFINITION. Named reads and updates of the pieces of the state: cores, teams, groups, lanes and registers
(spec/02_state.md R32 to R50). -/

namespace Sys2Proof.Machine

def State.core (s : State) (c : Nat) : Core := Tab.get s.cores c Core.reset
def State.setCore (s : State) (c : Nat) (k : Core) : State := { s with cores := Tab.set s.cores c k }
def State.updCore (s : State) (c : Nat) (f : Core → Core) : State := s.setCore c (f (s.core c))
def State.setGroup (s : State) (g : Group) : State := { s with groups := Tab.set s.groups g.uid g }
def State.updGroup (s : State) (uid : Nat) (f : Group → Group) : State := { s with groups := Tab.upd s.groups uid f }
def State.setTeam (s : State) (t : Team) : State := { s with teams := Tab.set s.teams t.uid t }
def State.updTeam (s : State) (uid : Nat) (f : Team → Team) : State := { s with teams := Tab.upd s.teams uid f }
def State.updGrid (s : State) (uid : Nat) (f : Grid → Grid) : State := { s with grids := Tab.upd s.grids uid f }
def State.setSpan (s : State) (p : Span) : State := { s with spans := Tab.set s.spans p.uid p }
def State.updSpan (s : State) (uid : Nat) (f : Span → Span) : State := { s with spans := Tab.upd s.spans uid f }
def State.updCtx (s : State) (c : Nat) (f : Context → Context) : State := { s with contexts := Tab.upd s.contexts c f }
def State.updQueue (s : State) (q : Nat) (f : Queue → Queue) : State := { s with queues := Tab.upd s.queues q f }

/-- R23: the number of good lanes of a core. -/
def Core.ngood (c : Core) : Nat := popN 32 c.lanemap
/-- R23: PASSES is ceil(WAVEW / good lanes). -/
def Core.passes (c : Core) : Nat := (64 + c.ngood - 1) / c.ngood

/-- The die of a core (R13). -/
def coreDie (c : Nat) : Nat := c / 128
/-- The die whose L2 TLB serves a core (R16), an Orrery (256 and 257) or the fabric unit (258, on die 0). That the span processors
of an Orrery and the fabric unit have an L1 and a TLB such as a core's, and which die serves the fabric unit, is log entry 70, DESIGN CHOICE. -/
def unitDie (c : Nat) : Nat := if c < 256 then coreDie c else c % 2

/-- Bit `l` of a lane mask. -/
def inMask (m l : Nat) : Bool := bitOf m l

/-- The lanes of a mask, in increasing LANEID. -/
def lanesOf (m : Nat) : List Nat := (List.range 64).filter (inMask m)

/-- The lanes for which `p` holds, as a mask. -/
def laneMask (p : Nat → Bool) : Nat := maskOf 64 p

def maskAnd (a b : Nat) : Nat := Nat.land a b
def maskOr (a b : Nat) : Nat := Nat.lor a b
/-- The lanes of `a` that are not in `b`. -/
def maskDiff (a b : Nat) : Nat := laneMask fun l => inMask a l && !inMask b l
def allLanes : Nat := 2 ^ 64 - 1

/-- Change each element of a list by its place. -/
def mapFrom {α : Type} (f : Nat → α → α) : Nat → List α → List α
  | _, [] => []
  | k, a :: t => f k a :: mapFrom f (k + 1) t

/-- A lane that is outside the launch range. -/
def Lane.none : Lane :=
  { pc := 0, inRange := false, exited := false, held := false, block := .free, readyAt := 0, sb := [0, 0, 0, 0, 0, 0],
    rstack := [], lfsr := 1, watch := Option.none, waits := 0, yielding := false, handler := false, failures := [] }

def Group.lane (g : Group) (l : Nat) : Lane := g.lanes.getD l Lane.none
/-- Change the lanes of a mask. -/
def Group.updLanes (g : Group) (m : Nat) (f : Nat → Lane → Lane) : Group :=
  { g with lanes := mapFrom (fun l x => if inMask m l then f l x else x) 0 g.lanes }

/-- In the launch range, not exited and not held by a span. -/
def Lane.live (x : Lane) : Bool := x.inRange && !x.exited && !x.held
def Group.liveMask (g : Group) : Nat := laneMask fun l => (g.lane l).live

/-- R35: VLIM. -/
def Group.vlim (g : Group) : Nat := g.vallot - g.reserve

/-- A row of 64 equal words. -/
def rowOf (w : Word) : List Word := List.replicate 64 w

/-- R32: a V register nothing has written holds a free value in each lane. -/
def Group.rowV (g : Group) (n : Nat) : List Word :=
  Tab.get g.v n ((List.range 64).map (Config.unwrittenV g.uid n))
def Group.rowO (g : Group) (n : Nat) : List Word := Tab.get g.o n (rowOf 0)
def Group.rowZ (g : Group) (n : Nat) : List Word := Tab.get g.z n (rowOf 0)
def Group.sreg (g : Group) (n : Nat) : DWord := Tab.get g.s n 0
/-- R40: P7 reads true in every lane. -/
def Group.pmask (g : Group) (n : Nat) : Nat := if n == 7 then allLanes else Tab.get g.p n 0
def Group.jmask (g : Group) (n : Nat) : Nat := Tab.get g.j n 0
def Group.hreg (g : Group) (n : Nat) : DWord := Tab.get g.h n 0
/-- R189: the launch values of FMT0 to FMT7. -/
def fmtLaunch (n : Nat) : Nat :=
  if n == 1 then 0x00020FB8 else if n == 2 then 0x00040156 else if n == 3 then 0x00040376
  else if n == 4 then 0x00040154 else 0x00050798
def Group.fmtreg (g : Group) (n : Nat) : Nat := Tab.get g.fmt n (fmtLaunch n)

/-- The words of `new` in the lanes of the mask, the old ones elsewhere. -/
def mergeRow (m : Nat) (new : Nat → Word) (old : List Word) : List Word :=
  mapFrom (fun l w => if inMask m l then new l else w) 0 old

def Group.setV (g : Group) (n m : Nat) (new : Nat → Word) : Group :=
  { g with v := Tab.set g.v n (mergeRow m new (g.rowV n)) }
def Group.setO (g : Group) (n m : Nat) (new : Nat → Word) : Group :=
  { g with o := Tab.set g.o n (mergeRow m new (g.rowO n)) }
/-- R38: Z1 takes the old Z0 and Z0 the result, in the lanes written: the Z0 of the issue (log entry 85, DESIGN CHOICE). -/
def Group.pushZ (g : Group) (m : Nat) (new : Nat → Word) : Group :=
  { g with z := Tab.set (Tab.set g.z 1 (mergeRow m (fun l => (g.rowZ 0).getD l 0) (g.rowZ 1))) 0 (mergeRow m new (g.rowZ 0)) }
/-- Numbers under which a group or span keeps the epoch of the cycle of the last write of a group-scope register (R143). -/
def stampS (n : Nat) : Nat := n
def stampFmt (n : Nat) : Nat := 256 + n
def stampFpctl : Nat := 264
def stampGctl : Nat := 265
def stampRowprog : Nat := 266
def Group.setS (g : Group) (now n : Nat) (w : DWord) : Group :=
  { g with s := Tab.set g.s n w, stamps := Tab.set g.stamps (stampS n) now }
/-- R40: a write to P7 is discarded. -/
def Group.setP (g : Group) (n m : Nat) (b : Nat → Bool) : Group :=
  if n == 7 then g
  else { g with p := Tab.set g.p n (laneMask fun l => if inMask m l then b l else inMask (g.pmask n) l) }
def Group.setJ (g : Group) (n m : Nat) : Group := { g with j := Tab.set g.j n m }
/-- R145, R160: a new set in a J register has no arrivals. -/
def Group.newJ (g : Group) (n m : Nat) : Group := { g.setJ n m with came := g.came.filter fun c => c.1 != n }
def Group.setH (g : Group) (n : Nat) (w : DWord) : Group := { g with h := Tab.set g.h n w }
def Group.setFmt (g : Group) (now n w : Nat) : Group :=
  { g with fmt := Tab.set g.fmt n w, stamps := Tab.set g.stamps (stampFmt n) now }

/-- R47: a write of FPCTL: reserved bits read 0, RM above RS stores RN, and every lane's LFSR is set from SEED. -/
def fpctlValue (x : Nat) : Word :=
  BitVec.ofNat 32 ((if 4 < x % 8 then 0 else x % 8) + 8 * fld x 3 1 + 2 ^ 16 * fld x 16 16)
def lfsrOf (fpctl : Word) (l : Nat) : Word := BitVec.ofNat 32 (2 ^ 16 * fld fpctl.toNat 16 16 + (l + 1))
def Group.setFpctl (g : Group) (now x : Nat) : Group :=
  { g with
    fpctl := fpctlValue x
    lanes := mapFrom (fun l k => { k with lfsr := lfsrOf (fpctlValue x) l }) 0 g.lanes
    stamps := Tab.set g.stamps stampFpctl now }
/-- R46: a write of GCTL: FAIRT below 64 stores 64, bits [15:2] read 0. -/
def gctlValue (x : Nat) : Word :=
  BitVec.ofNat 32 (x % 4 + 2 ^ 16 * (if fld x 16 16 < 64 then 64 else fld x 16 16))
def Group.setGctl (g : Group) (now x : Nat) : Group :=
  { g with gctl := gctlValue x, stamps := Tab.set g.stamps stampGctl now }
/-- R48: FPSTAT, W1C. -/
def fpstatClear (old : Word) (x : Nat) : Word := old &&& ~~~ (BitVec.ofNat 32 (x % 32))
/-- R48: flags enter FPSTAT; a clearing SWR of the same cycle leaves them set. -/
def Group.orFlags (g : Group) (f : Nat) : Group :=
  { g with fpstat := g.fpstat ||| BitVec.ofNat 32 (f % 32), fpnew := g.fpnew ||| BitVec.ofNat 32 (f % 32) }
/-- R48: the flags that entered before the present cycle, and those of it, after a clearing SWR of it. -/
def Group.clearFlags (g : Group) (x : Nat) : Group := { g with fpstat := fpstatClear g.fpstat x ||| g.fpnew }

def Group.prog (g : Group) : Bool := bitOf g.gctl.toNat 0
def Group.chk (g : Group) : Bool := bitOf g.gctl.toNat 1
def Group.fairt (g : Group) : Nat := fld g.gctl.toNat 16 16
/-- R50: TRAPCODE.VALID. -/
def Group.trapValid (g : Group) : Bool := bitOf g.trapcode.toNat 15

/-- A fresh number for a grid, team, group, span, flight or operation. -/
def State.fresh (s : State) : Nat × State := (s.uids, { s with uids := s.uids + 1 })

/-- A fresh index of the free values (log entry 1, DESIGN CHOICE). -/
def State.draw (s : State) : Nat × State := (s.free, { s with free := s.free + 1 })

/-- The sum of a list. -/
def sumN (l : List Nat) : Nat := l.foldl (· + ·) 0

/-- What an issue of a group sees: the state before it, the group, its team, its grid, its core, and the results of the
group that have not landed, the youngest first. -/
structure Env where
  st : State
  g : Group
  t : Team
  gr : Grid
  c : Core
  flights : List (Nat × Flight)

/-- The environment of a group's issue, when the group, its team and its grid exist. -/
def State.env? (s : State) (uid : Nat) : Option Env :=
  match Tab.get? s.groups uid with
  | none => none
  | some g =>
    match Tab.get? s.teams g.team, Tab.get? s.grids g.grid with
    | some t, some gr =>
      some { st := s, g, t, gr, c := s.core t.core,
             flights := (s.flights.filter fun f => f.2.group == uid && !f.2.landed).reverse }
    | _, _ => none

/-- R131: items per team, groups per team, teams of a grid. -/
def Kernel.tsize (k : Kernel) : Nat := k.tx * k.ty * k.tz
def Kernel.ngroups (k : Kernel) : Nat := (k.tsize + 63) / 64
def Grid.nteams (g : Grid) : Nat := g.gx * g.gy * g.gz
/-- R35: reserve, V allotment and SLIM from the header. -/
def Kernel.reserve (k : Kernel) : Nat := (k.divdepth + 1) / 2
def Kernel.vallot (k : Kernel) : Nat := 8 * ((k.vregs + k.reserve + 7) / 8)
def Kernel.slim (k : Kernel) : Nat := 16 * ((k.sregs + 15) / 16)
/-- R133: teams of a cluster. -/
def Kernel.csize (k : Kernel) : Nat := k.clx * k.cly

/-- The item of lane `l` of a group (R131). -/
def itemOf (t : Team) (gr : Grid) (gid l : Nat) : Nat := t.index * gr.kernel.tsize + 64 * gid + l

/-- R44, R45, R131: the value of a special register for an item of a team, by number; `t` is TITEM. -/
def itemSpecial (gr : Grid) (teamid t n : Nat) : Nat :=
  let k := gr.kernel
  let ix := t % k.tx
  let iy := t / k.tx % k.ty
  let iz := t / (k.tx * k.ty)
  let tx := teamid % gr.gx
  let ty := teamid / gr.gx % gr.gy
  let tz := teamid / (gr.gx * gr.gy)
  if n == 0x08 then teamid * k.tsize + t
  else if n == 0x09 then t
  else if n == 0x0A then (tx * k.tx + ix) % 2 ^ 32
  else if n == 0x0B then (ty * k.ty + iy) % 2 ^ 32
  else if n == 0x0C then (tz * k.tz + iz) % 2 ^ 32
  else if n == 0x0D then t % 64
  else if n == 0x0E then t / 64
  else 0

/-- R44: the special registers whose scope is the part, the core, the team, the cluster or the grid. -/
def wideSpecial (s : State) (gr : Grid) (core teamid n : Nat) : Nat :=
  let c := s.core core
  if n == 0x00 then 64
  else if n == 0x01 then c.lanemap
  else if n == 0x02 then c.passes + 16 * c.ngood
  else if n == 0x03 then core
  else if n == 0x04 then coreDie core
  else if n == 0x05 then s.device
  else if n == 0x0F then teamid
  else if n == 0x10 then teamid / gr.kernel.csize
  else if n == 0x11 then gr.nteams
  else if n == 0x14 then gr.version
  else if n == 0x20 then ((Tab.get? s.contexts gr.ctx).map (·.ahist.toNat)).getD 0
  else if n == 0x21 then s.fnmode.toNat
  else 0

/-- The value of a special register for lane `l` of a group (R44 to R52). -/
def State.special (s : State) (e : Env) (l n : Nat) : Nat :=
  if n == 0x18 then e.g.fpctl.toNat
  else if n == 0x19 then e.g.fpstat.toNat
  else if n == 0x1A then e.g.gctl.toNat
  else if n == 0x1B then e.g.rowprog.toNat
  else if n == 0x1C then e.g.trapcode.toNat
  else if n == 0x1D then e.g.trapaddr.toNat
  else if srLane n || n == 0x0E then itemSpecial e.gr e.t.index (64 * e.g.gid + l) n
  else wideSpecial s e.gr e.t.core e.t.index n

end Sys2Proof.Machine
end

