-- ==== Sys2Proof/Machine/Results.lean ====
section
/-! DEFINITION. Writing results and their landing (spec/03_encoding.md R69 to R74, R467; spec/10_numbers.md R198). -/

namespace Sys2Proof.Machine

/-- A latency of R70, or variable. -/
inductive Lat where
  | fixed (n : Nat)
  | var
  deriving DecidableEq, Repr

/-- What a register holds, as the words of a flight: 64 lanes (of a predicate 0 or 1 each), or the low and high word of a
group value. -/
def Group.words (g : Group) : Reg → List Word
  | .v n => g.rowV n
  | .o n => g.rowO n
  | .z n => g.rowZ n
  | .s n => [BitVec.ofNat 32 (g.sreg n).toNat, BitVec.ofNat 32 ((g.sreg n).toNat / 2 ^ 32)]
  | .p n => (List.range 64).map fun l => BitVec.ofNat 32 (b2n (bitOf (g.pmask n) l))
  | .fmt n => [BitVec.ofNat 32 (g.fmtreg n)]
  | _ => []

/-- The core of a group's team. -/
def State.coreOfGroup (s : State) (g : Group) : Nat := ((Tab.get? s.teams g.team).map (·.core)).getD 0

/-- A register of a result: for V, O and P by lane, for S the low and the high word, for FMT the word. -/
def Group.putReg (g : Group) (now m : Nat) (r : Reg) (f : Nat → Word) : Group :=
  match r with
  | .v n => g.setV n m f
  | .o n => g.setO n m f
  | .s n => g.setS now n (BitVec.ofNat 64 ((f 0).toNat + 2 ^ 32 * (f 1).toNat))
  | .p n => g.setP n m fun l => f l != 0
  | .fmt n => g.setFmt now n (f 0).toNat
  | _ => g

/-- One result: the register and its new words. -/
abbrev Res := Reg × (Nat → Word)

/-- A result that is a row of lanes of V or O. -/
def Res.isRow (r : Res) : Bool := match r.1 with | .v _ | .o _ => true | _ => false

/-- The registers of a value of `n` registers written to a destination; an S register takes the value of lane `low`
(R65, R66, R205). -/
def resOf (d : Opnd) (n low : Nat) (f : Nat → Nat) : List Res :=
  match d with
  | .v k => (List.range n).map fun i => (.v (k.toNat + i), fun l => BitVec.ofNat 32 (f l / 2 ^ (32 * i)))
  | .o k => (List.range n).map fun i => (.o (k.toNat + i), fun l => BitVec.ofNat 32 (f l / 2 ^ (32 * i)))
  | .s k => [(.s k.toNat, fun i => if i == 0 then BitVec.ofNat 32 (f low) else if n < 2 then 0 else BitVec.ofNat 32 (f low / 2 ^ 32))]
  | _ => []

/-- The lowest lane of a mask (R113). -/
def lowLane (m : Nat) : Nat := ((lanesOf m).head?).getD 0

/-- Add 1 to a count of a list, or take 1 away. -/
def bump (n : Nat) (up : Bool) (l : List Nat) : List Nat := mapFrom (fun i k => if i == n then (if up then k + 1 else k - 1) else k) 0 l

/-- R38, R70, R72, R198: the lanes of a mask write their results. The registers take the new words at once; the flight
keeps the old ones for a reader that comes too early (R73), and the flags for when the result lands. The scoreboard that the
instruction names counts the result until then, whatever its latency. What P7 discards (R40) is no result (R74; log entry 10,
DEDUCED). An instruction with no result adds to no count: its
sources are read as it issues, so its count would fall in the same step (log entry 10, DEDUCED). -/
def State.result (s : State) (uid : Nat) (h : Hdr) (m : Nat) (lat : Lat) (rs : List Res) (flags : Nat) : State :=
  match Tab.get? s.groups uid with
  | none => s
  | some g =>
    let rs := rs.filter fun r => r.1 != .p 7
    if m == 0 || (rs.isEmpty && flags == 0) then s
    else
      let core := s.core (s.coreOfGroup g)
      let now := core.now
      let old := rs.map fun r => (r.1, g.words r.1)
      let g1 := rs.foldl (fun g r => g.putReg core.epoch m r.1 r.2) g
      let fixed := match lat with | .fixed _ => true | .var => false
      let zres := if fixed then rs.find? Res.isRow else none
      let (g1, old) := match zres with
        | some r => (g1.pushZ m r.2, old ++ [(Reg.z 0, g.rowZ 0), (Reg.z 1, g.rowZ 1)])
        | none => (g1, old)
      let sb := if 5 < h.wsb.toNat then none else some h.wsb.toNat
      let g1 := match sb with
        | some b => g1.updLanes m fun _ x => { x with sb := bump b true x.sb }
        | none => g1
      let fl : Flight := { group := uid, lanes := m, regs := old, due := (match lat with | .fixed n => some (now + n) | .var => none),
                           sb, flags, landed := false }
      let (n, s) := s.fresh
      { s.setGroup g1 with flights := Tab.set s.flights n fl }

/-- The word of a register at index `k` as the group now holds it, and its replacement. -/
def Group.wordAt (g : Group) (r : Reg) (k : Nat) : Word := (g.words r).getD k 0
def Group.pokeWord (g : Group) (r : Reg) (k : Nat) (w : Word) : Group :=
  match r with
  | .v n => { g with v := Tab.set g.v n ((g.rowV n).set k w) }
  | .o n => { g with o := Tab.set g.o n ((g.rowO n).set k w) }
  | .z n => { g with z := Tab.set g.z n ((g.rowZ n).set k w) }
  | .s n =>
    let x := (g.sreg n).toNat
    { g with s := Tab.set g.s n (BitVec.ofNat 64 (if k == 0 then x / 2 ^ 32 * 2 ^ 32 + w.toNat else x % 2 ^ 32 + 2 ^ 32 * w.toNat)) }
  | .p n => g.setP n (2 ^ k) fun _ => w != 0
  | .fmt n => { g with fmt := Tab.set g.fmt n w.toNat }
  | _ => g

/-- Set the old word that a flight keeps. -/
def Flight.setOld (f : Flight) (r : Reg) (k : Nat) (w : Word) : Flight :=
  { f with regs := f.regs.map fun x => if x.1 == r then (x.1, x.2.set k w) else x }

/-- Whether a flight is of a group and brings a register that an older or younger result of a lane brings too: a group-scope
register is one for all lanes (R73). -/
def Flight.covers (f : Flight) (group l : Nat) (r : Reg) : Bool :=
  !f.landed && f.group == group && (inMask f.lanes l || match r with | .s _ | .fmt _ => true | _ => false) && f.regs.any fun y => y.1 == r
/-- The word that a result under way brings: it becomes what the register holds, or what a younger result keeps as its
old word. -/
def State.deliver (s : State) (group : Nat) (r : Reg) (k l : Nat) (n : Nat) (w : Word) : State :=
  match s.flights.find? fun x => decide (n < x.1) && x.2.covers group l r with
  | some y => { s with flights := Tab.upd s.flights y.1 fun x => x.setOld r k w }
  | none => s.updGroup group fun g => g.pokeWord r k w

/-- The register `k` after another of its class. -/
def Reg.plus (r : Reg) (k : Nat) : Reg :=
  match r with
  | .v n => .v (n + k)
  | .o n => .o (n + k)
  | r => r
/-- A value of `n` registers that a result under way brings to a lane. -/
def State.deliverN (s : State) (group : Nat) (r : Reg) (l fl x : Nat) : Nat → State
  | 0 => s
  | n + 1 => (s.deliver group (r.plus n) l l fl (BitVec.ofNat 32 (x / 2 ^ (32 * n)))).deliverN group r l fl x n

/-- One word of a landing flight `n` moves below the older ones under way. Where results land in another order than they were issued, Z0
keeps the one that lands last, and Z1 the Z0 that this one found as it issued (log entry 85, DESIGN CHOICE). -/
def State.sinkWord (s : State) (n : Nat) (f : Flight) (r : Reg) (k l : Nat) : State :=
  let oldest := s.flights.find? fun x => decide (x.1 < n) && x.2.covers f.group l r
  let younger := s.flights.find? fun x => decide (n < x.1) && x.2.covers f.group l r
  match oldest, Tab.get? s.groups f.group with
  | some o, some g =>
    let mine := ((f.regs.find? fun x => x.1 == r).map fun x => x.2.getD k 0).getD 0
    let new := match younger with
      | some y => ((y.2.regs.find? fun x => x.1 == r).map fun x => x.2.getD k 0).getD 0
      | none => g.wordAt r k
    let s := { s with flights := Tab.upd s.flights o.1 fun x => x.setOld r k new }
    match younger with
    | some y => { s with flights := Tab.upd s.flights y.1 fun x => x.setOld r k mine }
    | none => s.setGroup (g.pokeWord r k mine)
  | _, _ => s

/-- R48: flags enter the FPSTAT of a span. -/
def Span.orFlags (p : Span) (f : Nat) : Span :=
  { p with fpstat := p.fpstat ||| BitVec.ofNat 32 (f % 32), fpnew := p.fpnew ||| BitVec.ofNat 32 (f % 32) }

/-- R72, R73, R198: the result numbered `n` lands: its scoreboard falls and its flags enter FPSTAT. A variable-latency one
stays listed, for the lanes that have not waited on it (R74). -/
def State.land (s : State) (n : Nat) : State :=
  match Tab.get? s.flights n with
  | none => s
  | some f =>
    if f.landed then s
    else
      let s := f.regs.foldl (fun s x =>
        match x.1 with
        | .v _ | .o _ | .z _ | .p _ => (lanesOf f.lanes).foldl (fun s l => s.sinkWord n f x.1 l l) s
        | .s _ => (s.sinkWord n f x.1 0 (lowLane f.lanes)).sinkWord n f x.1 1 (lowLane f.lanes)
        | .fmt _ => s.sinkWord n f x.1 0 (lowLane f.lanes)
        | _ => s) s
      let s := s.updGroup f.group fun g =>
        let g := g.orFlags f.flags
        match f.sb with
        | some b => g.updLanes f.lanes fun _ x => { x with sb := bump b false x.sb }
        | none => g
      let s := s.updSpan f.group fun p => p.orFlags f.flags
      if f.sb.isSome && f.due.isNone then { s with flights := Tab.set s.flights n { f with landed := true } }
      else { s with flights := Tab.del s.flights n }

/-- R74: an instruction that waited on scoreboards covers their landed results in its lanes. -/
def State.covered (s : State) (uid wait m : Nat) : State :=
  { s with flights := (s.flights.map fun x =>
      if x.2.group == uid && x.2.landed && (match x.2.sb with | some b => bitOf wait b | none => false) then
        (x.1, { x.2 with lanes := maskDiff x.2.lanes m }) else x).filter fun x => !(x.2.landed && x.2.lanes == 0) }

/-- The lanes of `m` for which a result of the group under way is taken back: an abandoned or trapped one (R72, R99). The
register takes its old words again, or the result after it keeps them (R73), and the scoreboard falls. A group-scope register
is that of the lowest lane (R205). -/
def State.unwind (s : State) (n m : Nat) : State :=
  match Tab.get? s.flights n with
  | none => s
  | some f =>
    let mm := maskAnd f.lanes m
    let low := lowLane f.lanes
    let s := f.regs.foldl (fun s x => match x.1 with
      | .v _ | .o _ | .p _ => (lanesOf mm).foldl (fun s l => s.deliver f.group x.1 l l n (x.2.getD l 0)) s
      | .s _ => if inMask mm low then (s.deliver f.group x.1 0 low n (x.2.getD 0 0)).deliver f.group x.1 1 low n (x.2.getD 1 0) else s
      | .fmt _ => if inMask mm low then s.deliver f.group x.1 0 low n (x.2.getD 0 0) else s
      | _ => s) s
    let s := s.updGroup f.group fun g => match f.sb with
      | some b => g.updLanes mm fun _ x => { x with sb := bump b false x.sb }
      | none => g
    let rest := maskDiff f.lanes mm
    { s with flights := if rest == 0 then Tab.del s.flights n else Tab.set s.flights n { f with lanes := rest } }

/-- R72, R73: the lane whose register `d` a result under way brings gets its value, and the result lands. -/
def State.settleLane (s : State) (uid l : Nat) (d : Reg) (n : Nat) (w : Word) : State := (s.deliver uid d l l n w).land n

end Sys2Proof.Machine
end

