-- ==== Sys2Proof/Machine/Handle.lean ====
section
/-! DEFINITION. Futures and their handles (spec/16_future.md R304 to R308). -/

namespace Sys2Proof.Machine

/-- R305: the word of a handle. -/
def Future.word (f : Future) (fid : Nat) : DWord := BitVec.ofNat 64 (f.state + 2 ^ 8 * f.kind + 2 ^ 12 * f.ch + 2 ^ 16 * fid)
/-- R305: STATE and FID of a handle. -/
def hState (w : DWord) : Nat := fld w.toNat 0 3
def hFid (w : DWord) : Nat := fld w.toNat 16 10
def hLive (w : DWord) : Bool := hState w == 1 || hState w == 2

/-- R306: a future that has ended. -/
def Future.final (f : Future) : Bool := decide (3 ≤ f.state)

/-- Whether a future is held: by an H register of the team, or by a token (R304). -/
def State.futureHeld (s : State) (team fid : Nat) : Bool :=
  (match Tab.get? s.teams team with
   | some t => (match Tab.get? t.futures fid with | some f => f.token | none => false)
   | none => false)
  || (s.groups.any fun g => g.2.team == team && g.2.h.any fun x => hState x.2 != 0 && hFid x.2 == fid)
  || (((Tab.get? s.teams team).map (·.saved)).getD []).any fun g => g.2.h.any fun x => hState x.2 != 0 && hFid x.2 == fid

/-- A future of a team takes another number: whatever names it follows. -/
def CopyOp.rename (team a b : Nat) (o : CopyOp) : CopyOp := if o.team == team && o.fid == a then { o with fid := b } else o
def Core.renameFuture (team a b : Nat) (c : Core) : Core :=
  { c with channels := c.channels.map fun x => (x.1, x.2.map (CopyOp.rename team a b)), fabric := c.fabric.map (CopyOp.rename team a b) }
/-- A future that a register names takes another number, or none. -/
def Tile.renameFuture (a : Nat) (b : Option Nat) (x : Tile) : Tile :=
  let turn := fun f => if f == some a then b else f
  { x with writer := turn x.writer, mark := turn x.mark }
def Team.renameFuture (t : Team) (a b : Nat) : Team :=
  let tile := fun (x : Nat × Tile) => (x.1, x.2.renameFuture a (some b))
  { t with
    futures := match Tab.get? t.futures a with
      | some f => Tab.set (Tab.del t.futures a) b f
      | none => t.futures
    a := t.a.map tile, t := t.t.map tile
    ops := t.ops.map fun o => if o.2.fid == some a then (o.1, { o.2 with fid := some b }) else o
    halted := t.halted.map fun x => (x.1, x.2.rename t.uid a b) }

/-- R304: a future that is held no longer is freed. While its operation still runs, what the operation reports has no number
that a handle could name: it stands from 1,024 up until the operation ends (log entry 51, DESIGN CHOICE). -/
def State.freeFuture (s : State) (team fid : Nat) : State :=
  match Tab.get? s.teams team with
  | none => s
  | some t =>
    match Tab.get? t.futures fid with
    | none => s
    | some f =>
      if s.futureHeld team fid then s
      else if f.final then
        let cut := fun (x : Nat × Tile) => (x.1, x.2.renameFuture fid none)
        s.updTeam team fun t => { t with futures := Tab.del t.futures fid, a := t.a.map cut, t := t.t.map cut }
      else if 1024 ≤ fid then s
      else
        let (n, s) := s.fresh
        { s with
          teams := Tab.upd s.teams team fun t => t.renameFuture fid (1024 + n)
          cores := s.cores.map fun c => (c.1, c.2.renameFuture team fid (1024 + n))
          seals := s.seals.map fun k => { k with handles := k.handles.map fun x => if x == (team, fid) then (team, 1024 + n) else x } }

/-- R151, R318: the lanes of a group that sleep in FWAIT on a future go on. -/
def Group.wakeFwait (g : Group) (fid : Nat) : Group :=
  { g with lanes := g.lanes.map fun x => match x.block with
      | .fwait n d => if hFid (g.hreg n) == fid && hState (g.hreg n) != 0 then { x with block := .free, due := some d } else x
      | _ => x }
/-- Change a future: the handles of it change with it, and once it has ended the lanes that sleep in FWAIT on it go on. -/
def State.setFuture (s : State) (team fid : Nat) (f : Future) : State :=
  let s := s.updTeam team fun t => { t with futures := Tab.set t.futures fid f }
  let s := { s with groups := s.groups.map fun (g : Nat × Group) => if g.2.team == team then
      let k := { g.2 with h := g.2.h.map fun (x : Nat × DWord) => if hState x.2 != 0 && hFid x.2 == fid then (x.1, f.word fid) else x }
      (g.1, if f.final then k.wakeFwait fid else k) else g }
  s.freeFuture team fid
def State.futureOf (s : State) (team fid : Nat) : Option Future := (Tab.get? s.teams team).bind fun t => Tab.get? t.futures fid

/-- R307, R318: replace a handle: the lanes that sleep in FWAIT on a register that names no running future any more go on. The
old future is freed when nothing else holds it. -/
def State.putHandle (s : State) (g : Group) (n : Nat) (w : DWord) : State :=
  let old := g.hreg n
  let s := s.updGroup g.uid fun g =>
    let g := g.setH n w
    if hLive w then g else { g with lanes := g.lanes.map fun x => match x.block with
        | .fwait k d => if k == n then { x with block := .free, due := some d } else x
        | _ => x }
  if hState old == 0 then s else s.freeFuture g.team (hFid old)

end Sys2Proof.Machine
end

