-- ==== Sys2Proof/Decode.lean ====
section
/-! DEFINITION. The decoder of spec/03_encoding.md R56 to R81 with the field tables of every chapter, total on any
words, and after it the encoder from the same tables. A word is read by taking its fields (R57, R58), choosing the
constructor of its opcode (R79), and then asking that the instruction so read is well formed and that its own encoding
is the words that were read: a reserved bit, an unused field or a wrong length fails there (R67, R80). -/

namespace Sys2Proof

open Sys2Proof.Machine

/-- Why a word is not an instruction (R81, steps 2 to 4b). -/
inductive DecodeError where
  | fetchSplit
  | padWord
  | badPad
  | illegalOpc
  | illegalEnc
  deriving DecidableEq, Repr

/-- The fields of an instruction (R57, R58): numbers below the field's bound. -/
structure Fields where
  opc : Nat
  hdr : Hdr
  d : Nat
  a : Nat
  moda : Nat
  b : Nat
  c : Nat
  modb : Nat
  lit : Nat
  deriving DecidableEq, Repr

/-- R63: the operand that a 12-bit field names. -/
def opnd (x : Nat) : Opnd :=
  if x < 0x400 then .v (BitVec.ofNat 10 x)
  else if x < 0x800 then .o (BitVec.ofNat 3 x)
  else if x < 0xC00 then .z (BitVec.ofNat 1 x)
  else if x < 0xD00 then .s (BitVec.ofNat 8 x)
  else if x < 0xE00 then .imm (BitVec.ofNat 8 x)
  else .sr (BitVec.ofNat 8 x)

/-- R63: the 12-bit field that names an operand. -/
def Opnd.bits : Opnd → Nat
  | .v n => n.toNat
  | .o n => 0x400 + n.toNat
  | .z n => 0x800 + n.toNat
  | .s n => 0xC00 + n.toNat
  | .imm n => 0xD00 + n.toNat
  | .sr n => 0xE00 + n.toNat

/-- The length in words of each assigned opcode (R79), `none` for an unassigned one. -/
def opcWords (opc : Nat) : Option Nat :=
  if opc ≤ 0x01C then some (if [0x001, 0x003, 0x00B, 0x013].contains opc then 3 else 2)
  else if 0x040 ≤ opc && opc ≤ 0x04C then
    some (if [0x046, 0x047, 0x04A].contains opc then 3 else if opc == 0x049 then 4 else 2)
  else if 0x080 ≤ opc && opc ≤ 0x09E then
    some (if [0x08B, 0x091, 0x092, 0x093, 0x099].contains opc then 2 else if opc == 0x09A then 4 else 3)
  else if 0x100 ≤ opc && opc ≤ 0x119 then
    some (if [0x106, 0x107, 0x10E, 0x10F, 0x110, 0x111, 0x112, 0x113, 0x114, 0x115].contains opc then 2 else 3)
  else if 0x180 ≤ opc && opc ≤ 0x188 then some (if [0x186, 0x187].contains opc then 2 else 3)
  else if 0x1C0 ≤ opc && opc ≤ 0x1D2 then
    some (if [0x1C8, 0x1C9].contains opc then 4 else if [0x1CA, 0x1CB, 0x1CC, 0x1CF, 0x1D2].contains opc then 2 else 3)
  else if 0x240 ≤ opc && opc ≤ 0x246 then some (if opc ≤ 0x241 then 4 else 2)
  else if 0x280 ≤ opc && opc ≤ 0x28D then
    some (if [0x28A, 0x28B].contains opc then 4
      else if [0x280, 0x281, 0x284, 0x285, 0x28C].contains opc then 2 else 3)
  else if 0x300 ≤ opc && opc ≤ 0x305 then
    some (if [0x301, 0x302].contains opc then 4 else if opc == 0x305 then 2 else 3)
  else if 0x340 ≤ opc && opc ≤ 0x346 then some (if opc ≤ 0x343 then 4 else 2)
  else none

/-- R57: the fields of word 0 beside LEN and OPC. -/
def hdrOf (w : Nat) : Hdr :=
  { stall := BitVec.ofNat 4 (fld w 12 4), y := bitOf w 16, gp := BitVec.ofNat 3 (fld w 17 3), gn := bitOf w 20,
    wsb := BitVec.ofNat 3 (fld w 21 3), wait := BitVec.ofNat 6 (fld w 24 6) }

/-- R57, R58: the fields of up to four words. -/
def fieldsOf (w0 w1 w2 w3 : Nat) : Fields :=
  { opc := fld w0 2 10, hdr := hdrOf w0, d := fld w1 0 12, a := fld w1 12 12, moda := fld w1 24 8,
    b := fld w2 0 12, c := fld w2 12 12, modb := fld w2 24 8, lit := w3 }

def Fields.w1 (f : Fields) : Nat := f.d + 2 ^ 12 * f.a + 2 ^ 24 * f.moda
def Fields.w2 (f : Fields) : Nat := f.b + 2 ^ 12 * f.c + 2 ^ 24 * f.modb

/-- R57: word 0 of an instruction of `len` words. -/
def Fields.w0 (f : Fields) (len : Nat) : Nat :=
  (len - 2) + 2 ^ 2 * f.opc + 2 ^ 12 * f.hdr.stall.toNat + 2 ^ 16 * b2n f.hdr.y + 2 ^ 17 * f.hdr.gp.toNat
    + 2 ^ 20 * b2n f.hdr.gn + 2 ^ 21 * f.hdr.wsb.toNat + 2 ^ 24 * f.hdr.wait.toNat

/-! Register numbers and modifiers read from a field, each total: a value the field does not admit is caught when the
instruction so read is encoded again. -/

def p3 (x : Nat) : BitVec 3 := BitVec.ofNat 3 x
def n4 (x : Nat) : BitVec 4 := BitVec.ofNat 4 x

def imodOf (x : Nat) : IMod := { wid := Wid.ofNat (x % 4), sgn := bitOf x 2, sat := bitOf x 3 }
def IMod.bits (m : IMod) : Nat := m.wid.ctorIdx + 4 * b2n m.sgn + 8 * b2n m.sat

def carryOf (x : Nat) : Carry := { pci := p3 (fld x 0 3), pco := p3 (fld x 3 3), nci := bitOf x 6 }
def Carry.bits (c : Carry) : Nat := c.pci.toNat + 8 * c.pco.toNat + 64 * b2n c.nci

def fmodOf (x : Nat) : FMod :=
  { rnd := Rnd.ofNat (x % 8), nega := bitOf x 3, negb := bitOf x 4, negc := bitOf x 5, absa := bitOf x 6, sat := bitOf x 7 }
def FMod.bits (m : FMod) : Nat :=
  m.rnd.ctorIdx + 8 * b2n m.nega + 16 * b2n m.negb + 32 * b2n m.negc + 64 * b2n m.absa + 128 * b2n m.sat

def fsetOf (x y : Nat) : FSetMod :=
  { cmp := FCmp.ofNat (fld x 0 4), nega := bitOf x 4, negb := bitOf x 5, absa := bitOf x 6, bop := Bop.ofNat (fld y 0 2) }
def FSetMod.bits (m : FSetMod) : Nat := m.cmp.ctorIdx + 16 * b2n m.nega + 32 * b2n m.negb + 64 * b2n m.absa

def xmodOf (x : Nat) : XMod := { sw := Sw.ofNat (x % 8), x64 := bitOf x 3 }
def XMod.bits (m : XMod) : Nat := m.sw.ctorIdx + 8 * b2n m.x64

def amodOf (x y : Nat) : AMod :=
  { op := AtomOp.ofNat (fld x 0 4), sgn := bitOf x 4, x64 := bitOf x 5, scope := Scope.ofNat (fld y 0 3),
    ord := Order.ofNat (fld y 3 2) }
def AMod.bitsA (m : AMod) : Nat := m.op.ctorIdx + 16 * b2n m.sgn + 32 * b2n m.x64
def AMod.bitsB (m : AMod) : Nat := m.scope.ctorIdx + 8 * m.ord.ctorIdx

def copyModOf (x y : Nat) : CopyMod :=
  { dsp := Spc.ofNat (fld x 0 2), ssp := Spc.ofNat (fld x 2 2), fix := bitOf y 3, ch := p3 (fld y 0 3) }
def CopyMod.bitsA (m : CopyMod) : Nat := m.dsp.ctorIdx + 4 * m.ssp.ctorIdx
def CopyMod.bitsB (m : CopyMod) : Nat := m.ch.toNat + 8 * b2n m.fix

def mmaModOf (x l : Nat) : MmaMod :=
  { ty := MmaTy.ofNat (fld x 0 4), new := bitOf x 4, nb := bitOf x 5, blk := BitVec.ofNat 2 (fld x 6 2),
    fmta := p3 (fld l 0 3), fmtb := p3 (fld l 3 3), sgna := bitOf l 6, sgnb := bitOf l 7 }
def MmaMod.bitsA (m : MmaMod) : Nat := m.ty.ctorIdx + 16 * b2n m.new + 32 * b2n m.nb + 64 * m.blk.toNat
def MmaMod.bitsL (m : MmaMod) : Nat := m.fmta.toNat + 8 * m.fmtb.toNat + 64 * b2n m.sgna + 128 * b2n m.sgnb

def fragOf (x : Nat) : FragMod := { q := BitVec.ofNat 2 (fld x 0 2), qsel := bitOf x 2, f64 := bitOf x 3 }
def FragMod.bits (m : FragMod) : Nat := m.q.toNat + 4 * b2n m.qsel + 8 * b2n m.f64

/-- A handle field that is used only with ASYNC. -/
def hdOf (async : Bool) (x : Nat) : Option (BitVec 4) := if async then some (n4 x) else none
def hdBits : Option (BitVec 4) → Nat
  | some h => h.toNat
  | none => 0

def attOf (x y l : Nat) : AttMod :=
  { nh := BitVec.ofNat 2 (fld x 0 2), f16 := bitOf x 5, hd := hdOf (bitOf x 4) (fld y 4 4), nk := BitVec.ofNat 6 (fld l 20 6) }
def AttMod.bitsA (m : AttMod) : Nat := m.nh.toNat + 16 * b2n m.hd.isSome + 32 * b2n m.f16

def kvOf (kv : Bool) (x : Nat) : KvSrc := if kv then .desc (opnd x) else .map (n4 x)
def KvSrc.bits : KvSrc → Nat
  | .map a => a.toNat
  | .desc a => a.bits
def KvSrc.isKv : KvSrc → Bool
  | .map _ => false
  | .desc _ => true

/-- R79: the instruction of the opcode, its operands and modifiers read from the fields. -/
def build (f : Fields) : Option Instr :=
  let h := f.hdr
  let d := opnd f.d
  let a := opnd f.a
  let b := opnd f.b
  let c := opnd f.c
  let off := BitVec.ofNat 32 f.w1
  let lit := BitVec.ofNat 32 f.lit
  match f.opc with
  | 0x000 => some (.nop h)
  | 0x001 => some (.bra h off)
  | 0x002 => some (.brx h a)
  | 0x003 => some (.call h off)
  | 0x004 => some (.callx h a)
  | 0x005 => some (.ret h)
  | 0x006 => some (.exit h)
  | 0x007 => some (.jset h (n4 f.d) (bitOf f.moda 0))
  | 0x008 => some (.join h (n4 f.d))
  | 0x009 => some (.jpush h (n4 f.a))
  | 0x00A => some (.jpop h (n4 f.d))
  | 0x00B => some (.brk h off (n4 f.b) (n4 (fld f.b 4 4)))
  | 0x00C => some (.yield h a)
  | 0x00D => some (.monw h a)
  | 0x00E => some (.mwait h d a)
  | 0x00F => some (.gsync h)
  | 0x010 => some (.spmat h)
  | 0x011 => some (.gfold h)
  | 0x012 => some (.spform h d (if bitOf f.moda 0 then .pred (p3 f.a) else .reg a))
  | 0x013 => some (.rgnld h (BitVec.ofNat 10 f.w1) (BitVec.ofNat 8 (fld f.w1 10 8)) (BitVec.ofNat 32 f.w2))
  | 0x014 => some (.rshrink h a (n4 f.moda))
  | 0x015 => some (.rgrow h a (n4 f.moda))
  | 0x016 => some (.plop h (p3 f.d) (p3 f.a) (p3 (fld f.moda 0 3)) (n4 (fld f.moda 3 4)))
  | 0x017 => some (.pmov h (p3 f.d) (p3 f.a) (bitOf f.moda 0))
  | 0x018 => some (.trap h (BitVec.ofNat 8 f.moda))
  | 0x019 => some (.bpt h (BitVec.ofNat 8 f.moda))
  | 0x01A => some (.srd h d a)
  | 0x01B => some (.swr h d a)
  | 0x01C => some (.cyc h d (bitOf f.moda 0))
  | 0x040 => some (.bar h (n4 f.a))
  | 0x041 => some (.bara h d (n4 f.a))
  | 0x042 => some (.barw h (n4 f.moda) a)
  | 0x043 => some (.barinit h (n4 f.d) a)
  | 0x044 => some (.cbar h)
  | 0x045 => some (.gbar h)
  | 0x046 => some (.launch h d a (bitOf f.moda 0))
  | 0x047 => some (.enq h d a b (bitOf f.moda 0))
  | 0x048 => some (.qstat h d a (bitOf f.moda 0))
  | 0x049 => some (.splnch h d a b c (n4 (fld f.moda 0 4)) (bitOf f.moda 4) (bitOf f.moda 5) lit)
  | 0x04A => some (.resolve h d a b (n4 (fld f.moda 0 4)))
  | 0x04B => some (.vqry h d a (bitOf f.moda 0))
  | 0x04C => some (.vabort h d a)
  | 0x080 => some (.iadd h (imodOf f.moda) d a b)
  | 0x081 => some (.isub h (imodOf f.moda) d a b)
  | 0x082 => some (.imul h (imodOf f.moda) d a b)
  | 0x083 => some (.imulh h (imodOf f.moda) d a b)
  | 0x084 => some (.imad h (imodOf f.moda) d a b c)
  | 0x085 => some (.imadw h (imodOf f.moda) d a b c)
  | 0x086 => some (.addc h (imodOf f.moda) (carryOf f.modb) d a b)
  | 0x087 => some (.subb h (imodOf f.moda) (carryOf f.modb) d a b)
  | 0x088 => some (.madc h (imodOf f.moda) (bitOf f.moda 4) (carryOf f.modb) d a b c)
  | 0x089 => some (.imin h (imodOf f.moda) d a b)
  | 0x08A => some (.imax h (imodOf f.moda) d a b)
  | 0x08B => some (.iabs h (imodOf f.moda) d a)
  | 0x08C => some (.shl h (imodOf f.moda) (bitOf f.moda 4) d a b)
  | 0x08D => some (.shr h (imodOf f.moda) (bitOf f.moda 4) d a b)
  | 0x08E => some (.shra h (imodOf f.moda) (bitOf f.moda 4) d a b)
  | 0x08F => some (.shf h (imodOf f.moda) (bitOf f.moda 4) (bitOf f.moda 5) d a b c)
  | 0x090 => some (.bitfn h (imodOf f.moda) (BitVec.ofNat 8 f.modb) d a b c)
  | 0x091 => some (.popc h (imodOf f.moda) d a)
  | 0x092 => some (.clz h (imodOf f.moda) d a)
  | 0x093 => some (.brev h (imodOf f.moda) d a)
  | 0x094 => some (.bfe h (imodOf f.moda) d a b)
  | 0x095 => some (.bfi h (imodOf f.moda) d a b c)
  | 0x096 => some (.bysel h (imodOf f.moda) d a b c)
  | 0x097 => some (.isetp h (imodOf f.moda) (Cmp.ofNat (fld f.moda 4 3)) (Bop.ofNat (fld f.modb 0 2)) (p3 f.d) a b (p3 f.c))
  | 0x098 => some (.sel h (imodOf f.moda) d a b (p3 f.c))
  | 0x099 => some (.mov h (imodOf f.moda) d a)
  | 0x09A => some (.movi h (imodOf f.moda) d lit)
  | 0x09B => some (.lea h (imodOf f.moda) (BitVec.ofNat 5 f.modb) d a b)
  | 0x09C => some (.rqnt h (QDst.ofNat (fld f.moda 0 2)) (QRm.ofNat (fld f.moda 2 2)) (p3 (fld f.moda 4 3))
      (BitVec.ofNat 6 (fld f.modb 0 6)) (bitOf f.modb 6) d a b c)
  | 0x09D => some (.idp4 h (imodOf f.moda) (bitOf f.moda 4) d a b c)
  | 0x09E => some (.idp8 h (imodOf f.moda) (bitOf f.moda 4) d a b c)
  | 0x100 => some (.fadd h (fmodOf f.moda) d a b)
  | 0x101 => some (.fmul h (fmodOf f.moda) d a b)
  | 0x102 => some (.ffma h (fmodOf f.moda) d a b c)
  | 0x103 => some (.fmin h (fmodOf f.moda) d a b)
  | 0x104 => some (.fmax h (fmodOf f.moda) d a b)
  | 0x105 => some (.fsetp h (fsetOf f.moda f.modb) (p3 f.d) a b (p3 f.c))
  | 0x106 => some (.frnd h (Rnd.ofNat (fld f.moda 0 3)) (bitOf f.moda 3) d a)
  | 0x107 => some (.fclass h (bitOf f.moda 3) d a)
  | 0x108 => some (.dadd h (fmodOf f.moda) d a b)
  | 0x109 => some (.dmul h (fmodOf f.moda) d a b)
  | 0x10A => some (.dfma h (fmodOf f.moda) d a b c)
  | 0x10B => some (.dsetp h (fsetOf f.moda f.modb) (p3 f.d) a b (p3 f.c))
  | 0x10C => some (.hfma2 h (fmodOf f.moda) d a b c)
  | 0x10D => some (.bfma2 h (fmodOf f.moda) d a b c)
  | 0x10E => some (.frcp h (Rnd.ofNat (fld f.moda 0 3)) (bitOf f.moda 3) d a)
  | 0x10F => some (.frsq h d a)
  | 0x110 => some (.fsqrt h (Rnd.ofNat (fld f.moda 0 3)) (bitOf f.moda 3) d a)
  | 0x111 => some (.fex2 h d a)
  | 0x112 => some (.flg2 h d a)
  | 0x113 => some (.fsin h d a)
  | 0x114 => some (.fcos h d a)
  | 0x115 => some (.fcvt h (Rnd.ofNat (fld f.moda 0 3)) (Cv.ofNat (fld f.moda 3 5)) d a)
  | 0x116 => some (.cvtn h (Rnd.ofNat (fld f.moda 0 3)) (bitOf f.moda 3) (Std.ofNat (fld f.moda 4 2)) (bitOf f.moda 6)
      (p3 (fld f.modb 0 3)) d a (p3 f.b))
  | 0x117 => some (.qnt h (Rnd.ofNat (fld f.moda 0 3)) (bitOf f.moda 6) d a (p3 f.b))
  | 0x118 => some (.scacc h (Rnd.ofNat (fld f.moda 0 3)) (bitOf f.moda 3) d a b c)
  | 0x119 => some (.fmtset h (p3 f.d) a)
  | 0x180 => some (.lnget h (xmodOf f.moda) (bitOf f.moda 4) d a b c)
  | 0x181 => some (.lnxor h (xmodOf f.moda) (bitOf f.moda 4) d a b c)
  | 0x182 => some (.lnsub h (xmodOf f.moda) (bitOf f.moda 4) d a b c)
  | 0x183 => some (.lnadd h (xmodOf f.moda) (bitOf f.moda 4) d a b c)
  | 0x184 => some (.redx h (xmodOf f.moda) (RedOp.ofNat (fld f.modb 0 4)) d a)
  | 0x185 => some (.scan h (xmodOf f.moda) (bitOf f.moda 4) (RedOp.ofNat (fld f.modb 0 4)) d a c)
  | 0x186 =>
      let md := fld f.moda 4 2
      some (.pcons h (Sw.ofNat (fld f.moda 0 3))
        (if md == 0 then .every (p3 f.d) else if md == 1 then .some (p3 f.d) else if md == 2 then .same (p3 f.d) else .mask d)
        (p3 f.a))
  | 0x187 => some (.matchv h (xmodOf f.moda) d a)
  | 0x188 => some (.bcast h (xmodOf f.moda) (bitOf f.moda 4) d a b c)
  | 0x1C0 => some (.ldg h (Sz.ofNat (fld f.moda 0 3)) (Pol.ofNat (fld f.moda 3 2)) d a b)
  | 0x1C1 => some (.stg h (Sz.ofNat (fld f.moda 0 3)) (Pol.ofNat (fld f.moda 3 2)) a b c)
  | 0x1C2 => some (.ldsh h (Sz.ofNat (fld f.moda 0 3)) d a b)
  | 0x1C3 => some (.stsh h (Sz.ofNat (fld f.moda 0 3)) a b c)
  | 0x1C4 => some (.ldts h (Sz.ofNat (fld f.moda 0 3)) d a b)
  | 0x1C5 => some (.stts h (Sz.ofNat (fld f.moda 0 3)) a b c)
  | 0x1C6 => some (.ldl h (Sz.ofNat (fld f.moda 0 3)) d a b)
  | 0x1C7 => some (.stl h (Sz.ofNat (fld f.moda 0 3)) a b c)
  | 0x1C8 => some (.atomg h (amodOf f.moda f.modb) d a b c lit)
  | 0x1C9 => some (.atomsh h (amodOf f.moda f.modb) d a b c lit)
  | 0x1CA => some (.pref h (bitOf f.moda 0) a)
  | 0x1CB => some (.cctl h (CctlOp.ofNat (fld f.moda 0 2)) a)
  | 0x1CC => some (.fence h (Scope.ofNat (fld f.moda 0 3)) (FenceKind.ofNat (fld f.moda 3 2 - 1)))
  | 0x1CD => some (.seal h d a b)
  | 0x1CE => some (.unseal h (if bitOf f.moda 0 then .handle (n4 f.d) else .status d) a)
  | 0x1CF => some (.sealq h d a)
  | 0x1D0 => some (.ldsc h (Sz.ofNat (fld f.moda 0 3)) (Scope.ofNat (fld f.modb 0 3)) (Order.ofNat (fld f.modb 3 2))
      (bitOf f.modb 5) d a b)
  | 0x1D1 => some (.stsc h (Sz.ofNat (fld f.moda 0 3)) (Scope.ofNat (fld f.modb 0 3)) (Order.ofNat (fld f.modb 3 2))
      (bitOf f.modb 5) a b c)
  | 0x1D2 => some (.pgq h d a)
  | 0x240 => some (.copy h (copyModOf f.moda f.modb) (bitOf f.moda 4) (n4 f.d) a b c lit)
  | 0x241 => some (.copy2d h (copyModOf f.moda f.modb) (n4 f.d) a b c lit)
  | 0x242 => some (.fwait h d (n4 f.a))
  | 0x243 => some (.ftest h d (n4 f.a))
  | 0x244 => some (.fcancel h (n4 f.a))
  | 0x245 => some (.fwp h d (n4 f.a))
  | 0x246 => some (if bitOf f.moda 0 then .fmovIn h (n4 f.d) a else .fmovOut h d (n4 f.a))
  | 0x280 => some (.tsalloc h d a (bitOf f.moda 0))
  | 0x281 => some (.tsfree h a)
  | 0x282 => some (.amset h (n4 f.d) a (p3 (fld f.moda 0 3)) (bitOf f.moda 3))
  | 0x283 => some (.amget h d (n4 f.a) (p3 (fld f.moda 0 3)))
  | 0x284 => some (.gang h a)
  | 0x285 => some (.azero h (n4 f.d) (bitOf f.moda 0))
  | 0x286 => some (.ald h (hdOf (bitOf f.moda 0) f.d) (bitOf f.moda 1) (n4 (fld f.modb 0 4)) (n4 f.a) b c)
  | 0x287 => some (.ast h (hdOf (bitOf f.moda 0) f.d) (bitOf f.moda 1) (n4 (fld f.modb 0 4)) (n4 f.a) b c)
  | 0x288 => some (.ard h (fragOf f.moda) d (n4 f.a))
  | 0x289 => some (.awr h (fragOf f.moda) (n4 f.d) a)
  | 0x28A => some (.tld h (hdOf (bitOf f.moda 0) f.d) (bitOf f.moda 1) (n4 (fld f.modb 0 4)) (n4 f.a) (BitVec.ofNat 5 f.lit) b c)
  | 0x28B => some (.mma h (mmaModOf f.moda f.lit) (n4 f.d) (p3 f.a) (p3 f.b))
  | 0x28C => some (.arel h (bitOf f.moda 0) (bitOf f.moda 1) (n4 f.d))
  | 0x28D => some (.asca h (n4 f.d) (n4 f.a) (p3 f.b) (BitVec.ofNat 5 f.moda))
  | 0x300 => some (.kvtr h (bitOf f.moda 0) d a b)
  | 0x301 => some (.atts h (attOf f.moda f.modb f.lit) (bitOf f.moda 3) (n4 f.d) (p3 f.a) (kvOf (bitOf f.moda 2) f.b) c
      (p3 (fld f.modb 0 3)) (BitVec.ofNat 20 f.lit))
  | 0x302 => some (.attv h (attOf f.moda f.modb f.lit) (n4 f.d) (p3 f.a) (kvOf (bitOf f.moda 2) f.b) c)
  | 0x303 => some (.attmrg h (BitVec.ofNat 2 f.moda) (n4 f.d) (n4 f.a) b)
  | 0x304 => some (.attfin h (BitVec.ofNat 2 f.moda) (n4 f.d))
  | 0x305 => some (.arset h (BitVec.ofNat 2 f.moda) (n4 f.d))
  | 0x340 => some (.rld h (Sz.ofNat (fld f.moda 0 3)) (bitOf f.moda 3) (n4 (fld f.modb 0 4)) d a b lit)
  | 0x341 => some (.rst h (Sz.ofNat (fld f.moda 0 3)) (n4 (fld f.modb 0 4)) a b c lit)
  | 0x342 => some (.ratom h (AtomOp.ofNat (fld f.moda 0 4)) (bitOf f.moda 4) (bitOf f.moda 5) (bitOf f.moda 6)
      (n4 (fld f.modb 0 4)) d a b c lit)
  | 0x343 => some (.rcopy h (Spc.ofNat (fld f.moda 2 2)) (bitOf f.moda 4) (n4 (fld f.modb 0 4)) (n4 f.d) a b c lit)
  | 0x344 => some (.srel h (n4 (fld f.moda 0 4)) d a)
  | 0x345 => some (.rjoin h (n4 f.d))
  | 0x346 => some (.lnkq h (bitOf f.moda 0) d a)
  | _ => none

/-- Fields with the operands given and every other field 0 (R67). -/
def mk (opc : Nat) (h : Hdr) (d a b c : Nat) (moda : Nat := 0) (modb : Nat := 0) (lit : Nat := 0) : Fields :=
  { opc, hdr := h, d, a, b, c, moda, modb, lit }

/-- Fields whose word 1 and word 2 are given whole (R157). -/
def mkW (opc : Nat) (h : Hdr) (w1 w2 : Nat) : Fields :=
  { opc, hdr := h, d := fld w1 0 12, a := fld w1 12 12, moda := fld w1 24 8,
    b := fld w2 0 12, c := fld w2 12 12, modb := fld w2 24 8, lit := 0 }

/-- The fields of an instruction, from the field tables of its chapter; `none` for a step without an encoding. -/
def Instr.fields : Instr → Option Fields
  | .nop h => mk 0x000 h 0 0 0 0
  | .bra h off => mkW 0x001 h off.toNat 0
  | .brx h a => mk 0x002 h 0 a.bits 0 0
  | .call h off => mkW 0x003 h off.toNat 0
  | .callx h a => mk 0x004 h 0 a.bits 0 0
  | .ret h => mk 0x005 h 0 0 0 0
  | .exit h => mk 0x006 h 0 0 0 0
  | .jset h j add => mk 0x007 h j.toNat 0 0 0 (b2n add)
  | .join h j => mk 0x008 h j.toNat 0 0 0
  | .jpush h j => mk 0x009 h 0 j.toNat 0 0
  | .jpop h j => mk 0x00A h j.toNat 0 0 0
  | .brk h off j n1 => mkW 0x00B h off.toNat (j.toNat + 16 * n1.toNat)
  | .yield h a => mk 0x00C h 0 a.bits 0 0
  | .monw h a => mk 0x00D h 0 a.bits 0 0
  | .mwait h d a => mk 0x00E h d.bits a.bits 0 0
  | .gsync h => mk 0x00F h 0 0 0 0
  | .spmat h => mk 0x010 h 0 0 0 0
  | .gfold h => mk 0x011 h 0 0 0 0
  | .spform h d src =>
      match src with
      | .reg a => mk 0x012 h d.bits a.bits 0 0
      | .pred p => mk 0x012 h d.bits p.toNat 0 0 1
  | .rgnld h base mask offs => mkW 0x013 h (base.toNat + 2 ^ 10 * mask.toNat) offs.toNat
  | .rshrink h a s => mk 0x014 h 0 a.bits 0 0 s.toNat
  | .rgrow h a s => mk 0x015 h 0 a.bits 0 0 s.toNat
  | .plop h pd pa pb lut => mk 0x016 h pd.toNat pa.toNat 0 0 (pb.toNat + 8 * lut.toNat)
  | .pmov h pd pa neg => mk 0x017 h pd.toNat pa.toNat 0 0 (b2n neg)
  | .trap h tag => mk 0x018 h 0 0 0 0 tag.toNat
  | .bpt h tag => mk 0x019 h 0 0 0 0 tag.toNat
  | .srd h d a => mk 0x01A h d.bits a.bits 0 0
  | .swr h d a => mk 0x01B h d.bits a.bits 0 0
  | .cyc h d hi => mk 0x01C h d.bits 0 0 0 (b2n hi)
  | .bar h b => mk 0x040 h 0 b.toNat 0 0
  | .bara h d b => mk 0x041 h d.bits b.toNat 0 0
  | .barw h b a => mk 0x042 h 0 a.bits 0 0 b.toNat
  | .barinit h b a => mk 0x043 h b.toNat a.bits 0 0
  | .cbar h => mk 0x044 h 0 0 0 0
  | .gbar h => mk 0x045 h 0 0 0 0
  | .launch h d a nb => mk 0x046 h d.bits a.bits 0 0 (b2n nb)
  | .enq h d a b nb => mk 0x047 h d.bits a.bits b.bits 0 (b2n nb)
  | .qstat h d a child => mk 0x048 h d.bits a.bits 0 0 (b2n child)
  | .splnch h d a b c slot ps nb lit =>
      mk 0x049 h d.bits a.bits b.bits c.bits (slot.toNat + 16 * b2n ps + 32 * b2n nb) 0 lit.toNat
  | .resolve h d a b slot => mk 0x04A h d.bits a.bits b.bits 0 slot.toNat
  | .vqry h d a drops => mk 0x04B h d.bits a.bits 0 0 (b2n drops)
  | .vabort h d a => mk 0x04C h d.bits a.bits 0 0
  | .iadd h m d a b => mk 0x080 h d.bits a.bits b.bits 0 m.bits
  | .isub h m d a b => mk 0x081 h d.bits a.bits b.bits 0 m.bits
  | .imul h m d a b => mk 0x082 h d.bits a.bits b.bits 0 m.bits
  | .imulh h m d a b => mk 0x083 h d.bits a.bits b.bits 0 m.bits
  | .imad h m d a b c => mk 0x084 h d.bits a.bits b.bits c.bits m.bits
  | .imadw h m d a b c => mk 0x085 h d.bits a.bits b.bits c.bits m.bits
  | .addc h m cy d a b => mk 0x086 h d.bits a.bits b.bits 0 m.bits cy.bits
  | .subb h m cy d a b => mk 0x087 h d.bits a.bits b.bits 0 m.bits cy.bits
  | .madc h m hi cy d a b c => mk 0x088 h d.bits a.bits b.bits c.bits (m.bits + 16 * b2n hi) cy.bits
  | .imin h m d a b => mk 0x089 h d.bits a.bits b.bits 0 m.bits
  | .imax h m d a b => mk 0x08A h d.bits a.bits b.bits 0 m.bits
  | .iabs h m d a => mk 0x08B h d.bits a.bits 0 0 m.bits
  | .shl h m wrap d a b => mk 0x08C h d.bits a.bits b.bits 0 (m.bits + 16 * b2n wrap)
  | .shr h m wrap d a b => mk 0x08D h d.bits a.bits b.bits 0 (m.bits + 16 * b2n wrap)
  | .shra h m wrap d a b => mk 0x08E h d.bits a.bits b.bits 0 (m.bits + 16 * b2n wrap)
  | .shf h m r wrap d a b c => mk 0x08F h d.bits a.bits b.bits c.bits (m.bits + 16 * b2n r + 32 * b2n wrap)
  | .bitfn h m fn d a b c => mk 0x090 h d.bits a.bits b.bits c.bits m.bits fn.toNat
  | .popc h m d a => mk 0x091 h d.bits a.bits 0 0 m.bits
  | .clz h m d a => mk 0x092 h d.bits a.bits 0 0 m.bits
  | .brev h m d a => mk 0x093 h d.bits a.bits 0 0 m.bits
  | .bfe h m d a b => mk 0x094 h d.bits a.bits b.bits 0 m.bits
  | .bfi h m d a b c => mk 0x095 h d.bits a.bits b.bits c.bits m.bits
  | .bysel h m d a b c => mk 0x096 h d.bits a.bits b.bits c.bits m.bits
  | .isetp h m cmp bop pd a b pc =>
      mk 0x097 h pd.toNat a.bits b.bits pc.toNat (m.bits + 16 * cmp.ctorIdx) bop.ctorIdx
  | .sel h m d a b pc => mk 0x098 h d.bits a.bits b.bits pc.toNat m.bits
  | .mov h m d a => mk 0x099 h d.bits a.bits 0 0 m.bits
  | .movi h m d lit => mk 0x09A h d.bits 0 0 0 m.bits 0 lit.toNat
  | .lea h m sh d a b => mk 0x09B h d.bits a.bits b.bits 0 m.bits sh.toNat
  | .rqnt h dst rm pos shift pack d a b c =>
      mk 0x09C h d.bits a.bits b.bits c.bits (dst.ctorIdx + 4 * rm.ctorIdx + 16 * pos.toNat) (shift.toNat + 64 * b2n pack)
  | .idp4 h m bs d a b c => mk 0x09D h d.bits a.bits b.bits c.bits (m.bits + 16 * b2n bs)
  | .idp8 h m bs d a b c => mk 0x09E h d.bits a.bits b.bits c.bits (m.bits + 16 * b2n bs)
  | .fadd h m d a b => mk 0x100 h d.bits a.bits b.bits 0 m.bits
  | .fmul h m d a b => mk 0x101 h d.bits a.bits b.bits 0 m.bits
  | .ffma h m d a b c => mk 0x102 h d.bits a.bits b.bits c.bits m.bits
  | .fmin h m d a b => mk 0x103 h d.bits a.bits b.bits 0 m.bits
  | .fmax h m d a b => mk 0x104 h d.bits a.bits b.bits 0 m.bits
  | .fsetp h m pd a b pc => mk 0x105 h pd.toNat a.bits b.bits pc.toNat m.bits m.bop.ctorIdx
  | .frnd h rnd f64 d a => mk 0x106 h d.bits a.bits 0 0 (rnd.ctorIdx + 8 * b2n f64)
  | .fclass h f64 d a => mk 0x107 h d.bits a.bits 0 0 (8 * b2n f64)
  | .dadd h m d a b => mk 0x108 h d.bits a.bits b.bits 0 m.bits
  | .dmul h m d a b => mk 0x109 h d.bits a.bits b.bits 0 m.bits
  | .dfma h m d a b c => mk 0x10A h d.bits a.bits b.bits c.bits m.bits
  | .dsetp h m pd a b pc => mk 0x10B h pd.toNat a.bits b.bits pc.toNat m.bits m.bop.ctorIdx
  | .hfma2 h m d a b c => mk 0x10C h d.bits a.bits b.bits c.bits m.bits
  | .bfma2 h m d a b c => mk 0x10D h d.bits a.bits b.bits c.bits m.bits
  | .frcp h rnd f64 d a => mk 0x10E h d.bits a.bits 0 0 (rnd.ctorIdx + 8 * b2n f64)
  | .frsq h d a => mk 0x10F h d.bits a.bits 0 0
  | .fsqrt h rnd f64 d a => mk 0x110 h d.bits a.bits 0 0 (rnd.ctorIdx + 8 * b2n f64)
  | .fex2 h d a => mk 0x111 h d.bits a.bits 0 0
  | .flg2 h d a => mk 0x112 h d.bits a.bits 0 0
  | .fsin h d a => mk 0x113 h d.bits a.bits 0 0
  | .fcos h d a => mk 0x114 h d.bits a.bits 0 0
  | .fcvt h rnd cv d a => mk 0x115 h d.bits a.bits 0 0 (rnd.ctorIdx + 8 * cv.ctorIdx)
  | .cvtn h rnd fr std w4 pos d a k =>
      mk 0x116 h d.bits a.bits k.toNat 0 (rnd.ctorIdx + 8 * b2n fr + 16 * std.ctorIdx + 64 * b2n w4) pos.toNat
  | .qnt h rnd w4 d a k => mk 0x117 h d.bits a.bits k.toNat 0 (rnd.ctorIdx + 64 * b2n w4)
  | .scacc h rnd nega d a b c => mk 0x118 h d.bits a.bits b.bits c.bits (rnd.ctorIdx + 8 * b2n nega)
  | .fmtset h k a => mk 0x119 h k.toNat a.bits 0 0
  | .lnget h m wrap d a b c => mk 0x180 h d.bits a.bits b.bits c.bits (m.bits + 16 * b2n wrap)
  | .lnxor h m wrap d a b c => mk 0x181 h d.bits a.bits b.bits c.bits (m.bits + 16 * b2n wrap)
  | .lnsub h m wrap d a b c => mk 0x182 h d.bits a.bits b.bits c.bits (m.bits + 16 * b2n wrap)
  | .lnadd h m wrap d a b c => mk 0x183 h d.bits a.bits b.bits c.bits (m.bits + 16 * b2n wrap)
  | .redx h m op d a => mk 0x184 h d.bits a.bits 0 0 m.bits op.ctorIdx
  | .scan h m excl op d a c => mk 0x185 h d.bits a.bits 0 c.bits (m.bits + 16 * b2n excl) op.ctorIdx
  | .pcons h sw dst pa =>
      match dst with
      | .every pd => mk 0x186 h pd.toNat pa.toNat 0 0 sw.ctorIdx
      | .some pd => mk 0x186 h pd.toNat pa.toNat 0 0 (sw.ctorIdx + 16)
      | .same pd => mk 0x186 h pd.toNat pa.toNat 0 0 (sw.ctorIdx + 32)
      | .mask d => mk 0x186 h d.bits pa.toNat 0 0 (sw.ctorIdx + 48)
  | .matchv h m d a => mk 0x187 h d.bits a.bits 0 0 m.bits
  | .bcast h m first d a b c => mk 0x188 h d.bits a.bits b.bits c.bits (m.bits + 16 * b2n first)
  | .ldg h sz pol d a b => mk 0x1C0 h d.bits a.bits b.bits 0 (sz.ctorIdx + 8 * pol.ctorIdx)
  | .stg h sz pol a b c => mk 0x1C1 h 0 a.bits b.bits c.bits (sz.ctorIdx + 8 * pol.ctorIdx)
  | .ldsh h sz d a b => mk 0x1C2 h d.bits a.bits b.bits 0 sz.ctorIdx
  | .stsh h sz a b c => mk 0x1C3 h 0 a.bits b.bits c.bits sz.ctorIdx
  | .ldts h sz d a b => mk 0x1C4 h d.bits a.bits b.bits 0 sz.ctorIdx
  | .stts h sz a b c => mk 0x1C5 h 0 a.bits b.bits c.bits sz.ctorIdx
  | .ldl h sz d a b => mk 0x1C6 h d.bits a.bits b.bits 0 sz.ctorIdx
  | .stl h sz a b c => mk 0x1C7 h 0 a.bits b.bits c.bits sz.ctorIdx
  | .atomg h m d a b c off => mk 0x1C8 h d.bits a.bits b.bits c.bits m.bitsA m.bitsB off.toNat
  | .atomsh h m d a b c off => mk 0x1C9 h d.bits a.bits b.bits c.bits m.bitsA m.bitsB off.toNat
  | .pref h l2 a => mk 0x1CA h 0 a.bits 0 0 (b2n l2)
  | .cctl h op a => mk 0x1CB h 0 a.bits 0 0 op.ctorIdx
  | .fence h scope kind => mk 0x1CC h 0 0 0 0 (scope.ctorIdx + 8 * (kind.ctorIdx + 1))
  | .seal h d a b => mk 0x1CD h d.bits a.bits b.bits 0
  | .unseal h d a =>
      match d with
      | .status d => mk 0x1CE h d.bits a.bits 0 0
      | .handle hd => mk 0x1CE h hd.toNat a.bits 0 0 1
  | .sealq h d a => mk 0x1CF h d.bits a.bits 0 0
  | .ldsc h sz scope ord sh d a b =>
      mk 0x1D0 h d.bits a.bits b.bits 0 sz.ctorIdx (scope.ctorIdx + 8 * ord.ctorIdx + 32 * b2n sh)
  | .stsc h sz scope ord sh a b c =>
      mk 0x1D1 h 0 a.bits b.bits c.bits sz.ctorIdx (scope.ctorIdx + 8 * ord.ctorIdx + 32 * b2n sh)
  | .pgq h d a => mk 0x1D2 h d.bits a.bits 0 0
  | .copy h m lens hd a b c lit => mk 0x240 h hd.toNat a.bits b.bits c.bits (m.bitsA + 16 * b2n lens) m.bitsB lit.toNat
  | .copy2d h m hd a b c lit => mk 0x241 h hd.toNat a.bits b.bits c.bits m.bitsA m.bitsB lit.toNat
  | .fwait h d hn => mk 0x242 h d.bits hn.toNat 0 0
  | .ftest h d hn => mk 0x243 h d.bits hn.toNat 0 0
  | .fcancel h hn => mk 0x244 h 0 hn.toNat 0 0
  | .fwp h d hn => mk 0x245 h d.bits hn.toNat 0 0
  | .fmovOut h d hn => mk 0x246 h d.bits hn.toNat 0 0
  | .fmovIn h hd a => mk 0x246 h hd.toNat a.bits 0 0 1
  | .tsalloc h d a nb => mk 0x280 h d.bits a.bits 0 0 (b2n nb)
  | .tsfree h a => mk 0x281 h 0 a.bits 0 0
  | .amset h am a w mem => mk 0x282 h am.toNat a.bits 0 0 (w.toNat + 8 * b2n mem)
  | .amget h d am w => mk 0x283 h d.bits am.toNat 0 0 w.toNat
  | .gang h a => mk 0x284 h 0 a.bits 0 0
  | .azero h an f64 => mk 0x285 h an.toNat 0 0 0 (b2n f64)
  | .ald h hd f64 an am b c =>
      mk 0x286 h (hdBits hd) am.toNat b.bits c.bits (b2n hd.isSome + 2 * b2n f64) an.toNat
  | .ast h hd f64 an am b c =>
      mk 0x287 h (hdBits hd) am.toNat b.bits c.bits (b2n hd.isSome + 2 * b2n f64) an.toNat
  | .ard h m d an => mk 0x288 h d.bits an.toNat 0 0 m.bits
  | .awr h m an a => mk 0x289 h an.toNat a.bits 0 0 m.bits
  | .tld h hd tots dst am rows1 b c =>
      mk 0x28A h (hdBits hd) am.toNat b.bits c.bits (b2n hd.isSome + 2 * b2n tots) dst.toNat rows1.toNat
  | .mma h m ad ta tb => mk 0x28B h ad.toNat ta.toNat tb.toNat 0 m.bitsA 0 m.bitsL
  | .arel h f64 t n => mk 0x28C h n.toNat 0 0 0 (b2n f64 + 2 * b2n t)
  | .asca h ad ap ts row => mk 0x28D h ad.toNat ap.toNat ts.toNat 0 row.toNat
  | .kvtr h vh d a b => mk 0x300 h d.bits a.bits b.bits 0 (b2n vh)
  | .atts h m causal aset tq src c tp window =>
      mk 0x301 h aset.toNat tq.toNat src.bits c.bits (m.bitsA + 4 * b2n src.isKv + 8 * b2n causal)
        (tp.toNat + 16 * hdBits m.hd) (window.toNat + 2 ^ 20 * m.nk.toNat)
  | .attv h m aset tp src c =>
      mk 0x302 h aset.toNat tp.toNat src.bits c.bits (m.bitsA + 4 * b2n src.isKv) (16 * hdBits m.hd) (2 ^ 20 * m.nk.toNat)
  | .attmrg h nh ad asrc b => mk 0x303 h ad.toNat asrc.toNat b.bits 0 nh.toNat
  | .attfin h nh aset => mk 0x304 h aset.toNat 0 0 0 nh.toNat
  | .arset h nh aset => mk 0x305 h aset.toNat 0 0 0 nh.toNat
  | .rld h sz ns st d a b off => mk 0x340 h d.bits a.bits b.bits 0 (sz.ctorIdx + 8 * b2n ns) st.toNat off.toNat
  | .rst h sz st a b c off => mk 0x341 h 0 a.bits b.bits c.bits sz.ctorIdx st.toNat off.toNat
  | .ratom h op sgn x64 ns st d a b c off =>
      mk 0x342 h d.bits a.bits b.bits c.bits (op.ctorIdx + 16 * b2n sgn + 32 * b2n x64 + 64 * b2n ns) st.toNat off.toNat
  | .rcopy h ssp lens st hd a b c lit =>
      mk 0x343 h hd.toNat a.bits b.bits c.bits (4 * ssp.ctorIdx + 16 * b2n lens) st.toNat lit.toNat
  | .srel h st value a => mk 0x344 h value.bits a.bits 0 0 st.toNat
  | .rjoin h j => mk 0x345 h j.toNat 0 0 0
  | .lnkq h str d a => mk 0x346 h d.bits a.bits 0 0 (b2n str)
  | _ => none

/-- The number of words of an instruction (R79); 0 for a step without an encoding. -/
def Instr.words (i : Instr) : Nat :=
  match i.fields with
  | some f => (opcWords f.opc).getD 0
  | none => 0

/-- The words that fields of an instruction of `len` words stand in (R56 to R58). -/
def Fields.words (f : Fields) (len : Nat) : List Nat :=
  if len == 2 then [f.w0 2, f.w1]
  else if len == 3 then [f.w0 3, f.w1, f.w2]
  else [f.w0 4, f.w1, f.w2, f.lit]

/-- The encoder: the words of an instruction, word 0 first; none for a step without an encoding. -/
def encode (i : Instr) : List Nat :=
  match i.fields with
  | some f => f.words ((opcWords f.opc).getD 0)
  | none => []

/-- Steps 4a and 4b of R81 on the four words from word 0 on (words past the instruction's length are not looked at). -/
def decodeWords (w0 w1 w2 w3 : Nat) : Except DecodeError Instr :=
  match opcWords (fld w0 2 10) with
  | none => .error .illegalOpc
  | some len =>
    match build (fieldsOf w0 w1 (if 3 ≤ len then w2 else 0) (if 4 ≤ len then w3 else 0)) with
    | none => .error .illegalOpc
    | some i =>
      if i.wf && encode i == [w0, w1, w2, w3].take len then .ok i else .error .illegalEnc

/-- Words a fetch takes from LEN (R57): 2, 3 or 4, and 1 for a pad word. -/
def lenWords (w0 : Nat) : Nat := if w0 % 4 == 3 then 1 else w0 % 4 + 2

/-- Steps 2 to 4b of R81 on the words at an address: `off` is the address modulo 32, the place in the fetch block. -/
def decodeAt (off w0 w1 w2 w3 : Nat) : Except DecodeError Instr :=
  if 32 < off + 4 * lenWords w0 then .error .fetchSplit
  else if w0 % 4 == 3 then (if w0 == 3 then .error .padWord else .error .badPad)
  else decodeWords w0 w1 w2 w3

/-- The 32-bit word that starts at byte `k` of a list of bytes, little-endian (R56); bytes past the end read 0. -/
def wordAt (bs : List Byte) (k : Nat) : Nat := leNat [bs.getD k 0, bs.getD (k + 1) 0, bs.getD (k + 2) 0, bs.getD (k + 3) 0]

/-- The decoder on the bytes of memory from an address on, at place `off` of its fetch block. -/
def decodeBytes (off : Nat) (bs : List Byte) : Except DecodeError Instr :=
  decodeAt off (wordAt bs 0) (wordAt bs 4) (wordAt bs 8) (wordAt bs 12)

/-- The instruction that the decoder reads from the bits `w` of an opcode-table row, laid out in memory at the head of
a fetch block; `none` where it refuses. -/
def decodeTableWord (_nbits w : Nat) : Option Instr :=
  match decodeBytes 0 (leBytes 16 w) with
  | .ok i => some i
  | .error _ => none

end Sys2Proof
end

