-- ==== Sys2Proof/Machine/Operands.lean ====
section
/-! DEFINITION. Which registers an instruction reads and writes, its issue class (R77, R79), and the reading of every
operand form (spec/03_encoding.md R63 to R66, R73). -/

namespace Sys2Proof.Machine

/-- The registers and special registers that an instruction reads and writes apart from its guard. -/
structure Uses where
  rd : List Reg := []
  wr : List Reg := []
  srd : List Nat := []
  swr : List Nat := []
  deriving DecidableEq, Repr

end Sys2Proof.Machine

namespace Sys2Proof
open Sys2Proof.Machine

/-- The `n` registers from the one an operand names (R66, R264); an S register holds all of a wide operand. -/
def Opnd.regs (o : Opnd) (n : Nat) : List Reg :=
  match o with
  | .v k => (List.range n).map fun i => .v (k.toNat + i)
  | .o k => (List.range n).map fun i => .o (k.toNat + i)
  | .z k => [.z k.toNat]
  | .s k => [.s k.toNat]
  | _ => []
/-- The number of an S register that an operand names. -/
def Opnd.sNum (o : Opnd) : Nat := match o with | .s k => k.toNat | _ => 0
def Opnd.specials (o : Opnd) : List Nat := match o with | .sr n => [n.toNat] | _ => []

/-- Uses of an instruction with a destination and sources, each with its number of registers. -/
def Machine.uses (d : List (Opnd × Nat)) (src : List (Opnd × Nat)) : Uses :=
  { rd := src.flatMap fun x => Opnd.regs x.1 x.2, wr := d.flatMap fun x => Opnd.regs x.1 x.2,
    srd := src.flatMap fun x => Opnd.specials x.1 }
/-- With more registers read, or written. -/
def Machine.Uses.reads (u : Uses) (r : List Reg) : Uses := { u with rd := u.rd ++ r }
def Machine.Uses.writes (u : Uses) (r : List Reg) : Uses := { u with wr := u.wr ++ r }
/-- R39: an instruction whose result FPCTL can change. -/
def Machine.Uses.fp (u : Uses) : Uses := { u with srd := 0x18 :: u.srd }

def Machine.preg (p : BitVec 3) : Reg := .p p.toNat
def Machine.jreg (j : BitVec 4) : Reg := .j j.toNat
def Machine.hregOf (h : BitVec 4) : Reg := .h h.toNat
def Machine.fmtregOf (k : BitVec 3) : Reg := .fmt k.toNat
def Machine.optH : Option (BitVec 4) → List Reg | some h => [hregOf h] | none => []

def IMod.n (m : IMod) : Nat := if m.w64 then 2 else 1
def XMod.n (m : XMod) : Nat := if m.x64 then 2 else 1
/-- R264: the registers of an access size. -/
def Sz.regs : Sz → Nat | .b64 => 2 | .b128 => 4 | _ => 1
/-- R264: the bytes of an access size. -/
def Sz.bytes : Sz → Nat | .u8 | .s8 => 1 | .u16 | .s16 => 2 | .b32 => 4 | .b64 => 8 | .b128 => 16
def Machine.b2w (wide : Bool) : Nat := if wide then 2 else 1
/-- R357: how many registers ARD or AWR moves. -/
def FragMod.count (m : FragMod) : Nat := (if m.qsel then 4 else 16) * b2w m.f64
def RedOp.isFp : RedOp → Bool | .fadd | .fmin | .fmax => true | _ => false
def KvSrc.opnds : KvSrc → List (Opnd × Nat) | .map _ => [] | .desc a => [(a, 1)]
def MmaTy.narrow : MmaTy → Bool | .n8 | .n4 => true | _ => false

/-- The registers an instruction names. The steps without an encoding name none. -/
def Instr.uses : Instr → Uses
  | .brx _ a | .callx _ a | .monw _ a => Machine.uses [] [(a, 2)]
  | .jset _ j add => { rd := if add then [jreg j] else [], wr := [jreg j] }
  | .join _ j | .rjoin _ j => { rd := [jreg j], wr := [jreg j] }
  | .jpush _ j => { rd := [jreg j] }
  | .jpop _ j => { wr := [jreg j] }
  | .brk _ _ j _ => { rd := [jreg j], wr := [jreg j] }
  | .yield _ a | .rshrink _ a _ | .rgrow _ a _ => Machine.uses [] [(a, 1)]
  | .mwait _ d a => Machine.uses [(d, 1)] [(a, 1)]
  | .spform _ d src => match src with
    | .reg a => Machine.uses [(d, 1)] [(a, 1)]
    | .pred p => (Machine.uses [(d, 1)] []).reads [preg p]
  | .rgnld _ base mask offs =>
    let ks := (List.range 8).filter fun k => mask.getLsbD k
    { rd := ks.map fun k => .v (base.toNat + offs.toNat / 16 ^ k % 16), wr := ks.map .o }
  | .plop _ pd pa pb _ => { rd := [preg pa, preg pb], wr := [preg pd] }
  | .pmov _ pd pa _ => { rd := [preg pa], wr := [preg pd] }
  | .srd _ d a => Machine.uses [(d, 1)] [(a, 1)]
  | .swr _ d a => { Machine.uses [] [(a, 1)] with swr := Opnd.specials d }
  | .cyc _ d _ => Machine.uses [(d, 1)] []
  | .bara _ d _ => Machine.uses [(d, 1)] []
  | .barw _ _ a | .barinit _ _ a => Machine.uses [] [(a, 1)]
  | .vqry _ d a drops => Machine.uses [(d, 1)] (if drops then [] else [(a, 1)])
  | .launch _ d a _ | .qstat _ d a _ | .vabort _ d a | .lnkq _ _ d a | .sealq _ d a | .tsalloc _ d a _ =>
    Machine.uses [(d, 1)] [(a, 1)]
  | .enq _ d a b _ | .seal _ d a b => Machine.uses [(d, 1)] [(a, 1), (b, 1)]
  | .splnch _ d a b c _ ps _ _ => Machine.uses [(d, 1)] ([(a, 1), (c, 1)] ++ if ps then [(b, 1)] else [])
  | .resolve _ d a b _ => Machine.uses [(d, 1)] ([(a, 1)] ++ if b.isS then [(b, 1)] else [])
  | .iadd _ m d a b | .isub _ m d a b | .imul _ m d a b | .imulh _ m d a b | .imin _ m d a b | .imax _ m d a b =>
    Machine.uses [(d, m.n)] [(a, m.n), (b, m.n)]
  | .imad _ m d a b c => Machine.uses [(d, m.n)] [(a, m.n), (b, m.n), (c, m.n)]
  | .imadw _ _ d a b c => Machine.uses [(d, 2)] [(a, 1), (b, 1), (c, 2)]
  | .addc _ _ cy d a b | .subb _ _ cy d a b =>
    ((Machine.uses [(d, 1)] [(a, 1), (b, 1)]).reads (if cy.nci then [] else [preg cy.pci])).writes [preg cy.pco]
  | .madc _ _ _ cy d a b c =>
    ((Machine.uses [(d, 1)] [(a, 1), (b, 1), (c, 1)]).reads (if cy.nci then [] else [preg cy.pci])).writes [preg cy.pco]
  | .iabs _ m d a | .brev _ m d a | .mov _ m d a => Machine.uses [(d, m.n)] [(a, m.n)]
  | .shl _ m _ d a b | .shr _ m _ d a b | .shra _ m _ d a b | .bfe _ m d a b => Machine.uses [(d, m.n)] [(a, m.n), (b, 1)]
  | .shf _ _ _ _ d a b c | .bysel _ _ d a b c | .idp4 _ _ _ d a b c | .idp8 _ _ _ d a b c =>
    Machine.uses [(d, 1)] [(a, 1), (b, 1), (c, 1)]
  | .bitfn _ m _ d a b c => Machine.uses [(d, m.n)] [(a, m.n), (b, m.n), (c, m.n)]
  | .popc _ m d a | .clz _ m d a => Machine.uses [(d, 1)] [(a, m.n)]
  | .bfi _ m d a b c => Machine.uses [(d, m.n)] [(a, m.n), (b, m.n), (c, 1)]
  | .isetp _ m _ bop pd a b pc =>
    ((Machine.uses [] [(a, m.n), (b, m.n)]).reads (if bop == .none then [] else [preg pc])).writes [preg pd]
  | .sel _ m d a b pc => (Machine.uses [(d, m.n)] [(a, m.n), (b, m.n)]).reads [preg pc]
  | .movi _ m d _ => Machine.uses [(d, m.n)] []
  | .lea _ m _ d a b => Machine.uses [(d, m.n)] [(a, 1), (b, m.n)]
  | .rqnt _ _ _ _ _ pack d a b c =>
    (Machine.uses [(d, 1)] [(a, 1), (b, 1), (c, 1)]).reads (if pack then d.regs 1 else [])
  | .fadd _ _ d a b | .fmul _ _ d a b | .fmin _ _ d a b | .fmax _ _ d a b => (Machine.uses [(d, 1)] [(a, 1), (b, 1)]).fp
  | .ffma _ _ d a b c | .hfma2 _ _ d a b c | .bfma2 _ _ d a b c | .scacc _ _ _ d a b c =>
    (Machine.uses [(d, 1)] [(a, 1), (b, 1), (c, 1)]).fp
  | .fsetp _ m pd a b pc =>
    (((Machine.uses [] [(a, 1), (b, 1)]).reads (if m.bop == .none then [] else [preg pc])).writes [preg pd]).fp
  | .dsetp _ m pd a b pc =>
    (((Machine.uses [] [(a, 2), (b, 2)]).reads (if m.bop == .none then [] else [preg pc])).writes [preg pd]).fp
  | .frnd _ _ f64 d a | .frcp _ _ f64 d a | .fsqrt _ _ f64 d a => (Machine.uses [(d, b2w f64)] [(a, b2w f64)]).fp
  | .fclass _ f64 d a => (Machine.uses [(d, 1)] [(a, b2w f64)]).fp
  | .dadd _ _ d a b | .dmul _ _ d a b => (Machine.uses [(d, 2)] [(a, 2), (b, 2)]).fp
  | .dfma _ _ d a b c => (Machine.uses [(d, 2)] [(a, 2), (b, 2), (c, 2)]).fp
  | .frsq _ d a | .fex2 _ d a | .flg2 _ d a | .fsin _ d a | .fcos _ d a => (Machine.uses [(d, 1)] [(a, 1)]).fp
  | .fcvt _ _ cv d a => (Machine.uses [(d, b2w cv.dstPair)] [(a, b2w cv.srcPair)]).fp
  | .cvtn _ _ from_ _ _ _ d a k =>
    ((Machine.uses [(d, 1)] [(a, 1)]).reads (fmtregOf k :: (if from_ then [] else d.regs 1))).fp
  | .qnt _ _ _ d a k => ((Machine.uses [(d, 1)] [(a, 1)]).reads [fmtregOf k]).fp
  | .fmtset _ k a => (Machine.uses [] [(a, 1)]).writes [fmtregOf k]
  | .lnget _ m _ d a b c | .lnxor _ m _ d a b c | .lnsub _ m _ d a b c | .lnadd _ m _ d a b c =>
    Machine.uses [(d, m.n)] [(a, m.n), (b, 1), (c, m.n)]
  | .redx _ m op d a => let u := Machine.uses [(d, m.n)] [(a, m.n)]
                        if op.isFp then u.fp else u
  | .scan _ m excl op d a c =>
    let u := Machine.uses [(d, m.n)] ([(a, m.n)] ++ if excl then [(c, m.n)] else [])
    if op.isFp then u.fp else u
  | .pcons _ _ dst pa => match dst with
    | .every pd | .some pd | .same pd => { rd := [preg pa], wr := [preg pd] }
    | .mask d => (Machine.uses [(d, 2)] []).reads [preg pa]
  | .matchv _ m d a => Machine.uses [(d, 2)] [(a, m.n)]
  | .bcast _ m first d a b c => Machine.uses [(d, m.n)] ([(a, m.n), (c, m.n)] ++ if first then [] else [(b, 1)])
  | .ldg _ sz _ d a b => Machine.uses [(d, sz.regs)] [(a, 2), (b, 1)]
  | .stg _ sz _ a b c => Machine.uses [] [(a, 2), (b, 1), (c, sz.regs)]
  | .ldsh _ sz d a b | .ldts _ sz d a b | .ldl _ sz d a b => Machine.uses [(d, sz.regs)] [(a, 1), (b, 1)]
  | .stsh _ sz a b c | .stts _ sz a b c | .stl _ sz a b c => Machine.uses [] [(a, 1), (b, 1), (c, sz.regs)]
  | .atomg _ m d a b c _ =>
    Machine.uses [(d, b2w m.x64)] ([(a, 2), (b, b2w m.x64)] ++ if m.op == .cas then [(c, b2w m.x64)] else [])
  | .atomsh _ m d a b c _ =>
    Machine.uses [(d, b2w m.x64)] ([(a, 1), (b, b2w m.x64)] ++ if m.op == .cas then [(c, b2w m.x64)] else [])
  | .pref _ _ a => Machine.uses [] [(a, 2)]
  | .cctl _ op a => if op == .ivall then {} else Machine.uses [] [(a, 2)]
  | .unseal _ d a => match d with
    | .status d => Machine.uses [(d, 1)] [(a, 1)]
    | .handle h => (Machine.uses [] [(a, 1)]).writes [hregOf h]
  | .ldsc _ sz _ _ sh d a b => Machine.uses [(d, sz.regs)] [(a, if sh then 1 else 2), (b, 1)]
  | .stsc _ sz _ _ sh a b c => Machine.uses [] [(a, if sh then 1 else 2), (b, 1), (c, sz.regs)]
  | .pgq _ d a => Machine.uses [(d, 1)] [(a, 2)]
  | .copy _ _ lens hd a b c _ => (Machine.uses [] ([(a, 1), (b, 1)] ++ if lens then [(c, 1)] else [])).writes [hregOf hd]
  | .copy2d _ _ hd a b c _ => (Machine.uses [] [(a, 1), (b, 1), (c, 1)]).writes [hregOf hd]
  | .fwait _ d hn | .ftest _ d hn | .fwp _ d hn => (Machine.uses [(d, 1)] []).reads [hregOf hn]
  | .fmovOut _ d hn => ((Machine.uses [(d, 1)] []).reads [hregOf hn]).writes [hregOf hn]
  | .fcancel _ hn => { rd := [hregOf hn] }
  | .fmovIn _ hd a => (Machine.uses [] [(a, 1)]).writes [hregOf hd]
  | .tsfree _ a | .amset _ _ a _ _ | .gang _ a => Machine.uses [] [(a, 1)]
  | .amget _ d _ _ => Machine.uses [(d, 1)] []
  | .ald _ hd _ _ _ b c | .ast _ hd _ _ _ b c | .tld _ hd _ _ _ _ b c =>
    (Machine.uses [] ([(b, 1)] ++ if c.isS then [(c, 1)] else [])).writes (optH hd)
  | .ard _ m d _ => Machine.uses [(d, m.count)] []
  | .awr _ m _ a => Machine.uses [] [(a, m.count)]
  | .mma _ m _ _ _ => { rd := if m.ty.narrow then [fmtregOf m.fmta, fmtregOf m.fmtb] else [] }
  | .kvtr _ _ d a b => Machine.uses [(d, 2)] [(a, 1), (b, 1)]
  | .atts _ m _ _ _ src c _ _ => (Machine.uses [] (src.opnds ++ [(c, 1)])).writes (optH m.hd)
  | .attv _ m _ _ src c => (Machine.uses [] (src.opnds ++ [(c, 1)])).writes (optH m.hd)
  | .attmrg _ _ _ _ b => Machine.uses [] [(b, 1)]
  | .rld _ sz _ _ d a b _ => Machine.uses [(d, sz.regs)] [(a, 2), (b, 1)]
  | .rst _ sz _ a b c _ => Machine.uses [] [(a, 2), (b, 1), (c, sz.regs)]
  | .ratom _ op _ x64 _ _ d a b c _ =>
    Machine.uses [(d, b2w x64)] ([(a, 2), (b, b2w x64)] ++ if op == .cas then [(c, b2w x64)] else [])
  | .rcopy _ _ lens _ hd a b c _ => (Machine.uses [] ([(a, 1), (b, 1)] ++ if lens then [(c, 1)] else [])).writes [hregOf hd]
  | .srel _ _ v a => Machine.uses [] [(v, 1), (a, 1)]
  | _ => {}

/-- The common word of an instruction; `none` for a step without an encoding. -/
def Instr.hdr? (i : Instr) : Option Hdr := i.fields.map (·.hdr)
/-- How many bytes the instruction takes. -/
def Instr.bytes (i : Instr) : Nat := 4 * i.words

/-- R203: element width, number of elements. -/
def Wid.w : Wid → Nat | .w32 => 32 | .w64 => 64 | .x2 => 16 | .x4 => 8
def Wid.count : Wid → Nat | .x2 => 2 | .x4 => 4 | _ => 1
/-- R270: the width of an atomic. -/
def AMod.w (m : AMod) : Nat := if m.x64 then 64 else 32
/-- R68: the never guard. -/
def Hdr.never (h : Hdr) : Bool := h.gp == 7 && h.gn

end Sys2Proof

namespace Sys2Proof.Machine

/-- The issue classes of R77. -/
inductive Cls where | a | m | x | c | s
  deriving DecidableEq, Repr

/-- R79: the class that the opcode map gives. -/
def clsOfOpc (n : Nat) : Cls :=
  if n == 0x012 || n == 0x013 || n == 0x016 || n == 0x017 || n == 0x01A || n == 0x01C then .a
  else if n == 0x00D then .m
  else if n < 0x080 then .c
  else if n == 0x119 then .c
  else if n < 0x1C0 then .a
  else if n < 0x242 || n == 0x244 then .m
  else if n < 0x280 then .c
  else if n < 0x340 then .x
  else if n < 0x345 then .m
  else .c

/-- S registers. -/
def Reg.isScalar : Reg → Bool | .s _ => true | _ => false

end Sys2Proof.Machine

namespace Sys2Proof
open Sys2Proof.Machine

/-- R77: a class-A instruction whose destination, if it has one, and whose sources among registers are S registers is class S;
one that reads or writes a P or an FMT register is not. -/
def Instr.cls (i : Instr) : Cls :=
  match i.fields with
  | none => .c
  | some f =>
    let u := i.uses
    let scalar := (u.rd ++ u.wr).all Reg.isScalar
    if clsOfOpc f.opc == .a && scalar && u.srd.all (fun n => !srLane n) then .s else clsOfOpc f.opc

end Sys2Proof

namespace Sys2Proof.Machine

/-! ### Reading operands -/

/-- R73: a read while a result for the register is under way gives the old value or the new one, whole. `k` is the word
of the register that lane `l` reads. -/
def Env.raced (e : Env) (r : Reg) (k l : Nat) (cur : Word) : Word :=
  e.flights.foldl (fun w f =>
    if inMask f.2.lanes l && f.2.due.all (fun d => e.c.now < d) then
      match f.2.regs.find? fun x => x.1 == r with
      | some x => if Config.raceRead e.st.free l f.1 then w else x.2.getD k 0
      | none => w
    else w) cur

/-- The word of a vector register in a lane. -/
def Env.vec (e : Env) (r : Reg) (l : Nat) : Word :=
  match r with
  | .v n => e.raced r l l ((e.g.rowV n).getD l 0)
  | .o n => e.raced r l l ((e.g.rowO n).getD l 0)
  | .z n => e.raced r l l ((e.g.rowZ n).getD l 0)
  | _ => 0
/-- The value of an S register as lane `l` reads it. -/
def Env.sval (e : Env) (n l : Nat) : Nat :=
  let x := (e.g.sreg n).toNat
  (e.raced (.s n) 0 l (BitVec.ofNat 32 x)).toNat + 2 ^ 32 * (e.raced (.s n) 1 l (BitVec.ofNat 32 (x / 2 ^ 32))).toNat
/-- A predicate of a lane: P7 reads true (R40). -/
def Env.pbit (e : Env) (n l : Nat) : Bool :=
  if n == 7 then true
  else e.raced (.p n) l l (BitVec.ofNat 32 (b2n (bitOf (e.g.pmask n) l))) != 0
/-- A format register. -/
def Env.fmt (e : Env) (n l : Nat) : Nat := (e.raced (.fmt n) 0 l (BitVec.ofNat 32 (e.g.fmtreg n))).toNat
/-- R68: the guard of a lane. -/
def Env.guard (e : Env) (h : Hdr) (l : Nat) : Bool := e.pbit h.gp.toNat l != h.gn

/-- An operand of 32 bits in a lane (R65). -/
def Env.w32 (e : Env) (l : Nat) (o : Opnd) : Nat :=
  match o with
  | .v n => (e.vec (.v n.toNat) l).toNat
  | .o n => (e.vec (.o n.toNat) l).toNat
  | .z n => (e.vec (.z n.toNat) l).toNat
  | .s n => e.sval n.toNat l % 2 ^ 32
  | .imm n => wrapZ 32 n.toInt
  | .sr n => e.st.special e l n.toNat % 2 ^ 32
/-- An operand of 64 bits in a lane: a pair, all of an S register, an immediate sign-extended (R65, R66). -/
def Env.w64 (e : Env) (l : Nat) (o : Opnd) : Nat :=
  match o with
  | .v n => (e.vec (.v n.toNat) l).toNat + 2 ^ 32 * (e.vec (.v (n.toNat + 1)) l).toNat
  | .o n => (e.vec (.o n.toNat) l).toNat + 2 ^ 32 * (e.vec (.o (n.toNat + 1)) l).toNat
  | .z n => (e.vec (.z n.toNat) l).toNat
  | .s n => e.sval n.toNat l
  | .imm n => wrapZ 64 n.toInt
  | .sr n => e.st.special e l n.toNat
/-- One or two registers wide. -/
def Env.word (e : Env) (wide : Bool) (l : Nat) (o : Opnd) : Nat := if wide then e.w64 l o else e.w32 l o
/-- Four registers, low word first (R264). -/
def Env.w128 (e : Env) (l : Nat) (o : Opnd) : Nat :=
  match o with
  | .v n => sumN ((List.range 4).map fun i => 2 ^ (32 * i) * (e.vec (.v (n.toNat + i)) l).toNat)
  | .o n => sumN ((List.range 4).map fun i => 2 ^ (32 * i) * (e.vec (.o (n.toNat + i)) l).toNat)
  | o => e.w64 l o
/-- The signed value of an immediate, or the low 32 bits of an S register, as an amount (R165, R169). -/
def Env.amount (e : Env) (l : Nat) (o : Opnd) : Nat := e.w32 l o

/-- Element `k` of an operand of an integer instruction; an immediate fills every element (R205). -/
def Env.elem (e : Env) (w : Wid) (l : Nat) (o : Opnd) (k : Nat) : Nat :=
  match o with
  | .imm n => wrapZ w.w n.toInt
  | o => fld (e.word (w == .w64) l o) (w.w * k) w.w
/-- An element read signed or unsigned (R205). -/
def intOf (sgn : Bool) (w x : Nat) : Int := if sgn then sext w x else (x : Int)

/-- A floating-point operand of a format as its code: an immediate is converted exactly (R65); element `k` of a packed
one. -/
def Env.fcode (e : Env) (f : Fmt) (l : Nat) (o : Opnd) (k : Nat) : Nat :=
  match o with
  | .imm n => (f.round .rn 0 (decide (n.toInt < 0)) n.toInt.natAbs 0).1
  | o => fld (e.word (f.w == 64) l o) (f.w * k) f.w

end Sys2Proof.Machine
end

