-- ==== Sys2Proof/Machine/Page.lean ====
section
/-! DEFINITION. Translation (spec/17_page.md R321 to R329): physical maps, the table walk, TLBs, accessed and dirty bits. -/

namespace Sys2Proof.Machine

/-- Where host physical addresses begin among places: an HBM place is stack * 2^36 + offset, below 2^39. -/
def hostBase : Nat := 2 ^ 60

/-- R326: the place of the byte at physical address `p` under an entry's ILV. -/
def physLoc (ilv p : Nat) : Nat :=
  if ilv == 2 then hostBase + p
  else if ilv == 0 then
    (4 * fld p 38 1 + Nat.xor (fld p 12 2) (fld p 20 2)) * 2 ^ 36 + fld p 14 24 * 2 ^ 12 + fld p 0 12
  else Nat.xor (fld p 12 3) (fld p 21 3) * 2 ^ 36 + fld p 15 24 * 2 ^ 12 + fld p 0 12

def isHost (loc : Nat) : Bool := decide (hostBase ≤ loc)
/-- The home die of an HBM place (R326). -/
def locDie (loc : Nat) : Nat := loc / 2 ^ 38 % 2
def locStack (loc : Nat) : Nat := loc / 2 ^ 36 % 8

/-- The byte at a place, base view. -/
def State.peek (s : State) (loc : Nat) : Byte :=
  if isHost loc then Mem.read s.hostMem (loc - hostBase) else Mem.read s.mem loc
/-- Write one byte at a place, base view. -/
def State.poke (s : State) (loc : Nat) (b : Byte) : State :=
  if isHost loc then { s with hostMem := Mem.write s.hostMem (loc - hostBase) b }
  else { s with mem := Mem.write s.mem loc b }
def State.pokeN (s : State) (loc : Nat) : List Byte → State
  | [] => s
  | b :: bs => (s.poke loc b).pokeN (loc + 1) bs

/-- The 8-byte table entry at a physical address, read under the die-local map (R321). -/
def State.entryAt (s : State) (p : Nat) : Nat :=
  leNat ((List.range 8).map fun k => s.peek (physLoc 0 (p + k)))
def State.setEntry (s : State) (p e : Nat) : State := s.pokeN (physLoc 0 p) (leBytes 8 e)

/-- R424: the host holds a half of the line of a place that the bytes from it on touch. -/
def State.heldHalf (s : State) (loc n : Nat) : Bool :=
  match Tab.get? s.port.lines (loc / 128) with
  | none => false
  | some b => (b.lower && decide (loc % 128 < 64)) || (b.upper && decide (64 < loc % 128 + n))
/-- R424, R425: ask the host for the held halves of a line that the bytes from a place on touch, besides those already
asked for. -/
def State.recallAt (s : State) (loc n : Nat) : State :=
  { s with port := { s.port with
      lines := Tab.upd s.port.lines (loc / 128) fun b =>
        { b with recalled := b2n (bitOf b.recalled 0 || (b.lower && decide (loc % 128 < 64)))
                             + 2 * b2n (bitOf b.recalled 1 || (b.upper && decide (64 < loc % 128 + n))) } } }

/-- R258, R323: the host completes a request for the 64-byte line of a place with an error response, or no port is up. -/
def State.hostError (s : State) (loc : Nat) : Bool :=
  isHost loc && (!s.port.up || s.port.unbacked.any fun x =>
    decide (x.1 < ((loc - hostBase) / 64 + 1) * 64) && decide ((loc - hostBase) / 64 * 64 < x.1 + x.2))

/-- R258, R323: the same for some line of `n` bytes. -/
def State.hostErrors (s : State) (loc n : Nat) : Bool :=
  isHost loc && (List.range n).any fun k => (k == 0 || (loc + k) % 64 == 0) && s.hostError (loc + k)

/-- R322: the fields of an entry. -/
def eST (e : Nat) : Nat := fld e 0 3
def eW (e : Nat) : Bool := bitOf e 3
def eX (e : Nat) : Bool := bitOf e 4
def ePS64 (e : Nat) : Bool := bitOf e 6
def eILV (e : Nat) : Nat := fld e 7 2
def eAC (e : Nat) : Bool := bitOf e 10
def eDT (e : Nat) : Bool := bitOf e 11
def ePFN (e : Nat) : Nat := fld e 12 40
def eOVL (e : Nat) : Nat := fld e 52 12

/-- How a walk ends (R323): a leaf, an ABSENT entry, an INVALID entry, or a walk error; `held` is a walk that has come to an
entry in a half that the host holds, which the home recalls first (R321, R424). -/
inductive WalkEnd where | leaf | absent | invalid | error | held
  deriving DecidableEq, Repr

structure Walk where
  kind : WalkEnd
  level : Nat
  entry : Nat
  at_ : Nat
  bits : Nat
  deriving DecidableEq, Repr

/-- R322, R323: an entry whose fields the walker rejects. -/
def entryBad (level e : Nat) : Bool :=
  decide (5 < eST e) || bitOf e 5 || bitOf e 9 || eILV e == 3 || (decide (1 < level) && ePS64 e)
  || (eST e != 4 && eOVL e != 0)

/-- R323, R325: the size of the page that a leaf of a level maps, as a number of address bits. -/
def leafBits (level e : Nat) : Nat := if level == 3 then 30 else if level == 2 then 21 else if ePS64 e then 16 else 12

/-- R323, R430: a leaf whose byte lies in a stack that the start left out. -/
def leafGone (perigee : Bool) (bits e va : Nat) : Bool :=
  perigee && eILV e != 2 && decide (4 ≤ locStack (physLoc (eILV e) (ePFN e * 2 ^ 12 + va % 2 ^ bits)))

/-- R323, R325, R326: the leaf at a level, or a walk error. -/
def leafOf (perigee : Bool) (level e at_ va : Nat) : Walk :=
  let bits := leafBits level e
  let p := ePFN e * 2 ^ 12
  let bad := level == 4 || p % 2 ^ bits != 0 || (bits == 12 && eILV e != 2)
    || (eILV e != 2 && decide (2 ^ 39 ≤ p)) || leafGone perigee bits e va
  { kind := if bad then .error else .leaf, level, entry := e, at_, bits }

/-- R323: what the walk does with the entry read at a level, or `none` to go to the next level. -/
def entryEnd (perigee : Bool) (level e at_ va : Nat) : Option Walk :=
  if entryBad level e then some { kind := .error, level, entry := e, at_, bits := 12 }
  else if eST e == 0 then some { kind := .invalid, level, entry := e, at_, bits := 12 }
  else if eST e == 2 then some { kind := .absent, level, entry := e, at_, bits := 12 }
  else if eST e == 5 then
    if level == 1 || decide (2 ^ 39 ≤ ePFN e * 2 ^ 12) then some { kind := .error, level, entry := e, at_, bits := 12 }
    else none
  else some (leafOf perigee level e at_ va)

/-- The index a level takes from the VA (R321). -/
def levelIndex (level va : Nat) : Nat := if level == 4 then fld va 39 10 else fld va (3 + 9 * level) 9

/-- R321 to R325: the walk from a table of level `n` at a physical address. With `look` it reads each entry as the home gives
it to a DEVICE load, so it stops where the host holds the entry's half. -/
def State.walkFrom (s : State) (look : Bool) (va : Nat) : Nat → Nat → Walk
  | 0, base => { kind := .error, level := 1, entry := 0, at_ := base, bits := 12 }
  | n + 1, base =>
    let i := levelIndex (n + 1) va
    let e0 := s.entryAt (base + 8 * i)
    let i' := if n == 0 && ePS64 e0 then i - i % 16 else i
    let e := s.entryAt (base + 8 * i')
    if look && (s.heldHalf (physLoc 0 (base + 8 * i)) 8 || s.heldHalf (physLoc 0 (base + 8 * i')) 8) then
      { kind := .held, level := n + 1, entry := 0, at_ := if s.heldHalf (physLoc 0 (base + 8 * i)) 8 then base + 8 * i else base + 8 * i', bits := 12 }
    else match entryEnd s.manage.perigee (n + 1) e (base + 8 * i') va with
      | some w => w
      | none => s.walkFrom look va n (ePFN e * 2 ^ 12)

/-- The walk of an address of a context. -/
def State.walkBy (s : State) (look : Bool) (ctx va : Nat) : Walk :=
  match Tab.get? s.contexts ctx with
  | some c =>
    if c.state == .destroyed then { kind := .invalid, level := 4, entry := 0, at_ := 0, bits := 12 }
    else s.walkFrom look va 4 c.desc.ptroot.toNat
  | none => { kind := .invalid, level := 4, entry := 0, at_ := 0, bits := 12 }
def State.walk (s : State) (ctx va : Nat) : Walk := s.walkBy true ctx va
/-- The walk by which the part writes a record that cannot wait: it takes the tables as the home holds them (log entry 57,
DESIGN CHOICE). -/
def State.walkNow (s : State) (ctx va : Nat) : Walk := s.walkBy false ctx va
/-- R424: a walk that meets a half the host holds asks for it. -/
def State.recallWalk (s : State) (ctx va : Nat) : State :=
  let w := s.walk ctx va
  if w.kind == .held then s.recallAt (physLoc 0 w.at_) 8 else s

/-- What an access does with a page (R324, R328). -/
inductive Acc where | load | store | fetch
  deriving DecidableEq, Repr

/-- A translated address: the place of the byte, and for an OVERLAY page its directory index, its name (the physical address
of the page, with ILV in the low bits that are zero) and the offset. -/
structure Tr where
  loc : Nat
  ov : Option (Nat × Nat × Nat)
  deriving DecidableEq, Repr

/-- What a translation gives (R323, R328). -/
inductive Xlat where
  | ok (t : Tr)
  | absent (level entry at_ : Nat)
  | migrating (level entry at_ : Nat)
  | prot
  | wait
  deriving DecidableEq, Repr

/-- The place of a byte of an overlay page in its base frame. -/
def basePlace (page off : Nat) : Nat := physLoc (page % 4) (page / 4 * 4 + off)

/-- The place a leaf gives to an address. -/
def trOf (bits e va : Nat) : Tr :=
  let p := ePFN e * 2 ^ 12 + va % 2 ^ bits
  { loc := physLoc (eILV e) p,
    ov := if eST e == 4 && bits == 16 then some (eOVL e, ePFN e * 2 ^ 12 + eILV e, va % 2 ^ bits) else none }

/-- R324, R328, R430: permission and state at the leaf, which was read at `at_` of a level. -/
def leafGives (perigee : Bool) (level at_ e va : Nat) (acc : Acc) : Xlat :=
  let bits := leafBits level e
  if leafGone perigee bits e va then .prot
  else match acc with
  | .load => .ok (trOf bits e va)
  | .fetch => if eX e then .ok (trOf bits e va) else .prot
  | .store => if !eW e then .prot else if eST e == 3 then .migrating level e at_ else .ok (trOf bits e va)

/-- Whether a TLB entry serves an address: a 64 KiB leaf serves the indices whose own entries named it, since a level-1
entry with PS64 = 0 is used on its own (R325). -/
def TlbEntry.covers (t : TlbEntry) (ctx va : Nat) : Bool :=
  t.ctx == ctx && va / 2 ^ t.size == t.page && (t.size != 16 || bitOf t.serves (va / 2 ^ 12 % 16))
/-- The TLB entry that covers an address. -/
def tlbFind (l : List TlbEntry) (ctx va : Nat) : Option TlbEntry := l.find? fun t => t.covers ctx va

/-- R329: at most `n` entries, the newest first: a full TLB drops the entry that was filled first (log entry 58, DESIGN
CHOICE: the spec does not say which). A leaf that is there with the same value keeps the indices it serves. -/
def tlbPush (n : Nat) (l : List TlbEntry) (t : TlbEntry) : List TlbEntry :=
  let same := fun (x : TlbEntry) => x.ctx == t.ctx && x.page == t.page && x.size == t.size
  let more := match l.find? same with
    | some x => if x.entry == t.entry && x.at_ == t.at_ then x.serves else 0
    | none => 0
  ({ t with serves := Nat.lor t.serves more } :: l.filter fun x => !same x).take n

/-- R327: AC, and for a write DT, set in an entry. -/
def setAcDt (e : Nat) (acc : Acc) : Nat :=
  let e := if eAC e then e else e + 2 ^ 10
  if acc == .store && !eDT e then e + 2 ^ 11 else e

/-- R327: a translation sets AC in the leaf it uses, and one for a write DT. -/
def State.touchWalk (s : State) (w : Walk) (acc : Acc) : State :=
  if setAcDt w.entry acc == w.entry then s else s.setEntry w.at_ (setAcDt w.entry acc)
/-- The same for an address that the part itself translates. -/
def State.touchLeaf (s : State) (ctx va : Nat) (acc : Acc) : State :=
  let w := s.walk ctx va
  if w.kind == .leaf then s.touchWalk w acc else s

/-- Change the L2 TLB of a die (R16). -/
def State.updDieTlb (s : State) (die : Nat) (f : List TlbEntry → List TlbEntry) : State :=
  { s with dieTlb := mapFrom (fun d l => if d == die then f l else l) 0 s.dieTlb }

/-- Translate by a walk, setting AC and DT and filling the TLBs of the core and of its die (R16, R323 to R329). -/
def State.walkFill (s : State) (core ctx va : Nat) (acc : Acc) : Xlat × State :=
  let w := s.walk ctx va
  match w.kind with
  | .absent => (.absent w.level w.entry w.at_, s)
  | .invalid | .error => (.prot, s)
  | .held => (.wait, s.recallAt (physLoc 0 w.at_) 8)
  | .leaf =>
    let t : TlbEntry := { ctx, page := va / 2 ^ w.bits, size := w.bits, entry := setAcDt w.entry acc, at_ := w.at_, level := w.level,
                          serves := 2 ^ (va / 2 ^ 12 % 16) }
    let s := (s.touchWalk w acc).updCore core fun c => { c with tlb := tlbPush 512 c.tlb t }
    (leafGives s.manage.perigee w.level w.at_ t.entry va acc, s.updDieTlb (unitDie core) fun l => tlbPush 65536 l t)

/-- Translate an access of a core through the TLBs (R329). A write that finds DT clear walks again, so that the entry it
sets is the one the table holds (R327). -/
def State.translate (s : State) (core ctx va : Nat) (acc : Acc) : Xlat × State :=
  match tlbFind ((s.core core).tlb ++ s.dieTlb.getD (unitDie core) []) ctx va with
  | some t =>
    if acc == .store && !eDT t.entry then s.walkFill core ctx va acc
    else (leafGives s.manage.perigee t.level t.at_ t.entry va acc, s)
  | none => s.walkFill core ctx va acc

end Sys2Proof.Machine
end

