-- ==== Sys2Proof/Machine/View.lean ====
section
/-! DEFINITION. What an access reads and writes at its place: versions (spec/20_version.md R377, R382 to R385,
spec/15_ordering.md R298), poison (spec/14_memory.md R267), L1 copies (R261, R276), the host's halves
(spec/22_host.md R424), watches (spec/08_group.md R166). -/

namespace Sys2Proof.Machine

/-- R377: a COMMITTING or COMMITTED version is its merge target. -/
def State.effFuel (s : State) : Nat → Nat → Nat
  | 0, v => v
  | n + 1, v =>
    match Tab.get? s.versions v with
    | some x => if x.state == 1 || x.state == 2 then s.effFuel n x.target else v
    | none => v
def State.eff (s : State) (v : Nat) : Nat := s.effFuel 16 v

/-- R298: a version and its ancestors, nearest first, the root left out. -/
def State.chainFuel (s : State) : Nat → Nat → List Nat
  | 0, _ => []
  | n + 1, v =>
    if v == 0 then []
    else match Tab.get? s.versions v with
      | some x => v :: s.chainFuel n (s.eff x.parent)
      | none => match Tab.get? s.foreign v with
        | some x => v :: x.ancestors
        | none => [v]
def State.chain (s : State) (v : Nat) : List Nat := s.chainFuel 16 (s.eff v)

/-- R385: version `w`'s frame of an overlay page; one whose bytes a commit has taken is its own no more (R388). -/
def State.frameOf (s : State) (w page : Nat) : Option Frame :=
  s.frames.find? fun (f : Frame) => f.ver == w && f.page == page && !f.merged
/-- R385: the place in version `w`'s own frame of a byte that it wrote. -/
def State.ownPlace (s : State) (w : Nat) (t : Tr) : Option Nat :=
  t.ov.bind fun o => (s.frameOf w o.2.1).bind fun f => if f.written.contains o.2.2 then some (physLoc 0 (f.frame + o.2.2)) else none
/-- R267: a sector is 32 bytes. -/
def sectorOf (loc : Nat) : Nat := loc / 32
def State.poisoned (s : State) (loc : Nat) : Bool := s.poison.contains (sectorOf loc)
/-- R383, R385: the byte that version `w` itself wrote at a place, if it wrote one. -/
def State.ownByte (s : State) (w : Nat) (t : Tr) : Option Byte :=
  match s.ownPlace w t with
  | some p => some (s.peek p)
  | none => match s.vlines.find? fun (x : VLine) => x.ver == w && x.line == t.loc / 128 with
    | some x => Tab.get? x.bytes (t.loc % 128)
    | none => none
/-- R267, R427: the same with the poison of its own place: a frame's sector holds some where the host has lost it. -/
def State.ownView (s : State) (w : Nat) (t : Tr) : Option (Byte × Bool) :=
  (s.ownByte w t).map fun b => (b, match s.ownPlace w t with | some p => s.poisoned p | none => false)

/-- The place `k` bytes further on. -/
def Tr.add (t : Tr) (k : Nat) : Tr :=
  { loc := t.loc + k, ov := t.ov.map fun o => (o.1, o.2.1, o.2.2 + k) }

/-- R383: the byte that a version or its nearest ancestor wrote at a place, if one did, and whether it is poisoned. -/
def State.chainView (s : State) (v : Nat) (t : Tr) : Option (Byte × Bool) := (s.chain v).findSome? fun w => s.ownView w t
/-- R298, R383: a byte in a version's view, and whether it is poisoned there. -/
def State.viewByte (s : State) (v : Nat) (t : Tr) : Byte × Bool :=
  match s.chainView v t with
  | some b => b
  | none => (s.peek t.loc, s.poisoned t.loc)

def State.viewBytes (s : State) (v : Nat) (t : Tr) : Nat → List Byte × Bool
  | 0 => ([], false)
  | n + 1 =>
    let (b, p) := s.viewByte v t
    let (bs, q) := s.viewBytes v (t.add 1) n
    (b :: bs, p || q)

/-- R385, R424: where the byte of a place lies that a version reads or writes: in a frame, or at its home. -/
def State.readPlace (s : State) (v : Nat) (t : Tr) : Nat :=
  (((s.chain v).find? fun w => (s.ownByte w t).isSome).bind fun w => s.ownPlace w t).getD t.loc
def State.writePlace (s : State) (v : Nat) (t : Tr) : Nat :=
  if s.eff v == 0 then t.loc
  else (t.ov.bind fun o => (s.frameOf (s.eff v) o.2.1).map fun f => physLoc 0 (f.frame + o.2.2)).getD t.loc
/-- R424: the first byte of an access of `n` bytes that lies in a half which the host holds. -/
def State.viewHeld (s : State) (v : Nat) (t : Tr) (n : Nat) (write : Bool) : Option Nat :=
  if s.port.lines.isEmpty then none
  else ((List.range n).map fun k => if write then s.writePlace v (t.add k) else s.readPlace v (t.add k)).find? fun p => s.heldHalf p 1

/-- R383: the L2 set of a line (log entry 47, DESIGN CHOICE; unsafe). -/
def setOf (line : Nat) : Nat := line % 32768

/-- Lines a spill pool holds. -/
def Context.spillLines (c : Context) : Nat := c.spillSize / 128
/-- The context of a version, local or foreign. -/
def State.verCtx (s : State) (v : Nat) : Nat :=
  match Tab.get? s.versions v, Tab.get? s.foreign v with
  | some x, _ => x.ctx
  | none, some x => x.ctx
  | none, none => 0
/-- R384: how many lines more the spill pool of a context takes. -/
def State.poolRoom (s : State) (ctx : Nat) : Nat :=
  ((Tab.get? s.contexts ctx).map Context.spillLines).getD 0 - (s.vlines.filter fun x => x.spilled && s.verCtx x.ver == ctx).length
/-- R383: the versioned copies in the set of a line. -/
def State.inSet (s : State) (line : Nat) : List VLine :=
  s.vlines.filter fun x => !x.spilled && setOf x.line == setOf line && locDie (x.line * 128) == locDie (line * 128)
def State.waysOf (s : State) (line : Nat) : Nat := s.vways.getD (locDie (line * 128)) 0
/-- The least recently used of some copies. -/
def lruOf : List VLine → Option VLine
  | [] => none
  | x :: xs => some (xs.foldl (fun m y => if y.used < m.used then y else m) x)
def State.setSpilled (s : State) (x : VLine) (on : Bool) : State :=
  { s with vlines := s.vlines.map fun y => if y.ver == x.ver && y.line == x.line then { y with spilled := on } else y }

/-- R384: `n` times the least recently used copy in the set of a line moves to the pool of its context, which must have room. -/
def State.spillFrom (s : State) (line : Nat) : Nat → Option State
  | 0 => some s
  | n + 1 => match lruOf (s.inSet line) with
    | none => some s
    | some x => if s.poolRoom (s.verCtx x.ver) == 0 then none else (s.setSpilled x true).spillFrom line n

/-- R384: a spilled copy returns: to a way, or in the place of the least recently used copy of its set, which takes its place in
the pool: `none` where that copy's context has no room. It stays in the pool where the set has no versioned way. -/
def State.returnLine (s : State) (x : VLine) : Option State :=
  let back := s.setSpilled x false
  if (s.inSet x.line).length < s.waysOf x.line then some back
  else if s.waysOf x.line == 0 then some s
  else match lruOf (s.inSet x.line) with
    | none => some back
    | some y => if back.poolRoom (s.verCtx y.ver) == 0 then none else some (back.setSpilled y true)
/-- R383, R384: an access uses version `v`'s copy of a line: it is the last one used, and a spilled copy returns; `none` where that
needs room that the pool has not. -/
def State.useLine? (s : State) (v line : Nat) : Option State :=
  match s.vlines.find? fun x => x.ver == v && x.line == line with
  | none => some s
  | some x =>
    let now := s.uids
    let s : State := { s with uids := now + 1, vlines := s.vlines.map fun y => if y.ver == v && y.line == line then { y with used := now } else y }
    if x.spilled then s.returnLine { x with used := now } else some s
/-- R384: a read never waits for room: it takes the copy from the pool. -/
def State.useLine (s : State) (v line : Nat) : State := (s.useLine? v line).getD s
/-- R383, R384: a read of bytes by a version uses the copies that its bytes come from. -/
def State.useView (s : State) (v : Nat) (t : Tr) (n : Nat) : State :=
  if s.vlines.isEmpty then s
  else
    let from_ := (List.range n).filterMap fun k =>
      ((s.chain v).find? fun w => (s.ownByte w (t.add k)).isSome).map fun w => (w, (t.loc + k) / 128)
    from_.eraseDups.foldl (fun s x => s.useLine x.1 x.2) s

/-- R383, R384: room for version `v`'s copy of a line. A new copy takes a way: the set then holds VWAYS copies at most, the least
recently used moving to the pool; with no versioned way it goes to the pool itself. A write to a spilled copy needs what its return
needs. -/
def State.roomLine (s : State) (ctx v line : Nat) : Option State :=
  if s.vlines.any fun x => x.ver == v && x.line == line then s.useLine? v line
  else
    let new : VLine := { ver := v, line, bytes := [], spilled := s.waysOf line == 0, used := s.uids }
    match s.spillFrom line ((s.inSet line).length + 1 - max 1 (s.waysOf line)) with
    | none => none
    | some s =>
      if new.spilled && s.poolRoom ctx == 0 then none
      else some { s with uids := s.uids + 1, vlines := new :: s.vlines }

/-- The address of word `k` of a record of a context's overlay directory (R385). -/
def State.ovlVa (s : State) (ctx idx k : Nat) : Nat := ((Tab.get? s.contexts ctx).map (·.ovlDir)).getD 0 + 64 * idx + 8 * k
/-- The place of a word of a record of the overlay directory (R385): read and written by the part itself, without a fault. -/
def State.ovlSlot (s : State) (ctx idx k : Nat) : Option Nat :=
  let va := s.ovlVa ctx idx k
  let w := s.walkNow ctx va
  if w.kind == .leaf then some (trOf w.bits w.entry va).loc else none
/-- R385, R424: the first place that the host must give back before the part reads a record of the overlay directory. -/
def State.ovlHeld (s : State) (ctx idx : Nat) : Option Nat :=
  (List.range 8).findSome? fun k =>
    let w := s.walk ctx (s.ovlVa ctx idx k)
    if w.kind == .held then some (physLoc 0 w.at_)
    else match s.ovlSlot ctx idx k with
      | some loc => if s.heldHalf loc 8 then some loc else none
      | none => none

/-- R385, R327: the part writes a word of a record of the overlay directory, as a store of its own. -/
def State.slotWrite (s : State) (ctx idx k : Nat) (bs : List Byte) : State :=
  match s.ovlSlot ctx idx k with
  | some loc => (s.touchLeaf ctx (s.ovlVa ctx idx k) .store).pokeN loc bs
  | none => s
/-- R327, R385: the part reads a record of the overlay directory. -/
def State.dirRead (s : State) (ctx idx : Nat) : State := (List.range 8).foldl (fun s k => s.touchLeaf ctx (s.ovlVa ctx idx k) .load) s

/-- R385: room for version `v`'s frame of an overlay page: one there is, or a free slot and a free frame, whose sectors hold no poison of
what lay there before (R267; log entry 45, DESIGN CHOICE). -/
def State.roomFrame (s : State) (ctx v idx page : Nat) : Option State :=
  if (s.frameOf v page).isSome then some s
  else
    let die := locDie (basePlace page 0)
    match Tab.get? s.contexts ctx with
    | none => none
    | some c =>
      let slot := (List.range 7).find? fun k =>
        match s.ovlSlot ctx idx (k + 1) with
        | some loc => !bitOf (leNat ((List.range 8).map fun j => s.peek (loc + j))) 16
        | none => false
      match slot, (if die == 0 then c.frames0 else c.frames1) with
      | some k, fr :: rest =>
        let kvt := match s.ovlSlot ctx idx 0 with
          | some loc => bitOf (s.peek loc).toNat 0
          | none => false
        let s := s.updCtx ctx fun c => if die == 0 then { c with frames0 := rest } else { c with frames1 := rest }
        let s := s.slotWrite ctx idx (k + 1) (leBytes 8 (v + 2 ^ 16 + 2 ^ 24 * (fr / 2 ^ 12)))
        some { s with
          poison := s.poison.filter fun q => (List.range 16).all fun k => q / 128 != physLoc 0 (fr + 4096 * k) / 4096
          frames := { ver := v, ctx, page, dir := idx, slot := k, frame := fr, written := [], tag := v, kvt } :: s.frames }
      | _, _ => none

/-- R382 to R385: room for a version's write at a place; version 0 needs none. The record of an overlay page without a frame is read
first (`seeRoom`). -/
def State.seeRoom (s : State) (ctx v : Nat) (t : Tr) : State :=
  match t.ov with
  | some (idx, page, _) =>
    if s.eff v == 0 || (s.frameOf (s.eff v) page).isSome then s else s.dirRead ctx idx
  | none => s
def State.room (s : State) (ctx v : Nat) (t : Tr) : Option State :=
  if s.eff v == 0 then some s
  else match t.ov with
    | some (idx, page, _) => s.roomFrame ctx (s.eff v) idx page
    | none => s.roomLine ctx (s.eff v) (t.loc / 128)

/-- R382, R383, R385: write one byte in a version's view, with the room made. -/
def State.viewPoke (s : State) (v : Nat) (t : Tr) (b : Byte) : State :=
  let v := s.eff v
  if v == 0 then s.poke t.loc b
  else
    match t.ov with
    | some (_, page, off) =>
      match s.frameOf v page with
      | some f =>
        let s := s.poke (physLoc 0 (f.frame + off)) b
        { s with frames := s.frames.map fun g => if g == f && !g.written.contains off then { g with written := off :: g.written } else g }
      | none => s
    | none =>
      { s with vlines := s.vlines.map fun x =>
          if x.ver == v && x.line == t.loc / 128 then
            { x with bytes := Tab.set x.bytes (t.loc % 128) b } else x }
def State.viewPokeN (s : State) (v : Nat) (t : Tr) : List Byte → State
  | [] => s
  | b :: bs => (s.viewPoke v t b).viewPokeN v (t.add 1) bs

/-- R267: whether a list of places names every byte of a sector. -/
def wholeSector (locs : List Nat) (q : Nat) : Bool := (List.range 32).all fun k => locs.contains (32 * q + k)
/-- R267: sectors all of whose 32 bytes the list of places names lose their poison. -/
def State.clearPoison (s : State) (locs : List Nat) : State :=
  { s with poison := s.poison.filter fun q => !wholeSector locs q }
/-- R261, R267: the same in a core's L1 copy, which a `.L1` store updates in the same step. -/
def State.clearL1Poison (s : State) (core : Nat) (locs : List Nat) : State :=
  if (s.core core).l1.any fun x => x.poison != 0 then
    s.updCore core fun c => { c with l1 := c.l1.map fun x =>
      { x with poison := maskOf 4 fun k => bitOf x.poison k && !wholeSector locs (4 * x.line + k) } }
  else s
def State.markPoison (s : State) (loc : Nat) : State :=
  if s.poisoned loc then s else { s with poison := sectorOf loc :: s.poison }

/-- R267: the sectors that a list of places names whole. -/
def wholeSectors (locs : List Nat) : List Nat := (locs.map sectorOf).eraseDups.filter (wholeSector locs)
/-- R385: where a sector of the base page of a frame lies in the page. -/
def Frame.sectorOff (f : Frame) (q : Nat) : Option Nat :=
  ((List.range 16).find? fun k => basePlace f.page (4096 * k) / 4096 == q / 128).map fun k => 4096 * k + 32 * (q % 128)
/-- R267, R388: version `c` has written sectors of the base whole with one store: its copies keep that for the commit, and its frames hold
no poison there. -/
def State.markWhole (s : State) (c : Nat) (qs : List Nat) : State :=
  if qs.isEmpty then s
  else
    let mine := fun (f : Frame) => f.ver == c && !f.merged
    let own := qs.filterMap fun q => (s.frames.find? fun f => mine f && (f.sectorOff q).isSome).bind fun f => (f.sectorOff q).map fun o => (q, sectorOf (physLoc 0 (f.frame + o)))
    let lined := qs.filter fun q => own.all fun x => x.1 != q
    let put := fun (old new : List Nat) => new.filter (fun q => !old.contains q) ++ old
    { s with
      vlines := s.vlines.map fun x => if x.ver == c then { x with whole := put x.whole (lined.filter fun q => q / 4 == x.line) } else x
      frames := s.frames.map fun f => if mine f then { f with whole := put f.whole (qs.filter fun q => (f.sectorOff q).isSome) } else f
      poison := s.poison.filter fun q => own.all fun x => x.2 != q }
/-- R267: the sectors that one store covers whole in a version's view: their poison is cleared, or of a version other than 0 that of its
frames, and the copies keep it for the commit. -/
def State.clearView (s : State) (ver : Nat) (locs : List Nat) : State :=
  if s.eff ver == 0 then (if s.poison.isEmpty then s else s.clearPoison locs) else s.markWhole (s.eff ver) (wholeSectors locs)

/-- R167: a lane asleep in MWAIT goes to the next instruction. -/
def wakeLane (x : Lane) : Lane :=
  match x.block with
  | .mwait _ _ _ => { x with block := .free, watch := none, pc := x.pc + 8 }
  | _ => x
/-- R167, R467: a lane asleep in MWAIT wakes: its status lands, and the lane goes on. -/
def State.wakeMwait (s : State) (uid l status : Nat) : State :=
  match ((Tab.get? s.groups uid).map fun g => (g.lane l).block : Option Block) with
  | some (.mwait _ d n) => (s.settleLane uid l d n (BitVec.ofNat 32 status)).updGroup uid fun g => g.updLanes (2 ^ l) fun _ x => wakeLane x
  | _ => s
/-- The lanes of a group whose watch is on a line. -/
def Group.watching (g : Group) (line : Nat) : Nat :=
  laneMask fun l => match (g.lane l).watch with | some w => w.line == line | none => false
/-- R166: the watches of a group on a line have fired. -/
def Group.fire (g : Group) (line : Nat) : Group :=
  g.updLanes (g.watching line) fun _ x => { x with watch := x.watch.map fun w => { w with fired := true } }
/-- R166, R167: the watches on a line fire, and a lane asleep in MWAIT wakes with status 0. `on` selects the cores whose
watches fire. -/
def State.fireLine (s : State) (line : Nat) (on : Nat → Bool) : State :=
  let hit := (s.groups.filter fun g => on (s.coreOfGroup g.2)).map fun g => (g.1, g.2.watching line)
  let s := hit.foldl (fun s x => s.updGroup x.1 fun g => g.fire line) s
  hit.foldl (fun s x => (lanesOf x.2).foldl (fun s l => s.wakeMwait x.1 l 0) s) s

/-- R261, R276: drop lines of a core's L1; the watches of its groups on them fire (R166). -/
def State.dropL1 (s : State) (core : Nat) (p : L1Line → Bool) : State :=
  let gone := (s.core core).l1.filter p
  let s := s.updCore core fun c => { c with l1 := c.l1.filter fun x => !p x }
  gone.foldl (fun s x => s.fireLine x.line fun c => c == core) s
/-- R261, R288: an acquire at TEAM scope or wider drops the core's mutable lines. -/
def State.acquire (s : State) (core : Nat) (scope : Scope) : State :=
  if scope == .group then s else s.dropL1 core fun x => !x.isSeal

/-- R276, R280: L1 may keep the lines of a range that is sealed, complete and not unsealing. -/
def Seal.held (e : Seal) : Bool := e.sealing.isNone && !e.unsealing
/-- R276: a sealed or unsealing range that holds an address of a context. -/
def State.sealAt (s : State) (ctx va : Nat) : Option Seal :=
  s.seals.find? fun e => e.ctx == ctx && decide (e.base ≤ va) && decide (va < e.base + 128 * e.lines)

/-- The bytes of a line from the home, with the poison of its sectors. -/
def State.lineData (s : State) (line : Nat) : List Byte × Nat :=
  ((List.range 128).map fun k => s.peek (128 * line + k), maskOf 4 fun k => s.poisoned (128 * line + 32 * k))

/-- R261, R262, R426: where a load is performed. L1 is used by the default policy in version 0, and for sealed lines in
any version, one that has committed into version 0 too (R382), unless the host holds part of the line or the line is host memory without CXL.cache. -/
def State.usesL1 (s : State) (ctx ver va loc : Nat) (pol : Pol) : Bool :=
  let sealed := match s.sealAt ctx va with | some e => e.held | none => false
  let unsealing := match s.sealAt ctx va with | some e => e.unsealing | none => false
  pol == .l1 && (ver == 0 || sealed) && !unsealing && !(isHost loc && decide (3 ≤ s.port.mode))
  && !(match Tab.get? s.port.lines (loc / 128) with | some b => b.lower || b.upper | none => false)

/-- R258, R426: the 64-byte host lines that some bytes touch come into the part's L2 through CXL.cache, where a snoop finds them; an
access with policy `.SYS` is performed at the host and leaves nothing there. -/
def State.hostUse (s : State) (pol : Pol) (loc n : Nat) : State :=
  if isHost loc && decide (s.port.mode < 3) && pol != .sys then
    let first := (loc - hostBase) / 64
    let new := (List.range ((loc + n - 1 - hostBase) / 64 + 1 - first)).map (first + ·)
    { s with port := { s.port with l2host := new.filter (fun h => !s.port.l2host.contains h) ++ s.port.l2host } }
  else s

/-- R15, R261: fill a line into a core's L1, which holds 1,024. A line may lie anywhere in it, and a full one drops the line
that was filled first: the spec gives neither its associativity nor which line leaves (log entry 58, DESIGN CHOICE). -/
def State.fillL1 (s : State) (core ctx va loc n : Nat) : State :=
  let s := s.hostUse .l1 loc n
  let (data, poison) := s.lineData (loc / 128)
  let sectors := if isHost loc then 3 * b2n (loc % 128 < 64) + 12 * b2n (64 < loc % 128 + n) else 15
  match (s.core core).l1.find? fun x => x.line == loc / 128 with
  | some x =>
    let y := { x with
      data := mapFrom (fun k b => if bitOf x.sectors (k / 32) then x.data.getD k b else b) 0 data
      poison := maskOf 4 fun k => if bitOf x.sectors k then bitOf x.poison k else bitOf poison k
      sectors := Nat.lor x.sectors sectors }
    s.updCore core fun c => { c with l1 := c.l1.map fun z => if z.line == x.line then y else z }
  | none =>
    let x : L1Line := { ctx, line := loc / 128, data, isSeal := (match s.sealAt ctx va with | some e => e.held | none => false), poison, sectors }
    let s := match (s.core core).l1.drop 1023 with
      | [] => s
      | y :: _ => s.dropL1 core fun z => z.line == y.line
    s.updCore core fun c => { c with l1 := x :: c.l1 }
/-- A line holds the sectors that some bytes from a place on touch. -/
def L1Line.has (x : L1Line) (loc n : Nat) : Bool :=
  x.line == loc / 128 && (List.range 4).all fun k => bitOf x.sectors k || decide (loc % 128 + n ≤ 32 * k) || decide (32 * k + 32 ≤ loc % 128)

/-- A load of bytes at a place (R261, R267, R298): its bytes and whether one is poisoned. Where a version loads from L1, which
is a sealed range alone, the bytes that its own chain holds come first (R262, R383). -/
def State.loadAt (s : State) (core ctx ver va n : Nat) (pol : Pol) (t : Tr) : (List Byte × Bool) × State :=
  if s.usesL1 ctx ver va t.loc pol then
    let s := if (s.core core).l1.any fun x => x.has t.loc n then s else s.fillL1 core ctx va t.loc n
    match (s.core core).l1.find? fun x => x.line == t.loc / 128 with
    | some x =>
      let got := (List.range n).map fun k =>
        match s.chainView ver (t.add k) with
        | some b => b
        | none => (x.data.getD (t.loc % 128 + k) 0, bitOf x.poison ((t.loc % 128 + k) / 32))
      ((got.map (·.1), got.any (·.2)), s)
    | none => (s.viewBytes ver t n, s)
  else (s.viewBytes ver t n, (s.useView ver t n).hostUse pol t.loc n)

/-- R261: what a store does to the copy of its line in its own core's L1. -/
def State.storeL1 (s : State) (core : Nat) (pol : Pol) (loc : Nat) (bs : List Byte) : State :=
  if pol == .l1 then
    s.updCore core fun c => { c with l1 := c.l1.map fun x =>
      if x.line == loc / 128 then
        { x with data := mapFrom (fun k b => if loc % 128 ≤ k then bs.getD (k - loc % 128) b else b) 0 x.data }
      else x }
  else s.dropL1 core fun x => x.line == loc / 128

/-- R265, R382, R166: write bytes at a place in a version's view, update the core's L1 and fire the watches. A line of host memory
is held with ownership first (R426). A version that has committed into version 0 writes past L1, at the home, so that the core's copy of
the line goes (R262, R382). -/
def State.storeAt (s : State) (core ver : Nat) (pol : Pol) (t : Tr) (bs : List Byte) : State :=
  let s := (s.hostUse pol t.loc bs.length).viewPokeN ver t bs
  let s := if s.eff ver == 0 then s.storeL1 core (if ver == 0 then pol else .l2) t.loc bs else s
  s.fireLine (t.loc / 128) fun _ => true

end Sys2Proof.Machine
end

