-- ==== Sys2Proof/Machine/Record.lean ====
section
/-! DEFINITION. Records that the part writes to memory: the group record (spec/02_state.md R53), the trap record
(spec/05_context.md R111), the event queue (R468), completion entries (spec/06_queue.md R123). -/

namespace Sys2Proof.Machine

/-- `n` as bytes, low first. -/
def le (n x : Nat) : List Byte := leBytes n x
def zeros (n : Nat) : List Byte := List.replicate n 0

/-- R321, R424: the first place that the host must give back before the part reads or writes some bytes of a context: of a table
entry, or of the bytes themselves. -/
def State.partHeld (s : State) (ctx va n : Nat) : Option Nat :=
  ((List.range n).filter fun k => k == 0 || (va + k) % 64 == 0).findSome? fun k =>
    let w := s.walk ctx (va + k)
    let loc := match w.kind with
      | .held => some (physLoc 0 w.at_)
      | .leaf => some (trOf w.bits w.entry (va + k)).loc
      | _ => none
    loc.filter fun x => s.heldHalf x 1
/-- It is asked for. -/
def State.partRecall (s : State) (ctx va n : Nat) : State :=
  match s.partHeld ctx va n with
  | some loc => s.recallAt loc 1
  | none => s

/-- A store by the part at an address of a context, through its tables and without a core (R122, R468): `none` where a
page is not there or does not permit it, where the range is sealed (R277, R292), where the host holds what it needs, or where the host completes it with an error (R323). Bytes before `va` that the same store writes are in `done`; a sector that it writes
whole loses its poison (R267). -/
def State.partWrite (s : State) (ctx va : Nat) (done : List Nat) : List Byte → Option State
  | [] => some (if s.poison.isEmpty then s else s.clearPoison done)
  | b :: bs =>
    let w := s.walk ctx va
    match w.kind with
    | .leaf =>
      let loc := (trOf w.bits w.entry va).loc
      if eW w.entry && eST w.entry != 3 && (s.sealAt ctx va).isNone && !s.heldHalf loc 1 && !s.hostError loc then
        ((((s.touchWalk w .store)).poke loc b).fireLine (loc / 128) fun _ => true).partWrite ctx (va + 1) (loc :: done) bs
      else none
    | _ => none
def State.partStore (s : State) (ctx va : Nat) (bs : List Byte) : Option State := s.partWrite ctx va [] bs

/-- A load by the part at an address of a context: the byte, `none` where no page holds it or it cannot be had now, as above. -/
def State.partByte (s : State) (ctx ver va : Nat) : Option Byte :=
  let w := s.walk ctx va
  match w.kind with
  | .leaf =>
    let t := trOf w.bits w.entry va
    if s.heldHalf (s.readPlace ver t) 1 || s.hostError t.loc then none else some (s.viewByte ver t).1
  | _ => none
/-- R385, R424: the first place that the host must give back before the part reads some bytes in a version's view. -/
def State.partViewHeld (s : State) (ctx ver va n : Nat) : Option Nat :=
  if s.port.lines.isEmpty then none
  else (List.range n).findSome? fun k =>
    let w := s.walk ctx (va + k)
    match w.kind with
    | .leaf => let p := s.readPlace ver (trOf w.bits w.entry (va + k))
               if s.heldHalf p 1 then some p else none
    | _ => none
def State.partLoad (s : State) (ctx ver va : Nat) : Nat → Option (List Byte)
  | 0 => some []
  | n + 1 =>
    match s.partByte ctx ver va, s.partLoad ctx ver (va + 1) n with
    | some b, some bs => some (b :: bs)
    | _, _ => none

/-- R327: the part's loads of some bytes of a context set AC in the leaves they translate by. -/
def State.partTouch (s : State) (ctx va n : Nat) : State :=
  ((List.range n).filter fun k => k == 0 || (va + k) % 4096 == 0).foldl (fun s k => s.touchLeaf ctx (va + k) .load) s

/-- The check over the implementation words of a group record (R53). -/
def implCheck (words : List Nat) : Nat := sumN words % 2 ^ 32

/-- R53: the implementation words of a group: its number, its gang mask, the lanes inside the handler (log entry 41,
DESIGN CHOICE). The check closes them. -/
def Group.implWords (g : Group) : List Nat :=
  let h := laneMask fun l => (g.lane l).handler
  let ws := [g.uid % 2 ^ 32, g.uid / 2 ^ 32 % 2 ^ 32, g.gang, h % 2 ^ 32, h / 2 ^ 32] ++ List.replicate 17 0
  ws ++ [implCheck ws]

/-- R53, R101, R146, R181: the status byte of a lane. -/
def Lane.status (x : Lane) : Nat :=
  b2n x.exited + 2 * b2n x.inRange + 4 * x.rstack.length
  + 64 * b2n (match x.block with | .fault | .pipe _ => true | _ => false)
  + 128 * b2n (match x.block with | .mwait _ _ _ | .bar _ _ | .unseal _ _ _ | .fwait _ _ | .yield _ => true | _ => false)
/-- R181: the saved PC entry of a lane, with the phase it waits for in bits [63:49]. -/
def Lane.pcEntry (x : Lane) : Nat :=
  x.pc.toNat + (match x.block with | .bar _ p => 2 ^ 49 * (p % 2 ^ 15) | _ => 0)

/-- The words of a row of lanes as bytes. -/
def rowBytes (r : List Word) : List Byte := r.flatMap fun w => le 4 w.toNat

/-- R53: a group record. -/
def Group.record (g : Group) : List Byte :=
  le 4 g.gctl.toNat ++ le 4 g.fpctl.toNat ++ le 4 g.fpstat.toNat ++ le 4 g.rowprog.toNat ++ le 4 g.trapcode.toNat
  ++ le 4 (g.vlim + 2 ^ 16 * g.slim) ++ le 8 g.trapaddr.toNat ++ le 4 (g.divdepth + 2 ^ 8 * g.depth)
  ++ g.implWords.flatMap (le 4)
  ++ g.lanes.flatMap (fun x => le 8 x.pcEntry)
  ++ g.lanes.flatMap (fun x => le 1 x.status)
  ++ (List.range 7).flatMap (fun n => le 8 (g.pmask n)) ++ zeros 8
  ++ (List.range 16).flatMap (fun n => le 8 (g.jmask n))
  ++ (List.range 16).flatMap (fun n => le 8 (g.hreg n).toNat)
  ++ (List.range 8).flatMap (fun n => le 4 (g.fmtreg n)) ++ zeros 32
  ++ g.lanes.flatMap (fun x => le 4 x.lfsr.toNat)
  ++ le 8 (laneMask fun l => (g.lane l).held) ++ zeros 184
  ++ g.lanes.flatMap (fun x => (List.range 8).flatMap fun k => le 8 (x.rstack.getD k 0).toNat)
  ++ (List.range 8).flatMap (fun n => rowBytes (g.rowO n))
  ++ rowBytes (g.rowZ 0) ++ rowBytes (g.rowZ 1)
  ++ (List.range g.slim).flatMap (fun n => le 8 (g.sreg n).toNat)
  ++ (List.range g.vallot).flatMap (fun n => rowBytes (g.rowV n))

/-- The size of a group record (R53). -/
def Group.recordSize (g : Group) : Nat := 0x2000 + 8 * g.slim + 256 * g.vallot

/-- What a trap record says (R111). -/
structure TrapInfo where
  ctx : Nat
  code : Nat
  tag : Nat
  queue : Nat
  core : Nat
  teamid : Nat
  gid : Nat
  lane : Nat
  multi : Bool
  double : Bool
  version : Nat
  addr : Nat
  recordVa : Nat
  deriving DecidableEq, Repr

/-- R111: a trap record. -/
def TrapInfo.bytes (t : TrapInfo) : List Byte :=
  le 2 t.ctx ++ le 1 t.code ++ le 1 t.tag ++ le 2 t.queue ++ le 2 t.core ++ le 4 t.teamid ++ le 1 t.gid
  ++ le 1 (t.lane + 64 * b2n t.multi + 128 * b2n t.double) ++ le 2 t.version ++ le 8 t.addr ++ le 8 t.recordVa

/-- R332: a fault record. -/
def PFault.bytes (p : PFault) (slot : Nat) : List Byte :=
  le 2 p.ctx ++ le 1 8 ++ le 1 (p.flags + 16 * p.level) ++ le 2 (slot / 256 * 2 ^ 15 + slot % 256) ++ le 2 p.core ++ le 8 p.va
  ++ le 8 p.entry ++ le 4 (sumN (p.lanes.map fun x => popN 64 x.2) + p.ops.length + p.reqs.length) ++ zeros 4

/-- R332: a fault record says how many accesses are attached as it is written, however long it has waited for the ring. -/
def State.freshen (s : State) (rec : List Byte) : List Byte :=
  let slot := leNat ((rec.drop 4).take 2)
  let k := slot / 2 ^ 15 * 256 + slot % 256
  match Tab.get? s.pfaults k with
  | some p => if (p.bytes k).take 24 == rec.take 24 then p.bytes k else rec
  | none => rec

/-- R468: the address of a context's next record. -/
def Context.evqVa (c : Context) : Nat := c.desc.evq.toNat + 32 * (c.ewptr % 2 ^ c.desc.evqsz.toNat)
/-- R468: write a record at a context's producer index, and raise its host interrupt; `none` while the ring is full or its page
is not there. -/
def State.evqWrite (s : State) (ctx : Nat) (rec : List Byte) : Option State :=
  match Tab.get? s.contexts ctx with
  | none => some s
  | some c =>
    if c.ewptr - c.erptr == 2 ^ c.desc.evqsz.toNat then none
    else (s.partStore ctx c.evqVa (s.freshen rec)).map fun s =>
      let s := s.updCtx ctx fun c => { c with ewptr := c.ewptr + 1 }
      { s with port := { s.port with interrupts := s.port.interrupts ++ [c.msix] } }

/-- R468: a record goes to a context's event queue, behind those that wait. -/
def State.evqPost (s : State) (ctx : Nat) (rec : List Byte) : State :=
  let held := ((Tab.get? s.contexts ctx).map (·.evqHeld)).getD []
  match (if held.isEmpty then s.evqWrite ctx rec else none) with
  | some s => s
  | none => s.updCtx ctx fun c => { c with evqHeld := c.evqHeld ++ [rec] }

/-- R468: the records that wait go out, oldest first, as far as there is room and no half that the host holds is in the way, which
is asked for (R424); the rest go on waiting. -/
def State.evqFlush (s : State) (ctx : Nat) : List (List Byte) → State
  | [] => s.updCtx ctx fun c => { c with evqHeld := [] }
  | r :: rs =>
    match s.evqWrite ctx r with
    | some s => s.evqFlush ctx rs
    | none =>
      let va := ((Tab.get? s.contexts ctx).map Context.evqVa).getD 0
      (s.partRecall ctx va 32).updCtx ctx fun c => { c with evqHeld := r :: rs }

/-- R123: a completion entry whose code is no trap code. -/
def completionBytes (ctx code queue pos version us : Nat) : List Byte :=
  le 2 ctx ++ le 1 code ++ zeros 1 ++ le 2 queue ++ zeros 2 ++ le 8 pos ++ le 2 version ++ zeros 6 ++ le 8 us

/-- The address of the completion entry of a position (R115). -/
def Queue.entryVa (q : Queue) (pos : Nat) : Nat := q.desc.cbase.toNat + 32 * (pos % 2 ^ q.desc.size.toNat)

end Sys2Proof.Machine
end

