-- ==== Sys2Proof/Machine/Ops.lean ====
section
/-! DEFINITION. The operations the meanings share: the checks of a memory access (spec/14_memory.md R266), performing loads,
stores and atomics (R265, R271, R471), filling absent units
(spec/05_context.md R104), barriers' release (spec/09_barrier.md R174), exit (spec/07_kernel.md R147), parking at a
fault and taking a trap (R106 to R111, R470), and leaving the handler (R108). -/

namespace Sys2Proof.Machine

/-- The registers of a destination as they stand: a result that is still owed leaves them. -/
def Group.keep (g : Group) (d : Opnd) (n : Nat) : List Res := (Opnd.regs d n).map fun r => (r, fun k => (g.words r).getD k 0)
/-- R72, R467: lanes are owed a result, which comes later: its number is that of `s.uids`. -/
def State.owe (s : State) (g : Group) (h : Hdr) (m : Nat) (d : Opnd) (n : Nat) : State := s.result g.uid h m .var (g.keep d n) 0

/-! ### Traps and faults as lanes raise them -/

/-- What a PAGE_ABSENT found (R330): the entry, its place and level, and flags of the record of R332; `none` for any
other trap. -/
structure AbsentAt where
  level : Nat
  entry : Nat
  key : Nat
  flags : Nat
  deriving DecidableEq, Repr

/-- A trap or fault that a lane raises (R9, R106). `addr` is what TRAPADDR takes. Once the trap is delivered, and not before, the
failure of number `failed` that the lane held (R414), and the error latch `latch` (R415), have been raised. -/
structure Raise where
  lane : Nat
  code : TrapCode
  addr : Nat
  absent : Option AbsentAt
  failed : Option Nat := none
  latch : Option ErrLatch := none
  deriving DecidableEq, Repr

def TrapCode.num (c : TrapCode) : Nat := c.ctorIdx + 1

/-- The outcome of a check. -/
inductive Verdict where
  | pass (t : Tr)
  | fail (code : TrapCode) (addr : Nat) (absent : Option AbsentAt)
  | wait
  deriving DecidableEq, Repr

/-- R254: the spaces of an access. -/
inductive Space where | global | shared | tile | localMem
  deriving DecidableEq, Repr

/-- R256: the address of local byte `x` of a lane. -/
def localVa (slot g l x : Nat) : Nat := 0x1FFF000000000 + 16384 * (64 * (32 * slot + g) + l) + x

/-- R313: a range lock that forbids the access. -/
def State.lockHit (s : State) (core ctx team space a n : Nat) (write : Bool) : Bool :=
  (s.core core).locks.any fun k =>
    k.space == space && (if space == 0 then k.ctx == ctx else k.team == team)
    && decide (a < k.high) && decide (k.low < a + n) && decide (k.low < k.high) && (k.dest || write)

/-- Bytes of the tile store that a team holds (R339). -/
def Team.tileBytes (t : Team) : Nat := 16384 * t.granules

/-- R266, step 3, R323, R328, R382: a global address that is aligned and below 2^49 translates. A host access that the host
completes with an error response takes PAGE_PROT. Flags are those of R332 for the record. -/
def State.checkPage (s : State) (core ctx ver va : Nat) (acc : Acc) (flags : Nat) : Verdict × State :=
  match s.translate core ctx va acc with
  | (.ok t, s) =>
    if s.hostError t.loc then (.fail .pageProt va none, s)
    else if isHost t.loc && acc == .store && s.eff ver != 0 then (.fail .pageProt va none, s)
    else (.pass t, s)
  | (.absent level entry at_, s) => (.fail .pageAbsent va (some { level, entry, key := at_, flags }), s)
  | (.migrating level entry at_, s) => (.fail .pageAbsent va (some { level, entry, key := at_, flags }), s)
  | (.prot, s) => (.fail .pageProt va none, s)
  | (.wait, s) => (.wait, s)

/-- R384: with FNMODE.VSPILL the first stall of a version sends a record of code 0x20 whose other bytes the spec does not give. -/
def State.stallRecord (s : State) (ctx : Nat) (first : Bool) : State :=
  if !first || !bitOf s.fnmode.toNat 3 then s
  else
    let (n, s) := s.draw
    s.evqPost ctx ((List.range 32).map fun k => if k == 2 then 0x20 else Config.freeByte n k)
/-- R468: the number of the record that such a stall sends, once it is sent. -/
def State.stallNumber (s : State) (ctx : Nat) (first : Bool) (was : Option Nat) : Option Nat :=
  if !first || !bitOf s.fnmode.toNat 3 then was
  else (Tab.get? s.contexts ctx).map fun c => c.ewptr + c.evqHeld.length
/-- R384: a write of a version, local or foreign, stalls for room: `who` is the writer, as `State.stalls` reads it. -/
def State.starve (s : State) (ctx v : Nat) (who : Writer) : State :=
  let v := s.eff v
  match Tab.get? s.versions v, Tab.get? s.foreign v with
  | some x, _ =>
    let y := { x with stalled := who :: x.stalled.erase who, noticed := true, record := s.stallNumber ctx (!x.noticed) x.record }
    State.stallRecord { s with versions := Tab.set s.versions v y } ctx (!x.noticed)
  | none, some x =>
    let y := { x with stalled := who :: x.stalled.erase who, noticed := true, record := s.stallNumber ctx (!x.noticed) x.record }
    State.stallRecord { s with foreign := Tab.set s.foreign v y } ctx (!x.noticed)
  | none, none => s
/-- R468: the record of a stall of a writer still waits for its ring. -/
def State.recordWaits (s : State) (ctx : Nat) (who : Writer) : Bool :=
  let waits := fun (stalled : List Writer) (record : Option Nat) => stalled.contains who && match record, Tab.get? s.contexts ctx with
    | some n, some c => decide (c.ewptr ≤ n)
    | _, _ => false
  (s.versions.any fun x => waits x.2.stalled x.2.record) || s.foreign.any fun x => waits x.2.stalled x.2.record
/-- The writer stalls no more. -/
def State.fed (s : State) (v : Nat) (who : Writer) : State :=
  if v == 0 then s
  else { s with
    versions := s.versions.map fun (x : Nat × Ver) => if x.2.stalled.isEmpty then x else (x.1, { x.2 with stalled := x.2.stalled.erase who })
    foreign := s.foreign.map fun (x : Nat × Foreign) => if x.2.stalled.isEmpty then x else (x.1, { x.2 with stalled := x.2.stalled.erase who }) }
/-- R327, R382 to R385, R424, R468: what a version's write at a place needs: the overlay directory in no half that the host holds, and
room; without room it stalls. A stall lasts at least until its record is written. -/
def State.verRoom? (s : State) (ctx ver : Nat) (t : Tr) (who : Writer) : Bool × State :=
  if ver != 0 && s.recordWaits ctx who then (false, s)
  else if s.eff ver == 0 then (true, s.fed ver who)
  else match t.ov.bind fun o => s.ovlHeld ctx o.1 with
    | some loc => (false, s.recallAt loc 8)
    | none =>
      let s := s.seeRoom ctx ver t
      match s.room ctx ver t with
      | some s => (true, s.fed ver who)
      | none => (false, s.starve ctx ver who)

/-- R424: an access of `n` bytes at a place may go on, or waits for the halves that the host holds. -/
def State.viewReady (s : State) (ver : Nat) (t : Tr) (n : Nat) (write : Bool) : Verdict × State :=
  match s.viewHeld ver t n write with
  | some p => (.wait, s.recallAt p n)
  | none => (.pass t, s)
/-- R266, steps 3 to 5, and what must be there for the access to be performed: room for a version (R384) and no half held
by the host (R424), of its bytes or of the overlay directory (R385). -/
def State.checkGlobal (s : State) (core ctx team ver va n : Nat) (write : Bool) (flags : Nat) (who : Writer) : Verdict × State :=
  match s.checkPage core ctx ver va (if write then .store else .load) flags with
  | (.pass t, s) =>
    if s.lockHit core ctx team 0 va n write then (.fail .rangeLock va none, s)
    else if write && (s.sealAt ctx va).isSome then (.fail .writeSealed va none, s)
    else if !write then s.viewReady ver t n false
    else match s.verRoom? ctx ver t who with
      | (true, s) => s.viewReady ver t n true
      | (false, s) => (.wait, s)
  | r => r

/-- R384: the writer that a lane is at its PC. -/
def Env.writer (e : Env) (l : Nat) : Writer := .lane e.g.uid l (e.g.lane l).pc.toNat

/-- R266: the checks of one lane's access of `n` bytes at address or offset `a`, in order. A local access traps as the global
one at its place in the local window (R256). -/
def State.check (s : State) (e : Env) (l : Nat) (sp : Space) (a n : Nat) (write : Bool) : Verdict × State :=
  let ver := e.gr.version
  match sp with
  | .global =>
    if 2 ^ 49 ≤ a || a % n != 0 then (.fail .misaligned a none, s)
    else s.checkGlobal e.t.core e.gr.ctx e.t.uid ver a n write (b2n write) (e.writer l)
  | .localMem =>
    let va := localVa e.t.localSlot e.g.gid l a
    if 16384 ≤ a then (.fail .misaligned a none, s)
    else if a % n != 0 then (.fail .misaligned va none, s)
    else s.checkGlobal e.t.core e.gr.ctx e.t.uid ver va n write (b2n write) (e.writer l)
  | .shared =>
    if a % n != 0 then (.fail .misaligned a none, s)
    else if e.t.shared ≤ a then (.fail .pageProt a none, s)
    else if s.lockHit e.t.core e.gr.ctx e.t.uid 1 a n write then (.fail .rangeLock a none, s)
    else (.pass { loc := a, ov := none }, s)
  | .tile =>
    if a % n != 0 then (.fail .misaligned a none, s)
    else if e.t.tileBytes ≤ a then (.fail .pageProt a none, s)
    else if s.lockHit e.t.core e.gr.ctx e.t.uid 2 a n write then (.fail .rangeLock a none, s)
    else (.pass { loc := a, ov := none }, s)

/-! ### Where the part accesses memory for a context -/

/-- Whether the part may read or write some bytes of a context now. -/
inductive PartEnd where
  | ok
  | absent (va : Nat) (a : AbsentAt)
  | bad (va : Nat)
  | wait (loc : Nat)
  deriving DecidableEq, Repr

/-- The same for one byte. -/
def State.partLook (s : State) (ctx va : Nat) (write : Bool) : PartEnd :=
  let w := s.walk ctx va
  match w.kind with
  | .leaf =>
    let loc := (trOf w.bits w.entry va).loc
    if decide (2 ^ 49 ≤ va) || s.hostError loc || (write && (!eW w.entry || (s.sealAt ctx va).isSome)) then .bad va
    else if write && eST w.entry == 3 then .absent va { level := w.level, entry := w.entry, key := w.at_, flags := 1 }
    else if s.heldHalf loc 1 then .wait loc
    else .ok
  | .absent => if 2 ^ 49 ≤ va then .bad va else .absent va { level := w.level, entry := w.entry, key := w.at_, flags := b2n write }
  | .held => .wait (physLoc 0 w.at_)
  | _ => .bad va

/-- The first trouble of a list of addresses. -/
def State.partAll (s : State) (ctx : Nat) (write : Bool) : List Nat → PartEnd
  | [] => .ok
  | va :: rest => match s.partLook ctx va write with
    | .ok => s.partAll ctx write rest
    | r => r
/-- The first byte of each sector that some bytes touch. -/
def sectorStarts (va n : Nat) : List Nat := ((List.range n).filter fun k => k == 0 || (va + k) % 32 == 0).map fun k => va + k

/-! ### Absent units of a restored context (R104, R105) -/

/-- Kinds of unit: 0 a V granule and 1 an S granule of a group, 2 a 4 KiB block of shared memory, 3 a tile-store granule,
4 an accumulator, 5 a tile register of a team. -/
def unitBytes (kind : Nat) : Nat :=
  if kind == 0 then 2048 else if kind == 1 then 128 else if kind == 2 then 4096 else if kind == 3 then 16384
  else if kind == 4 then 4096 else 2048

/-- The words of a list of bytes. -/
def wordsOf (bs : List Byte) (n : Nat) : List Word := (List.range n).map fun k => BitVec.ofNat 32 (wordAt bs (4 * k))

/-- A tile's data from the words of its record. -/
def tileData (ws : List Word) : Tab Word :=
  (mapFrom (fun k x => (k, x.2)) 0 (ws.map fun w => (0, w))).filter fun x => x.2 != 0

/-- R104: fill one unit from its record. -/
def State.fillUnit (s : State) (a : Absent) (bs : List Byte) : State :=
  if a.kind == 0 then
    s.updGroup a.owner fun g => { g with v := (List.range 8).foldl (fun v k =>
      Tab.set v (8 * a.index + k) (wordsOf (bs.drop (256 * k)) 64)) g.v }
  else if a.kind == 1 then
    s.updGroup a.owner fun g => { g with s := (List.range 16).foldl (fun v k =>
      Tab.set v (16 * a.index + k) (BitVec.ofNat 64 (leNat ((bs.drop (8 * k)).take 8)))) g.s }
  else if a.kind == 2 then
    s.updTeam a.owner fun t => { t with sharedMem := Mem.writeN t.sharedMem (4096 * a.index) (bs.take (t.shared - 4096 * a.index)) }
  else if a.kind == 3 then
    s.updTeam a.owner fun t => { t with store := Mem.writeN t.store (16384 * a.index) bs }
  else if a.kind == 4 then
    s.updTeam a.owner fun t => { t with a := Tab.upd t.a a.index fun x => { x with data := tileData (wordsOf bs 1024) } }
  else
    s.updTeam a.owner fun t => { t with t := Tab.upd t.t a.index fun x => { x with data := tileData (wordsOf bs 512) } }

/-- How a fill ends. -/
inductive Fill where
  | done (s : State)
  | bad (code : TrapCode) (va : Nat) (absent : Option AbsentAt)
  | wait (s : State)
  deriving DecidableEq, Repr

/-- The absent unit of an owner, if it is still absent. -/
def State.absentOf (s : State) (ctx owner kind index : Nat) : Option Absent :=
  match Tab.get? s.contexts ctx with
  | none => none
  | some c => c.absent.find? fun a => a.owner == owner && a.kind == kind && a.index == index

/-- Bytes of a unit: the last block of shared memory may be short. -/
def State.unitSize (s : State) (a : Absent) : Nat :=
  if a.kind == 2 then min 4096 (((Tab.get? s.teams a.owner).map (·.shared)).getD 0 - 4096 * a.index) else unitBytes a.kind
/-- The place of a byte that the part accesses for a context. -/
def State.partPlace (s : State) (ctx va : Nat) : Nat :=
  let w := s.walkNow ctx va
  (trOf w.bits w.entry va).loc
/-- R105: a sector of a unit's record is poisoned: the sectors that its bytes lie in, and none past a short last block. -/
def State.unitPoison (s : State) (ctx : Nat) (a : Absent) : Bool :=
  (List.range ((a.va % 32 + s.unitSize a + 31) / 32)).any fun k => s.poisoned (s.partPlace ctx (a.va / 32 * 32 + 32 * k))

/-- R104, R105: make a unit present before an access to it, by a load of its record. A poisoned record gives the address at which the
unit starts, not that of the sector: R105 says "the save-area address" alone; a record that cannot be read is a translation fault, or an
error response (R323, R427), of the access (log entry 59, DESIGN CHOICE). -/
def State.present (s : State) (ctx owner kind index : Nat) : Fill :=
  match s.absentOf ctx owner kind index with
  | none => .done s
  | some a =>
    match s.partAll ctx false (sectorStarts a.va (s.unitSize a)) with
    | .absent va x => .bad .pageAbsent va (some x)
    | .bad va => .bad .pageProt va none
    | .wait loc => .wait (s.recallAt loc 8)
    | .ok =>
      if s.unitPoison ctx a then .bad .dataPoison a.va none
      else
        let bs := (s.partLoad ctx 0 a.va (s.unitSize a)).getD []
        .done (((s.partTouch ctx a.va (s.unitSize a)).fillUnit a bs).updCtx ctx fun c => { c with absent := c.absent.filter fun b => b != a })

/-- Present several units, the first that fails deciding. -/
def State.presentAll (s : State) (ctx : Nat) : List (Nat × Nat × Nat) → Fill
  | [] => .done s
  | (owner, kind, index) :: rest =>
    match s.present ctx owner kind index with
    | .done s => s.presentAll ctx rest
    | r => r

/-- The units of a group that a list of registers lies in. -/
def regUnits (uid : Nat) (rs : List Reg) : List (Nat × Nat × Nat) :=
  rs.filterMap fun r => match r with
    | .v n => some (uid, 0, n / 8)
    | .s n => some (uid, 1, n / 16)
    | _ => none

/-! ### Stores and loads at their place -/

/-- R254: the memory of a space of a team. -/
def State.readTeam (s : State) (team : Nat) (sp : Space) (a n : Nat) : List Byte :=
  match Tab.get? s.teams team with
  | none => zeros n
  | some t => Mem.readN (if sp == .tile then t.store else t.sharedMem) a n
def State.writeTeam (s : State) (team : Nat) (sp : Space) (a : Nat) (bs : List Byte) : State :=
  s.updTeam team fun t => if sp == .tile then { t with store := Mem.writeN t.store a bs } else { t with sharedMem := Mem.writeN t.sharedMem a bs }

/-- The places of the bytes of some pieces. -/
def piecePlaces (ps : List Piece) : List Nat := ps.flatMap fun p => (List.range p.bytes.length).map fun k => p.loc + k
/-- R267: poison of the sectors that one store instruction covers whole is cleared, at the home and in the L1 copy that the
store updates; of a version's store its copies keep it for the commit. -/
def State.clearWhole (s : State) (core ver : Nat) (pol : Pol) (locs : List Nat) : State :=
  let s := s.clearView ver locs
  if ver == 0 && pol == .l1 then s.clearL1Poison core locs else s

/-- R271: what an atomic computes from the old value, on `w` bits. -/
def atomicNew (m : AMod) (w old b c : Nat) : Nat :=
  match m.op with
  | .add => (old + b) % 2 ^ w
  | .fadd => (fp32.addOp .rn false old b).1
  | .bfadd2 => (bf16.addOp .rn false (old % 2 ^ 16) (b % 2 ^ 16)).1 + 2 ^ 16 * (bf16.addOp .rn false (old / 2 ^ 16) (b / 2 ^ 16)).1
  | .min => if m.sgn then (if sext w old ≤ sext w b then old else b) else min old b
  | .max => if m.sgn then (if sext w old ≤ sext w b then b else old) else max old b
  | .and => Nat.land old b
  | .or => Nat.lor old b
  | .xor => Nat.xor old b
  | .exch => b
  | .cas => if old == c then b else old
  | .inc => if b ≤ old then 0 else old + 1
  | .dec => if old == 0 || decide (b < old) then b else old - 1


/-- R426: whether the place of an atomic can perform it: in the PCIe modes host memory performs ADD, EXCH and CAS alone, where
the host completes AtomicOps. -/
def State.atomicOk (s : State) (m : AMod) (loc : Nat) : Bool :=
  !isHost loc || decide (s.port.mode < 3)
  || (bitOf s.manage.hostAccepts 5 && match m.op with | .add | .exch | .cas => true | _ => false)

/-- R271, R272: one lane's atomic at its place: the old value, or `none` where it meets poison and is not performed. -/
def State.atomicAt (s : State) (core ver : Nat) (m : AMod) (t : Tr) (b c : Nat) : Option Nat × State :=
  match s.viewBytes ver t (m.w / 8) with
  | (_, true) => (none, s)
  | (bs, false) =>
    let old := leNat bs
    (some old, (s.useView ver t (m.w / 8)).storeAt core ver .l1 t (leBytes (m.w / 8) (atomicNew m m.w old b c)))

/-- R414: a lane holds the failure of the access numbered `n`, in the order of the numbers. -/
def Lane.fails (x : Lane) (n : Nat) (code : TrapCode) (addr : Nat) : Lane :=
  { x with failures := (x.failures.filter fun y => decide (y.1 ≤ n)) ++ [(n, code, addr)] ++ x.failures.filter fun y => decide (n < y.1) }
/-- R72, R272, R414: lanes of a result under way fail: nothing is written, the scoreboard falls, and each lane raises its
trap when it next votes. -/
def State.failLanes (s : State) (flight m : Nat) (code : TrapCode) (addr : Nat → Nat) : State :=
  match Tab.get? s.flights flight with
  | none => s
  | some f =>
    (s.unwind flight m).updGroup f.group fun g =>
      g.updLanes (maskAnd m f.lanes) fun l x => x.fails flight code (addr l)

/-- R264: the value that loaded bytes give a register. -/
def extend (sz : Sz) (bs : List Byte) : Nat :=
  let x := leNat bs
  match sz with
  | .s8 => wrapZ 32 (sext 8 x)
  | .s16 => wrapZ 32 (sext 16 x)
  | _ => x

/-- R265: the bytes that a lane's load has read give its register its value, an S register that of the lowest lane of `lanes` alone
(R205). A lane that has failed on the other half of a B128 load takes nothing. -/
def State.giveLoad (s : State) (group lanes : Nat) (sz : Sz) (d : Reg) (fl l : Nat) (bs : List Byte) : State :=
  let owed := match Tab.get? s.flights fl with | some f => inMask f.lanes l | none => false
  let v := extend sz bs
  match d with
  | .s _ =>
    if l == lowLane lanes then
      (s.deliver group d 0 l fl (BitVec.ofNat 32 v)).deliver group d 1 l fl (BitVec.ofNat 32 (v / 2 ^ 32))
    else s
  | _ => if owed then s.deliverN group d l fl v sz.regs else s
/-- R254, R265, R267: what a pending load reads at its place: its bytes, and whether one is poisoned. -/
def State.readPiece (s : State) (p : PStore) (x : Piece) : (List Byte × Bool) × State :=
  match p.inTeam with
  | some (team, ts) => ((s.readTeam team (if ts then .tile else .shared) x.loc x.bytes.length, false), s)
  | none => s.loadAt p.core p.ctx p.version x.va x.bytes.length p.pol { loc := x.loc, ov := x.ov }
/-- R265, R267: one lane's load is performed. -/
def State.loadPiece (s : State) (p : PStore) (sz : Sz) (d : Reg) (fl : Nat) (x : Piece) : State :=
  match s.readPiece p x with
  | ((_, true), s) => s.failLanes fl (2 ^ x.lane) .dataPoison fun _ => x.va
  | ((bs, false), s) => s.giveLoad p.group p.lanes sz d fl x.lane bs
/-- R254, R265: one lane's store is performed. -/
def State.storePiece (s : State) (p : PStore) (x : Piece) : State :=
  match p.inTeam with
  | some (team, ts) => s.writeTeam team (if ts then .tile else .shared) x.loc x.bytes
  | none => s.storeAt p.core p.version p.pol { loc := x.loc, ov := x.ov } x.bytes

/-! ### The B128 accesses of a span, which waits at the instruction until both halves are performed (R286) -/

/-- Form U of a 64-bit value in a pair of registers. -/
def Span.putPair (sp : Span) (r : Reg) (v : Nat) : Span :=
  let at_ := fun (k : Nat) => ({ base := BitVec.ofNat 32 (v / 2 ^ (32 * k)), stride := 0 } : Form)
  match r with
  | .v n => { sp with v := Tab.set (Tab.set sp.v n (at_ 0)) (n + 1) (at_ 1) }
  | .o n => { sp with o := Tab.set (Tab.set sp.o n (at_ 0)) (n + 1) (at_ 1) }
  | _ => sp
/-- The span goes on at the next instruction when nothing that it has issued is pending. -/
def State.spanOn (s : State) (uid : Nat) : State :=
  if s.stores.any fun x => x.2.group == uid then s
  else s.updSpan uid fun sp => match sp.block with
    | .engine _ => { sp with block := .free, pc := sp.pc + 12 }
    | _ => sp
/-- R265, R267: one half of a span's load is performed. It keeps what it read until the other half has been. Where it meets poison
the span issues the load again, which then lowers it (R143, R266). -/
def State.spanHalf (s : State) (n : Nat) (p : PStore) (d : Reg) (x : Piece) : State :=
  match s.readPiece p x with
  | ((_, true), s) => State.updSpan { s with stores := s.stores.filter fun q => q.2.group != p.group } p.group fun sp => { sp with block := .retry }
  | ((bs, false), s) =>
    match p.twin.bind fun k => (Tab.get? s.stores k).map fun q => (k, q) with
    | some (k, q) =>
      match q.load, q.pieces with
      | some (_, d2, _), y :: _ =>
        if q.beside.isEmpty then { s with stores := Tab.set s.stores n { p with pieces := [{ x with bytes := bs }], beside := [x.loc] } }
        else
          let s := s.updSpan p.group fun sp => (sp.putPair d (leNat bs)).putPair d2 (leNat y.bytes)
          State.spanOn { s with stores := Tab.del (Tab.del s.stores n) k } p.group
      | _, _ => s
    | none => s

/-- R254, R271, R272: one lane's atomic is performed: the old value, or `none` where it meets poison. -/
def State.atomicPiece (s : State) (p : PStore) (m : AMod) (x : Piece) : Option Nat × State :=
  match p.inTeam with
  | some (team, ts) =>
    let sp := if ts then Space.tile else .shared
    let old := leNat (s.readTeam team sp x.loc (m.w / 8))
    (some old, s.writeTeam team sp x.loc (leBytes (m.w / 8) (atomicNew m m.w old x.b.toNat x.c.toNat)))
  | none => s.atomicAt p.core p.version m { loc := x.loc, ov := x.ov } x.b.toNat x.c.toNat
/-- R424: the first byte that a pending access reads or writes in a half which the host holds. -/
def State.pieceHeld (s : State) (p : PStore) : Option Nat :=
  if p.inTeam.isSome then none
  else p.pieces.findSome? fun x =>
    let held := fun (write : Bool) => s.viewHeld p.version { loc := x.loc, ov := x.ov } x.bytes.length write
    match p.load, p.atomic with
    | some _, _ => held false
    | none, none => held true
    | none, some _ => (held true).or (held false)

/-- Perform a pending store, atomic or load (R265, R271, R471), when no half it touches is held by the host (R424). -/
def State.perform1 (s : State) (n : Nat) : State × Bool :=
  match Tab.get? s.stores n with
  | none => (s, true)
  | some p =>
    match s.pieceHeld p with
    | some loc => (s.recallAt loc 1, false)
    | none =>
      let was := s
      let s := { s with stores := Tab.del s.stores n }
      match p.load, p.atomic with
      | some (sz, d, fl), _ =>
        match Tab.get? s.spans p.group, p.pieces with
        | some _, x :: _ => (if p.beside.isEmpty then was.spanHalf n p d x else was, true)
        | _, _ => (p.pieces.foldl (fun s x => s.loadPiece p sz d fl x) s, true)
      | none, none =>
        let s := p.pieces.foldl (fun s x => s.storePiece p x) s
        let s := match p.twin with
          | some k => { s with stores := Tab.upd s.stores k fun q => { q with beside := piecePlaces p.pieces } }
          | none => s
        let s := if p.inTeam.isSome then s else s.clearWhole p.core p.version p.pol (p.beside ++ piecePlaces p.pieces)
        (s.spanOn p.group, true)
      | none, some (m, d, fl) =>
        (p.pieces.foldl (fun s x =>
          match s.atomicPiece p m x with
          | (some old, s) => s.deliverN p.group d x.lane fl old (b2w m.x64)
          | (none, s) => s.failLanes fl (2 ^ x.lane) .dataPoison fun _ => x.va) s, true)

/-- A pending access has a byte in common with `n` bytes at a place: of global memory, or of a team's shared memory or tile store. -/
def PStore.touches (p : PStore) (space : Option (Nat × Bool)) (loc n : Nat) : Bool :=
  p.inTeam == space && p.pieces.any fun x => decide (x.loc < loc + n) && decide (loc < x.loc + x.bytes.length)
/-- Two accesses have a byte in common. -/
def PStore.meets (x y : PStore) : Bool := y.pieces.any fun q => x.touches y.inTeam q.loc q.bytes.length
/-- A lane makes both accesses (R283). -/
def PStore.sharesLane (x y : PStore) : Bool := x.pieces.any fun p => y.pieces.any fun q => p.lane == q.lane
/-- A lane makes both accesses, and its own have a byte in common. -/
def PStore.meetsLane (x y : PStore) : Bool :=
  x.inTeam == y.inTeam
  && x.pieces.any fun p => y.pieces.any fun q => p.lane == q.lane && decide (p.loc < q.loc + q.bytes.length) && decide (q.loc < p.loc + p.bytes.length)
/-- R260: two lanes' parts of one atomic instruction. -/
def PStore.sameAtomic (x y : PStore) : Bool :=
  match x.atomic, y.atomic with | some (_, _, f), some (_, _, g) => x.group == y.group && f == g | _, _ => false
/-- R286: two halves of one instruction's B128 access, which are independent. -/
def PStore.halves (n : Nat) (x : PStore) (m : Nat) (y : PStore) : Bool :=
  x.twin == some m || y.twin == some n
  || match x.load, y.load with | some (_, _, f), some (_, _, g) => x.group == y.group && f == g | _, _ => false
/-- R260, R286, R287, R469: pending access `x`, numbered `n`, must be performed before access `y`, numbered `m`. To a core's shared memory, or
to its tile store, accesses are performed as they entered, whichever group issued them. Of one lane's others a store or an atomic follows
all of them, a load those that have a byte in common with it; the lanes of one group are distinct agents, but that of one atomic
instruction they follow one another where they meet. A store that is performed at TEAM scope goes before the accesses of its
core to the same bytes alone (R283, R441). -/
def PStore.precedes (n : Nat) (x : PStore) (m : Nat) (y : PStore) : Bool :=
  decide (n < m) && !PStore.halves n x m y
  && if x.inTeam.isSome && x.core == y.core && x.inTeam.map (·.2) == y.inTeam.map (·.2) then true
     else if x.inL1 then x.core == y.core && x.meets y
     else x.group == y.group && (x.ofSpan || (if y.load.isNone then x.sharesLane y else x.meetsLane y) || (x.sameAtomic y && x.meets y))
/-- Whether a pending access may be performed now (R286, R287, R469). -/
def State.mayPerform (s : State) (n : Nat) : Bool :=
  match Tab.get? s.stores n with
  | none => false
  | some p => (p.load.isNone || p.beside.isEmpty) && s.stores.all fun x => !PStore.precedes x.1 x.2 n p

/-- The pending accesses that `sel` picks and all that must be performed before one of them, in the order of their numbers. -/
def State.before (s : State) (sel : Nat → PStore → Bool) : List Nat :=
  (s.stores.foldr (fun x (acc : List (Nat × PStore)) =>
    if sel x.1 x.2 || acc.any (fun y => PStore.precedes x.1 x.2 y.1 y.2) then x :: acc else acc) []).map (·.1)
/-- Pending accesses are performed one after another; the second part is false where the host still holds a half. -/
def State.performAll (s : State) : List Nat → State × Bool
  | [] => (s, true)
  | n :: ns => match s.perform1 n with
    | (s, true) => s.performAll ns
    | r => r
/-- R254: the team memory that an access goes to; `none` for global and local memory. -/
def Env.teamSpace (e : Env) (sp : Space) : Option (Nat × Bool) :=
  match sp with
  | .shared => some (e.t.uid, false)
  | .tile => some (e.t.uid, true)
  | _ => none
/-- An access of `n` bytes that a lane performs as it issues, as a load or a store of its turn. -/
def Env.access (e : Env) (l : Nat) (sp : Space) (loc n : Nat) (load : Bool) : PStore :=
  { group := e.g.uid, lanes := 0, core := e.t.core, ctx := e.gr.ctx, version := e.gr.version, pol := .l1, scope := .team
    pieces := [{ lane := l, va := loc, loc, ov := none, bytes := zeros n, b := 0, c := 0 }], atomic := none
    load := if load then some (.b32, .v 0, 0) else none, inTeam := e.teamSpace sp }
/-- R287, R469: what must be performed before an access that is performed as it issues. What other lanes of its group have issued to the
same bytes is performed too, which it may be at any moment, so that all lanes of a load read the same (R260). -/
def State.clearFor (s : State) (y : PStore) : State × Bool :=
  s.performAll (s.before fun n x => PStore.precedes n x s.uids y || (x.group == y.group && x.meets y))
/-- R283: a store at TEAM scope in version 0 is performed there when the core's L1 has it; its home may have it later. -/
def State.lazy (s : State) (p : PStore) : Bool :=
  p.pol == .l1 && p.inTeam.isNone && p.load.isNone && p.atomic.isNone && p.version == 0
/-- R283, R287: the stores at TEAM scope of a group are performed at that scope. -/
def State.toTeam (s : State) (group : Nat) : State :=
  { s with stores := s.stores.map fun (x : Nat × PStore) => if x.2.group == group && s.lazy x.2 then (x.1, { x.2 with inL1 := true }) else x }
/-- The accesses of a group that are not performed at any scope are performed. -/
def State.performMine (s : State) (group : Nat) : State × Bool := s.performAll (s.before fun _ x => x.group == group && !x.inL1)
/-- R288: every earlier access of a group is performed at TEAM scope; the second part is false where one still waits. -/
def State.drainTeam (s : State) (group : Nat) : State × Bool := (s.toTeam group).performMine group
/-- R288, R290: every earlier access of a group is performed at its home, with what its core's L1 alone has: the group may have
observed that. -/
def State.drain (s : State) (group : Nat) : State × Bool :=
  let core := match Tab.get? s.groups group, Tab.get? s.spans group with
    | some g, _ => some (s.coreOfGroup g)
    | none, some p => p.team.bind fun t => (Tab.get? s.teams t).map (·.core)
    | none, none => none
  s.performAll (s.before fun _ x => x.group == group || (x.inL1 && some x.core == core))
/-- R288: a release of a group's accesses at a scope. -/
def State.release (s : State) (group : Nat) (scope : Scope) : State × Bool :=
  match scope with
  | .group => (s, true)
  | .team => s.drainTeam group
  | _ => s.drain group

/-! ### Return stack (R159) -/

/-- The outcome of an operation that one lane makes in several accesses. -/
inductive Made (α : Type) where
  | done (a : α) (s : State)
  | fail (code : TrapCode) (addr : Nat) (absent : Option AbsentAt) (s : State)
  | wait (s : State)

/-- R159, R266: the checks of the 8-byte local accesses of a lane at some offsets, one after another: the place of the first. That a
frame moves in eight accesses of 8 bytes, whose addresses TRAPADDR takes, is log entry 77, DESIGN CHOICE. -/
def State.checkLocal (s : State) (e : Env) (l : Nat) (write : Bool) : List Nat → Verdict × State
  | [] => (.wait, s)
  | [a] => s.check e l .localMem a 8 write
  | a :: as =>
    match s.check e l .localMem a 8 write with
    | (.pass t, s) => match s.checkLocal e l write as with
      | (.pass _, s) => (.pass t, s)
      | r => r
    | r => r
/-- The offsets of the 8-byte accesses of `n` bytes. -/
def wordOffsets (a n : Nat) : List Nat := (List.range (n / 8)).map fun k => a + 8 * k
/-- The bytes of 8-byte accesses that follow one another, or the address of the first that reads poison. -/
def State.readLocal (s : State) (e : Env) (va : Nat) (t : Tr) : Nat → (List Byte × Option Nat) × State
  | 0 => (([], none), s)
  | n + 1 =>
    match s.loadAt e.t.core e.gr.ctx e.gr.version va 8 .l1 t with
    | ((_, true), s) => (([], some va), s)
    | ((bs, false), s) => match s.readLocal e (va + 8) (t.add 8) n with
      | ((cs, x), s) => ((bs ++ cs, x), s)

/-- R159: the local loads of `n` bytes that a push or a pop makes, performed at once. -/
def State.localLoad (s : State) (e : Env) (l a n : Nat) : Made (List Byte) :=
  match s.checkLocal e l false (wordOffsets a n) with
  | (.pass t, s) =>
    match s.clearFor (e.access l .localMem t.loc n true) with
    | (s, false) => .wait s
    | (s, true) =>
      match s.readLocal e (localVa e.t.localSlot e.g.gid l a) t (n / 8) with
      | ((_, some va), s) => .fail .dataPoison va none s
      | ((bs, none), s) => .done bs s
  | (.fail c x p, s) => .fail c x p s
  | (.wait, s) => .wait s
/-- The local stores, likewise. -/
def State.localStore (s : State) (e : Env) (l a : Nat) (bs : List Byte) : Made Unit :=
  match s.checkLocal e l true (wordOffsets a bs.length) with
  | (.pass t, s) =>
    match (s.toTeam e.g.uid).clearFor (e.access l .localMem t.loc bs.length false) with
    | (s, false) => .wait s
    | (s, true) => .done () ((s.storeAt e.t.core e.gr.version .l1 t bs).clearWhole e.t.core e.gr.version .l1 ((List.range bs.length).map fun k => t.loc + k))
  | (.fail c x p, s) => .fail c x p s
  | (.wait, s) => .wait s

/-- R159: push an entry on a lane's return stack, with the spill of a full one. -/
def State.push (s : State) (e : Env) (l : Nat) (x : DWord) : Made Unit :=
  let st := (e.g.lane l).rstack
  let set := fun (s : State) (st : List DWord) => s.updGroup e.g.uid fun g => g.updLanes (2 ^ l) fun _ k => { k with rstack := st }
  if st.length < 8 then .done () (set s (st ++ [x]))
  else
    match s.localLoad e l 0 8 with
    | .done bs s =>
      let c := leNat bs
      match s.localStore e l (64 * (c + 1)) (st.flatMap fun y => le 8 y.toNat) with
      | .done _ s =>
        match s.localStore e l 0 (le 8 (c + 1)) with
        | .done _ s => .done () (set s [x])
        | r => r
      | r => r
    | .fail a b c s => .fail a b c s
    | .wait s => .wait s

/-- R159: pop the newest entry, with the fill of an empty stack; `none` when there is no entry. -/
def State.pop (s : State) (e : Env) (l : Nat) : Made (Option DWord) :=
  let st := (e.g.lane l).rstack
  let set := fun (s : State) (st : List DWord) => s.updGroup e.g.uid fun g => g.updLanes (2 ^ l) fun _ k => { k with rstack := st }
  match st.getLast? with
  | some x => .done (some x) (set s st.dropLast)
  | none =>
    match s.localLoad e l 0 8 with
    | .done bs s =>
      let c := leNat bs
      if c == 0 then .done none s
      else
        match s.localLoad e l (64 * c) 64 with
        | .done fr s =>
          match s.localStore e l 0 (le 8 (c - 1)) with
          | .done _ s =>
            let es := (List.range 8).map fun k => BitVec.ofNat 64 (leNat ((fr.drop (8 * k)).take 8))
            .done es.getLast? (set s es.dropLast)
          | .fail a b c s => .fail a b c s
          | .wait s => .wait s
        | .fail a b c s => .fail a b c s
        | .wait s => .wait s
    | .fail a b c s => .fail a b c s
    | .wait s => .wait s

/-! ### Barriers (R173 to R177) -/

/-- R174: whether a lane that waits for phase `p` goes on at phase `now`. -/
def phasePast (now p : Nat) : Bool :=
  let d := (now + 32768 - p % 32768) % 32768
  decide (1 ≤ d) && decide (d ≤ 16383)

def Team.bar (t : Team) (b : Nat) : Barrier := t.bars.getD b { expect := 0, mode := 0, teamdone := false, arrived := 0, phase := 0 }
def Team.setBar (t : Team) (b : Nat) (x : Barrier) : Team := { t with bars := t.bars.set b x }

/-- R174, R179: the lanes and spans of a team that wait for a phase that has passed go on; their release acquires. -/
def Group.barRelease (g : Group) (b phase at_ : Nat) : Group :=
  let m := laneMask fun l => match (g.lane l).block with | .bar c p => c == b && phasePast phase p | _ => false
  g.updLanes m fun _ x => { x with block := .free, pc := x.pc + 8, readyAt := max x.readyAt at_ }
def State.barRelease (s : State) (team b : Nat) : State :=
  match Tab.get? s.teams team with
  | none => s
  | some t =>
    let c := s.core t.core
    let at_ := c.now + 2 * c.passes
    let ph := (t.bar b).phase
    let s := { s with
      groups := s.groups.map fun (g : Nat × Group) => if g.2.team == team then (g.1, g.2.barRelease b ph at_) else g
      spans := s.spans.map fun (p : Nat × Span) => if p.2.team == some team then
        (p.1, match p.2.block with
              | .bar c q => if c == b && phasePast ph q then { p.2 with block := .free, pc := p.2.pc + 8, readyAt := max p.2.readyAt at_ } else p.2
              | _ => p.2) else p }
    s.acquire t.core .team

/-- R177: the cluster's or grid's phase completes when every team has done its part. -/
def State.wideCheck (s : State) (team b : Nat) : State :=
  match Tab.get? s.teams team with
  | none => s
  | some t =>
    match Tab.get? s.grids t.grid with
    | none => s
    | some gr =>
      let k := gr.kernel.csize
      let mem := s.teams.filter fun x => x.2.grid == t.grid && (b == 14 || x.2.index / k == t.index / k)
      if (b == 15 || gr.nteams ≤ gr.next) && mem.all fun x => (x.2.bar b).teamdone then
        mem.foldl (fun s x =>
          (s.updTeam x.1 fun t => let y := t.bar b
                                  t.setBar b { y with phase := (y.phase + 1) % 32768, arrived := 0, teamdone := false }).barRelease x.1 b) s
      else s

/-- R174, R175, R177: whether a barrier's phase is complete, and what follows. -/
def State.barCheck (s : State) (team b : Nat) : State :=
  match Tab.get? s.teams team with
  | none => s
  | some t =>
    let x := t.bar b
    if x.arrived == x.expect && x.expect != 0 && !x.teamdone then
      if x.mode ≤ 1 then
        (s.updTeam team fun t => t.setBar b { x with phase := (x.phase + 1) % 32768, arrived := 0 }).barRelease team b
      else (s.updTeam team fun t => t.setBar b { x with teamdone := true }).wideCheck team b
    else s

/-- R175: `n` items of a team exit, one by one: the phase completes where EXPECT comes down to ARRIVED. -/
def State.barExit (s : State) (team n : Nat) : State :=
  (List.range 16).foldl (fun s b =>
    match Tab.get? s.teams team with
    | none => s
    | some t =>
      let x := t.bar b
      if x.mode == 1 then s
      else
        let met := decide (x.arrived < x.expect) && decide (x.expect - n ≤ x.arrived)
        let s := if met then (s.updTeam team fun t => t.setBar b { x with expect := x.arrived }).barCheck team b else s
        s.updTeam team fun t => t.setBar b { t.bar b with expect := x.expect - n }) s

/-! ### Leaving the handler, exit (R108, R147) -/

/-- R108: lanes leave the trap handler; when the last that entered has left, VALID clears and the parked lanes try
again. -/
def Group.leaveHandler (g : Group) (m : Nat) : Group :=
  let had := g.lanes.any (·.handler)
  let g := g.updLanes m fun _ x => { x with handler := false }
  if had && !g.lanes.any (·.handler) then
    { g with trapcode := BitVec.ofNat 32 (g.trapcode.toNat % 2 ^ 15),
             lanes := g.lanes.map fun x => if x.block == .trapWait then { x with block := .free } else x }
  else g

/-- A lane that has exited. -/
def Lane.exit (x : Lane) : Lane :=
  { x with exited := true, rstack := [], block := .free, watch := Option.none, failures := [], yielding := false, due := Option.none }

/-- Everything that names a group goes with it. -/
def State.forgetGroup (s : State) (uid : Nat) : State :=
  { s with
    groups := Tab.del s.groups uid
    teams := s.teams.map fun (t : Nat × Team) => (t.1, { t.2 with latches := t.2.latches.filter fun x => x.group != uid })
    flights := s.flights.filter fun f => f.2.group != uid
    stores := s.stores.filter fun p => !(p.2.group == uid && p.2.load.isSome)
    pfaults := s.pfaults.map fun p => (p.1, { p.2 with lanes := p.2.lanes.filter fun x => x.1 != uid, met := p.2.met.filter fun x => x.owner != uid })
    contexts := s.contexts.map fun c => (c.1, { c.2 with absent := c.2.absent.filter fun a => !(a.owner == uid && decide (a.kind < 2)) })
    cores := s.cores.map fun c => (c.1, { c.2 with
      rgrowq := c.2.rgrowq.filter fun x => x.1 != uid
      tsallocq := c.2.tsallocq.filter fun x => x.1 != uid
      accq := c.2.accq.filter fun x => x.1 != uid }) }

/-- R304: a group goes, and with it what its H registers hold. -/
def State.dropGroup (s : State) (uid : Nat) : State :=
  match Tab.get? s.groups uid with
  | none => s.forgetGroup uid
  | some g => ((g.h.filter fun x => hState x.2 != 0).map fun x => hFid x.2).foldl (fun s f => s.freeFuture g.team f) (s.forgetGroup uid)

/-- R135: a group whose lanes have all exited, and none of which a span holds, retires. -/
def State.groupEnd (s : State) (uid : Nat) : State :=
  match Tab.get? s.groups uid with
  | none => s
  | some g =>
    if g.lanes.all fun x => !x.inRange || (x.exited && !x.held) then
      (s.dropGroup uid).updTeam g.team fun t => { t with vgone := Tab.set t.vgone g.gid g.vallot }
    else s

/-- R147, R135, R175, R108: lanes of a group exit. -/
def State.exitLanes (s : State) (uid m : Nat) : State :=
  match Tab.get? s.groups uid with
  | none => s
  | some g =>
    let m := maskAnd m g.liveMask
    let s := s.setGroup ((g.leaveHandler m).updLanes m fun _ x => x.exit)
    (s.barExit g.team (popN 64 m)).groupEnd uid

/-! ### Parking at a replayable fault (R107, R330, R332) -/

/-- R330: the entry of a die's pending-fault table for a fault: the one that is there, or a free one; `none` when the
table is full. A table key is die * 256 + slot. Writes that meet a leaf as MIGRATING, which wait for an invalidation and no
service, have an entry of their own (R328). -/
def State.pfaultSlot (s : State) (core ctx va : Nat) (a : AbsentAt) : Option Nat × State :=
  match s.pfaults.find? fun x => x.2.ctx == ctx && x.2.key == a.key && (eST x.2.entry == 3) == (eST a.entry == 3) with
  | some x => (some x.1, s)
  | none =>
    match Tab.lowestFree s.pfaults (256 * locDie (physLoc 0 a.key)) 256 with
    | none => (none, s)
    | some k =>
      let p : PFault := { ctx, key := a.key, level := a.level, va, entry := a.entry, host := bitOf s.fnmode.toNat 0,
                          flags := a.flags, core, recorded := false, lanes := [], ops := [], reqs := [] }
      (some k, { s with pfaults := Tab.set s.pfaults k p })

/-- R330: an access attaches to an entry: how it met the fault. -/
def PFault.note (p : PFault) (m : Met) : PFault :=
  { p with met := (p.met.filter fun x => !(x.owner == m.owner && x.lane == m.lane)) ++ [m] }

/-- R332: with host-assisted service, the entries that have sent no record send it; a page that is MIGRATING sends none
(R328). -/
def State.postFaults (s : State) : State :=
  s.pfaults.foldl (fun s x =>
    if x.2.host && !x.2.recorded && eST x.2.entry == 2 then
      State.evqPost { s with pfaults := Tab.upd s.pfaults x.1 fun p => { p with recorded := true } } x.2.ctx (x.2.bytes x.1)
    else s) s

/-- R10: a fault records its address in TRAPADDR of the lanes' group; while TRAPCODE.VALID is 1, TRAPADDR describes the trap under
way (R50) and stays (log entry 60, DEDUCED). -/
def State.faultAddr (s : State) (uid va : Nat) : State :=
  s.updGroup uid fun g => if g.trapValid then g else { g with trapaddr := BitVec.ofNat 64 va }
/-- R10, R330: a lane parks at a fault. With a full table the lane waits at issue. -/
def State.parkLane (s : State) (core ctx uid : Nat) (r : Raise) (a : AbsentAt) : State :=
  match s.pfaultSlot core ctx r.addr a with
  | (none, s) => s.updGroup uid fun g => g.updLanes (2 ^ r.lane) fun _ x => { x with block := .retry }
  | (some k, s) =>
    let s := { s with pfaults := Tab.upd s.pfaults k fun p =>
      { p with lanes :=
          if p.lanes.any fun (x : Nat × Nat) => x.1 == uid then
            p.lanes.map fun (x : Nat × Nat) => if x.1 == uid then (x.1, maskOr x.2 (2 ^ r.lane)) else x
          else p.lanes ++ [(uid, 2 ^ r.lane)] }.note { owner := uid, lane := r.lane, va := r.addr, flags := a.flags, core } }
    (s.faultAddr uid r.addr).updGroup uid fun g => g.updLanes (2 ^ r.lane) fun _ x => { x with block := .fault }

/-! ### What the part reads and writes for a context (R119, R122) -/

/-- R119, R122: whether Orrery may access bytes of a context: a fault goes to fault service, with core 0 of the die as
its core (log entry 40, DEDUCED), and a half the host holds is recalled. -/
def State.partReady (s : State) (home ctx va n : Nat) (write : Bool) : PartEnd × State :=
  match s.partAll ctx write (sectorStarts va n) with
  | .absent x a =>
    (.absent x a,
      match s.pfaultSlot (128 * home) ctx x a with
      | (none, s) => s
      | (some k, s) => { s with pfaults := Tab.upd s.pfaults k fun p =>
          ({ p with ops := if p.ops.contains (256 + home, 0) then p.ops else p.ops ++ [(256 + home, 0)] }.note
            { owner := 0, lane := 64 + 256 + home, va := x, flags := a.flags, core := 128 * home }) }.postFaults)
  | .wait loc => (.wait loc, s.recallAt loc 8)
  | .ok => (.ok, if write then s else s.partTouch ctx va n)
  | r => (r, s)

/-- R122, R423: the host interrupt of a queue: the message of its context's vector, which the window has assigned to the context's event
queue; the spec names no vector of a queue's own (log entry 93, DESIGN CHOICE). -/
def State.queueInterrupt (s : State) (q : Nat) : State :=
  let v := ((Tab.get? s.queues q).bind fun k => (Tab.get? s.contexts k.desc.ctx.toNat).map (·.msix)).getD 0
  { s with port := { s.port with interrupts := s.port.interrupts ++ [v] } }
/-- R122: write an entry at a position of a queue, with its interrupt: it waits for a page that is absent, and where it
cannot be written the window's status for the queue holds the address and the position counts as failed. An entry that is still owed
when a reset comes, and then cannot be written, sets that address and does not move the queue to FAULTED again (log entry 90, DESIGN
CHOICE). -/
def State.writeEntry (s : State) (q pos : Nat) (entry : List Byte) (irq : Bool) : State :=
  match Tab.get? s.queues q with
  | none => s
  | some k =>
    match s.partReady (b2n k.desc.home) k.desc.ctx.toNat (k.entryVa pos) 32 true with
    | (.ok, s) =>
      let s := (s.partStore k.desc.ctx.toNat (k.entryVa pos) entry).getD s
      if irq then s.queueInterrupt q else s
    | (.bad va, s) => s.updQueue q fun k => { k with faultAddr := va, codes := Tab.set k.codes pos 0x100 }
    | (_, s) => s.updQueue q fun k => { k with owing := k.owing ++ [(pos, entry, irq)] }

/-- R117, R122: a queue enters FAULTED at a position, with an entry of a code. -/
def State.faultQueue (s : State) (q pos code : Nat) (entry : List Byte) (irq : Bool) : State :=
  let s := s.updQueue q fun k =>
    { k with state := if k.state == .destroyed then .destroyed else .faulted, draining := false,
             faultPos := match k.faultPos with | some p => some (min p pos) | none => some pos,
             codes := Tab.set k.codes pos code }
  s.writeEntry q pos entry irq

/-! ### Ending a grid (R109) -/

/-- A child tag completes with a code (R128), one whose grid has retired with the code of its end. -/
def State.childDone (s : State) (grid code : Nat) : State :=
  { s with children := s.children.map fun c =>
      if c.2.grid == some grid && c.2.done.isNone then (c.1, { c.2 with done := some (c.2.ended.getD code) }) else c }
/-- R122: the children that a grid launched have completed, and its stores and atomics are performed, those of peers answered. -/
def State.gridQuiet (s : State) (ctx grid : Nat) : Bool :=
  !(s.children.any fun c => c.2.parent == grid && c.2.done.isNone)
  && !(s.streams.any fun x => x.owed.any fun o => o.grid == grid && o.copy.isNone)
  && !(s.stores.any fun p => p.2.ctx == ctx && p.2.inTeam.isNone && (Tab.get? s.groups p.2.group).isNone && (Tab.get? s.spans p.2.group).isNone)
/-- R122: a child whose grid has retired completes when all of it is done. -/
def State.childrenDone (s : State) : State :=
  { s with children := s.children.map fun (c : Nat × Child) => match c.2.ended, c.2.grid with
      | some code, some g => if c.2.done.isNone && s.gridQuiet c.2.ctx g then (c.1, { c.2 with done := some code }) else c
      | _, _ => c }
/-- R122: the grid of a child retires with a code. -/
def State.childEnded (s : State) (grid code : Nat) : State :=
  State.childrenDone { s with children := s.children.map fun c =>
      if (c.2.grid == some grid) && c.2.done.isNone && c.2.ended.isNone then (c.1, { c.2 with ended := some code }) else c }

/-- Whether a grid of a queue runs. -/
def State.queueRuns (s : State) (q : Nat) : Bool := s.grids.any fun g => g.2.queue == q

/-- The record of a queue that may start next. -/
def Queue.head (k : Queue) : Option Record := (k.records.find? fun r => !r.2.started).map (·.2)

/-- R117: the moves that follow of themselves: ARMED with a record present runs, RUNNING with none is ARMED, BLOCKED with no record
that waits to start runs, and a drain ends when no grid runs. -/
def State.settle (s : State) (q : Nat) : State :=
  let runs := s.queueRuns q
  s.updQueue q fun k =>
    let present := !k.records.isEmpty || (!k.desc.feed && decide (k.rptr < k.wptr))
    if k.draining && !runs && k.state != .faulted && k.state != .destroyed then { k with state := .drained, draining := false }
    else if k.state == .armed && present then { k with state := .running }
    else if (k.state == .running || k.state == .blocked) && !present then { k with state := .armed }
    else if k.state == .blocked && k.head.isNone then { k with state := .running }
    else k

/-- R135: a grid none of whose spans and teams is left, and all of whose teams were dispatched or never will be, retires. -/
def State.gridEnd (s : State) (uid : Nat) : State :=
  match Tab.get? s.grids uid with
  | none => s
  | some gr =>
    if (s.squashes.any fun q => q.grids.contains uid) || (s.spans.any fun p => p.2.grid == uid) || (s.teams.any fun t => t.2.grid == uid) || (gr.cut && decide (gr.next < gr.nteams)) then s
    else (State.childEnded { s with grids := Tab.del s.grids uid } uid gr.code).settle gr.queue

/-- R109: end a grid as EXIT of every lane would: no lane, no span and no undispatched team is left. Its engine operations
and issued stores go on. -/
def State.endGrid (s : State) (uid code : Nat) : State :=
  let gs := s.groups.filter fun g => g.2.grid == uid
  let s := { s with spans := s.spans.filter fun p => p.2.grid != uid }
  let s := s.updGrid uid fun g => { g with next := g.nteams, spanning := false, cut := true, templates := [], stopped := true, code }
  let s := gs.foldl (fun s g => (s.updGroup g.1 fun g => { g with lanes := g.lanes.map fun x => { x with held := false } }).exitLanes g.1 allLanes) s
  let s := gs.foldl (fun s g => s.dropGroup g.1) s
  State.gridEnd { s with teams := s.teams.map fun (t : Nat × Team) => if t.2.grid == uid then
      (t.1, { t.2 with bars := t.2.bars.map fun b => { b with expect := 0 } }) else t } uid

/-- R127: the children of a grid that still run, `n` levels down, nearest first. -/
def State.childGrids (s : State) : Nat → Nat → List Nat
  | 0, _ => []
  | n + 1, uid =>
    let cs := s.children.filterMap fun c => if c.2.parent == uid && c.2.done.isNone then c.2.grid else none
    cs ++ cs.flatMap fun c => s.childGrids n c

/-! ### The trap area and delivery by Orrery (R109 to R111) -/

/-- R110: the address at which a trap-time record of `n` bytes goes into the trap area, if it fits. -/
def Context.trapPlace (c : Context) (n : Nat) : Option Nat :=
  let base := c.desc.savebase.toNat
  let top := match c.trapLow with
    | some x => x / 128 * 128
    | none => base + c.desc.savelen.toNat
  let low := match c.saveEnd with
    | some x => x
    | none => (base + 16 + 4095) / 4096 * 4096
  if top < low + n then none else some (top - n)
/-- R110: where records of some sizes go, one after another, those that fit. -/
def Context.trapSpots (c : Context) : List Nat → List (Nat × Nat)
  | [] => []
  | n :: ns => match c.trapPlace n with
    | some va => (va, n) :: Context.trapSpots { c with trapLow := some va } ns
    | none => c.trapSpots ns
/-- R110, R424, R328: the trap area takes records of some sizes now: no page of theirs is absent, which goes to fault service, and no
half held by the host, which is asked for. A page that permits no write lets the record go unwritten, as one that does not fit (log
entry 88, DESIGN CHOICE). -/
def State.trapReady (s : State) (home ctx : Nat) (ns : List Nat) : Bool × State :=
  (((Tab.get? s.contexts ctx).map fun c => c.trapSpots ns).getD []).foldl (fun r x =>
    if !r.1 then r
    else match r.2.partReady home ctx x.1 x.2 true with
      | (.absent _ _, s) | (.wait _, s) => (false, s)
      | (_, s) => (true, s)) (true, s)
/-- R110: write a trap-time record of `n` bytes in the trap area: the address, or 0 when it does not fit or the pages
do not permit it. -/
def State.trapWrite (s : State) (ctx : Nat) (bs : List Byte) : Nat × State :=
  match (Tab.get? s.contexts ctx).bind fun c => c.trapPlace bs.length with
  | none => (0, s)
  | some va =>
      match s.partStore ctx va bs with
      | none => (0, s)
      | some s => (va, s.updCtx ctx fun c => { c with trapLow := some va })

/-- R109, R105, R424: what is absent of a group can be filled for its record now: a page that is absent goes to fault service, and a half
that the host holds is asked for. -/
def State.unitsReady (s : State) (home ctx uid : Nat) : Bool × State :=
  ((((Tab.get? s.contexts ctx).map (·.absent)).getD []).filter fun a => a.owner == uid && decide (a.kind < 2)).foldl (fun r a =>
    match r.2.partReady home ctx a.va (r.2.unitSize a) false with
      | (.absent _ _, s) | (.wait _, s) => (false, s)
      | (_, s) => (r.1, s)) (true, s)
/-- R109, R110: the trap-time record of a group, and what else of some sizes the trap area takes with it, can be written now. -/
def State.recordReady (s : State) (home ctx uid : Nat) (ns : List Nat) : Bool × State :=
  match s.unitsReady home ctx uid with
  | (true, s) => s.trapReady home ctx ns
  | r => r
/-- R104, R109: fill what is absent of a group before its record is written. A unit whose saved record is poisoned, or whose page permits no
read, stays as it is, and the group's record holds what the registers hold: the spec does not say what goes there (log entry 95, DESIGN
CHOICE). -/
def State.fillGroup (s : State) (ctx uid : Nat) : State :=
  (((Tab.get? s.contexts ctx).map (·.absent)).getD []).foldl (fun s a =>
    if a.owner == uid && decide (a.kind < 2) then
      match s.present ctx uid a.kind a.index with
      | .done s => s
      | _ => s
    else s) s
/-- R109, R110: the record of a group goes into the trap area: its address. -/
def State.trapRecord (s : State) (ctx uid : Nat) : Nat × State :=
  let s := s.fillGroup ctx uid
  match Tab.get? s.groups uid with
  | some g => s.trapWrite ctx g.record
  | none => (0, s)

/-- R109, R111: Orrery delivers a trap that the lanes `m` of a group raised. With TRAPDLV = 1 those lanes run again at their
return PC, and offset 0x18 of the record on EVQ is 0: the record of the group that the full save writes is not written for the trap. With
TRAPDLV = 0 the tags of the children that end with the trapping grid take its trap code (log entry 86, DESIGN CHOICE, for both). -/
def State.orreryTrap (s : State) (uid m : Nat) (ret : BitVec 49) (code : TrapCode) (tag lane : Nat) (multi dbl : Bool)
    (addr : Nat) : State :=
  match s.env? uid with
  | none => s
  | some e =>
    let ctx := e.gr.ctx
    let info : TrapInfo := { ctx, code := code.num, tag, queue := e.gr.queue, core := e.t.core, teamid := e.t.index, gid := e.g.gid,
                             lane, multi, double := dbl, version := e.gr.version, addr, recordVa := 0 }
    if bitOf s.fnmode.toNat 2 then
      let s := s.updGroup uid fun g => g.updLanes m fun _ x => { x with pc := ret }
      let s := s.updCtx ctx fun c => if c.state == .running || c.state == .ready then { c with state := .preempting, toFaulted := true } else { c with toFaulted := true }
      s.evqPost ctx info.bytes
    else
      let (va, s) := s.trapRecord ctx uid
      let info := { info with recordVa := va }
      let kids := s.childGrids 5 e.gr.uid
      let s := kids.foldl (fun s k => (s.endGrid k code.num).childDone k code.num) (s.endGrid e.gr.uid code.num)
      match e.gr.tag with
      | none =>
        let irq := match (Tab.get? s.queues e.gr.queue).bind fun q => Tab.get? q.records e.gr.pos with
          | some r => bitOf r.flags 0
          | none => false
        (s.faultQueue e.gr.queue e.gr.pos code.num info.bytes irq).updQueue e.gr.queue fun q =>
          { q with records := Tab.upd q.records e.gr.pos fun r => { r with posted := true, code := code.num } }
      | some _ => (s.trapWrite ctx info.bytes).2.childDone e.gr.uid code.num

/-! ### Taking a trap (R106, R108, R470) -/

/-- R50: TRAPCODE and TRAPADDR take a trap. -/
def Group.setTrap (g : Group) (code : TrapCode) (lane : Nat) (multi valid : Bool) (addr : Nat) : Group :=
  { g with trapcode := BitVec.ofNat 32 (code.num + 2 ^ 8 * lane + 2 ^ 14 * b2n multi + 2 ^ 15 * b2n valid), trapaddr := BitVec.ofNat 64 addr }

/-- R470: the trap of the lowest trapping lane. -/
def lowestRaise : List Raise → Option Raise
  | [] => none
  | r :: rs => match lowestRaise rs with
    | some q => if q.lane < r.lane then some q else some r
    | none => some r

def raiseMask (rs : List Raise) : Nat := laneMask fun l => rs.any fun r => r.lane == l

/-- R108: each lane that takes the trap pushes its return PC, marked as a trap frame. A push may fail, or have to wait. -/
def State.pushAll (s : State) (uid : Nat) (ret : BitVec 49) : List Nat → Made Unit
  | [] => .done () s
  | l :: ls =>
    match s.env? uid with
    | none => .done () s
    | some e =>
      match s.push e l (BitVec.ofNat 64 (2 ^ 63 + ret.toNat)) with
      | .done _ s => s.pushAll uid ret ls
      | r => r

/-- R381: the SPLNCH that lanes of a group wait in do not happen: the versions that they have made, and not written, go. -/
def State.unborn (s : State) (uid m : Nat) : State :=
  { s with versions := s.versions.filter fun v => match v.2.launching with
      | some (.lane u l _, _) => !(u == uid && inMask m l)
      | _ => true }

/-- R384, R397: the stalls that a trap entry which has to wait met in `t` are those of `s`, which it leaves else as it was: the versions are
marked, and the record of a first stall goes out. -/
def State.starvedBy (s t : State) : State :=
  t.versions.foldl (fun s v => ((v.2.stalled.filter fun w => (Tab.get? s.versions v.1).all fun x => !x.stalled.contains w)).foldl (fun s w =>
    s.starve v.2.ctx v.1 w) s) s

/-- R106 to R111, R470: the lanes of a group take what they raise in one instruction at `pc`. PAGE_ABSENT parks; of the
others the lowest lane's trap is delivered: TRAPCODE and TRAPADDR are set, the lanes that raised it push their return PC
and go to the handler, and lanes with another trap park until VALID clears. Without a handler, and inside one, Orrery
delivers. A return-stack push that faults makes the entry a double trap, which carries the code, lane and address of the trap
that was being delivered (log entry 44, DESIGN CHOICE); one that has to wait, or a trap area that the host holds (R424), makes the lanes try the instruction again. The tag
is that of TRAP or BPT, 0 for any other trap (R111). -/
def State.takeTrap (s : State) (uid : Nat) (pc next : BitVec 49) (tag : Nat) (rs : List Raise) : State :=
  match s.env? uid with
  | none => s
  | some e =>
    let s := rs.reverse.foldl (fun s r => match r.absent with | some a => s.parkLane e.t.core e.gr.ctx uid r a | none => s) (s.unborn uid (raiseMask rs))
    let s := s.postFaults
    let rest := rs.filter fun r => r.absent.isNone
    let inside := fun (r : Raise) => (e.g.lane r.lane).handler
    let valid := e.g.trapValid
    let cand := if valid then rest.filter inside else rest
    match lowestRaise cand with
    | none => s.updGroup uid fun g => g.updLanes (raiseMask rest) fun _ x => { x with block := .trapWait }
    | some d =>
      let same := cand.filter fun r => r.code == d.code
      let m := raiseMask same
      let multi := decide (1 < same.length)
      let own := d.code == .software || d.code == .breakpoint
      let ret := if own then next else pc
      let mark := fun (s : State) =>
        let s := s.updGroup uid fun g =>
          let g := same.foldl (fun g r => g.updLanes (2 ^ r.lane) fun _ x => { x with failures := x.failures.filter fun y => some y.1 != r.failed }) g
          (g.updLanes (maskDiff (raiseMask rest) m) fun _ x => { x with block := .trapWait }).setTrap d.code d.lane multi valid d.addr
        { s with latches := s.latches.filter fun x => some x != d.latch }
      let full := bitOf s.fnmode.toNat 2
      let able := fun (s : State) =>
        if full then s.trapReady e.gr.home e.gr.ctx [] else s.recordReady e.gr.home e.gr.ctx uid [e.g.recordSize, 32]
      let dbl := fun (s : State) => match able s with
        | (false, s) => s.updGroup uid fun g => g.updLanes (raiseMask rest) fun _ x => { x with block := .retry }
        | (true, s) => (mark s).orreryTrap uid m ret d.code (if own then tag else 0) d.lane multi true d.addr
      if valid || e.gr.kernel.handler == 0 then dbl s
      else match s.pushAll uid ret (lanesOf m) with
        | .fail _ _ _ _ => dbl s
        | .wait t => (({ s with port := t.port } : State).starvedBy t).updGroup uid fun g => g.updLanes (raiseMask rest) fun _ x => { x with block := .retry }
        | .done _ s => (mark s).updGroup uid fun g =>
            { g.updLanes m fun _ x => { x with pc := BitVec.ofNat 49 e.gr.kernel.handler, handler := true, block := .free } with
              trapcode := g.trapcode ||| 0x8000 }

end Sys2Proof.Machine
end

