-- ==== Sys2Proof/Machine/Spans.lean ====
section
/-! DEFINITION. Spans (spec/07_kernel.md R136 to R149): forms, cutting, lowering, unifying and rejoining. -/

namespace Sys2Proof.Machine

/-! ### Forms (R136) -/

def Form.zero : Form := { base := 0, stride := 0 }
def Form.u (w : Word) : Form := { base := w, stride := 0 }
def Form.isU (f : Form) : Bool := f.stride == 0
/-- The value at an item: 32-bit wrapping arithmetic on the low 32 bits of ITEM. -/
def Form.at_ (f : Form) (item : Nat) : Word := f.base + f.stride * BitVec.ofNat 32 item
def PForm.at_ (p : PForm) (item : Nat) : Bool :=
  match p with
  | .u b => b
  | .lt t => decide (item < t)
  | .ge t => decide (t ≤ item)
/-- R136: a threshold that is the same over the range is held as U. -/
def PForm.norm (first last : Nat) (p : PForm) : PForm :=
  match p with
  | .u b => .u b
  | .lt t => if t ≤ first then .u false else if last < t then .u true else .lt t
  | .ge t => if t ≤ first then .u true else if last < t then .u false else .ge t
def PForm.neg (p : PForm) : PForm :=
  match p with
  | .u b => .u !b
  | .lt t => .ge t
  | .ge t => .lt t

def Span.formOf (sp : Span) (r : Reg) : Form :=
  match r with
  | .v n => Tab.get sp.v n Form.zero
  | .o n => Tab.get sp.o n Form.zero
  | .z n => Tab.get sp.z n Form.zero
  | _ => Form.zero
def Span.pform (sp : Span) (n : Nat) : PForm := if n == 7 then .u true else PForm.norm sp.first sp.last (Tab.get sp.p n (.u false))
def Span.setForm (sp : Span) (r : Reg) (f : Form) : Span :=
  match r with
  | .v n => { sp with v := Tab.set sp.v n f }
  | .o n => { sp with o := Tab.set sp.o n f }
  | .z n => { sp with z := Tab.set sp.z n f }
  | _ => sp
def Span.setP (sp : Span) (n : Nat) (p : PForm) : Span := if n == 7 then sp else { sp with p := Tab.set sp.p n (PForm.norm sp.first sp.last p) }
/-- R38 in a span: Z1 takes the old Z0 and Z0 the result. -/
def Span.pushZ (sp : Span) (f : Form) : Span := (sp.setForm (.z 1) (sp.formOf (.z 0))).setForm (.z 0) f
def Span.sreg (sp : Span) (n : Nat) : DWord := Tab.get sp.s n 0

/-- R68: the guard of a span's items. -/
def Span.guard (sp : Span) (h : Hdr) : PForm :=
  let p := sp.pform h.gp.toNat
  if h.gn then p.neg else p

/-! ### The grid's items -/

/-- The team that holds an item, and its TITEM (R131). -/
def Grid.teamOf (gr : Grid) (item : Nat) : Nat := item / gr.kernel.tsize
def Grid.titem (gr : Grid) (item : Nat) : Nat := item % gr.kernel.tsize

/-- The core number under which an Orrery's span processor keeps its counter. -/
def orreryCore (die : Nat) : Nat := 256 + die
def State.spanCore (s : State) (sp : Span) : Nat :=
  match sp.team with
  | some t => ((Tab.get? s.teams t).map (·.core)).getD 0
  | none => orreryCore (((Tab.get? s.grids sp.grid).map (·.home)).getD 0)

/-- A team as it is dispatched (R32, R171), before its groups or spans exist. -/
def Team.blank (uid grid ctx index core slot : Nat) (k : Kernel) : Team :=
  { uid, grid, index, ctx, core, resident := true, localSlot := slot, shared := k.shared, sharedMem := [], granules := 0,
    freeing := [], store := [], a := [], t := [], am := [],
    bars := List.replicate 16 { expect := k.tsize, mode := 0, teamdone := false, arrived := 0, phase := 0 },
    futures := [], ops := [], latches := [], vgone := [], saved := [], halted := [], heldLocks := [] }

/-- GCTL at launch (R46). -/
def Kernel.gctl (k : Kernel) : Word := BitVec.ofNat 32 (b2n k.prog + 2 ^ 16 * k.fairt)
/-- S registers at launch (R118). -/
def argTab (args : List DWord) : Tab DWord := (mapFrom (fun i x => (i, x.2)) 0 (args.map fun a => (0, a)))

/-- A lane at launch or at lowering: at `pc`, with the LFSR that FPCTL gives (R47, R143). -/
def Lane.launch (pc : BitVec 49) (fpctl : Word) (l : Nat) : Lane :=
  { Lane.none with pc, inRange := true, lfsr := lfsrOf fpctl l }

/-- A group at launch with the values of R32 and R35, every lane outside the launch range. -/
def Group.blank (uid team : Nat) (gr : Grid) (gid : Nat) : Group :=
  let k := gr.kernel
  { team, grid := gr.uid, gid, v := [], o := [], z := [], s := argTab gr.args, p := [], j := [], h := [], fmt := [],
    vallot := k.vallot, reserve := k.reserve, slim := k.slim, divdepth := k.divdepth, depth := 0, fpctl := 0, fpstat := 0,
    gctl := k.gctl, rowprog := 0, trapcode := 0, trapaddr := 0, lanes := List.replicate 64 Lane.none, gang := 2 ^ gid, stamps := [], uid }

/-- Lanes of group `g` that are in the launch range (R131). -/
def Kernel.laneMask (k : Kernel) (g : Nat) : Nat := Machine.laneMask fun l => decide (64 * g + l < k.tsize)

/-! ### Cutting (R138, R141) -/

/-- The two parts of a span at item `t`: items below `t` and from `t` on. -/
def Span.below (sp : Span) (t : Nat) : Span := { sp with last := t - 1 }
def Span.above (sp : Span) (t uid : Nat) : Span := { sp with first := t, uid }

/-- R48, R75: what a span's instructions still owe its FPSTAT enters now. -/
def State.settleSpan (s : State) (uid : Nat) : State :=
  ((s.flights.filter fun f => f.2.group == uid && !f.2.landed).map (·.1)).foldl (fun s n => s.land n) s
/-- A span goes, with what it is owed. -/
def State.dropSpan (s : State) (uid : Nat) : State :=
  { s with spans := Tab.del s.spans uid, flights := s.flights.filter fun f => f.2.group != uid }
/-- R48: what a span is cut into, lowers into or folds from is owed the same flags: another group or span takes a share. -/
def State.shareFlags (s : State) (uid new : Nat) : State :=
  (s.flights.filter fun f => f.2.group == uid && !f.2.landed && f.2.flags != 0).foldl (fun s f =>
    let (n, s) := s.fresh
    { s with flights := Tab.set s.flights n { f.2 with group := new, regs := [], sb := none } }) s
/-- R48, R145: what spans that have merged were owed, the span that now holds their items is owed. -/
def State.adoptFlags (s : State) (old : List Span) : State :=
  { s with flights := s.flights.map fun f =>
      match old.find? fun p => p.uid == f.2.group && (Tab.get? s.spans p.uid).isNone with
      | none => f
      | some p => match s.spans.find? fun x => x.2.team == p.team && x.2.grid == p.grid && decide (x.2.first ≤ p.first) && decide (p.first ≤ x.2.last) with
        | some x => (f.1, { f.2 with group := x.1 })
        | none => f }

/-- R139: whether one more span fits: 64 on a core's span unit, 64 at grid level in a grid. -/
def State.spanRoom (s : State) (sp : Span) : Bool :=
  match sp.team with
  | some _ => decide ((s.spans.filter fun x => x.2.team.isSome && s.spanCore x.2 == s.spanCore sp).length < 64)
  | none => decide ((s.spans.filter fun x => x.2.team.isNone && x.2.grid == sp.grid).length < 64)

/-- R138: every grid-level span of a grid becomes a template of team spans. -/
def State.cutTeams (s : State) (grid : Nat) : State :=
  let s := (s.spans.filter fun x => x.2.team.isNone && x.2.grid == grid).foldl (fun s x => s.settleSpan x.1) s
  let ts := (s.spans.filter fun x => x.2.team.isNone && x.2.grid == grid).map (·.2)
  let s := { s with spans := s.spans.filter fun x => !(x.2.team.isNone && x.2.grid == grid) }
  s.updGrid grid fun g => { g with spanning := false, cut := true, templates := ts }
/-- A grid can be cut: none of its grid-level spans waits for accesses, or for a SEAL, that it has issued (R277, R286). -/
def State.cutReady (s : State) (grid : Nat) : Bool :=
  s.spans.all fun x => x.2.team.isSome || x.2.grid != grid || match x.2.block with | .engine _ => false | _ => true
/-- R138: a grid-level span that cuts its grid waits at the instruction until the grid can be cut. -/
def State.cutBy (s : State) (sp : Span) : State :=
  if s.cutReady sp.grid then s.cutTeams sp.grid else s.updSpan sp.uid fun x => { x with block := .retry }

/-! ### Lowering (R143) -/

/-- The lanes of group `g` of a team that a range of items covers. -/
def Grid.lanesIn (gr : Grid) (team g first last : Nat) : Nat :=
  Machine.laneMask fun l =>
    let item := team * gr.kernel.tsize + 64 * g + l
    decide (64 * g + l < gr.kernel.tsize) && decide (first ≤ item) && decide (item ≤ last)

/-- R143: which value of a group-scope register stands: the span's when it was written last, or in the same cycle. -/
def laterS (gs ss : Tab Nat) (n : Nat) : Bool :=
  match Tab.get? ss n with
  | none => false
  | some c => decide ((Tab.get? gs n).getD 0 ≤ c)

/-- The lanes `m` of a group take a span's items: forms become lane values, and Jn names besides every lane of the group whose item
lies in the span's range, whoever holds it (R143). A group that has given back V registers takes no value above its allotment (R169). -/
def Group.takeItems (g : Group) (sp : Span) (base m : Nat) (fresh : Bool) : Group :=
  let regs : List Reg := (if fresh then (List.range sp.vlim).map Reg.v else (sp.v.filter fun x => decide (x.1 < g.vlim)).map fun x => Reg.v x.1)
    ++ (List.range 8).map Reg.o ++ [.z 0, .z 1]
  let row := fun (g : Group) (r : Reg) =>
    let f := sp.formOf r
    let val := fun l => f.at_ (base + l)
    match r with
    | .v n => g.setV n m val
    | .o n => g.setO n m val
    | .z n => { g with z := Tab.set g.z n (mergeRow m val (g.rowZ n)) }
    | _ => g
  let g := regs.foldl row g
  let g := if fresh then g else
    ((List.range (min sp.vlim g.vlim)).filter fun n => (Tab.get? sp.v n).isNone).foldl (fun g n => g.setV n m fun _ => 0) g
  let g := (List.range 7).foldl (fun g n => g.setP n m fun l => (sp.pform n).at_ (base + l)) g
  let g := (List.range 16).foldl (fun g n =>
    let in_ := match Tab.get? sp.j n with
      | some r => laneMask fun l => (g.lane l).inRange && decide (r.1 ≤ base + l) && decide (base + l ≤ r.2)
      | none => 0
    g.setJ n (maskOr (g.jmask n) in_)) g
  let fpctl := if !fresh && !laterS g.stamps sp.stamps stampFpctl then g.fpctl else sp.fpctl
  let keep := fun n => !fresh && !laterS g.stamps sp.stamps n
  let stamp := fun (st : Tab Nat) n => match Tab.get? sp.stamps n with | some c => if keep n then st else Tab.set st n c | none => st
  { g with
    s := (List.range g.slim).foldl (fun t n => if keep (stampS n) then t else Tab.set t n (sp.sreg n)) g.s
    fmt := (List.range 8).foldl (fun t n => if keep (stampFmt n) then t else match Tab.get? sp.fmt n with | some x => Tab.set t n x | none => t) g.fmt
    fpctl
    gctl := if keep stampGctl then g.gctl else sp.gctl
    rowprog := if keep stampRowprog then g.rowprog else sp.rowprog
    fpstat := g.fpstat ||| sp.fpstat
    stamps := (List.range 267).foldl stamp g.stamps
    lanes := mapFrom (fun l x => if inMask m l then Lane.launch sp.pc fpctl l else x) 0 g.lanes }

/-- R145, R161: what has passed a JOIN before a span came to it has passed it for the groups that the span lowers into. -/
def Group.cameWith (g : Group) (gr : Grid) (index : Nat) (sp : Span) : Group :=
  { g with came := ((sp.came.map fun c => (c.j, c.pc, maskAnd (g.jmask c.j) (gr.lanesIn index g.gid c.first c.last))).filter fun c => c.2.2 != 0) ++ g.came }
/-- The group numbered `gid` of a team, if it exists. -/
def State.groupOf (s : State) (team gid : Nat) : Option Group :=
  (s.groups.find? fun g => g.2.team == team && g.2.gid == gid).map (·.2)

/-- R143: a group that a lowering creates: its lanes outside the range are held by another span, or exited. -/
def State.newGroup (s : State) (gr : Grid) (t : Team) (gid : Nat) : Group × State :=
  let (uid, s) := s.fresh
  let g := Group.blank uid t.uid gr gid
  let held := fun l => s.spans.any fun x => x.2.team == some t.uid && inMask (gr.lanesIn t.index gid x.2.first x.2.last) l
  ({ g with lanes := mapFrom (fun l x =>
      if inMask (gr.kernel.laneMask gid) l then
        (if held l then { x with inRange := true, held := true } else { x with inRange := true, exited := true }) else x) 0 g.lanes }, s)

/-- One group of a lowering. -/
def State.lowerInto (s : State) (gr : Grid) (t : Team) (sp : Span) (at_ gid : Nat) : State :=
  let m := gr.lanesIn t.index gid sp.first sp.last
  let base := t.index * gr.kernel.tsize + 64 * gid
  let (g, s, fresh) := match s.groupOf t.uid gid with
    | some g => (g, s, false)
    | none => let r := s.newGroup gr t gid
              ({ r.1 with vallot := sp.vlim + r.1.reserve, slim := sp.slim }, r.2, true)
  s.setGroup (((g.takeItems sp base m fresh).cameWith gr t.index sp).updLanes m fun _ x => { x with readyAt := at_ })

/-- The groups of a team that a span's items lie in, from the first to the last. -/
def Grid.groupsIn (gr : Grid) (sp : Span) : List Nat :=
  (List.range (gr.titem sp.last / 64 + 1)).filter fun g => decide (gr.titem sp.first / 64 ≤ g)
/-- R104, R143: before a span lowers, what is absent of the groups that take its items is filled; false while a fill has to wait.
A unit whose record is poisoned stays absent, for the access that meets it (R105). -/
def State.lowerReady (s : State) (sp : Span) : Bool × State :=
  match sp.team, Tab.get? s.grids sp.grid with
  | some tu, some gr =>
    let into := (s.groups.filter fun g => g.2.team == tu && (gr.groupsIn sp).contains g.2.gid).map (·.1)
    let todo := (((Tab.get? s.contexts gr.ctx).map (·.absent)).getD []).filter fun a => into.contains a.owner && decide (a.kind < 2)
    todo.foldl (fun r a => match r.2.present gr.ctx a.owner a.kind a.index with
      | .done s => (r.1, s)
      | .wait s => (false, s)
      | .bad _ _ _ => r) (true, s)
  | _, _ => (true, s)
/-- R143: the cycles that a lowering takes. -/
def Grid.lowerCycles (gr : Grid) (sp : Span) : Nat := 6 + 2 * (gr.groupsIn sp).length

/-- R143, R75: lower a span, every result of which lands first. One at grid level first cuts into team spans, which lower when they reach the instruction. While a fill
has to wait, the span waits at issue. -/
def State.lower (s : State) (sp : Span) : State :=
  match sp.team, Tab.get? s.grids sp.grid with
  | some tu, some gr =>
    match Tab.get? s.teams tu with
    | none => s
    | some t =>
      let at_ := (s.core t.core).now + gr.lowerCycles sp
      match s.lowerReady sp with
      | (false, s) => s.updSpan sp.uid fun x => { x with block := .retry }
      | (true, s) =>
        let s := s.settleSpan sp.uid
        let sp := match Tab.get? s.spans sp.uid with
          | some x => { sp with fpstat := x.fpstat, fpnew := x.fpnew }
          | none => sp
        ((gr.groupsIn sp).foldl (fun s g => s.lowerInto gr t sp at_ g) s).dropSpan sp.uid
  | _, _ => s.cutBy sp

/-- R146, R180: a team span that waits lowers, and its lanes wait as it did. -/
def State.lowerWaiting (s : State) (sp : Span) : State :=
  match sp.team.bind fun t => Tab.get? s.teams t, Tab.get? s.grids sp.grid with
  | some t, some gr =>
    let r := s.lowerReady sp
    if !r.1 then r.2
    else
    let s := r.2.lower sp
    { s with groups := s.groups.map fun (g : Nat × Group) => if g.2.team == t.uid then
        (g.1, g.2.updLanes (gr.lanesIn t.index g.2.gid sp.first sp.last) fun _ x => { x with block := sp.block }) else g }
  | _, _ => s.lower sp

/-! ### Unifying (R144) -/

/-- The number of items of a span. -/
def Span.size (sp : Span) : Nat := sp.last + 1 - sp.first

/-- R144: one form that gives `x` over [a, b] and `y` over [b + 1, c], if there is one. -/
def unifyForm (x y : Form) (a b c : Nat) : Option Form :=
  let fits := fun (f g : Form) (lo hi : Nat) => f.at_ lo == g.at_ lo && (lo == hi || f.stride == g.stride)
  if a < b then (if fits x y (b + 1) c then some x else none)
  else if b + 1 < c then (if fits y x a b then some y else none)
  else
    let d := y.at_ (b + 1) - x.at_ a
    some { base := x.at_ a - d * BitVec.ofNat 32 a, stride := d }

/-- Where a predicate changes over a range: its first value and the item where it turns. -/
def PForm.turn (p : PForm) (first last : Nat) : Bool × Option Nat :=
  match p.norm first last with
  | .u b => (b, none)
  | .lt t => (true, some t)
  | .ge t => (false, some t)

/-- R144: one predicate form over two adjacent ranges. -/
def unifyP (x y : PForm) (a b c : Nat) : Option PForm :=
  let (x0, tx) := x.turn a b
  let (y0, ty) := y.turn (b + 1) c
  let xEnd := if tx.isSome then !x0 else x0
  let turns := tx.toList ++ (if xEnd == y0 then [] else [b + 1]) ++ ty.toList
  match turns with
  | [] => some (.u x0)
  | [t] => some (if x0 then .lt t else .ge t)
  | _ => none

/-- Forms of a list of registers, unified; `none` where one does not unify. -/
def unifyRegs (x y : Span) (sp : Span) : List Reg → Option Span
  | [] => some sp
  | r :: rs =>
    match unifyForm (x.formOf r) (y.formOf r) x.first x.last y.last with
    | none => none
    | some f => unifyRegs x y (sp.setForm r f) rs
def unifyPs (x y : Span) (sp : Span) : List Nat → Option Span
  | [] => some sp
  | n :: ns =>
    match unifyP (x.pform n) (y.pform n) x.first x.last y.last with
    | none => none
    | some f => unifyPs x y (sp.setP n f) ns

/-- R144: two adjacent spans as one, when they unify. Group-scope registers that R144 does not list take the value
written last, as in R143, and spans with different VLIM or SLIM do not unify (log entry 48, DEDUCED; unsafe). The J registers other
than that of the JOIN, and the arrivals that the spans have noted, are those of the span with the lower items (log entry 75, DESIGN CHOICE). -/
def Span.unify (x y : Span) : Option Span :=
  if x.last + 1 != y.first || x.team != y.team || x.grid != y.grid || x.pc != y.pc || x.vlim != y.vlim || x.slim != y.slim
     || !(List.range x.slim).all fun n => x.sreg n == y.sreg n then none
  else
    let regs : List Reg := (List.range x.vlim).map Reg.v ++ (List.range 8).map Reg.o ++ [.z 0, .z 1]
    let later := laterS x.stamps y.stamps
    let sp := { x with
      last := y.last
      fpstat := x.fpstat ||| y.fpstat
      fpctl := if later stampFpctl then y.fpctl else x.fpctl
      gctl := if later stampGctl then y.gctl else x.gctl
      rowprog := if later stampRowprog then y.rowprog else x.rowprog
      fmt := (List.range 8).foldl (fun t n => if later (stampFmt n) then (match Tab.get? y.fmt n with | some k => Tab.set t n k | none => t) else t) x.fmt
      stamps := (List.range 267).foldl (fun t n => if later n then (match Tab.get? y.stamps n with | some k => Tab.set t n k | none => t) else t) x.stamps
      readyAt := max x.readyAt y.readyAt }
    match unifyRegs x y sp regs with
    | none => none
    | some sp => unifyPs x y sp (List.range 7)

/-- R145: adjacent spans of a list, in item order, merge until no two unify: from the highest items down, where several merges
that exclude each other are possible (log entry 75, DESIGN CHOICE). -/
def mergeSpans : List Span → List Span
  | [] => []
  | x :: rest =>
    match mergeSpans rest with
    | [] => [x]
    | y :: ys => match x.unify y with
      | some z => z :: ys
      | none => x :: y :: ys

/-- Insert a span by its first item. -/
def insertSpan (x : Span) : List Span → List Span
  | [] => [x]
  | y :: ys => if x.first ≤ y.first then x :: y :: ys else y :: insertSpan x ys
def sortSpans (l : List Span) : List Span := l.foldl (fun acc x => insertSpan x acc) []

/-! ### Rejoining (R145, R161) -/

/-- A span stands at a JOIN on `j` at a PC. -/
def Span.atJoin (x : Span) (pc : BitVec 49) (j : Nat) : Bool := x.pc == pc && x.block == .join j false
/-- A lane has arrived at a JOIN on `j` at a PC; one at an RJOIN that replies are owed to has not (R418). -/
def Lane.atJoin (x : Lane) (pc : BitVec 49) (j : Nat) : Bool := x.live && x.pc == pc && x.block == .join j false
/-- R142: the set of a J register of a span; a new set has no arrivals. -/
def Span.setJ (x : Span) (j : Nat) (r : Nat × Nat) : Span := { x with j := Tab.set x.j j r, came := x.came.filter fun c => c.j != j }
def Span.clearJ (x : Span) (j : Nat) : Span := { x with j := Tab.del x.j j, came := x.came.filter fun c => c.j != j }
/-- R145, R161: items that go on from a JOIN have arrived there for the spans of their team, or of their grid at grid level, and for the
groups that come to it later. -/
def State.passed (s : State) (team : Option Nat) (grid : Nat) (cs : List Came) : State :=
  let spans := s.spans.map fun (x : Nat × Span) =>
    if x.2.team == team && x.2.grid == grid then
      (x.1, { x.2 with came := (cs.filter fun c => (Tab.get? x.2.j c.j).isSome) ++ x.2.came }) else x
  match team.bind fun t => Tab.get? s.teams t, Tab.get? s.grids grid with
  | some t, some gr =>
    let lanes := fun (g : Group) (c : Came) => maskAnd (g.jmask c.j) (gr.lanesIn t.index g.gid c.first c.last)
    { s with
      spans
      groups := s.groups.map fun (x : Nat × Group) =>
        if x.2.team == t.uid then
          (x.1, { x.2 with came := ((cs.filter fun c => !c.asLane && lanes x.2 c != 0).map fun c => (c.j, c.pc, lanes x.2 c)) ++ x.2.came }) else x }
  | _, _ => { s with spans }
/-- Some lanes of a group, or some spans, as they go on from a JOIN. -/
def Group.cameBy (g : Group) (t : Team) (gr : Grid) (j : Nat) (pc : BitVec 49) (m : Nat) : List Came :=
  (lanesOf m).map fun l => let i := t.index * gr.kernel.tsize + 64 * g.gid + l; { j, pc := pc.toNat, first := i, last := i, asLane := true }
def cameBySpans (j : Nat) (xs : List Span) : List Came := xs.map fun x => { j, pc := x.pc.toNat, first := x.first, last := x.last, asLane := false }
/-- Ranges cover the items from `lo` to `hi`: one that holds the first item takes the search past its end, at most `n` times. -/
def coversItems (rs : List (Nat × Nat)) (hi : Nat) : Nat → Nat → Bool
  | 0, lo => decide (hi < lo)
  | n + 1, lo => decide (hi < lo) || match rs.find? fun r => decide (r.1 ≤ lo) && decide (lo ≤ r.2) with
    | some r => coversItems rs hi n (r.2 + 1)
    | none => false

/-- R161: a group's JOIN on `j` at `pc` releases its waiting lanes when every lane that Jn names waits there, has exited, or is
held, or was, by a span that has arrived there. -/
def State.joinGroup (s : State) (g : Group) (pc : BitVec 49) (j : Nat) : State :=
  match Tab.get? s.teams g.team, Tab.get? s.grids g.grid with
  | some t, some gr =>
    let waits := laneMask fun l => (g.lane l).atJoin pc j
    let spans := s.spans.filter fun x => x.2.team == some g.team && x.2.atJoin pc j
    let ok := (lanesOf (g.jmask j)).all fun l =>
      inMask waits l || (g.lane l).exited || !(g.lane l).inRange || (g.came.any fun c => c.1 == j && c.2.1 == pc.toNat && inMask c.2.2 l)
      || ((g.lane l).held && spans.any fun x => inMask (gr.lanesIn t.index g.gid x.2.first x.2.last) l)
    if waits != 0 && ok then
      let c := s.core t.core
      let s := s.setGroup ((g.newJ j 0).updLanes waits fun _ x =>
        { x with block := .free, pc := x.pc + 8, readyAt := max x.readyAt (c.now + 2 * c.passes) })
      s.passed (some g.team) g.grid (g.cameBy t gr j pc waits)
    else s
  | _, _ => s

/-- The JOINs at which lanes of a group wait. -/
def Group.joinsAt (g : Group) : List (BitVec 49 × Nat) :=
  (g.lanes.filterMap fun x => if x.live then (match x.block with | .join j false => some (x.pc, j) | _ => none) else none).eraseDups

/-- What has come to the JOIN on `j` at which a span waits (R145): the spans of its team there that hold items of the range of Jn, and the
span itself; the lanes of groups in the range; those that stand there, and those that the JOIN has released before. -/
structure Arrivals where
  spans : List Span
  inJ : Group → Nat → Bool
  past : Group → Nat → Bool
  asLanes : Bool
  complete : Bool
def State.arrivals (s : State) (gr : Grid) (sp : Span) (j : Nat) : Arrivals :=
  let (lo, hi) := (Tab.get? sp.j j).getD (1, 0)
  let inside := fun (x : Span) => decide (lo ≤ hi) && decide (x.first ≤ hi) && decide (lo ≤ x.last)
  let peers := ((s.spans.filter fun x => x.2.team == sp.team && x.2.grid == sp.grid && inside x.2)).map (·.2)
  let groups := (s.groups.filter fun g => sp.team == some g.2.team).map (·.2)
  let index := ((sp.team.bind fun t => Tab.get? s.teams t).map (·.index)).getD 0
  let item := fun (gid l : Nat) => index * gr.kernel.tsize + 64 * gid + l
  let came := sp.came.filter fun c => c.j == j && c.pc == sp.pc.toNat
  let inJ := fun (g : Group) l => decide (lo ≤ item g.gid l) && decide (item g.gid l ≤ hi) && (g.lane l).live
  let past := fun (g : Group) l => came.any fun c => decide (c.first ≤ item g.gid l) && decide (item g.gid l ≤ c.last)
  let here := peers.filter fun x => x.atJoin sp.pc j
  { spans := here ++ (if inside sp then [] else [sp]), inJ, past
    asLanes := (came.any fun c => c.asLane && decide (c.first ≤ hi) && decide (lo ≤ c.last)) || groups.any fun g => (List.range 64).any fun l => inJ g l
    complete := (peers.all fun x => x.atJoin sp.pc j || coversItems (came.map fun c => (c.first, c.last)) (min x.last hi) came.length (max x.first lo))
      && groups.all fun g => (List.range 64).all fun l => !inJ g l || (g.lane l).atJoin sp.pc j || past g l }

/-- Each span of a list is ready to lower. -/
def State.allReady (s : State) (l : List Span) : Bool × State :=
  l.foldl (fun r x => let q := r.2.lowerReady x; (r.1 && q.1, q.2)) (true, s)
/-- R145: a JOIN at which everything has arrived, some items as lanes of groups: its spans lower, and every lane goes on, all of them
2 × PASSES cycles after the longest lowering (R161). -/
def State.joinLanes (s : State) (gr : Grid) (sp : Span) (j : Nat) (a : Arrivals) : State :=
  match s.allReady a.spans with
  | (false, s) => s
  | (true, s) =>
    let c := s.core (s.spanCore sp)
    let at_ := c.now + a.spans.foldl (fun n x => max n (gr.lowerCycles x)) 0 + 2 * c.passes
    let s := a.spans.foldl (fun s x => s.lower { x with block := .free }) s
    let index := ((sp.team.bind fun t => Tab.get? s.teams t).map (·.index)).getD 0
    let taken := fun (g : Group) (l : Nat) => a.spans.any fun x => inMask (gr.lanesIn index g.gid x.first x.last) l
    (s.groups.filter fun g => sp.team == some g.2.team).foldl (fun s g =>
      let m := laneMask fun l => (a.inJ g.2 l || taken g.2 l) && (g.2.lane l).pc == sp.pc && !a.past g.2 l
      if m == 0 then s
      else
        let s := s.setGroup ((g.2.newJ j 0).updLanes m fun _ x => { x with block := .free, pc := x.pc + 8, readyAt := max x.readyAt at_ })
        match sp.team.bind fun t => Tab.get? s.teams t with
        | some t => s.passed sp.team sp.grid (g.2.cameBy t gr j sp.pc m)
        | none => s) s
/-- R145: a JOIN at which everything has arrived as spans: they go on, merged as far as they unify. -/
def State.joinSpans (s : State) (j : Nat) (mine : List Span) : State :=
  let go := mine.map fun x => { x.clearJ j with block := .free, pc := x.pc + 8 }
  let s' := { s with spans := s.spans.filter fun x => !(mine.any fun y => y.uid == x.1) }
  ((mergeSpans (sortSpans go)).foldl (fun s x => s.setSpan x) (mine.head?.elim s' fun x => s'.passed x.team x.grid (cameBySpans j mine))).adoptFlags mine
/-- R145: the JOIN at which a span waits, once each item of the range of Jn is in a span there, in a lane that waits there or that
the JOIN has released before, or has exited. Once the grid is cut, each team's spans wait for the items of their team alone, also where the
range of Jn goes beyond it: the spec does not say whom a range that crosses teams then names (log entry 97, DESIGN CHOICE). -/
def State.joinSpan (s : State) (sp : Span) (j : Nat) : State :=
  match Tab.get? s.grids sp.grid with
  | none => s
  | some gr =>
    let a := s.arrivals gr sp j
    if !a.complete then s
    else if a.asLanes then s.joinLanes gr sp j a
    else s.joinSpans j a.spans

/-- R145, R161: look at every JOIN of a team, or of a grid's grid-level spans. The model looks at each in every cycle, so also after a
JPOP, a JSET without ADD or another JOIN's release has changed Jn, which R161 does not list among what makes the condition be evaluated again
(log entry 98, DESIGN CHOICE). -/
def State.joinsOfTeam (s : State) (team : Nat) : State :=
  let sps := s.spans.filter fun x => x.2.team == some team
  let s := sps.foldl (fun s x =>
    match Tab.get? s.spans x.1 with
    | some sp => (match sp.block with | .join j _ => s.joinSpan sp j | _ => s)
    | none => s) s
  (s.groups.filter fun g => g.2.team == team).foldl (fun s g =>
    g.2.joinsAt.foldl (fun s pj => match Tab.get? s.groups g.1 with | some g => s.joinGroup g pj.1 pj.2 | none => s) s) s
def State.joinsOfGrid (s : State) (grid : Nat) : State :=
  (s.spans.filter fun x => x.2.team.isNone && x.2.grid == grid).foldl (fun s x =>
    match Tab.get? s.spans x.1 with
    | some sp => (match sp.block with | .join j _ => s.joinSpan sp j | _ => s)
    | none => s) s

/-- R164: the lanes at a GSYNC go on when every lane that can arrive waits there. -/
def State.gsyncGroup (s : State) (g : Group) : State :=
  let live := g.liveMask
  match (lanesOf live).head? with
  | none => s
  | some l0 =>
    let pc := (g.lane l0).pc
    if (lanesOf live).all fun l => (g.lane l).pc == pc && (g.lane l).block == .gsync then
      let c := s.core (s.coreOfGroup g)
      s.setGroup (g.updLanes live fun _ x => { x with block := .free, pc := x.pc + 8, readyAt := max x.readyAt (c.now + 2 * c.passes) })
    else s

/-! ### Exit of a span (R147) -/

/-- Some barrier of a team is in CLUSTER or GRID mode (R177). -/
def Team.wide (t : Team) : Bool := t.bars.any fun b => decide (2 ≤ b.mode)
/-- R175, R179, R291: what items of a team have issued is performed before they exit: at TEAM scope, and at the home, with what the core's
L1 alone has, where their exit counts at a wider barrier. -/
def State.exitFirst (s : State) (uid : Nat) (t : Option Team) : State × Bool :=
  if t.any Team.wide then s.drain uid else s.drainTeam uid
/-- A span ends: the lanes it held in groups that exist are exited. -/
def State.exitSpan (s : State) (sp : Span) : State :=
  let s := s.dropSpan sp.uid
  match sp.team, Tab.get? s.grids sp.grid with
  | some tu, some gr =>
    match Tab.get? s.teams tu with
    | none => s
    | some t =>
      let gs := s.groups.filter fun g => g.2.team == tu
      let s := gs.foldl (fun s g =>
        let m := gr.lanesIn t.index g.2.gid sp.first sp.last
        (s.updGroup g.1 fun g => g.updLanes m fun _ x => { x with held := false, exited := true }).groupEnd g.1) s
      s.barExit tu sp.size
  | _, _ => s.gridEnd sp.grid

end Sys2Proof.Machine
end

