-- ==== Sys2Proof/Machine/Issue.lean ====
section
/-! DEFINITION. The issue of an instruction to a group's lanes or to a span: guard, bounds, the checking scoreboard, absent
units, the effect, the advance of the PC, and the traps (spec/03_encoding.md R68 to R81; spec/07_kernel.md R137 to
R141). Every meaning of an instruction goes through `issue`. -/

namespace Sys2Proof.Machine

/-- What the effect of an instruction leaves: the state, what lanes raise, the lanes that wait at issue, the lanes whose
PC or block the effect has set itself, and the tag of a trap record. -/
structure Out where
  s : State
  raises : List Raise := []
  waits : Nat := 0
  stays : Nat := 0
  tag : Nat := 0

/-- How one lane's part of an instruction ends. -/
inductive LaneEnd where
  | ok
  | stay
  | raised (code : TrapCode) (addr : Nat) (absent : Option AbsentAt)
  | waits
  deriving DecidableEq, Repr

/-- Lane by lane, in increasing LANEID. -/
def forLanes (s : State) (act : Nat) (f : State → Nat → State × LaneEnd) : Out :=
  (lanesOf act).foldl (fun o l =>
    let r := f o.s l
    match r.2 with
    | .ok => { o with s := r.1 }
    | .stay => { o with s := r.1, stays := maskOr o.stays (2 ^ l) }
    | .raised code addr absent => { o with s := r.1, raises := o.raises ++ [{ lane := l, code, addr, absent }] }
    | .waits => { o with s := r.1, waits := maskOr o.waits (2 ^ l) }) { s }

/-- The address of a lane's instruction. -/
def Env.pc (e : Env) (l : Nat) : BitVec 49 := (e.g.lane l).pc
/-- A trap of the instruction in every lane of a mask, with the PC as its address. -/
def Env.raiseAll (e : Env) (m : Nat) (code : TrapCode) : List Raise :=
  (lanesOf m).map fun l => { lane := l, code, addr := (e.pc l).toNat, absent := none }

/-- The destination register of a form. -/
def Opnd.vreg? (o : Opnd) : Option Reg := match o with | .v n => some (.v n.toNat) | .o n => some (.o n.toNat) | _ => none

/-- The effect of an instruction on the active lanes of a group. -/
abbrev Body := State → Env → Nat → Out

/-- R81, step 5: a register above the allotment. -/
def Group.outOfBounds (g : Group) (rs : List Reg) : Bool :=
  rs.any fun r => match r with
    | .v n => decide (g.vlim ≤ n) || decide (640 ≤ n)
    | .s n => decide (g.slim ≤ n)
    | _ => false

/-- Registers of a guard. -/
def guardRegs (h : Hdr) : List Reg := if h.gp == 7 then [] else [.p h.gp.toNat]

/-- R74: the lanes in which an instruction would read or write a register that is not covered. -/
def State.shortLanes (s : State) (uid now : Nat) (h : Hdr) (regs : List Reg) (act : Nat) : Nat :=
  laneMask fun l => inMask act l && s.flights.any fun f =>
    f.2.group == uid && inMask f.2.lanes l && (f.2.regs.any fun x => regs.contains x.1)
    && (match f.2.due, f.2.sb with
        | some d, _ => decide (now < d)
        | none, some b => !bitOf h.wait.toNat b
        | none, none => false)

/-- The issue marks of R69, R76 and R153 on a set of lanes. -/
def Group.mark (g : Group) (m readyAt : Nat) (y : Bool) : Group :=
  g.updLanes m fun _ x => { x with readyAt, waits := 0, yielding := y, due := none, block := if x.block == .retry then .free else x.block }

/-- Lanes go on at the next instruction. -/
def Group.advance (g : Group) (m : Nat) (next : BitVec 49) : Group := g.updLanes m fun _ x => { x with pc := next }

/-- After the effect: lanes that wait keep their PC, lanes that trap take their trap, the others go on. -/
def State.finish (o : Out) (uid lanes : Nat) (pc next : BitVec 49) : State :=
  let s := o.s.updGroup uid fun g =>
    (g.advance (maskDiff lanes (maskOr (maskOr (raiseMask o.raises) o.waits) o.stays)) next).updLanes o.waits
      fun _ x => { x with block := .retry }
  if o.raises.isEmpty then s else s.takeTrap uid pc next o.tag o.raises

/-- The same trap, with the PC as its address, in every lane of a mask. -/
def pcRaises (m : Nat) (code : TrapCode) (pc : BitVec 49) : List Raise :=
  (lanesOf m).map fun l => { lane := l, code, addr := pc.toNat, absent := none }

/-- R68, R81: an instruction issues to lanes of a group; `chk` is GCTL.CHK as it stood at the vote (R46). The guard is read before
the index of free choices moves on, so where both are read too early (R73) it takes the same choice as the body of the issue
before it (log entry 10, DESIGN CHOICE). With `chk` the guard counts as read in every lane of the issue (R74). -/
def State.groupIssue (s : State) (i : Instr) (uid lanes : Nat) (pc next : BitVec 49) (chk : Bool) (body : Body) : State :=
  match s.env? uid, i.hdr? with
  | some e, some h =>
    let now := e.c.now
    let s := { s with free := s.free + 1 }
    let s := s.updGroup uid fun g => g.mark lanes (now + e.c.passes + h.stall.toNat) (h.y && !h.never)
    if h.never then s.updGroup uid fun g => g.advance lanes next
    else
      let s := s.covered uid h.wait.toNat lanes
      let u := i.uses
      let regs := u.rd ++ u.wr
      if e.g.outOfBounds regs then s.takeTrap uid pc next 0 (pcRaises lanes .regBound pc)
      else
        let act := laneMask fun l => inMask lanes l && e.guard h l
        let short := if chk then maskOr (s.shortLanes uid now h (guardRegs h) lanes) (s.shortLanes uid now h regs act) else 0
        let act := maskDiff act short
        match s.presentAll e.gr.ctx (if act == 0 then [] else regUnits uid regs) with
        | .wait s => State.finish { s, waits := act, raises := pcRaises short .stallShort pc } uid lanes pc next
        | .bad code va x =>
          State.finish { s, raises := pcRaises short .stallShort pc ++
            (lanesOf act).map fun l => { lane := l, code, addr := va, absent := x } } uid lanes pc next
        | .done s =>
          match s.env? uid with
          | none => s
          | some e =>
            let o := if act == 0 then { s } else body s e act
            State.finish { o with raises := o.raises ++ pcRaises short .stallShort pc } uid lanes pc next
  | _, _ => s

/-! ### Spans -/

/-- Results of a span instruction as forms. -/
structure AffOut where
  regs : List (Reg × Form) := []
  preds : List (Nat × PForm) := []

/-- How an instruction behaves in a span (R137 to R141). -/
inductive SpanRule where
  /-- No effect. -/
  | nothing
  /-- The instruction lowers the span. -/
  | lower
  /-- Executed once for the span; `bound` when it is team-bound. -/
  | once (bound : Bool)
  /-- U operands give the instruction's own value; other forms give the forms of `aff`, and where it gives none the
  span lowers. -/
  | values (bound : Bool) (aff : State → Grid → Span → Option AffOut)
  /-- A load: it runs as the span when the operands are U. -/
  | load (bound : Bool)
  /-- A store: expanded over the items (R140). -/
  | store (bound : Bool)
  /-- A rule of its own, after the cut by a T guard: `none` lowers the span. The effect sets the span's PC. -/
  | own (bound : Bool) (f : State → Span → BitVec 49 → Option State)
  /-- A rule of its own that takes the guard itself. -/
  | guarded (f : State → Span → PForm → BitVec 49 → Option State)

/-- R44: special registers whose read is team-bound. -/
def srTeamBound (gr : Grid) (n : Nat) : Bool :=
  [0x01, 0x02, 0x03, 0x04, 0x0F, 0x10].contains n || (n == 0x09 && gr.nteams != 1)

/-- The form that a special register has in a span (R44, R45); `none` is M. TRAPCODE and TRAPADDR of a span read 0, also where a group that
has trapped folded into it (R50, R143, R149; log entry 84, DESIGN CHOICE). -/
def State.srForm (s : State) (gr : Grid) (sp : Span) (n : Nat) : Option Form :=
  if n == 0x08 then some { base := 0, stride := 1 }
  else if n == 0x09 then
    some { base := -BitVec.ofNat 32 (gr.teamOf sp.first * gr.kernel.tsize), stride := 1 }
  else if srLane n || n == 0x0E then none
  else if n == 0x18 then some (Form.u sp.fpctl)
  else if n == 0x19 then some (Form.u sp.fpstat)
  else if n == 0x1A then some (Form.u sp.gctl)
  else if n == 0x1B then some (Form.u sp.rowprog)
  else if n == 0x1C || n == 0x1D then some Form.zero
  else some (Form.u (BitVec.ofNat 32 (wideSpecial s gr (s.spanCore sp) (gr.teamOf sp.first) n)))

/-- The form of a 32-bit operand of a span. -/
def State.opForm (s : State) (gr : Grid) (sp : Span) (o : Opnd) : Option Form :=
  match o with
  | .v n => some (sp.formOf (.v n.toNat))
  | .o n => some (sp.formOf (.o n.toNat))
  | .z n => some (sp.formOf (.z n.toNat))
  | .s n => some (Form.u (BitVec.ofNat 32 (sp.sreg n.toNat).toNat))
  | .imm n => some (Form.u (BitVec.ofInt 32 n.toInt))
  | .sr n => s.srForm gr sp n.toNat

/-- R137: every register and special register an instruction reads has form U. -/
def Span.allU (sp : Span) (u : Uses) : Bool :=
  (u.rd.all fun r => match r with
    | .v _ | .o _ | .z _ => (sp.formOf r).isU
    | .p n => (match sp.pform n with | .u _ => true | _ => false)
    | _ => true)
  && u.srd.all fun n => !srLane n && n != 0x0E

/-- The lane and group of a team that stand for a span's first item. -/
def Grid.place (gr : Grid) (sp : Span) : Nat × Nat :=
  match sp.team with
  | some _ => (gr.titem sp.first / 64, gr.titem sp.first % 64)
  | none => (0, 0)

/-- A group of one lane that holds a span's U values, under the span's number (R136). -/
def Span.proxy (sp : Span) (gr : Grid) (team : Nat) : Group :=
  let (gid, l) := gr.place sp
  let g := Group.blank sp.uid team gr gid
  { g with
    v := (List.range sp.vlim).map fun n => (n, rowOf ((sp.formOf (.v n)).at_ sp.first))
    o := sp.o.map fun x => (x.1, rowOf (x.2.at_ sp.first))
    z := sp.z.map fun x => (x.1, rowOf (x.2.at_ sp.first))
    s := sp.s
    p := (List.range 7).map fun n => (n, if (sp.pform n).at_ sp.first then allLanes else 0)
    fpctl := sp.fpctl, fpstat := sp.fpstat, fpnew := sp.fpnew, gctl := sp.gctl, rowprog := sp.rowprog, fmt := sp.fmt, stamps := sp.stamps
    lanes := mapFrom (fun k x => if k == l then Lane.launch sp.pc sp.fpctl l else x) 0 g.lanes }

/-- The team that a span belongs to, or a stand-in numbered 0 on the Orrery for one at grid level. -/
def State.proxyTeam (s : State) (gr : Grid) (sp : Span) : Nat × State :=
  match sp.team with
  | some t => (t, s)
  | none =>
    let t := Team.blank 0 gr.uid gr.ctx (gr.teamOf sp.first) (orreryCore gr.home) 0 gr.kernel
    (0, s.setTeam t)

/-- Take the stand-ins away. The flags that the span is owed come when its results land (R48, R75). -/
def State.unproxy (s : State) (uid : Nat) : State :=
  { s with
    groups := Tab.del s.groups uid
    teams := Tab.del s.teams 0
    flights := (s.flights.filter fun f => f.2.group != uid || f.2.flags != 0).map fun f =>
      if f.2.group == uid then (f.1, { f.2 with regs := [], sb := none, landed := false }) else f }

/-- The span after its stand-in ran: results in form U and group-scope registers. -/
def Span.takeBack (sp : Span) (u : Uses) (g : Group) (l : Nat) (fl : List Flight) : Span :=
  let w := fun r => (g.words r).getD l 0
  let sp1 := u.wr.foldl (fun sp r => match r with
    | .v _ | .o _ => sp.setForm r (Form.u (w r))
    | .p n => sp.setP n (.u (inMask (g.pmask n) l))
    | _ => sp) sp
  let sp1 := if fl.any fun f => f.regs.any fun x => x.1 == Reg.z 0 then
      match u.wr.find? fun r => match r with | .v _ | .o _ => true | _ => false with
      | some r => sp1.pushZ (Form.u (w r))
      | none => sp1
    else sp1
  { sp1 with
    s := g.s, fpctl := g.fpctl, gctl := g.gctl, stamps := g.stamps, fpstat := g.fpstat, fpnew := g.fpnew }

/-- Execute once for a span; `none` where it must lower to raise a trap. -/
def State.runOnce (s : State) (i : Instr) (sp : Span) (next : BitVec 49) (body : Body) : Option State :=
  match Tab.get? s.grids sp.grid with
  | none => some s
  | some gr =>
    let (tu, s1) := s.proxyTeam gr sp
    let g := sp.proxy gr tu
    let l := (gr.place sp).2
    let s1 := { s1.setGroup g with free := s1.free + 1 }
    match s1.env? sp.uid with
    | none => some s
    | some e =>
      let o := body s1 e (2 ^ l)
      if !o.raises.isEmpty then none
      else if o.waits != 0 then some ((o.s.unproxy sp.uid).updSpan sp.uid fun x => { x with block := .retry })
      else
        match Tab.get? o.s.groups sp.uid with
        | none => some (o.s.unproxy sp.uid)
        | some g =>
          let fl := (o.s.flights.filter fun f => f.2.group == sp.uid && (Tab.get? s.flights f.1).isNone).map (·.2)
          let sp' := sp.takeBack i.uses g l fl
          let sp' := if o.stays != 0 then { sp' with block := (g.lane l).block } else { sp' with pc := next, block := .free }
          match Tab.get? o.s.spans sp.uid with
          | none => some (o.s.unproxy sp.uid)
          | some _ => some ((o.s.unproxy sp.uid).setSpan sp')

/-- R140: one block of 64 items of a span store as a group store: its outcome. -/
def State.storeBlock (s : State) (gr : Grid) (sp : Span) (blk : Nat) (body : Body) : Out :=
  let (tu, s1) := s.proxyTeam gr sp
  let (gid, base) := match sp.team with
    | some _ => (blk, gr.teamOf sp.first * gr.kernel.tsize + 64 * blk)
    | none => (0, 64 * blk)
  let m := laneMask fun l => decide (sp.first ≤ base + l) && decide (base + l ≤ sp.last)
  let g := (Group.blank sp.uid tu gr gid).takeItems sp base m true
  let s1 := s1.setGroup g
  match s1.env? sp.uid with
  | none => { s }
  | some e => body s1 e m

/-- The blocks of a span's range. -/
def Span.blocks (gr : Grid) (sp : Span) : List Nat :=
  let lo := match sp.team with | some _ => gr.titem sp.first / 64 | none => sp.first / 64
  let hi := match sp.team with | some _ => gr.titem sp.last / 64 | none => sp.last / 64
  (List.range (hi + 1 - lo)).map fun k => lo + k

/-- R140: expand a span store: every item is checked before the first block is performed. The halves of a B128 store are performed
apart (R286), and the span waits for them. -/
def State.runStore (s : State) (sp : Span) (next : BitVec 49) (body : Body) : Option State :=
  match Tab.get? s.grids sp.grid with
  | none => some s
  | some gr =>
    let bs := sp.blocks gr
    let outs := bs.map fun b => s.storeBlock gr sp b body
    if outs.any fun o => !o.raises.isEmpty then none
    else match outs.find? fun o => o.waits != 0 with
      | some o => some ((({ o.s with stores := s.stores }).unproxy sp.uid).updSpan sp.uid fun x => { x with block := .retry })
      | none =>
        let s' := bs.foldl (fun s b =>
          let o := s.storeBlock gr sp b body
          let halved := o.s.stores.any fun x => x.2.group == sp.uid && x.2.twin.isSome
          (if halved then o.s else (o.s.performMine sp.uid).1).unproxy sp.uid) s
        let waits := s'.stores.any fun x => x.2.group == sp.uid
        some (s'.updSpan sp.uid fun x => if waits then { x with block := .engine 0 } else { x with pc := next, block := .free })

/-- R141: cut a span by a T guard: the part whose guard is true, and the other, which goes on; `none` without room. -/
def State.cutGuard (s : State) (sp : Span) (g : PForm) (next : BitVec 49) : Option (State × Span) :=
  match g with
  | .u _ => some (s, sp)
  | .lt t =>
    if s.spanRoom sp then
      let (n, s) := s.fresh
      let s := s.shareFlags sp.uid n
      some ((s.setSpan (sp.below t)).setSpan { sp.above t n with pc := next, block := .free }, sp.below t)
    else none
  | .ge t =>
    if s.spanRoom sp then
      let (n, s) := s.fresh
      let s := s.shareFlags sp.uid n
      some ((s.setSpan { sp.below t with pc := next, block := .free, uid := n }).setSpan (sp.above t sp.uid), sp.above t sp.uid)
    else none

/-- Registers that a span instruction gives as forms; a fixed-latency vector result also enters Z. -/
def Span.putAff (sp : Span) (a : AffOut) : Span :=
  let sp := a.preds.foldl (fun sp x => sp.setP x.1 x.2) sp
  match a.regs with
  | [] => sp
  | (r, f) :: rest => ((rest.foldl (fun sp x => sp.setForm x.1 x.2) (sp.setForm r f))).pushZ f

/-- R137 to R141: an instruction issues for a span. A T guard cuts it only where the instruction does not lower: where the effect
asks for a lowering, the span lowers whole. Under a guard of form U that is false, an instruction that always lowers still lowers the span,
and any other does nothing: a team-bound one cuts no grid, and one outside its row of the form table lowers no span (log entry 96, DESIGN
CHOICE). -/
def State.spanIssue (s : State) (i : Instr) (sp : Span) (next : BitVec 49) (rule : SpanRule) (body : Body) : State :=
  match i.hdr?, Tab.get? s.grids sp.grid with
  | some h, some gr =>
    let sp := { sp with readyAt := (s.core (s.spanCore sp)).now + 1, block := .free }
    let s := s.setSpan sp
    let u := i.uses
    let on := fun (s : State) => s.updSpan sp.uid fun x => { x with pc := next }
    let bad := (u.rd ++ u.wr).any fun r => match r with
      | .v n => decide (sp.vlim ≤ n) || decide (640 ≤ n)
      | .s n => decide (sp.slim ≤ n)
      | _ => false
    if h.never then on s
    else if bad then s.lower sp
    else
      let g := sp.guard h
      let cutRun := fun (bound : Bool) (f : State → Span → Option State) =>
        if sp.team.isNone && (bound || u.srd.any (srTeamBound gr)) then s.cutBy sp
        else match s.cutGuard sp g next with
          | none => s.lower sp
          | some (t, part) => (f t part).getD (s.lower sp)
      match rule with
      | .lower => s.lower sp
      | rule =>
        if g == .u false then on s
        else match rule with
        | .nothing => on s
        | .lower => s.lower sp
        | .once b => cutRun b fun s sp => s.runOnce i sp next body
        | .values b aff => cutRun b fun s sp =>
            if sp.allU u then s.runOnce i sp next body
            else (aff s gr sp).map fun a => s.setSpan { sp.putAff a with pc := next }
        | .load b => if sp.allU u then cutRun b fun s sp => s.runOnce i sp next body else s.lower sp
        | .store b => cutRun b fun s sp => s.runStore sp next body
        | .own b f => cutRun b fun s sp => f s sp next
        | .guarded f => (f s sp g next).getD (s.lower sp)
  | _, _ => s

/-! ### The issue -/

/-- What an instruction does: `cur` says to whom it issues, and without one nothing happens. -/
def issue (i : Instr) (rule : SpanRule) (body : Body) (s : State) : Host.Outcome State Fault Refusal :=
  match s.cur with
  | none => .next s
  | some x =>
    let s := { s with cur := none }
    match x.who with
    | .group uid lanes => .next (s.groupIssue i uid lanes x.pc x.next x.chk body)
    | .span uid => match Tab.get? s.spans uid with
      | some sp => .next (s.spanIssue i sp x.next rule body)
      | none => .next s

/-- What a lane's instance of an arithmetic instruction gives: the value, a predicate bit, flags, and the LFSR state when
it steps. -/
structure Lres where
  val : Nat := 0
  pred : Bool := false
  flags : Nat := 0
  lfsr : Option Nat := none

/-- R205, R195: the lanes that compute: with an S register as the only destination, the lowest active lane for the group. -/
def computing (d : Option (Opnd × Nat)) (pd : Option (BitVec 3)) (act : Nat) : Nat :=
  match d, pd with
  | some (d, _), none => if d.isS then 2 ^ lowLane act else act
  | _, _ => act

/-- An instruction that computes in each lane by itself: `n` registers at `d`, the predicate `pd` if it names one. The
values of all lanes are formed before anything is written (R9). -/
def aluBody (h : Hdr) (lat : Lat) (d : Option (Opnd × Nat)) (pd : Option (BitVec 3)) (f : Env → Nat → Lres) : Body :=
  fun s e act =>
    let on := computing d pd act
    let rs := (List.range 64).map fun l => if inMask on l then f e l else {}
    let at_ := fun l => rs.getD l {}
    let dres : List Res := match d with | some (d, n) => resOf d n (lowLane act) fun l => (at_ l).val | none => []
    let pres : List Res := match pd with | some p => [(Reg.p p.toNat, fun l => if (at_ l).pred then 1 else 0)] | none => []
    let res := dres ++ pres
    let flags := rs.foldl (fun x r => orN x r.flags) 0
    let s := s.result e.g.uid h act lat res flags
    { s := if rs.any fun r => r.lfsr.isSome then
        s.updGroup e.g.uid fun g => g.updLanes on fun l x =>
          match (at_ l).lfsr with | some y => { x with lfsr := BitVec.ofNat 32 y } | none => x
      else s }

/-- R137: an instruction whose form table has no row but U. -/
def noAff : State → Grid → Span → Option AffOut := fun _ _ _ => none

end Sys2Proof.Machine
end

