-- ==== Sys2Proof/Machine/Float.lean ====
section
/-! DEFINITION. The meanings of the floating-point, conversion and quantisation instructions (spec/12_float.md). -/

namespace Sys2Proof.Machine

/-! ### What the instructions share -/

/-- R47: FTZ and RM of the group. -/
def Env.ftz (e : Env) : Bool := bitOf e.g.fpctl.toNat 3
def Env.mode (e : Env) (r : Rnd) (narrow : Bool) : RMode := modeOf r e.g.fpctl.toNat narrow

/-- R195: whether a narrowing conversion of a span rounds RS. -/
def spanRs (r : Rnd) (sp : Span) : Bool := modeOf r sp.fpctl.toNat true == .rs

/-- R223, R193: element `k` of an operand after ABSA and NEG, flushed. -/
def Env.fin (e : Env) (f : Fmt) (abs neg : Bool) (l : Nat) (o : Opnd) (k : Nat) : Nat :=
  f.flush e.ftz (f.signed abs neg (e.fcode f l o k))

/-- A lane-by-lane instruction with one floating-point result of `n` registers, in groups and spans (R222, R224). -/
def fpOp (i : Instr) (h : Hdr) (lat : Lat) (d : Opnd) (n : Nat) (f : Env → Nat → Nat × Nat) (s : State) :
    Host.Outcome State Fault Refusal :=
  issue i (.values false noAff) (aluBody h lat (some (d, n)) none fun e l => { val := (f e l).1, flags := (f e l).2 }) s

/-- R225: SAT. -/
def satTo (f : Fmt) (sat : Bool) (r : Nat × Nat) : Nat × Nat := (if sat then f.clamp r.1 else r.1, r.2)

/-- R225: two operands. -/
def bin2 (f : Fmt) (op : RMode → Bool → Nat → Nat → Nat × Nat) (m : FMod) (a b : Opnd) (e : Env) (l : Nat) : Nat × Nat :=
  satTo f m.sat (op (e.mode m.rnd false) (f.ftz e.ftz) (e.fin f m.absa m.nega l a 0) (e.fin f false m.negb l b 0))
/-- R225: a * b + c, element `k`. -/
def fma3 (f : Fmt) (m : FMod) (a b c : Opnd) (k : Nat) (e : Env) (l : Nat) : Nat × Nat :=
  satTo f m.sat (f.fmaOp (e.mode m.rnd false) (f.ftz e.ftz)
    (e.fin f m.absa m.nega l a k) (e.fin f false m.negb l b k) (e.fin f false m.negc l c k))
/-- Two 16-bit elements as one word, with both elements' flags. -/
def pack2 (x y : Nat × Nat) : Nat × Nat := (x.1 + 2 ^ 16 * y.1, orN x.2 y.2)

/-! ### Arithmetic (R225, R226) -/

def execFadd (h : Hdr) (m : FMod) (d a b : Opnd) (s : State) : Host.Outcome State Fault Refusal :=
  fpOp (.fadd h m d a b) h (.fixed 6) d 1 (bin2 fp32 fp32.addOp m a b) s
def execFmul (h : Hdr) (m : FMod) (d a b : Opnd) (s : State) : Host.Outcome State Fault Refusal :=
  fpOp (.fmul h m d a b) h (.fixed 6) d 1 (bin2 fp32 fp32.mulOp m a b) s
def execFfma (h : Hdr) (m : FMod) (d a b c : Opnd) (s : State) : Host.Outcome State Fault Refusal :=
  fpOp (.ffma h m d a b c) h (.fixed 6) d 1 (fma3 fp32 m a b c 0) s
def execFmin (h : Hdr) (m : FMod) (d a b : Opnd) (s : State) : Host.Outcome State Fault Refusal :=
  fpOp (.fmin h m d a b) h (.fixed 6) d 1 (bin2 fp32 (fun _ _ => fp32.minMax false) m a b) s
def execFmax (h : Hdr) (m : FMod) (d a b : Opnd) (s : State) : Host.Outcome State Fault Refusal :=
  fpOp (.fmax h m d a b) h (.fixed 6) d 1 (bin2 fp32 (fun _ _ => fp32.minMax true) m a b) s
def execDadd (h : Hdr) (m : FMod) (d a b : Opnd) (s : State) : Host.Outcome State Fault Refusal :=
  fpOp (.dadd h m d a b) h (.fixed 8) d 2 (bin2 fp64 fp64.addOp m a b) s
def execDmul (h : Hdr) (m : FMod) (d a b : Opnd) (s : State) : Host.Outcome State Fault Refusal :=
  fpOp (.dmul h m d a b) h (.fixed 8) d 2 (bin2 fp64 fp64.mulOp m a b) s
def execDfma (h : Hdr) (m : FMod) (d a b c : Opnd) (s : State) : Host.Outcome State Fault Refusal :=
  fpOp (.dfma h m d a b c) h (.fixed 8) d 2 (fma3 fp64 m a b c 0) s
def execHfma2 (h : Hdr) (m : FMod) (d a b c : Opnd) (s : State) : Host.Outcome State Fault Refusal :=
  fpOp (.hfma2 h m d a b c) h (.fixed 6) d 1 (fun e l => pack2 (fma3 fp16 m a b c 0 e l) (fma3 fp16 m a b c 1 e l)) s
def execBfma2 (h : Hdr) (m : FMod) (d a b c : Opnd) (s : State) : Host.Outcome State Fault Refusal :=
  fpOp (.bfma2 h m d a b c) h (.fixed 6) d 1 (fun e l => pack2 (fma3 bf16 m a b c 0 e l) (fma3 bf16 m a b c 1 e l)) s

/-! ### Comparison, rounding to integral, classification (R227 to R229) -/

/-- R227. -/
def fsetOp (i : Instr) (h : Hdr) (lat : Nat) (f : Fmt) (m : FSetMod) (pd : BitVec 3) (a b : Opnd) (pc : BitVec 3) (s : State) :
    Host.Outcome State Fault Refusal :=
  issue i (.values false noAff) (aluBody h (.fixed lat) none (some pd) fun e l =>
    let x := f.value (e.fin f m.absa m.nega l a 0)
    let y := f.value (e.fin f false m.negb l b 0)
    let c := fcmp m.cmp x y
    let q := e.pbit pc.toNat l
    { pred := match m.bop with | .none => c | .and => c && q | .or => c || q | .xor => c != q
      flags := orN (sigFlag x) (sigFlag y) }) s
def execFsetp (h : Hdr) (m : FSetMod) (pd : BitVec 3) (a b : Opnd) (pc : BitVec 3) (s : State) : Host.Outcome State Fault Refusal :=
  fsetOp (.fsetp h m pd a b pc) h 6 fp32 m pd a b pc s
def execDsetp (h : Hdr) (m : FSetMod) (pd : BitVec 3) (a b : Opnd) (pc : BitVec 3) (s : State) : Host.Outcome State Fault Refusal :=
  fsetOp (.dsetp h m pd a b pc) h 8 fp64 m pd a b pc s

/-- FP64 with F64, else FP32. -/
def fpSel (f64 : Bool) : Fmt := if f64 then fp64 else fp32
/-- A one-operand instruction of FP32, or FP64 on pairs. -/
def fpUn (i : Instr) (h : Hdr) (lat : Lat) (f64 : Bool) (d a : Opnd) (n : Nat) (f : Fmt → Env → Nat → Nat × Nat) (s : State) :
    Host.Outcome State Fault Refusal :=
  fpOp i h lat d n (fun e l => f (fpSel f64) e (e.fin (fpSel f64) false false l a 0)) s
def execFrnd (h : Hdr) (rnd : Rnd) (f64 : Bool) (d a : Opnd) (s : State) : Host.Outcome State Fault Refusal :=
  fpUn (.frnd h rnd f64 d a) h (.fixed 6) f64 d a (b2w f64) (fun f e x => f.roundIntegral (e.mode rnd false) x) s
def execFclass (h : Hdr) (f64 : Bool) (d a : Opnd) (s : State) : Host.Outcome State Fault Refusal :=
  fpUn (.fclass h f64 d a) h (.fixed 6) f64 d a 1 (fun f _ x => (2 ^ f.classOf x, 0)) s

/-! ### Special functions (R230) -/

def execFrcp (h : Hdr) (rnd : Rnd) (f64 : Bool) (d a : Opnd) (s : State) : Host.Outcome State Fault Refusal :=
  fpUn (.frcp h rnd f64 d a) h .var f64 d a (b2w f64) (fun f e x => f.rcp (e.mode rnd false) e.ftz x) s
def execFsqrt (h : Hdr) (rnd : Rnd) (f64 : Bool) (d a : Opnd) (s : State) : Host.Outcome State Fault Refusal :=
  fpUn (.fsqrt h rnd f64 d a) h .var f64 d a (b2w f64) (fun f e x => f.sqrtOp (e.mode rnd false) e.ftz x) s
def execFrsq (h : Hdr) (d a : Opnd) (s : State) : Host.Outcome State Fault Refusal :=
  fpUn (.frsq h d a) h .var false d a 1 (fun _ e x => fp32.flushResult e.ftz (frsqVal x)) s
def execFex2 (h : Hdr) (d a : Opnd) (s : State) : Host.Outcome State Fault Refusal :=
  fpUn (.fex2 h d a) h .var false d a 1 (fun _ e x => fp32.flushResult e.ftz (fex2Val x)) s
def execFlg2 (h : Hdr) (d a : Opnd) (s : State) : Host.Outcome State Fault Refusal :=
  fpUn (.flg2 h d a) h .var false d a 1 (fun _ e x => fp32.flushResult e.ftz (flg2Val x)) s
def execFsin (h : Hdr) (d a : Opnd) (s : State) : Host.Outcome State Fault Refusal :=
  fpUn (.fsin h d a) h .var false d a 1 (fun _ e x => fp32.flushResult e.ftz (trigOp false x)) s
def execFcos (h : Hdr) (d a : Opnd) (s : State) : Host.Outcome State Fault Refusal :=
  fpUn (.fcos h d a) h .var false d a 1 (fun _ e x => fp32.flushResult e.ftz (trigOp true x)) s

/-! ### Conversions among standard formats (R232, R233) -/

/-- The type of one side of FCVT. -/
inductive NumTy where
  | f (f : Fmt)
  | i (w : Nat) (sgn : Bool)
  deriving DecidableEq, Repr

/-- R232: the destination, the source and how many elements. -/
def cvTypes : Cv → NumTy × NumTy × Nat
  | .f32f64 => (.f fp32, .f fp64, 1)
  | .f64f32 => (.f fp64, .f fp32, 1)
  | .f16f32 => (.f fp16, .f fp32, 1)
  | .f32f16 => (.f fp32, .f fp16, 1)
  | .bf16f32 => (.f bf16, .f fp32, 1)
  | .f32bf16 => (.f fp32, .f bf16, 1)
  | .f16f64 => (.f fp16, .f fp64, 1)
  | .f64f16 => (.f fp64, .f fp16, 1)
  | .bf16f64 => (.f bf16, .f fp64, 1)
  | .f64bf16 => (.f fp64, .f bf16, 1)
  | .s32f32 => (.i 32 true, .f fp32, 1)
  | .f32s32 => (.f fp32, .i 32 true, 1)
  | .u32f32 => (.i 32 false, .f fp32, 1)
  | .f32u32 => (.f fp32, .i 32 false, 1)
  | .s32f64 => (.i 32 true, .f fp64, 1)
  | .f64s32 => (.f fp64, .i 32 true, 1)
  | .u32f64 => (.i 32 false, .f fp64, 1)
  | .f64u32 => (.f fp64, .i 32 false, 1)
  | .s64f64 => (.i 64 true, .f fp64, 1)
  | .f64s64 => (.f fp64, .i 64 true, 1)
  | .u64f64 => (.i 64 false, .f fp64, 1)
  | .f64u64 => (.f fp64, .i 64 false, 1)
  | .s64f32 => (.i 64 true, .f fp32, 1)
  | .f32s64 => (.f fp32, .i 64 true, 1)
  | .u64f32 => (.i 64 false, .f fp32, 1)
  | .f32u64 => (.f fp32, .i 64 false, 1)
  | .f16x2f32 => (.f fp16, .f fp32, 2)
  | .bf16x2f32 => (.f bf16, .f fp32, 2)
  | .f32f16x2 => (.f fp32, .f fp16, 2)
  | .f32bf16x2 => (.f fp32, .f bf16, 2)

def NumTy.w : NumTy → Nat | .f fm => fm.w | .i n _ => n

/-- Element `k` of an operand under a type: an immediate is converted exactly (R65). -/
def Env.numIn (e : Env) (t : NumTy) (wide : Bool) (l : Nat) (o : Opnd) (k : Nat) : Fp :=
  match t with
  | .f f =>
    let x := match o with
      | .imm _ => e.fcode f l o 0
      | _ => fld (e.word wide l o) (f.w * k) f.w
    f.value (f.flush e.ftz x)
  | .i w sgn => Fp.ofInt (intOf sgn w (e.word wide l o))

/-- R233: a value written in a type. -/
def NumTy.put (t : NumTy) (mode : RMode) (u : Nat) (ftz : Bool) (x : Fp) : Nat × Nat :=
  match t with
  | .f fm => fm.convert mode u ftz x
  | .i n sgn => toIntCode n sgn mode x

/-- R195: the LFSR after `k` steps. -/
def lfsrAfter : Nat → Nat → Nat
  | 0, x => x
  | k + 1, x => lfsrAfter k (lfsrStep x)
def Env.lfsr (e : Env) (l k : Nat) : Nat := lfsrAfter k (e.g.lane l).lfsr.toNat

/-- Elements of a conversion, each under its own LFSR step, packed. -/
def convElems (n w : Nat) (f : Nat → Nat × Nat) : Nat × Nat :=
  ((List.range n).foldl (fun x k => x + 2 ^ (w * k) * (f k).1) 0, (List.range n).foldl (fun x k => orN x (f k).2) 0)

/-- R224: a conversion that rounds RS lowers a span; any other with U operands gives U. -/
def convRule (i : Instr) (rs : Span → Bool) (body : Body) : SpanRule :=
  .own false fun s sp next => if rs sp || !sp.allU i.uses then none else s.runOnce i sp next body

def execFcvt (h : Hdr) (rnd : Rnd) (cv : Cv) (d a : Opnd) (s : State) : Host.Outcome State Fault Refusal :=
  let (dt, st, n) := cvTypes cv
  let body := aluBody h (.fixed 6) (some (d, b2w cv.dstPair)) none fun e l =>
    let mode := e.mode rnd cv.narrowing
    let r := convElems n dt.w fun k => dt.put mode (e.lfsr l (k + 1)) e.ftz (e.numIn st cv.srcPair l a k)
    { val := r.1, flags := r.2, lfsr := if mode == .rs then some (e.lfsr l n) else none }
  let i := Instr.fcvt h rnd cv d a
  issue i (convRule i (fun sp => cv.narrowing && spanRs rnd sp) body) body s

/-! ### Conversions to and from narrow formats (R234, R235) -/

def Std.fmt : Std → Fmt | .f32 => fp32 | .f16x2 => fp16 | .bf16x2 => bf16
def Std.n : Std → Nat | .f32 => 1 | _ => 2
/-- R191: the format register must match the class. -/
def fmtFits (n4 : Bool) (x : Nat) : Bool :=
  let w := fld x 0 4
  if n4 then w == 4 else decide (5 ≤ w ∧ w ≤ 8)
/-- R191: the lanes of an instruction with a narrow format raise ILLEGAL_ENC where the register as they read it (R73) does not fit. -/
def fmtChecked (n4 : Bool) (k : BitVec 3) (body : Body) : Body := fun s e act =>
  let bad := laneMask fun l => inMask act l && !fmtFits n4 (e.fmt k.toNat l)
  let o : Out := if maskDiff act bad == 0 then { s } else body s e (maskDiff act bad)
  { o with raises := o.raises ++ e.raiseAll bad .illegalEnc }

/-- R234, R235. CVTN.FROM reads the code of a narrow format from the bits of A at its place; where A is an immediate these are the
32 bits of its sign-extended value: R65 converts an immediate to formats that represent -128 to 127, which a narrow format need
not, and says nothing of one that does not (log entry 63, DESIGN CHOICE). -/
def execCvtn (h : Hdr) (rnd : Rnd) (from_ : Bool) (std : Std) (n4 : Bool) (pos : BitVec 3) (d a : Opnd) (k : BitVec 3) (s : State) :
    Host.Outcome State Fault Refusal :=
  let w := if n4 then 4 else 8
  let sf := Std.fmt std
  let body := fmtChecked n4 k (aluBody h .var (some (d, 1)) none fun e l =>
    let nf := fmtOf (e.fmt k.toNat l)
    let mode := e.mode rnd (!from_)
    if from_ then
      let r := convElems (Std.n std) sf.w fun i => sf.convert mode 0 e.ftz (nf.value (fld (e.w32 l a) (w * (pos.toNat + i)) nf.w))
      { val := r.1, flags := r.2 }
    else
      let el := fun i => nf.convert mode (e.lfsr l (i + 1)) false (e.numIn (.f sf) false l a i)
      let r := (List.range (Std.n std)).foldl (fun x i =>
        x - 2 ^ (w * (pos.toNat + i)) * fld x (w * (pos.toNat + i)) w + 2 ^ (w * (pos.toNat + i)) * (el i).1) (e.w32 l d)
      { val := r, flags := (List.range (Std.n std)).foldl (fun x i => orN x (el i).2) 0,
        lfsr := if mode == .rs then some (e.lfsr l (Std.n std)) else none })
  let i := Instr.cvtn h rnd from_ std n4 pos d a k
  issue i (convRule i (fun sp => !from_ && spanRs rnd sp) body) body s

/-! ### Format registers (R236) -/

def execFmtset (h : Hdr) (k : BitVec 3) (a : Opnd) (s : State) : Host.Outcome State Fault Refusal :=
  issue (.fmtset h k a) .lower (fun s e act =>
    let x := e.w64 (lowLane act) a
    if fmtValid x then { s := s.result e.g.uid h act (.fixed 4) [(.fmt k.toNat, fun _ => BitVec.ofNat 32 x)] 0 }
    else { s, raises := e.raiseAll act .illegalEnc }) s

/-! ### Block quantisation (R237, R238) -/

/-- R238: the scale candidates, each clamped, without repeats. -/
def qntCands (s0 : Int) : List Int :=
  let c := fun x => satZ x (-127) 127
  ([c s0, c (s0 + 1), c (s0 - 1)] : List Int).eraseDups

/-- floor(log2) of the greatest magnitude, if any is nonzero. -/
def maxLog (xs : List Fp) : Option Int :=
  xs.foldl (fun b x => match x with
    | .fin _ m e => if m == 0 then b else let k := (log2N m : Int) + e
                                          match b with | some j => some (max j k) | none => some k
    | _ => b) none

/-- R238: the codes and flags of the lanes under a candidate: `us` the LFSR outputs. -/
def qntCodes (f : Fmt) (mode : RMode) (sc : Int) (xs : List (Fp × Nat)) : List (Nat × Nat) :=
  xs.map fun x => match x.1 with
    | .fin n m e => f.convert mode x.2 false (.fin n m (e - sc))
    | v => f.convert mode x.2 false v

/-- R238: err(s), an FP32 code. -/
def qntErr (f : Fmt) (sc : Int) (xs : List (Fp × Nat)) (qs : List (Nat × Nat)) : Nat :=
  (xs.zip qs).foldl (fun acc p =>
    let y := match f.value p.2.1 with | .fin n m e => Fp.fin n m (e + sc) | v => v
    let d := (Fp.add false p.1.1 y.negate).1
    let sq := (fp32.put .rn 0 false (Fp.mul d d)).1
    (fp32.addOp .rn false acc sq).1) 0

/-- An error that is finite. -/
def finiteCode (x : Nat) : Bool := match fp32.value x with | .fin _ _ _ => true | _ => false

/-- R238: the chosen candidate: the least finite error, the earlier on a tie. -/
def qntPick (f : Fmt) (mode : RMode) (xs : List (Fp × Nat)) : List Int → Int × List (Nat × Nat)
  | [] => (0, [])
  | c :: cs =>
    let q0 := qntCodes f mode c xs
    let r := cs.foldl (fun (b : Int × List (Nat × Nat) × Nat) s =>
      let q := qntCodes f mode s xs
      let er := qntErr f s xs q
      if finiteCode er && (!finiteCode b.2.2 || decide (er < b.2.2)) then (s, q, er) else b) (c, q0, qntErr f c xs q0)
    (r.1, r.2.1)

/-- R238: a block: each participating lane's word, and the flags. -/
def qntBlock (f : Fmt) (mode : RMode) (xs : List (Fp × Nat)) : List Nat × Nat :=
  if xs.any fun x => match x.1 with | .fin _ _ _ => false | _ => true then (xs.map fun _ => 0xFF00, flagInv)
  else match maxLog (xs.map (·.1)) with
    | none => (xs.map fun x => (match x.1 with | .fin n _ _ => f.zeroCode n | _ => 0) + 127 * 256, 0)
    | some k =>
      let r := qntPick f mode xs (qntCands (k - f.emax))
      (r.2.map fun q => q.1 + 256 * (r.1 + 127).toNat, r.2.foldl (fun x q => orN x q.2) 0)

/-- How many items of a range of one team lie in each block of 32. -/
def blockSizes (a b : Nat) : List Nat :=
  ((List.range (b / 32 + 1)).filter fun k => decide (a / 32 ≤ k)).map fun k => min b (32 * k + 31) + 1 - max a (32 * k)
/-- R238: the sizes of the blocks that the items of a span form as lanes of groups. -/
def Span.blockSizes (gr : Grid) (sp : Span) : List Nat :=
  let t := gr.kernel.tsize
  let x := gr.teamOf sp.first
  let y := gr.teamOf sp.last
  (if x == y then Machine.blockSizes (gr.titem sp.first) (gr.titem sp.last)
   else Machine.blockSizes (gr.titem sp.first) (t - 1) ++ (if x + 1 < y then Machine.blockSizes 0 (t - 1) else [])
     ++ Machine.blockSizes 0 (gr.titem sp.last)).eraseDups

/-- R238: the blocks of the active lanes: the lanes with their words, and the flags. -/
def qntOf (e : Env) (rnd : Rnd) (k : BitVec 3) (a : Opnd) (act : Nat) : List (Nat × Nat) × Nat :=
  let f := fmtOf (e.fmt k.toNat (lowLane act))
  let block := fun b =>
    let ls := (lanesOf act).filter fun l => l / 32 == b
    let r := qntBlock f (e.mode rnd true) (ls.map fun l => (fp32.value (e.fin fp32 false false l a 0), e.lfsr l 1))
    (ls.zip r.1, r.2)
  ((block 0).1 ++ (block 1).1, orN (block 0).2 (block 1).2)
/-- R201, R238: the same for a span, whose one lane stands for blocks of some sizes, all of its items holding one value: its word
where every block gives the same, and `none` where they differ. -/
def qntSpan (e : Env) (rnd : Rnd) (k : BitVec 3) (a : Opnd) (sizes : List Nat) (l : Nat) : Option (List (Nat × Nat) × Nat) :=
  let f := fmtOf (e.fmt k.toNat l)
  let rs := sizes.map fun n => qntBlock f (e.mode rnd true) (List.replicate n (fp32.value (e.fin fp32 false false l a 0), e.lfsr l 1))
  let w := ((rs.head?.bind fun r => r.1.head?)).getD 0
  if rs.all fun r => r.1.all (· == w) then some ([(l, w)], rs.foldl (fun x r => orN x r.2) 0) else none

/-- R238: the effect, when the words and flags are there. -/
def qntPut (h : Hdr) (rnd : Rnd) (d : Opnd) (s : State) (e : Env) (act : Nat) (r : List (Nat × Nat) × Nat) : Out :=
  let val := fun l => ((r.1.find? fun p => p.1 == l).map (·.2)).getD 0
  let s := s.result e.g.uid h act .var (resOf d 1 (lowLane act) val) r.2
  { s := if e.mode rnd true == .rs then
      s.updGroup e.g.uid fun g => g.updLanes act fun l x => { x with lfsr := BitVec.ofNat 32 (e.lfsr l 1) }
    else s }

def execQnt (h : Hdr) (rnd : Rnd) (n4 : Bool) (d a : Opnd) (k : BitVec 3) (s : State) : Host.Outcome State Fault Refusal :=
  let i := Instr.qnt h rnd n4 d a k
  issue i (.own false fun s sp next =>
      if spanRs rnd sp || !sp.allU i.uses then none
      else
        -- where the blocks would give different words the span lowers, as for a trap
        s.runOnce i sp next (fmtChecked n4 k fun s e act =>
          match qntSpan e rnd k a (sp.blockSizes e.gr) (lowLane act) with
          | some r => qntPut h rnd d s e act r
          | none => { s, raises := e.raiseAll act .illegalEnc }))
    (fmtChecked n4 k fun s e act => qntPut h rnd d s e act (qntOf e rnd k a act)) s

/-! ### Applying block scales (R239) -/

def execScacc (h : Hdr) (rnd : Rnd) (nega : Bool) (d a b c : Opnd) (s : State) : Host.Outcome State Fault Refusal :=
  fpOp (.scacc h rnd nega d a b c) h (.fixed 6) d 1 (fun e l =>
    let x := e.w32 l b
    let ca := fld x 0 8
    let cb := fld x 8 8
    if ca == 0xFF || cb == 0xFF then (fp32.nanCode, flagInv)
    else
      let av := match fp32.value (e.fin fp32 false nega l a 0) with
        | .fin n m k => Fp.fin n m (k + ca + cb - 254)
        | v => v
      let mode := e.mode rnd false
      fp32.put mode 0 e.ftz (Fp.add (mode == .rd) av (fp32.value (e.fin fp32 false false l c 0)))) s

end Sys2Proof.Machine
end

