-- ==== Sys2Proof/Machine/Fetch.lean ====
section
/-! DEFINITION. Fetching an instruction (spec/03_encoding.md R56 to R62, R81): the fetch block, pad words, the traps of
steps 1 to 4, and what issues to whom. -/

namespace Sys2Proof.Machine

/-- What a fetch at a PC gives. -/
inductive Fetched where
  | ok (i : Instr) (word : Nat)
  | pad
  | bad (code : TrapCode) (addr : Nat) (absent : Option AbsentAt)
  | wait
  deriving DecidableEq, Repr

/-- R81, steps 2 to 4: what the bytes of a fetch block from a PC on hold. -/
def fetchedOf (pc : Nat) (bs : List Byte) : Fetched :=
  match decodeBytes (pc % 32) bs with
  | .ok i => .ok i (leNat (bs.take 16))
  | .error .padWord => .pad
  | .error .fetchSplit => .bad .fetchSplit pc none
  | .error .badPad => .bad .illegalEnc pc none
  | .error .illegalOpc => .bad .illegalOpc pc none
  | .error .illegalEnc => .bad .illegalEnc pc none

/-- R62: a store, or a peer's request, of which one part is performed and another is not writes bytes of a fetch block. -/
def State.torn (s : State) (loc : Nat) : Bool :=
  (s.stores.any fun x => x.2.load.isNone && x.2.inTeam.isNone && !x.2.beside.isEmpty
    && (x.2.beside ++ piecePlaces x.2.pieces).any fun p => p / 32 == loc / 32)
  || s.streams.any fun x => match x.half with | some h => decide (h.loc < loc / 32 * 32 + 32) && decide (loc / 32 * 32 < h.loc + h.size) | none => false
/-- R61, R81: the fetch of the instruction at a PC, with the block translated first. A fetch reads the block as memory stands
then; R62 lets it see the block before or after a store that no invalidation separates from it (log entry 61, DESIGN
CHOICE), and it waits while one is half done. -/
def State.fetch (s : State) (core ctx ver pc : Nat) : Fetched × State :=
  match s.checkPage core ctx ver (pc / 32 * 32) .fetch 2 with
  | (.pass t, s) =>
    if s.torn t.loc then (.wait, s)
    else match s.viewHeld ver t 32 false with
    | some loc => (.wait, s.recallAt loc 1)
    | none => (fetchedOf pc (s.viewBytes ver (t.add (pc % 32)) (min 16 (32 - pc % 32))).1, s)
  | (.fail c a p, s) => (.bad c a p, s)
  | (.wait, s) => (.wait, s)

/-- More words than a context's addresses hold: no run of pad words is longer. -/
def padFuel : Nat := 2 ^ 47
/-- R61, R327: a PC moves past consecutive pad words, which are fetched; `n` bounds how many are looked at. What stands behind them is
fetched when it issues. -/
def State.skipPads (s : State) (core ctx ver : Nat) (pc : BitVec 49) : Nat → BitVec 49 × State
  | 0 => (pc, s)
  | n + 1 =>
    match s.fetch core ctx ver pc.toNat with
    | (.pad, s) => s.skipPads core ctx ver (pc + 4) n
    | _ => (pc, s)

/-- The instruction of an issue, fetched again as it issues, with its PC and the next PC; or none, when the fetch faults
in every lane (R81, steps 1 to 4) or the span it is for lowers. -/
def State.fetchFor (s : State) (x : Issue) : Option Instr × State :=
  let go := fun (s : State) (core ctx ver : Nat) (bad : State → TrapCode → Nat → Option AbsentAt → State) (wait : State → State) =>
    match s.fetch core ctx ver x.pc.toNat with
    | (.ok i w, s) =>
      let p := s.skipPads core ctx ver (x.pc + BitVec.ofNat 49 i.bytes) padFuel
      (some i, { p.2 with cur := some { x with word := w, next := p.1 } })
    | (.pad, s) => (none, s)
    | (.bad c a p, s) => (none, bad s c a p)
    | (.wait, s) => (none, wait s)
  match x.who with
  | .group uid lanes =>
    match s.env? uid with
    | none => (none, s)
    | some e =>
      go s e.t.core e.gr.ctx e.gr.version
        (fun s c a p =>
          let s := s.updGroup uid fun g => g.mark lanes (e.c.now + e.c.passes) false
          s.takeTrap uid x.pc x.pc 0 ((lanesOf lanes).map fun l => { lane := l, code := c, addr := a, absent := p }))
        (fun s => s.updGroup uid fun g => g.updLanes lanes fun _ y => { y with block := .retry })
  | .span uid =>
    match Tab.get? s.spans uid with
    | none => (none, s)
    | some sp =>
      match Tab.get? s.grids sp.grid with
      | none => (none, s)
      | some gr =>
        go s (s.spanCore sp) gr.ctx gr.version (fun s _ _ _ => s.lower sp)
          (fun s => s.updSpan uid fun y => { y with block := .retry })

end Sys2Proof.Machine
end

