-- ==== Sys2Proof/Machine/Control.lean ====
section
/-! DEFINITION. The meanings of the control instructions: branches, calls, rejoin masks, waits, allotment and predicate
logic (spec/08_group.md R158 to R170), EXIT, SPMAT and SPFORM (spec/07_kernel.md R147 to R150), TRAP, BPT, SRD, SWR and
CYC (spec/05_context.md R112, R113). -/

namespace Sys2Proof.Machine

/-! ### Shared pieces -/

/-- R158: the PC of the next instruction, past pad words. -/
def Env.nextPc (e : Env) (l bytes : Nat) : BitVec 49 :=
  (e.st.skipPads e.t.core e.gr.ctx e.gr.version (e.pc l + BitVec.ofNat 49 bytes) padFuel).1

/-- R158: the target of a relative transfer. -/
def relTarget (pc : BitVec 49) (off : BitVec 32) : BitVec 49 := pc + BitVec.ofInt 49 (4 * off.toInt)

/-- Send a lane to an address. -/
def State.goTo (s : State) (uid l : Nat) (pc : BitVec 49) : State := s.updGroup uid fun g => g.updLanes (2 ^ l) fun _ x => { x with pc }

/-- An instruction that executes once per issue for the group. -/
def onceBody (f : State → Env → Nat → State) : Body := fun s e act => { s := f s e act }

/-- Make units present before an effect on the group; the lanes wait, or raise DATA_POISON (R104, R105). -/
def withUnits (s : State) (e : Env) (act : Nat) (us : List (Nat × Nat × Nat)) (f : State → Out) : Out :=
  match s.presentAll e.gr.ctx us with
  | .done s => f s
  | .wait s => { s, waits := act }
  | .bad code va x => { s, raises := (lanesOf act).map fun l => { lane := l, code, addr := va, absent := x } }

/-! ### Branches, calls and returns (R158) -/

def execNop (h : Hdr) (s : State) : Host.Outcome State Fault Refusal :=
  issue (.nop h) .nothing (fun s _ _ => { s }) s

def execBra (h : Hdr) (off : BitVec 32) (s : State) : Host.Outcome State Fault Refusal :=
  issue (.bra h off) (.own false fun s sp _ => some (s.setSpan { sp with pc := relTarget sp.pc off, block := .free }))
    (fun s e act => forLanes s act fun s l => (s.goTo e.g.uid l (relTarget (e.pc l) off), .stay)) s

/-- R158: a target held in a register: its address bits, or MISALIGNED. -/
def badTarget (t : Nat) : Bool := decide (2 ^ 49 ≤ t) || t % 4 != 0

def execBrx (h : Hdr) (a : Opnd) (s : State) : Host.Outcome State Fault Refusal :=
  issue (.brx h a) .lower (fun s e act => forLanes s act fun s l =>
    let t := e.w64 l a
    if badTarget t then (s, .raised .misaligned t none) else (s.goTo e.g.uid l (BitVec.ofNat 49 t), .stay)) s

/-- R158: push the return address and go to a target. -/
def callLane (bytes : Nat) (e : Env) (s : State) (l : Nat) (pc : BitVec 49) : State × LaneEnd :=
  match s.push e l (BitVec.ofNat 64 (e.nextPc l bytes).toNat) with
  | .done _ s => (s.goTo e.g.uid l pc, .stay)
  | .fail c x p s => (s, .raised c x p)
  | .wait s => (s, .waits)

def execCall (h : Hdr) (off : BitVec 32) (s : State) : Host.Outcome State Fault Refusal :=
  issue (.call h off) .lower (fun s e act => forLanes s act fun s l => callLane 12 e s l (relTarget (e.pc l) off)) s

def execCallx (h : Hdr) (a : Opnd) (s : State) : Host.Outcome State Fault Refusal :=
  issue (.callx h a) .lower (fun s e act => forLanes s act fun s l =>
    let t := e.w64 l a
    if badTarget t then (s, .raised .misaligned t none) else callLane 8 e s l (BitVec.ofNat 49 t)) s

def execRet (h : Hdr) (s : State) : Host.Outcome State Fault Refusal :=
  issue (.ret h) .lower (fun s e act => forLanes s act fun s l =>
    match s.pop e l with
    | .done (some x) t =>
      let pc := x.toNat % 2 ^ 49
      if badTarget pc then (s, .raised .misaligned pc none)
      else
        let t := if bitOf x.toNat 63 then t.updGroup e.g.uid fun g => g.leaveHandler (2 ^ l) else t
        (t.goTo e.g.uid l (BitVec.ofNat 49 pc), .stay)
    | .done none s => (s, .raised .retUnderflow (e.pc l).toNat none)
    | .fail c x p s => (s, .raised c x p)
    | .wait s => (s, .waits)) s

/-! ### Exit and spans (R147, R148) -/

def execExit (h : Hdr) (s : State) : Host.Outcome State Fault Refusal :=
  issue (.exit h) (.own false fun s sp _ => match s.exitFirst sp.uid (sp.team.bind fun t => Tab.get? s.teams t) with
      | (s, false) => some (s.updSpan sp.uid fun x => { x with block := .retry })
      | (s, true) => some (s.exitSpan sp))
    (fun s e act =>
      match s.exitFirst e.g.uid (some e.t) with
      | (s, false) => { s, waits := act }
      | (s, true) => { s := s.exitLanes e.g.uid act, stays := act }) s

def execSpmat (h : Hdr) (s : State) : Host.Outcome State Fault Refusal :=
  issue (.spmat h) (.own true fun s sp _ => some (s.lower sp)) (fun s _ _ => { s }) s

/-! ### Rejoin masks and the divergence stack (R160 to R164) -/

/-- R141, R142, R160: the items that a guard selects from a span's range. -/
def PForm.range (p : PForm) (first last : Nat) : Option (Nat × Nat) :=
  match p with
  | .u true => some (first, last)
  | .u false => none
  | .lt t => some (first, t - 1)
  | .ge t => some (t, last)
/-- The union of two item ranges, when it is one range. -/
def joinRange (x y : Nat × Nat) : Option (Nat × Nat) :=
  if x.1 ≤ y.2 + 1 && y.1 ≤ x.2 + 1 then some (min x.1 y.1, max x.2 y.2) else none

def execJset (h : Hdr) (j : BitVec 4) (add : Bool) (s : State) : Host.Outcome State Fault Refusal :=
  issue (.jset h j add)
    (.guarded fun s sp g next =>
      match g.range sp.first sp.last with
      | none => some (s.setSpan { sp with pc := next })
      | some r =>
        let r := match (if add then Tab.get? sp.j j.toNat else none) with
          | some q => joinRange q r
          | none => some r
        r.map fun r => s.setSpan { (if add then { sp with j := Tab.set sp.j j.toNat r } else sp.setJ j.toNat r) with pc := next })
    (onceBody fun s e act => s.updGroup e.g.uid fun g => if add then g.setJ j.toNat (maskOr (g.jmask j.toNat) act) else g.newJ j.toNat act) s

/-- Lanes that wait at their instruction. -/
def State.hold (s : State) (uid m : Nat) (b : Block) : State := s.updGroup uid fun g => g.updLanes m fun _ x => { x with block := b }

def execJoin (h : Hdr) (j : BitVec 4) (s : State) : Host.Outcome State Fault Refusal :=
  issue (.join h j) (.own false fun s sp _ => some (s.setSpan { sp with block := .join j.toNat false }))
    (fun s e act => { s := s.hold e.g.uid act (.join j.toNat false), stays := act }) s

/-- R162: the register and the first lane of entry `k` of the divergence stack. -/
def Group.divReg (g : Group) (k : Nat) : Nat := g.vlim + k / 2
def Group.divMask (g : Group) (k : Nat) : Nat :=
  let r := g.rowV (g.divReg k)
  (r.getD (32 * (k % 2)) 0).toNat + 2 ^ 32 * (r.getD (32 * (k % 2) + 1) 0).toNat
def Group.setDiv (g : Group) (k mask j : Nat) : Group :=
  let b := 32 * (k % 2)
  g.setV (g.divReg k) (2 ^ b * (2 ^ 32 - 1)) fun l =>
    if l == b then BitVec.ofNat 32 mask else if l == b + 1 then BitVec.ofNat 32 (mask / 2 ^ 32) else if l == b + 2 then BitVec.ofNat 32 j else 0
/-- The mask of an entry alone (R163). -/
def Group.setDivMask (g : Group) (k mask : Nat) : Group :=
  let b := 32 * (k % 2)
  g.setV (g.divReg k) (3 * 2 ^ b) fun l => BitVec.ofNat 32 (if l == b then mask else mask / 2 ^ 32)
/-- The granules that hold some entries of the divergence stack (R104). -/
def Group.divUnits (g : Group) (ks : List Nat) : List (Nat × Nat × Nat) :=
  regUnits g.uid (ks.map fun k => Reg.v (g.divReg k))

def execJpush (h : Hdr) (j : BitVec 4) (s : State) : Host.Outcome State Fault Refusal :=
  issue (.jpush h j) .lower (fun s e act =>
    if e.g.depth == e.g.divdepth then { s, raises := e.raiseAll act .divOverflow }
    else withUnits s e act (e.g.divUnits [e.g.depth]) fun s =>
      { s := s.updGroup e.g.uid fun g => { g.setDiv g.depth (g.jmask j.toNat) j.toNat with depth := g.depth + 1 } }) s

def execJpop (h : Hdr) (j : BitVec 4) (s : State) : Host.Outcome State Fault Refusal :=
  issue (.jpop h j) .lower (fun s e act =>
    withUnits s e act (e.g.divUnits (if e.g.depth == 0 then [] else [e.g.depth - 1])) fun s =>
      { s := s.updGroup e.g.uid fun g =>
          if g.depth == 0 then g.newJ j.toNat 0
          else { g.newJ j.toNat (g.divMask (g.depth - 1)) with depth := g.depth - 1 } }) s

/-- R163: entries on top that were touched and name no lane that has not exited leave the stack; `k` were touched. -/
def Group.brkPop (g : Group) : Nat → Group
  | 0 => g
  | k + 1 =>
    if g.depth == 0 then g
    else if (lanesOf (g.divMask (g.depth - 1))).all fun l => (g.lane l).exited || !(g.lane l).inRange then
      ({ g with depth := g.depth - 1 }).brkPop k
    else g
/-- R163. -/
def Group.brk (g : Group) (j n1 m : Nat) : Group :=
  let g := g.setJ j (maskDiff (g.jmask j) m)
  let k := min n1 g.depth
  let g := (List.range k).foldl (fun g i => g.setDivMask (g.depth - 1 - i) (maskDiff (g.divMask (g.depth - 1 - i)) m)) g
  g.brkPop k

def execBrk (h : Hdr) (off : BitVec 32) (j n1 : BitVec 4) (s : State) : Host.Outcome State Fault Refusal :=
  issue (.brk h off j n1) .lower (fun s e act =>
    withUnits s e act (e.g.divUnits ((List.range (min n1.toNat e.g.depth)).map fun i => e.g.depth - 1 - i)) fun s =>
      forLanes (s.updGroup e.g.uid fun g => g.brk j.toNat n1.toNat act) act fun s l =>
        (s.goTo e.g.uid l (relTarget (e.pc l) off), .stay)) s

/-- R164, R291: the arrival of lanes releases what their group has issued, at the place of GROUP and TEAM scope (R283). -/
def execGsync (h : Hdr) (s : State) : Host.Outcome State Fault Refusal :=
  issue (.gsync h) .lower (fun s e act =>
    match s.drainTeam e.g.uid with
    | (s, false) => { s, waits := act }
    | (s, true) => { s := s.hold e.g.uid act .gsync, stays := act }) s

/-! ### Yield, monitor and wait (R165 to R167) -/

def execYield (h : Hdr) (a : Opnd) (s : State) : Host.Outcome State Fault Refusal :=
  issue (.yield h a) .nothing (onceBody fun s e act => s.updGroup e.g.uid fun g => g.updLanes act fun l x =>
    let n := fld (e.w32 l a) 0 16
    { x with yielding := true, block := if n == 0 then .free else .yield (e.c.now + n) }) s

def execMonw (h : Hdr) (a : Opnd) (s : State) : Host.Outcome State Fault Refusal :=
  issue (.monw h a) .lower (fun s e act => forLanes s act fun s l =>
    let va := e.w64 l a
    if 2 ^ 49 ≤ va then (s, .raised .misaligned va none)
    else match s.checkPage e.t.core e.gr.ctx e.gr.version va .load 0 with
      | (.pass t, s) =>
        (s.updGroup e.g.uid fun g => g.updLanes (2 ^ l) fun _ x => { x with watch := some { line := t.loc / 128, fired := false } }, .ok)
      | (.fail c x p, s) => (s, .raised c x p)
      | (.wait, s) => (s, .waits)) s

/-- R72, R151: each lane of a list sleeps, owed a result of its own: `b` makes its block from the number of that result. -/
def State.sleepLanes (s : State) (e : Env) (h : Hdr) (d : Opnd) (b : Nat → Nat → Block) : List Nat → State
  | [] => s
  | l :: ls => ((s.owe e.g h (2 ^ l) d 1).hold e.g.uid (2 ^ l) (b l s.uids)).sleepLanes e h d b ls

def execMwait (h : Hdr) (d a : Opnd) (s : State) : Host.Outcome State Fault Refusal :=
  issue (.mwait h d a) .lower (fun s e act =>
    let limit := fun l => e.w32 l a
    let sleeps := laneMask fun l => inMask act l && limit l != 0 &&
      (match (e.g.lane l).watch with | some w => !w.fired | none => false)
    let status := fun l => match (e.g.lane l).watch with
      | none => 2
      | some w => if w.fired then 0 else 1
    let now := maskDiff act sleeps
    let s := s.result e.g.uid h now .var (resOf d 1 (lowLane now) status) 0
    let s := s.updGroup e.g.uid fun g => g.updLanes now fun _ x => { x with watch := none }
    match (Opnd.regs d 1).head? with
    | some r =>
      { s := s.sleepLanes e h d (fun l n => .mwait (if limit l == 2 ^ 32 - 1 then none else some (e.c.now + limit l)) r n) (lanesOf sleeps)
        stays := sleeps }
    | none => { s, stays := sleeps }) s

/-! ### Operand buffers and allotment (R168, R169) -/

def execRgnld (h : Hdr) (base : BitVec 10) (mask : BitVec 8) (offs : BitVec 32) (s : State) : Host.Outcome State Fault Refusal :=
  issue (.rgnld h base mask offs) .lower (onceBody fun s e act =>
    let ks := (List.range 8).filter fun k => mask.getLsbD k
    s.result e.g.uid h act .var
      (ks.map fun k => (Reg.o k, fun l => e.vec (.v (base.toNat + fld offs.toNat (4 * k) 4)) l)) 0) s

/-- R169: the reserve moves with the top of the allotment. -/
def Group.moveReserve (g : Group) (old new : Nat) : Group :=
  let rows := (List.range g.reserve).filterMap fun m => (Tab.get? g.v (old + m)).map fun r => (new + m, r)
  let v := (List.range g.reserve).foldl (fun v m => Tab.del v (old + m)) g.v
  { g with v := rows.foldl (fun v x => Tab.set v x.1 x.2) v }
/-- R169: a group gives back `v` granules of V and `k` granules of S. -/
def Group.shrink (g : Group) (v k : Nat) : Group :=
  let g := { g with v := g.v.filter fun x => decide (x.1 < g.vlim - 8 * v) || decide (g.vlim ≤ x.1) }
  let g := g.moveReserve g.vlim (g.vlim - 8 * v)
  { g with vallot := g.vallot - 8 * v, slim := g.slim - 16 * k, s := g.s.filter fun x => decide (x.1 < g.slim - 16 * k) }
/-- R169: a group takes `v` granules of V and `k` of S; `n` numbers what the new V registers hold. -/
def Group.grow (g : Group) (v k n : Nat) : Group :=
  let old := g.vlim
  let g := { g.moveReserve old (old + 8 * v) with vallot := g.vallot + 8 * v, slim := g.slim + 16 * k }
  { g with v := (List.range (8 * v)).foldl (fun t i => Tab.set t (old + i) ((List.range 64).map (Config.unwrittenV n (old + i)))) g.v }

def execRshrink (h : Hdr) (a : Opnd) (k : BitVec 4) (s : State) : Host.Outcome State Fault Refusal :=
  issue (.rshrink h a k) .lower (fun s e act =>
    let v := e.w32 (lowLane act) a
    let g := e.g
    if g.vlim < 8 * v + 8 || g.slim < 16 * k.toNat + 16 then { s, raises := e.raiseAll act .regBound }
    else if e.flights.any fun f => f.2.regs.any fun r => (match r.1 with
        | .v n => decide (g.vlim - 8 * v ≤ n)
        | .s n => decide (g.slim - 16 * k.toNat ≤ n)
        | _ => false) then { s, waits := act }
    else
      -- the entries that the divergence stack holds move, out of their old granules and into their new ones; with none, what
      -- is released is released without a fill (R105)
      let rows := (List.range ((g.depth + 1) / 2)).flatMap fun m => [Reg.v (g.vlim + m), Reg.v (g.vlim - 8 * v + m)]
      withUnits s e act (regUnits g.uid rows) fun s =>
        { s := (s.updGroup g.uid fun g => g.shrink v k.toNat).updCtx e.gr.ctx fun c =>
            { c with absent := c.absent.filter fun u =>
                !(u.owner == g.uid && ((u.kind == 0 && decide ((g.vallot - 8 * v) / 8 ≤ u.index))
                  || (u.kind == 1 && decide ((g.slim - 16 * k.toNat) / 16 ≤ u.index)))) } }) s

/-- R33, R132, R135: the V registers reserved for the groups of a core's teams: a group's own allotment, that of a span that
stands for it, the one it retired with, or the one it will have. -/
def State.coreV (s : State) (core : Nat) : Nat :=
  sumN ((s.teams.filter fun t => t.2.resident && t.2.core == core).map fun t =>
    match Tab.get? s.grids t.2.grid with
    | none => 0
    | some gr =>
      sumN ((List.range gr.kernel.ngroups).map fun g =>
        match s.groupOf t.1 g with
        | some x => x.vallot
        | none =>
          match s.spans.find? fun p => p.2.team == some t.1 && gr.lanesIn t.2.index g p.2.first p.2.last != 0 with
          | some p => p.2.vlim + gr.kernel.reserve
          | none => Tab.get t.2.vgone g gr.kernel.vallot))

/-- R169: the oldest RGROW of a core is granted when the pool holds its registers. -/
def State.rgrowTry (s : State) (core : Nat) : State :=
  match (s.core core).rgrowq with
  | [] => s
  | (uid, lanes, v, k) :: rest =>
    if s.coreV core + 8 * v ≤ 2560 then
      let (n, s) := s.fresh
      (s.updCore core fun c => { c with rgrowq := rest }).updGroup uid fun g =>
        (g.grow v k n).updLanes lanes fun _ x => if x.block == .rgrow then { x with block := .free, pc := x.pc + 8 } else x
    else s

def execRgrow (h : Hdr) (a : Opnd) (k : BitVec 4) (s : State) : Host.Outcome State Fault Refusal :=
  issue (.rgrow h a k) .lower (fun s e act =>
    let v := e.w32 (lowLane act) a
    if 640 < e.g.vallot + 8 * v || 256 < e.g.slim + 16 * k.toNat then { s, raises := e.raiseAll act .regBound }
    else withUnits s e act (e.g.divUnits (List.range (2 * e.g.reserve))) fun s =>
      let s := s.hold e.g.uid act .rgrow
      let s := s.updCore e.t.core fun c => { c with rgrowq := c.rgrowq ++ [(e.g.uid, act, v, k.toNat)] }
      { s := if (s.core e.t.core).rgrowq.length == 1 then s.rgrowTry e.t.core else s, stays := act }) s

/-! ### Predicate logic (R170) -/

def execPlop (h : Hdr) (pd pa pb : BitVec 3) (lut : BitVec 4) (s : State) : Host.Outcome State Fault Refusal :=
  issue (.plop h pd pa pb lut) (.values false noAff) (aluBody h (.fixed 4) none (some pd) fun e l =>
    { pred := bitOf lut.toNat (2 * b2n (e.pbit pb.toNat l) + b2n (e.pbit pa.toNat l)) }) s

def execPmov (h : Hdr) (pd pa : BitVec 3) (neg : Bool) (s : State) : Host.Outcome State Fault Refusal :=
  issue (.pmov h pd pa neg)
    (.values false fun _ _ sp => some { preds := [(pd.toNat, if neg then (sp.pform pa.toNat).neg else sp.pform pa.toNat)] })
    (aluBody h (.fixed 4) none (some pd) fun e l => { pred := e.pbit pa.toNat l != neg }) s

/-! ### TRAP and BPT (R112) -/

def execTrap (h : Hdr) (tag : BitVec 8) (s : State) : Host.Outcome State Fault Refusal :=
  issue (.trap h tag) .lower (fun s e act => { s, raises := e.raiseAll act .software, tag := tag.toNat }) s
def execBpt (h : Hdr) (tag : BitVec 8) (s : State) : Host.Outcome State Fault Refusal :=
  issue (.bpt h tag) .lower (fun s e act => { s, raises := e.raiseAll act .breakpoint, tag := tag.toNat }) s

/-! ### Special registers (R113) -/

def srdWide (d : Opnd) : Nat := if d.isS then 2 else 1
def execSrd (h : Hdr) (d a : Opnd) (s : State) : Host.Outcome State Fault Refusal :=
  issue (.srd h d a) (.values false fun s gr sp => match Opnd.vreg? d, s.opForm gr sp a with
      | some r, some f => some { regs := [(r, f)] }
      | _, _ => none)
    (aluBody h (.fixed 4) (some (d, srdWide d)) none fun e l => { val := e.w64 l a }) s

/-- R113: what SWR writes. -/
def Group.swr (g : Group) (now n x : Nat) : Group :=
  if n == 0x18 then g.setFpctl now x
  else if n == 0x19 then g.clearFlags x
  else if n == 0x1A then g.setGctl now x
  else g
def execSwr (h : Hdr) (d a : Opnd) (s : State) : Host.Outcome State Fault Refusal :=
  issue (.swr h d a) (.once false) (onceBody fun s e act =>
    match d with
    | .sr n => s.updGroup e.g.uid fun g => g.swr e.c.epoch n.toNat (e.w32 (lowLane act) a)
    | _ => s) s

def execCyc (h : Hdr) (d : Opnd) (hi : Bool) (s : State) : Host.Outcome State Fault Refusal :=
  issue (.cyc h d hi) (.once true)
    (aluBody h (.fixed 4) (some (d, srdWide d)) none fun e _ => { val := if hi then e.c.now / 2 ^ 32 % 2 ^ 32 else e.c.now % 2 ^ 64 }) s

/-! ### Forms (R150) -/

/-- The inverse of an odd number modulo 2^32. -/
def oddInv (d : Word) : Word :=
  (List.range 5).foldl (fun x _ => x * (2 - d * x)) d
/-- How often 2 divides a number from 1 to 63. -/
def twos (d : Nat) : Nat := ((List.range 6).filter fun k => d % 2 ^ (k + 1) == 0 && decide (0 < d)).length

/-- The form that fits values at places, the first place and value given: `some` a form, U having stride 0. -/
def fitForm (xs : List (Nat × Word)) : Option Form :=
  match xs with
  | [] => some Form.zero
  | (i0, v0) :: rest =>
    if rest.all fun x => x.2 == v0 then some (Form.u v0)
    else
      let best := rest.foldl (fun b x => if twos (x.1 - i0) < twos (b.1 - i0) then x else b) (rest.headD (i0, v0))
      let d := best.1 - i0
      let k := twos d
      let w := best.2 - v0
      let st := (w >>> k) * oddInv (BitVec.ofNat 32 (d / 2 ^ k))
      let f : Form := { base := v0 - st * BitVec.ofNat 32 i0, stride := st }
      if xs.all fun x => f.at_ x.1 == x.2 then some f else none
/-- The predicate form that fits bits at places in rising order. -/
def fitP (xs : List (Nat × Bool)) : Option PForm :=
  match xs with
  | [] => some (.u false)
  | (_, b0) :: _ =>
    match xs.find? fun x => x.2 != b0 with
    | none => some (.u b0)
    | some t => if xs.all fun x => x.2 == (if x.1 < t.1 then b0 else !b0) then some (if b0 then .lt t.1 else .ge t.1) else none

/-- The item of lane `l` of a group. -/
def Env.item (e : Env) (l : Nat) : Nat := itemOf e.t e.gr e.g.gid l

/-- R150: the code of a form. -/
def formCode (f : Option Form) : Nat := match f with | some f => if f.isU then 0 else 1 | none => 2
def pformCode (p : Option PForm) : Nat := match p with | some (.u _) => 0 | some _ => 3 | none => 2

/-- R150: what SPFORM reads in a span. -/
def Span.formCode (sp : Span) (src : FormSrc) : Nat :=
  match src with
  | .pred p => pformCode (some (sp.pform p.toNat))
  | .reg (.v n) => Machine.formCode (some (sp.formOf (.v n.toNat)))
  | .reg (.o n) => Machine.formCode (some (sp.formOf (.o n.toNat)))
  | .reg (.z n) => Machine.formCode (some (sp.formOf (.z n.toNat)))
  | .reg _ => 0
/-- R150: and in a group. -/
def Env.formCode (e : Env) (src : FormSrc) (act : Nat) : Nat :=
  match src with
  | .pred p => pformCode (fitP ((lanesOf act).map fun l => (e.item l, e.pbit p.toNat l)))
  | .reg (.s _) => 0
  | .reg o => Machine.formCode (fitForm ((lanesOf act).map fun l => (e.item l, BitVec.ofNat 32 (e.w32 l o))))

def execSpform (h : Hdr) (d : Opnd) (src : FormSrc) (s : State) : Host.Outcome State Fault Refusal :=
  issue (.spform h d src)
    (.own false fun s sp next =>
      let x := sp.formCode src + 4
      let sp := match Opnd.vreg? d with
        | some r => sp.putAff { regs := [(r, Form.u (BitVec.ofNat 32 x))] }
        | none => match d with
          | .s n => { sp with s := Tab.set sp.s n.toNat (BitVec.ofNat 64 x), stamps := Tab.set sp.stamps (stampS n.toNat) (s.core (s.spanCore sp)).epoch }
          | _ => sp
      some (s.setSpan { sp with pc := next }))
    (fun s e act =>
      let x := e.formCode src act
      { s := s.result e.g.uid h act (.fixed 4) (resOf d 1 (lowLane act) fun _ => x) 0 }) s

end Sys2Proof.Machine
end

