-- ==== Sys2Proof/Machine/Future.lean ====
section
/-! DEFINITION. Futures, range locks, the copy channels and the meanings of the future and copy instructions
(spec/16_future.md R304 to R320), with GFOLD (spec/07_kernel.md R149), which asks about handles. -/

namespace Sys2Proof.Machine

/-! ### Handles (R304 to R308) -/

/-- R304, R307: whether a creating instruction must wait: its handle's future runs, or no future is free. -/
def Env.createWaits (e : Env) (n : Nat) : Bool :=
  hLive (e.g.hreg n) || (Tab.lowestFree e.t.futures 0 1024).isNone

/-- R304, R307: a new future in a handle; its index. -/
def State.newFuture (s : State) (e : Env) (n kind ch : Nat) : Nat × State :=
  let fid := (Tab.lowestFree ((Tab.get? s.teams e.t.uid).map (·.futures) |>.getD []) 0 1024).getD 0
  let f : Future := { state := 1, kind, ch, wptr := 0, code := 0, addr := 0, token := false, cancel := false }
  let s := s.updTeam e.t.uid fun t => { t with futures := Tab.set t.futures fid f }
  (fid, s.putHandle e.g n (f.word fid))

/-- R308: a consuming read. -/
inductive Consume where | go | waits | dead
  deriving DecidableEq, Repr
def consume (w : DWord) : Consume := if hLive w then .waits else if 4 ≤ hState w then .dead else .go

/-! ### Range locks (R312 to R314) -/

/-- R312: whether two ranges of one space meet. -/
def rangesMeet (a b c d : Nat) : Bool := decide (a < d) && decide (c < b)
def RangeLock.meets (k : RangeLock) (ctx team space low high : Nat) : Bool :=
  k.space == space && (if space == 0 then k.ctx == ctx else k.team == team) && rangesMeet k.low k.high low high
/-- R312: an operation's ranges: each with its space, whether it is a destination, and whether it enters the table. -/
structure OpRange where
  space : Nat
  low : Nat
  high : Nat
  dest : Bool
  enters : Bool
  deriving DecidableEq, Repr
/-- R312: an operation waits at issue for entries, or for an overlap to clear. -/
def Core.lockWaits (c : Core) (ctx team : Nat) (rs : List OpRange) : Bool :=
  decide (64 < c.locks.length + (rs.filter (·.enters)).length)
  || rs.any fun r => c.locks.any fun k => k.meets ctx team r.space r.low r.high && (r.dest || k.dest)
/-- R312: enter an operation's ranges. -/
def State.enterLocks (s : State) (core ctx team op : Nat) (rs : List OpRange) : State :=
  s.updCore core fun c => { c with locks := c.locks ++ (rs.filter (·.enters)).map fun r =>
    { team, ctx, space := r.space, low := r.low, high := r.high, dest := r.dest, op } }
/-- R314. -/
def State.dropLocks (s : State) (core op : Nat) : State := s.updCore core fun c => { c with locks := c.locks.filter fun k => k.op != op }
/-- R313: the low end of an operation's destination lock. -/
def State.moveLock (s : State) (core op low : Nat) : State :=
  s.updCore core fun c => { c with locks := c.locks.map fun k => if k.op == op && k.dest then { k with low } else k }

/-! ### The engine's accesses (R299, R309 to R311) -/

/-- What an engine's access of some bytes meets. -/
inductive EngEnd where
  | ok
  | absent (va : Nat) (a : AbsentAt)
  | error (code : TrapCode) (addr : Nat)
  | wait
  deriving DecidableEq, Repr

def spcSpace : Spc → Space | .g => .global | .sh => .shared | .ts => .tile
def spcNum : Spc → Nat | .g => 0 | .sh => 1 | .ts => 2

/-- Units of a team that some bytes of shared memory or the tile store lie in. -/
def teamUnits (team : Nat) (sp : Spc) (a n : Nat) : List (Nat × Nat × Nat) :=
  match sp with
  | .g => []
  | .sh => ((List.range ((a + n + 4095) / 4096)).filter fun k => decide (a / 4096 ≤ k)).map fun k => (team, 2, k)
  | .ts => ((List.range ((a + n + 16383) / 16384)).filter fun k => decide (a / 16384 ≤ k)).map fun k => (team, 3, k)

/-- How a unit that cannot be made present ends an engine's access (R104, R105). -/
def engBad (code : TrapCode) (va : Nat) : Option AbsentAt → EngEnd
  | some a => .absent va a
  | none => .error code va

/-- Bytes of one aligned place that an engine reads; `fl` are the flags of a fault record (R332). -/
def State.engPart (s : State) (core ctx ver team : Nat) (sp : Spc) (a k fl : Nat) : (List Byte × EngEnd) × State :=
  match sp with
  | .g =>
    match s.checkPage core ctx ver a .load fl with
    | (.pass t, s) =>
      match s.viewHeld ver t k false with
      | some loc => (([], .wait), s.recallAt loc k)
      | none =>
        let (bs, p) := s.viewBytes ver t k
        ((bs, if p then .error .dataPoison a else .ok), (s.useView ver t k).hostUse .l2 t.loc k)
    | (.fail _ va (some x), s) => (([], .absent va x), s)
    | (.fail c va none, s) => (([], .error c va), s)
    | (.wait, s) => (([], .wait), s)
  | _ =>
    match s.presentAll ctx (teamUnits team sp a k) with
    | .done s => ((s.readTeam team (spcSpace sp) a k, .ok), s)
    | .bad c va x => (([], engBad c va x), s)
    | .wait s => (([], .wait), s)
/-- R299: `n` bytes of the source at an address that an operation has kept. -/
def keptAt (kept : List Host.Cell) (a n : Nat) : Option (List Byte) :=
  let bs := (List.range n).filterMap fun k => (kept.find? fun x => x.1 == a + k).map (·.2)
  if decide (0 < n) && bs.length == n then some bs else none
/-- R299: bytes at an address, by their addresses. -/
def cellsAt (a : Nat) (bs : List Byte) : List Host.Cell := bs.zipIdx.map fun x => (a + x.2, x.1)
/-- R299: bytes of one aligned place that an engine reads, unless its operation has kept them. -/
def State.engOnce (s : State) (core ctx ver team : Nat) (sp : Spc) (kept : List Host.Cell) (a k fl : Nat) : (List Byte × EngEnd) × State :=
  match keptAt kept a k with
  | some bs => ((bs, .ok), s)
  | none => s.engPart core ctx ver team sp a k fl
/-- `n` words that an engine reads, those apart that its operation has kept. -/
def State.engRead (s : State) (core ctx ver team : Nat) (sp : Spc) (kept : List Host.Cell) (a : Nat) : Nat → (List Byte × EngEnd) × State
  | 0 => (([], .ok), s)
  | n + 1 =>
    match s.engOnce core ctx ver team sp kept a 4 4 with
    | ((bs, .ok), s) =>
      match s.engRead core ctx ver team sp kept (a + 4) n with
      | ((cs, x), s) => ((bs ++ cs, x), s)
    | r => r

/-- R311: whether operation `op` of an engine may write bytes of one aligned place. -/
def State.engRoom (s : State) (core ctx ver team op : Nat) (sp : Spc) (a k fl : Nat) : (Tr × EngEnd) × State :=
  let none' : Tr := { loc := a, ov := none }
  match sp with
  | .g =>
    match s.checkPage core ctx ver a .store fl with
    | (.pass t, s) =>
      if (s.sealAt ctx a).isSome then ((t, .error .writeSealed a), s)
      else match s.verRoom? ctx ver t (.engine op) with
        | (true, s) => match s.viewHeld ver t k true with
          | some loc => ((t, .wait), s.recallAt loc k)
          | none => ((t, .ok), s)
        | (false, s) => ((t, .wait), s)
    | (.fail _ va (some x), s) => ((none', .absent va x), s)
    | (.fail c va none, s) => ((none', .error c va), s)
    | (.wait, s) => ((none', .wait), s)
  | _ =>
    match s.presentAll ctx (teamUnits team sp a k) with
    | .done s => ((none', .ok), s)
    | .bad c va x => ((none', engBad c va x), s)
    | .wait s => ((none', .wait), s)
/-- Whether a copy channel may write an aligned word, with its place. -/
def State.engCheck (s : State) (core ctx ver team op : Nat) (sp : Spc) (a : Nat) : (Tr × EngEnd) × State :=
  s.engRoom core ctx ver team op sp a 4 5

/-- All words of a destination are checked before any is written (R311). -/
def State.engChecks (s : State) (core ctx ver team op : Nat) (sp : Spc) (a : Nat) : Nat → (List Tr × EngEnd) × State
  | 0 => (([], .ok), s)
  | n + 1 =>
    match s.engCheck core ctx ver team op sp a with
    | ((t, .ok), s) =>
      match s.engChecks core ctx ver team op sp (a + 4) n with
      | ((ts, x), s) => ((t :: ts, x), s)
    | ((_, x), s) => (([], x), s)

/-- Write parts of `k` bytes of a destination. -/
def State.engPut (s : State) (core ver team k : Nat) (sp : Spc) : List Tr → List Byte → State
  | [], _ => s
  | t :: ts, bs =>
    let s := match sp with
      | .g => s.storeAt core ver .l2 t (bs.take k)
      | _ => s.writeTeam team (spcSpace sp) t.loc (bs.take k)
    s.engPut core ver team k sp ts (bs.drop k)
/-- R267: the sectors that one write of an engine covers whole. -/
def State.clearParts (s : State) (ver k : Nat) (sp : Spc) (ts : List Tr) : State :=
  if sp != .g then s
  else s.clearView ver (ts.flatMap fun t => (List.range k).map fun j => t.loc + j)
/-- Write the words of a destination. -/
def State.engWrite (s : State) (core ver team : Nat) (sp : Spc) (ts : List Tr) (bs : List Byte) : State :=
  (s.engPut core ver team 4 sp ts bs).clearParts ver 4 sp ts

/-- R330, R332: an engine's operation attaches to a pending fault. -/
def State.parkOp (s : State) (core ctx op va : Nat) (a : AbsentAt) : Bool × State :=
  match s.pfaultSlot core ctx va a with
  | (none, s) => (false, s)
  | (some k, s) =>
    (true, { s with pfaults := Tab.upd s.pfaults k fun p =>
      ({ p with ops := if p.ops.contains (core, op) then p.ops else p.ops ++ [(core, op)] }.note
        { owner := op, lane := 64 + core, va, flags := a.flags, core }) }.postFaults)

/-! ### Copy channels (R309) -/

/-- Bytes of an operation. -/
def CopyOp.total (o : CopyOp) : Nat := o.rowlen * o.rows
/-- Where byte `k` of an operation lies: global addresses modulo 2^64, offsets modulo 2^32. -/
def spaceMod (sp : Spc) (x : Int) : Nat := wrapZ (match sp with | .g => 64 | _ => 32) x
def CopyOp.dstAt (o : CopyOp) (k : Nat) : Nat := spaceMod o.dsp ((o.dst : Int) + (k / o.rowlen : Nat) * o.dstr + (k % o.rowlen : Nat))
def CopyOp.srcAt (o : CopyOp) (k : Nat) : Nat := spaceMod o.ssp ((o.src : Int) + (k / o.rowlen : Nat) * o.sstr + (k % o.rowlen : Nat))
/-- R309: the length of the beat at a write pointer. -/
def CopyOp.beat (o : CopyOp) (k : Nat) : Nat := min (o.rowlen - k % o.rowlen) (128 - o.dstAt k % 128)

/-- R299: a row from number `r` on takes the source byte at `a`. -/
def CopyOp.again (o : CopyOp) (r a : Nat) : Bool :=
  (List.range o.rows).any fun q => decide (r ≤ q) && (let b := o.srcAt (q * o.rowlen); decide (b ≤ a) && decide (a < b + o.rowlen))
/-- R299: what an operation whose rows overlap keeps of its source once it has read bytes for the place `k`. -/
def CopyOp.keep (o : CopyOp) (k : Nat) (bs : List Byte) : List Host.Cell :=
  if o.rowlen ≤ o.sstr.natAbs then []
  else
    let old := o.kept.filter fun x => o.again (k / o.rowlen) x.1
    old ++ (cellsAt (o.srcAt k) bs).filter fun x => o.again (k / o.rowlen + 1) x.1 && !old.any fun y => y.1 == x.1

/-- R278: the source line that an operation has begun and not finished when its pointer stands at `k`. -/
def CopyOp.between (o : CopyOp) (k : Nat) : Option Nat :=
  if o.ssp == .g && decide (0 < k) && decide (k < o.total) && o.srcAt (k - 1) / 128 == o.srcAt k / 128 then some (o.srcAt k / 128) else none
/-- R278, R280: the sealed line that an engine's read stands on, when it has come to `at_` from a read that stood on `old`: a read
that begins while the range is unsealing is not counted. -/
def State.readsOn (s : State) (ctx : Nat) (old at_ : Option Nat) : Option Nat :=
  at_.bind fun p =>
    if old == some p then some p
    else match s.sealAt ctx (128 * p) with
      | some k => if k.held then some p else none
      | none => none

/-- R314: words of a stopped operation from `wptr` on may hold their copied value. -/
def State.stopWords (s : State) (core ctx ver : Nat) (o : CopyOp) (wptr : Nat) : State :=
  (List.range ((o.total - wptr) / 4)).foldl (fun s i =>
    if Config.stopped o.op (wptr / 4 + i) then
      let k := wptr + 4 * i
      match s.engOnce core ctx ver o.team o.ssp o.kept (o.srcAt k) 4 4 with
      | ((bs, .ok), s) =>
        match s.engCheck core ctx ver o.team o.op o.dsp (o.dstAt k) with
        | ((t, .ok), s) => s.engWrite core ver o.team o.dsp [t] bs
        | (_, s) => s
      | (_, s) => s
    else s) s

/-- R455: an operation that ends, or is cancelled, leaves the pending-fault entry it is paused at; the entry stays. -/
def State.unparkOp (s : State) (op : Nat) : State :=
  if s.pfaults.any fun x => x.2.ops.any fun y => y.2 == op then
    { s with pfaults := s.pfaults.map fun (x : Nat × PFault) =>
        (x.1, { x.2 with ops := x.2.ops.filter fun y => y.2 != op, met := x.2.met.filter fun y => y.owner != op }) }
  else s

/-- An operation leaves its channel. -/
def State.dropCopy (s : State) (core op : Nat) : State :=
  (s.dropLocks core op).updCore core fun c =>
    { c with channels := (c.channels.map fun x => (x.1, x.2.filter fun o => o.op != op)).filter fun x => !x.2.isEmpty,
             fabric := c.fabric.filter fun o => o.op != op }

/-- R306, R311, R314, R319: an operation ends: state 3 DONE, 4 FAULTED with its code and address, 5 CANCELLED. Of one that ends
FAULTED the errored beat is not written (R311), so what may hold copied values starts after it. -/
def State.endCopy (s : State) (core ctx ver : Nat) (o : CopyOp) (state code addr : Nat) : State :=
  let s := (s.unparkOp o.op).fed ver (.engine o.op)
  match s.futureOf o.team o.fid with
  | none => s.dropCopy core o.op
  | some f =>
    let s := if state == 3 || (s.core core).fabric.any (fun x => x.op == o.op) then s else s.stopWords core ctx ver o (f.wptr + if state == 4 then o.beat f.wptr else 0)
    (s.dropCopy core o.op).setFuture o.team o.fid { f with state, code, addr }

/-- The context and version of a team's grid. -/
def State.teamView (s : State) (team : Nat) : Nat × Nat :=
  match (Tab.get? s.teams team).bind fun t => Tab.get? s.grids t.grid with
  | some g => (g.ctx, g.version)
  | none => (0, 0)

/-- R311, R330: an operation pauses at a fault, or goes on, wherever it now stands: on a channel or the fabric engine of any core,
or stopped with its team's context (R100). -/
def State.pauseCopy (s : State) (op : Nat) (on : Bool) : State :=
  let set := fun (o : CopyOp) => if o.op == op then { o with paused := on } else o
  { s with
    cores := s.cores.map fun c => (c.1, { c.2 with channels := c.2.channels.map fun x => (x.1, x.2.map set), fabric := c.2.fabric.map set })
    teams := s.teams.map fun t => (t.1, { t.2 with halted := t.2.halted.map fun x => (x.1, set x.2) }) }

/-- How an engine's trouble is handled: a page that is absent pauses the operation, an error ends it, anything else is
tried again. -/
def State.copyTrouble (s : State) (core ctx ver : Nat) (o : CopyOp) (x : EngEnd) : State :=
  match x with
  | .absent va a =>
    match s.parkOp core ctx o.op va a with
    | (true, s) => s.pauseCopy o.op true
    | (false, s) => s
  | .error c va => s.endCopy core ctx ver o 4 c.num va
  | _ => s

/-- What a beat that was written leaves: the pointer after it, the locks, the line being read and what the operation keeps. -/
def State.copyOn (s : State) (core ctx : Nat) (o : CopyOp) (f : Future) (k : Nat) : State :=
  ((s.moveLock core o.op (o.dstAt k)).updCore core fun c =>
    { c with channels := c.channels.map fun x => (x.1, x.2.map fun y =>
        if y.op == o.op then { y with reading := s.readsOn ctx y.reading (o.between k), kept := o.kept } else y) }).setFuture o.team o.fid { f with state := 2, wptr := k }

/-- R309 to R311, R319: one beat of an operation. One that is cancelled ends with the beat in progress, which is the next one
of the operation at the head of its channel; behind the head, or paused, none is in progress. -/
def State.copyBeat1 (s : State) (core : Nat) (head : Bool) (o : CopyOp) : State :=
  let (ctx, ver) := s.teamView o.team
  match s.futureOf o.team o.fid with
  | none => (s.unparkOp o.op).dropCopy core o.op
  | some f =>
    if f.cancel && (o.paused || !head) then s.endCopy core ctx ver o 5 0 0
    else if o.paused then s
    else
      let k := f.wptr
      let n := o.beat k
      match s.engRead core ctx ver o.team o.ssp o.kept (o.srcAt k) (n / 4) with
      | ((bs, .ok), s) =>
        let o := { o with kept := o.keep k bs }
        match s.engChecks core ctx ver o.team o.op o.dsp (o.dstAt k) (n / 4) with
        | ((ts, .ok), s) =>
          let s := s.engWrite core ver o.team o.dsp ts bs
          if f.cancel then (s.copyOn core ctx o f (k + n)).endCopy core ctx ver o 5 0 0
          else if k + n < o.total then s.copyOn core ctx o f (k + n)
          else (s.setFuture o.team o.fid { f with wptr := k + n }).endCopy core ctx ver o 3 0 0
        | ((_, x), s) => s.copyTrouble core ctx ver o x
      | ((_, x), s) => s.copyTrouble core ctx ver o x

/-- R309, R319: the event COPY_BEAT: a cancelled operation of the channel finishes and ends, else the oldest one writes a beat. -/
def execCopyBeat (core ch : Nat) (s : State) : Host.Outcome State Fault Refusal :=
  let q := Tab.get (s.core core).channels ch []
  let cancelled := q.find? fun o => match s.futureOf o.team o.fid with | some f => f.cancel | none => true
  match cancelled.or q.head? with
  | some o => .next (s.copyBeat1 core (q.head?.any fun x => x.op == o.op) o)
  | none => .next s

/-! ### COPY and COPY2D (R315, R316) -/

/-- R316: the first byte of a row of a global footprint that no address of 49 bits names. -/
def badRow (start n : Nat) : Option Nat := if 2 ^ 49 ≤ start then some start else if 2 ^ 49 < start + n then some (2 ^ 49) else none
/-- R257: the first offset of a row past a limit. -/
def pastRow (limit start n : Nat) : Option Nat := if limit ≤ start then some start else if limit < start + n then some limit else none
/-- R277: the first byte of a row in a sealed range. -/
def State.sealedRow (s : State) (ctx start n : Nat) : Option Nat :=
  let hits := (s.seals.filter fun k => k.ctx == ctx && rangesMeet k.base (k.base + 128 * k.lines) start (start + n)).map fun k => max k.base start
  hits.foldl (fun b x => match b with | some y => some (min x y) | none => some x) none

/-- The starts of the rows of an operation. -/
def CopyOp.dstRows (o : CopyOp) : List Nat := (List.range o.rows).map fun r => o.dstAt (r * o.rowlen)
def CopyOp.srcRows (o : CopyOp) : List Nat := (List.range o.rows).map fun r => o.srcAt (r * o.rowlen)
/-- The least start and the greatest end of rows. -/
def rowSpan (rows : List Nat) (n : Nat) : Nat × Nat :=
  (rows.foldl min (rows.headD 0), rows.foldl (fun m x => max m (x + n)) 0)

/-- R316: the checks of an operation, with the trap and its address: none stands for the PC. -/
def State.copyTrap (s : State) (e : Env) (o : CopyOp) (two : Bool) : Option (TrapCode × Option Nat) :=
  let limit := fun sp => match sp with | Spc.sh => e.t.shared | _ => e.t.tileBytes
  let bad := (if o.dsp == .g then o.dstRows.findSome? fun a => badRow a o.rowlen else none).or
    (if o.ssp == .g then o.srcRows.findSome? fun a => badRow a o.rowlen else none)
  let past := (if o.dsp != .g then o.dstRows.findSome? fun a => pastRow (limit o.dsp) a o.rowlen else none).or
    (if o.ssp != .g then o.srcRows.findSome? fun a => pastRow (limit o.ssp) a o.rowlen else none)
  if o.dst % 4 != 0 then some (.misaligned, some o.dst)
  else if o.src % 4 != 0 then some (.misaligned, some o.src)
  else if o.rowlen % 4 != 0 || o.dstr % 4 != 0 || o.sstr % 4 != 0 then some (.misaligned, none)
  else if o.rowlen == 0 || decide (2 ^ 32 - 4 < o.rowlen) || (two && decide (o.dstr < o.rowlen)) then some (.illegalEnc, none)
  else match bad, past, (if o.dsp == .g then o.dstRows.findSome? fun a => s.sealedRow e.gr.ctx a o.rowlen else none) with
    | some a, _, _ => some (.misaligned, some a)
    | none, some a, _ => some (.pageProt, some a)
    | none, none, some a => some (.writeSealed, some a)
    | none, none, none => none

/-- R312: the ranges of an operation. -/
def CopyOp.ranges (o : CopyOp) : List OpRange :=
  let d := rowSpan o.dstRows o.rowlen
  let c := rowSpan o.srcRows o.rowlen
  [{ space := spcNum o.dsp, low := d.1, high := d.2, dest := true, enters := true },
   { space := spcNum o.ssp, low := c.1, high := c.2, dest := false, enters := o.ssp != .g }]

/-- R309: the channel of an operation without a fixed one: the fewest queued bytes, the lowest number first. -/
def State.pickChannel (s : State) (core : Nat) : Nat :=
  let load := fun ch => sumN ((Tab.get (s.core core).channels ch []).map fun o =>
    o.total - ((s.futureOf o.team o.fid).map (·.wptr)).getD 0)
  (List.range 8).foldl (fun b ch => if load ch < load b then ch else b) 0

/-- Every active lane raises a trap at an address, or at its PC. -/
def Env.raiseAt (e : Env) (m : Nat) (code : TrapCode) (addr : Option Nat) : List Raise :=
  (lanesOf m).map fun l => { lane := l, code, addr := addr.getD (e.pc l).toNat, absent := none }

/-- R299, R316: an operation starts, when its checks pass and nothing makes it wait. `two` is a COPY2D. -/
def startCopy (m : CopyMod) (hd : BitVec 4) (o : CopyOp) (two : Bool) : Body := fun s e act =>
  match s.copyTrap e o two with
  | some (c, a) => { s, raises := e.raiseAt act c a }
  | none =>
    if e.createWaits hd.toNat || e.c.lockWaits e.gr.ctx e.t.uid o.ranges then { s, waits := act }
    else match s.drain e.g.uid with
      | (s, false) => { s, waits := act }
      | (s, true) =>
        let ch := if m.fix then m.ch.toNat else s.pickChannel e.t.core
        let (fid, s) := s.newFuture e hd.toNat 0 ch
        let (op, s) := s.fresh
        let o := { o with team := e.t.uid, group := e.g.uid, fid, op }
        { s := (s.enterLocks e.t.core e.gr.ctx e.t.uid op o.ranges).updCore e.t.core fun c =>
            { c with channels := Tab.set c.channels ch (Tab.get c.channels ch [] ++ [o]) } }

/-- An operation before it starts. -/
def CopyOp.make (m : CopyMod) (dst src rowlen rows : Nat) (dstr sstr : Int) : CopyOp :=
  let cut := fun sp x => match sp with | Spc.g => x | _ => x % 2 ^ 32
  { team := 0, group := 0, fid := 0, op := 0, dsp := m.dsp, ssp := m.ssp, dst := cut m.dsp dst, src := cut m.ssp src, rowlen, rows,
    dstr, sstr, stream := 0, sent := 0, unacked := [], paused := false }

def execCopy (h : Hdr) (m : CopyMod) (lens : Bool) (hd : BitVec 4) (a b c : Opnd) (lit : BitVec 32) (s : State) :
    Host.Outcome State Fault Refusal :=
  issue (.copy h m lens hd a b c lit) .lower (fun s e act =>
    let l := lowLane act
    startCopy m hd (CopyOp.make m (e.w64 l a) (e.w64 l b) (if lens then e.w64 l c else lit.toNat) 1 0 0) false s e act) s

def execCopy2d (h : Hdr) (m : CopyMod) (hd : BitVec 4) (a b c : Opnd) (lit : BitVec 32) (s : State) : Host.Outcome State Fault Refusal :=
  issue (.copy2d h m hd a b c lit) .lower (fun s e act =>
    let l := lowLane act
    let x := e.w64 l c
    startCopy m hd (CopyOp.make m (e.w64 l a) (e.w64 l b) (fld lit.toNat 0 20) (fld lit.toNat 20 12 + 1)
      (sext 32 (fld x 0 32)) (sext 32 (fld x 32 32))) true s e act) s

/-! ### Waiting, testing, cancelling, passing (R317 to R320) -/

/-- R318: the status of FWAIT: CODE is 0 but for FAULTED, of UNSEAL.NB as of any other, so the status 1 that R280 gives a handle
DONE whose range no entry starts stays in the future, where no field of R318 shows it (log entry 51, DESIGN CHOICE). -/
def Future.status (f : Future) : Nat := f.state + (if f.state == 4 then 16 * (f.code % 256) else 0) + (if f.state == 4 then 2 ^ 12 * (f.addr % 2 ^ 49) else 0)
/-- The future that a handle of the issuing group names. -/
def Env.future (e : Env) (n : Nat) : Option Future := if hState (e.g.hreg n) == 0 then none else Tab.get? e.t.futures (hFid (e.g.hreg n))

/-- A once-per-issue instruction that writes a scalar (R317). -/
def scalarOut (h : Hdr) (d : Opnd) (n : Nat) (s : State) (e : Env) (act x : Nat) : State :=
  s.result e.g.uid h act .var (resOf d n (lowLane act) fun _ => x) 0

def execFwait (h : Hdr) (d : Opnd) (hn : BitVec 4) (s : State) : Host.Outcome State Fault Refusal :=
  issue (.fwait h d hn) .lower (fun s e act =>
    if hLive (e.g.hreg hn.toNat) then { s := s.hold e.g.uid act (.fwait hn.toNat (d.sNum)), stays := act }
    else { s := scalarOut h d 2 s e act (((e.future hn.toNat).map Future.status).getD 0) }) s
def execFtest (h : Hdr) (d : Opnd) (hn : BitVec 4) (s : State) : Host.Outcome State Fault Refusal :=
  issue (.ftest h d hn) .lower (onceBody fun s e act => scalarOut h d 2 s e act (hState (e.g.hreg hn.toNat))) s
def execFwp (h : Hdr) (d : Opnd) (hn : BitVec 4) (s : State) : Host.Outcome State Fault Refusal :=
  issue (.fwp h d hn) .lower (onceBody fun s e act => scalarOut h d 2 s e act (((e.future hn.toNat).map (·.wptr)).getD 0)) s
def execFcancel (h : Hdr) (hn : BitVec 4) (s : State) : Host.Outcome State Fault Refusal :=
  issue (.fcancel h hn) .lower (onceBody fun s e _ =>
    match e.future hn.toNat with
    | some f =>
      if !f.final && decide (f.kind < 2) then
        let fid := hFid (e.g.hreg hn.toNat)
        let mine := (s.cores.flatMap fun c => c.2.channels.flatMap (·.2) ++ c.2.fabric).filter fun o => o.team == e.t.uid && o.fid == fid
        (mine.foldl (fun (s : State) o => s.unparkOp o.op) s).setFuture e.t.uid fid { f with cancel := true }
      else s
    | none => s) s

/-- R320: a token. -/
def tokenOf (fid teamid : Nat) : Nat := fid + 2 ^ 16 * (teamid % 2 ^ 16) + 2 ^ 63

def execFmovOut (h : Hdr) (d : Opnd) (hn : BitVec 4) (s : State) : Host.Outcome State Fault Refusal :=
  issue (.fmovOut h d hn) .lower (fun s e act =>
    let w := e.g.hreg hn.toNat
    match e.future hn.toNat with
    | none => { s := scalarOut h d 2 s e act 0 }
    | some f =>
      if 4 ≤ f.state then { s, raises := e.raiseAll act .futureDead }
      else
        let s := s.setFuture e.t.uid (hFid w) { f with token := true }
        { s := scalarOut h d 2 (s.putHandle e.g hn.toNat 0) e act (tokenOf (hFid w) e.t.index) }) s

def execFmovIn (h : Hdr) (hd : BitVec 4) (a : Opnd) (s : State) : Host.Outcome State Fault Refusal :=
  issue (.fmovIn h hd a) .lower (fun s e act =>
    let t := e.w64 (lowLane act) a
    let fid := fld t 0 10
    let held := match Tab.get? e.t.futures fid with | some f => f.token | none => false
    if t != 0 && (t != tokenOf fid e.t.index || !held) then { s, raises := e.raiseAll act .futureDead }
    else if hLive (e.g.hreg hd.toNat) then { s, waits := act }
    else if t == 0 then { s := s.putHandle e.g hd.toNat 0 }
    else match Tab.get? e.t.futures fid with
      | none => { s }
      | some f =>
        let s := s.putHandle e.g hd.toNat (f.word fid)
        { s := s.setFuture e.t.uid fid { f with token := false } }) s

/-! ### GFOLD (R149) -/

/-- The forms of the registers of a group over some lanes, when each fits one. -/
def foldForms (e : Env) (m : Nat) : List Reg → Option (List (Reg × Form))
  | [] => some []
  | r :: rs =>
    match fitForm ((lanesOf m).map fun l => (e.item l, (e.g.words r).getD l 0)), foldForms e m rs with
    | some f, some fs => some ((r, f) :: fs)
    | _, _ => none
def foldPreds (e : Env) (m : Nat) : List Nat → Option (List (Nat × PForm))
  | [] => some []
  | n :: ns =>
    match fitP ((lanesOf m).map fun l => (e.item l, inMask (e.g.pmask n) l)), foldPreds e m ns with
    | some f, some fs => some ((n, f) :: fs)
    | _, _ => none

/-- R149, R424: the first place that the host must give back before a fold can look for spilled frames of a lane. -/
def State.spillHeld (s : State) (e : Env) (l : Nat) : Option Nat :=
  let va := localVa e.t.localSlot e.g.gid l 0
  let w := s.walk e.gr.ctx va
  (s.partHeld e.gr.ctx va 8).or (if w.kind == .leaf then s.viewHeld e.gr.version (trOf w.bits w.entry va) 8 false else none)
/-- R149, R159: whether a lane's return stack has spilled frames. On a page that is ABSENT it may have, and the group does not fold
(log entry 62, DESIGN CHOICE: GFOLD raises no fault). -/
def State.spilled (s : State) (e : Env) (l : Nat) : Bool :=
  let va := localVa e.t.localSlot e.g.gid l 0
  let w := s.walk e.gr.ctx va
  match w.kind with
  | .leaf => leNat (s.viewBytes e.gr.version (trOf w.bits w.entry va) 8).1 != 0
  | .absent => true
  | _ => false

/-- R149: the group may fold: the conditions but for the forms. -/
def Env.mayFold (e : Env) (act : Nat) : Bool :=
  let ls := lanesOf act
  act == e.g.liveMask
  && (match ls.head?, ls.getLast? with | some a, some b => b + 1 - a == ls.length | _, _ => false)
  && e.g.lanes.all (fun x => x.rstack.isEmpty && x.sb.all (· == 0))
  && e.g.depth == 0 && (List.range 16).all (fun n => e.g.jmask n == 0)
  && (List.range 16).all (fun n => hState (e.g.hreg n) == 0 || hState (e.g.hreg n) == 3)
  && ls.all (fun l => !e.st.spilled e l)

/-- The absent units that a fold looks at: all V and S registers of the group (R104). -/
def Group.foldUnits (g : Group) : List (Nat × Nat × Nat) :=
  regUnits g.uid (((List.range g.vlim).map Reg.v) ++ (List.range g.slim).map Reg.s)

/-- R149: the span that a group folds into, when every register fits. -/
def Env.fold? (e : Env) (act : Nat) (next : BitVec 49) (uid : Nat) : Option Span :=
  let regs : List Reg := (List.range e.g.vlim).map Reg.v ++ (List.range 8).map Reg.o ++ [.z 0, .z 1]
  match foldForms e act regs, foldPreds e act (List.range 7) with
  | some fs, some ps =>
    let sp : Span := {
      uid, grid := e.gr.uid, team := some e.t.uid, first := e.item (lowLane act), last := e.item (lowLane act) + popN 64 act - 1,
      pc := next, v := [], o := [], z := [], p := [], s := e.g.s, j := [], vlim := e.g.vlim, slim := e.g.slim, gctl := e.g.gctl,
      fpctl := e.g.fpctl, fpstat := e.g.fpstat, fpnew := e.g.fpnew, fmt := e.g.fmt, rowprog := e.g.rowprog, block := .free, readyAt := e.c.now + e.c.passes, stamps := e.g.stamps }
    let sp := fs.foldl (fun sp x => sp.setForm x.1 x.2) sp
    some (ps.foldl (fun sp x => sp.setP x.1 x.2) sp)
  | _, _ => none

/-- R149: a span merges with the span that ends before it, and with that which begins after it, where they stand at its PC, do not
wait and unify with it. A span that waits at the instruction, at a JOIN, a barrier or for a retried issue, is not merged with: R149 does not say
whether one that stands there waiting is (log entry 100, DESIGN CHOICE). -/
def State.mergeBeside (s : State) (sp : Span) : State :=
  let near := fun (p : Span → Bool) => (s.spans.find? fun x => x.2.team == sp.team && x.2.pc == sp.pc && x.2.block == .free && p x.2).map (·.2)
  let lower := (near fun x => x.last + 1 == sp.first).bind fun x => (x.unify sp).map fun z => (x, z)
  let sp' := (lower.map (·.2)).getD sp
  let upper := (near fun x => sp.last + 1 == x.first).bind fun y => (sp'.unify y).map fun z => (y, z)
  let gone := (lower.map (·.1)).toList ++ [sp] ++ (upper.map (·.1)).toList
  let s' := { s with spans := s.spans.filter fun x => !(gone.any fun y => y.uid == x.1) }
  (s'.setSpan ((upper.map (·.2)).getD sp')).adoptFlags gone

/-- R149: a group that may fold does so when its registers fit and one more span has room: the span takes its place, the flags
that it is still owed among what the span takes (R48), and merges with those beside it. R149's conditions name neither the 64 spans of a
core's span unit (R139), which the model asks for room even where the fold would merge at once, nor the group's gang mask, which goes with the
group: a later lowering gives 2^GROUPID again (log entry 100, DESIGN CHOICE, for both). -/
def State.fold (s : State) (e : Env) (act : Nat) : Out :=
  let (uid, s1) := s.fresh
  match e.fold? act (e.nextPc (lowLane act) 8) uid with
  | none => { s }
  | some sp =>
    if !s1.spanRoom sp then { s }
    else
      -- lanes of the group that another span holds stay with that span
      { s := (((s1.setSpan sp).shareFlags e.g.uid uid).dropGroup e.g.uid).mergeBeside sp, stays := act }
/-- R327: what a fold reads of its lanes' local memory sets AC. -/
def Env.looked (e : Env) (act : Nat) (s : State) : State :=
  (lanesOf act).foldl (fun s l => s.touchLeaf e.gr.ctx (localVa e.t.localSlot e.g.gid l 0) .load) s
/-- R149. The group's accesses are performed first, at TEAM scope, since its number goes (R287), and its absent units are filled
(R104). -/
def execGfold (h : Hdr) (s : State) : Host.Outcome State Fault Refusal :=
  issue (.gfold h) .nothing (fun s e act =>
    match (lanesOf act).findSome? (s.spillHeld e) with
    | some loc => { s := s.recallAt loc 8, waits := act }
    | none =>
    let s := e.looked act s
    if !e.mayFold act then { s }
    else match s.drainTeam e.g.uid with
      | (s, false) => { s, waits := act }
      | (s, true) => withUnits s e act e.g.foldUnits fun s =>
          match s.env? e.g.uid with
          | some e => s.fold e act
          | none => { s }) s

end Sys2Proof.Machine
end

