-- ==== Sys2Proof/Machine/Memory.lean ====
section
/-! DEFINITION. The meanings of the memory instructions (spec/14_memory.md R254 to R282), PGQ (spec/17_page.md R334), and
the events by which a store is performed, a result lands and a seal or unseal completes. -/

namespace Sys2Proof

/-- R297: POD scope or wider. -/
def Scope.atLeastPod (c : Scope) : Bool := c == .pod || c == .system

end Sys2Proof

namespace Sys2Proof.Machine

/-! ### Addresses and data (R264) -/

/-- A global address: base plus offset modulo 2^64. -/
def Env.gAddr (a b : Opnd) (e : Env) (l : Nat) : Nat := wrapZ 64 ((e.w64 l a : Int) + sext 32 (e.w32 l b))
/-- A 32-bit offset plus an offset. -/
def Env.oAddr (a b : Opnd) (e : Env) (l : Nat) : Nat := wrapZ 32 ((e.w32 l a : Int) + sext 32 (e.w32 l b))
/-- R264: the bytes that a register stores. -/
def Env.stData (sz : Sz) (c : Opnd) (e : Env) (l : Nat) : List Byte :=
  leBytes sz.bytes (match sz with | .b128 => e.w128 l c | .b64 => e.w64 l c | _ => e.w32 l c)

/-- The VA of an address in a space: local bytes lie in the local window (R256). -/
def Env.spaceVa (e : Env) (sp : Space) (l a : Nat) : Nat :=
  match sp with
  | .localMem => localVa e.t.localSlot e.g.gid l a
  | _ => a

/-- The team units of an access to shared memory or the tile store. -/
def Env.unitsOf (e : Env) (sp : Space) (a n : Nat) : List (Nat × Nat × Nat) :=
  match sp with
  | .shared => teamUnits e.t.uid .sh a n
  | .tile => teamUnits e.t.uid .ts a n
  | _ => []

/-! ### Loads (R265 to R267) -/

/-- R286: the accesses that one of some size is: those of B128 are its two 8-byte halves. Each with its offset in bytes and the
number of its first register. -/
def Sz.halves : Sz → List (Sz × Nat × Nat)
  | .b128 => [(.b64, 0, 0), (.b64, 8, 2)]
  | sz => [(sz, 0, 0)]

/-- The lanes of some pieces. -/
def pieceLanes (ps : List Piece) : Nat := laneMask fun l => ps.any fun p => p.lane == l
/-- R260, R283, R469: what of one instruction is performed apart. Lanes are distinct agents: a group's loads and stores are performed
sector by sector, its atomics lane by lane; shared memory and the tile store take an instruction whole, and so do a span's accesses. -/
def State.clumps (s : State) (e : Env) (sp : Space) (atomic : Bool) (ps : List Piece) : List (List Piece) :=
  if (e.teamSpace sp).isSome || (Tab.get? s.spans e.g.uid).isSome then [ps]
  else if atomic then ps.map fun p => [p]
  else ((ps.map fun p => sectorOf p.loc).eraseDups).map fun q => ps.filter fun p => sectorOf p.loc == q
/-- An access that a group or span has issued and that is not yet performed; `lanes` are those of its instruction. -/
def State.pend1 (s : State) (e : Env) (sp : Space) (pol : Pol) (scope : Scope) (atomic : Option (AMod × Reg × Nat)) (load : Option (Sz × Reg × Nat))
    (twin : Option Nat) (lanes : Nat) (ps : List Piece) : State :=
  if ps.isEmpty then s
  else
    let (n, s) := s.fresh
    let p : PStore := { group := e.g.uid, lanes, core := e.t.core, ctx := e.gr.ctx, version := e.gr.version, pol, scope, pieces := ps, atomic,
                        load, twin, inTeam := e.teamSpace sp, ofSpan := (Tab.get? s.spans e.g.uid).isSome }
    { s with stores := Tab.set s.stores n p }
/-- The accesses of one instruction, as they will be performed. -/
def State.pend (s : State) (e : Env) (sp : Space) (pol : Pol) (scope : Scope) (atomic : Option (AMod × Reg × Nat)) (load : Option (Sz × Reg × Nat))
    (twin : Option Nat) (lanes : Nat) (ps : List Piece) : State :=
  (s.clumps e sp atomic.isSome ps).foldl (fun s qs => s.pend1 e sp pol scope atomic load twin lanes qs) s

/-- R284: the scope of an access that names a policy. -/
def polScope : Pol → Scope
  | .l1 => .team
  | .l2 | .st => .device
  | .sys => .system

/-- The part of a piece from byte `k` on, `n` bytes of it. -/
def Piece.part (x : Piece) (k n : Nat) : Piece :=
  { x with va := x.va + k, loc := x.loc + k, ov := x.ov.map fun o => (o.1, o.2.1, o.2.2 + k), bytes := (x.bytes.drop k).take n }

/-- One lane's load, performed at once. -/
def State.loadLane (s : State) (e : Env) (l : Nat) (sp : Space) (n : Nat) (pol : Pol) (a : Nat) : Made (List Byte) :=
  match s.check e l sp a n false with
  | (.fail c x p, s) => .fail c x p s
  | (.wait, s) => .wait s
  | (.pass t, s) =>
    match sp with
    | .shared | .tile =>
      match s.presentAll e.gr.ctx (e.unitsOf sp a n) with
      | .done s =>
        let r := s.clearFor (e.access l sp a n true)
        if r.2 then .done (r.1.readTeam e.t.uid sp a n) r.1 else .wait r.1
      | .bad c va x => .fail c va x s
      | .wait s => .wait s
    | _ =>
      let va := e.spaceVa sp l a
      let r := s.clearFor (e.access l sp t.loc n true)
      if !r.2 then .wait r.1
      else match r.1.loadAt e.t.core e.gr.ctx e.gr.version va n pol t with
        | ((_, true), s) => .fail .dataPoison va none s
        | ((bs, false), s) => .done bs s

/-- The lanes of a load in turn: what each that passed read. -/
def loadLanes (e : Env) (sp : Space) (sz : Sz) (pol : Pol) (addr : Env → Nat → Nat) (s : State) (act : Nat) : Out × List (Nat × Nat) :=
  (lanesOf act).foldl (fun r l =>
    match r.1.s.loadLane e l sp sz.bytes pol (addr e l) with
    | .done bs s => ({ r.1 with s }, r.2 ++ [(l, extend sz bs)])
    | .fail code a absent s => ({ r.1 with s, raises := r.1.raises ++ [{ lane := l, code, addr := a, absent }] }, r.2)
    | .wait s => ({ r.1 with s, waits := maskOr r.1.waits (2 ^ l) }, r.2)) ({ s }, [])

/-- A value that a list gives to a lane. -/
def valOf (vs : List (Nat × Nat)) (l : Nat) : Nat := ((vs.find? fun x => x.1 == l).map (·.2)).getD 0
def maskOfVals (vs : List (Nat × Nat)) : Nat := laneMask fun l => vs.any fun x => x.1 == l

/-- R265: a load whose values are fixed as it issues. -/
def loadBody (h : Hdr) (d : Opnd) (sp : Space) (sz : Sz) (pol : Pol) (addr : Env → Nat → Nat) : Body := fun s e act =>
  let (o, vs) := loadLanes e sp sz pol addr s act
  let m := maskOfVals vs
  { o with s := o.s.result e.g.uid h m .var (resOf d sz.regs (lowLane m) (valOf vs)) 0 }

/-- R266: one lane's load up to its step 5: the piece that is to be read later. Where a sector holds poison, at the home or in the L1
copy, step 6 is decided as the load issues, after what its group has issued to the sector: the lane is held at the load, or its bytes
hold none and are read later, with those of the other lanes (R260); what poisons a sector waits for the loads under way
(`State.loadsFirst`). -/
def State.loadPass (s : State) (e : Env) (l : Nat) (sp : Space) (n : Nat) (pol : Pol) (a : Nat) : Made Piece :=
  match s.check e l sp a n false with
  | (.fail c x p, s) => .fail c x p s
  | (.wait, s) => .wait s
  | (.pass t, s) =>
    let va := e.spaceVa sp l a
    let piece : Piece := { lane := l, va, loc := t.loc, ov := t.ov, bytes := zeros n, b := 0, c := 0 }
    match sp with
    | .shared | .tile => match s.presentAll e.gr.ctx (e.unitsOf sp a n) with
      | .done s => .done piece s
      | .bad c va x => .fail c va x s
      | .wait s => .wait s
    | _ =>
      let read := fun (s : State) => s.loadAt e.t.core e.gr.ctx e.gr.version va n pol t
      if !((read s).1.2 || (List.range n).any fun k => s.poisoned (t.loc + k)) then .done piece s
      else
        let r := s.clearFor (e.access l sp (t.loc / 32 * 32) 32 true)
        if !r.2 then .wait r.1
        else match read r.1 with
          | ((_, true), s) => .fail .dataPoison va none s
          | _ => .done piece r.1
/-- The lanes of a load in turn: the pieces of those that pass. -/
def loadPieces (e : Env) (sp : Space) (sz : Sz) (pol : Pol) (addr : Env → Nat → Nat) (s : State) (act : Nat) : Out × List Piece :=
  (lanesOf act).foldl (fun r l =>
    match r.1.s.loadPass e l sp sz.bytes pol (addr e l) with
    | .done p s => ({ r.1 with s }, r.2 ++ [p])
    | .fail code a absent s => ({ r.1 with s, raises := r.1.raises ++ [{ lane := l, code, addr := a, absent }] }, r.2)
    | .wait s => ({ r.1 with s, waits := maskOr r.1.waits (2 ^ l) }, r.2)) ({ s }, [])
/-- R265, R286, R471: the lanes whose pieces a list holds are owed what their loads will read, the halves of B128 apart. -/
def State.pendLoads (s : State) (e : Env) (h : Hdr) (d : Opnd) (sp : Space) (sz : Sz) (pol : Pol) (scope : Scope)
    (ps : List Piece) : State :=
  match (Opnd.regs d 1).head? with
  | none => s
  | some r =>
    let fl := s.uids
    let m := pieceLanes ps
    (Sz.halves sz).foldl (fun s x => s.pend e sp pol scope none (some (x.1, r.plus x.2.2, fl)) none m (ps.map fun p => p.part x.2.1 x.1.bytes))
      (s.owe e.g h m d sz.regs)
/-- R286: a span's B128 load: its halves are performed apart, and the span waits for both. -/
def spanLoad (d : Opnd) (sp : Space) (pol : Pol) (addr : Env → Nat → Nat) : Body := fun s e act =>
  let (o, ps) := loadPieces e sp .b128 pol addr s act
  match (Opnd.regs d 1).head?, ps with
  | some r, p :: _ =>
    let n := o.s.uids
    let s := o.s.pend e sp pol (polScope pol) none (some (.b64, r, 0)) (some (n + 1)) act [p.part 0 8]
    let s := s.pend e sp pol (polScope pol) none (some (.b64, r.plus 2, 0)) (some n) act [p.part 8 8]
    { o with s := s.hold e.g.uid act (.engine 0), stays := act }
  | _, _ => o
/-- R265, R471: a load. A group's is performed at some later moment; a span's is performed as it issues, which that moment may be,
but for one of B128. -/
def lateBody (h : Hdr) (d : Opnd) (sp : Space) (sz : Sz) (pol : Pol) (scope : Scope) (addr : Env → Nat → Nat) : Body := fun s e act =>
  if (Tab.get? s.spans e.g.uid).isSome then
    let o := spanLoad d sp pol addr s e act
    if sz == .b128 && o.stays != 0 then o else loadBody h d sp sz pol addr s e act
  else
    let (o, ps) := loadPieces e sp sz pol addr s act
    if ps.isEmpty then o else { o with s := o.s.pendLoads e h d sp sz pol scope ps }

def execLdg (h : Hdr) (sz : Sz) (pol : Pol) (d a b : Opnd) (s : State) : Host.Outcome State Fault Refusal :=
  issue (.ldg h sz pol d a b) (.load false) (lateBody h d .global sz pol (polScope pol) (Env.gAddr a b)) s
def execLdsh (h : Hdr) (sz : Sz) (d a b : Opnd) (s : State) : Host.Outcome State Fault Refusal :=
  issue (.ldsh h sz d a b) (.load true) (lateBody h d .shared sz .l1 .team (Env.oAddr a b)) s
def execLdts (h : Hdr) (sz : Sz) (d a b : Opnd) (s : State) : Host.Outcome State Fault Refusal :=
  issue (.ldts h sz d a b) (.load true) (lateBody h d .tile sz .l1 .team (Env.oAddr a b)) s
def execLdl (h : Hdr) (sz : Sz) (d a b : Opnd) (s : State) : Host.Outcome State Fault Refusal :=
  issue (.ldl h sz d a b) .lower (lateBody h d .localMem sz .l1 .team (Env.oAddr a b)) s

/-! ### Stores (R260, R265) -/

/-- One lane's store: the piece to be performed later. -/
def State.storeLane (s : State) (e : Env) (l : Nat) (sp : Space) (a : Nat) (bs : List Byte) : Made Piece :=
  match s.check e l sp a bs.length true with
  | (.fail c x p, s) => .fail c x p s
  | (.wait, s) => .wait s
  | (.pass t, s) =>
    let piece : Piece := { lane := l, va := e.spaceVa sp l a, loc := t.loc, ov := t.ov, bytes := bs, b := 0, c := 0 }
    match s.presentAll e.gr.ctx (e.unitsOf sp a bs.length) with
    | .done s => .done piece s
    | .bad c va x => .fail c va x s
    | .wait s => .wait s

/-- R265, R286: the pieces of a store are owed, the halves of B128 apart, each pair of them of one sector. -/
def State.pendStores (s : State) (e : Env) (sp : Space) (sz : Sz) (pol : Pol) (scope : Scope) (ps : List Piece) : State :=
  let m := pieceLanes ps
  match sz with
  | .b128 => (s.clumps e sp false ps).foldl (fun s qs =>
    (s.pend1 e sp pol scope none none (some (s.uids + 1)) m (qs.map fun p => p.part 0 8)).pend1 e sp pol scope none none (some s.uids) m (qs.map fun p => p.part 8 8)) s
  | _ => s.pend e sp pol scope none none none m ps

/-- R265: a store of a group. -/
def storeBody (sp : Space) (sz : Sz) (pol : Pol) (scope : Scope) (addr : Env → Nat → Nat) (c : Opnd) : Body := fun s e act =>
  let r := (lanesOf act).foldl (fun (r : Out × List Piece) l =>
    match r.1.s.storeLane e l sp (addr e l) (e.stData sz c l) with
    | .done p s => ({ r.1 with s }, r.2 ++ [p])
    | .fail code a absent s => ({ r.1 with s, raises := r.1.raises ++ [{ lane := l, code, addr := a, absent }] }, r.2)
    | .wait s => ({ r.1 with s, waits := maskOr r.1.waits (2 ^ l) }, r.2)) ({ s }, [])
  { r.1 with s := r.1.s.pendStores e sp sz pol scope r.2 }

def execStg (h : Hdr) (sz : Sz) (pol : Pol) (a b c : Opnd) (s : State) : Host.Outcome State Fault Refusal :=
  issue (.stg h sz pol a b c) (.store false) (storeBody .global sz pol (polScope pol) (Env.gAddr a b) c) s
def execStsh (h : Hdr) (sz : Sz) (a b c : Opnd) (s : State) : Host.Outcome State Fault Refusal :=
  issue (.stsh h sz a b c) (.store true) (storeBody .shared sz .l1 .team (Env.oAddr a b) c) s
def execStts (h : Hdr) (sz : Sz) (a b c : Opnd) (s : State) : Host.Outcome State Fault Refusal :=
  issue (.stts h sz a b c) (.store true) (storeBody .tile sz .l1 .team (Env.oAddr a b) c) s
def execStl (h : Hdr) (sz : Sz) (a b c : Opnd) (s : State) : Host.Outcome State Fault Refusal :=
  issue (.stl h sz a b c) .lower (storeBody .localMem sz .l1 .team (Env.oAddr a b) c) s

/-! ### Strong accesses (R269, R288) -/

/-- R269: where a strong access is performed. -/
def scopePol (scope : Scope) : Pol := match scope with | .group | .team => .l1 | .system => .sys | _ => .l2
def Order.isAcq (o : Order) : Bool := o == .acq || o == .ar
def Order.isRel (o : Order) : Bool := o == .rel || o == .ar

/-- R288: an instruction that releases first, and acquires after it. -/
def ordered (ord : Order) (scope : Scope) (body : Body) : Body := fun s e act =>
  let r := if Order.isRel ord then s.release e.g.uid scope else (s, true)
  if !r.2 then { s := r.1, waits := act }
  else
    let o := body r.1 e act
    if Order.isAcq ord then { o with s := o.s.acquire e.t.core scope } else o

/-- R269, R288, R471: a strong load. One that acquires is performed as it issues, and the lane's later accesses follow it (log entry 92,
DEDUCED); one that does not is performed at some later moment. -/
def strongLoad (h : Hdr) (d : Opnd) (sp : Space) (sz : Sz) (pol : Pol) (scope : Scope) (ord : Order) (addr : Env → Nat → Nat) : Body :=
  if Order.isAcq ord then loadBody h d sp sz pol addr else lateBody h d sp sz pol scope addr
def execLdsc (h : Hdr) (sz : Sz) (scope : Scope) (ord : Order) (sh : Bool) (d a b : Opnd) (s : State) : Host.Outcome State Fault Refusal :=
  issue (.ldsc h sz scope ord sh d a b) .lower (ordered ord scope
    (if sh then strongLoad h d .shared sz .l1 scope ord (Env.oAddr a b)
     else strongLoad h d .global sz (scopePol scope) scope ord (Env.gAddr a b))) s
def execStsc (h : Hdr) (sz : Sz) (scope : Scope) (ord : Order) (sh : Bool) (a b c : Opnd) (s : State) : Host.Outcome State Fault Refusal :=
  issue (.stsc h sz scope ord sh a b c) .lower (ordered ord scope
    (if sh then storeBody .shared sz .l1 scope (Env.oAddr a b) c else storeBody .global sz (scopePol scope) scope (Env.gAddr a b) c)) s

/-! ### Atomics (R270 to R272) -/

def Env.litAddr (a : Opnd) (off : BitVec 32) (wide : Bool) (e : Env) (l : Nat) : Nat :=
  if wide then wrapZ 64 ((e.w64 l a : Int) + off.toInt) else wrapZ 32 ((e.w32 l a : Int) + off.toInt)
def Env.word64 (e : Env) (x64 : Bool) (l : Nat) (o : Opnd) : DWord := BitVec.ofNat 64 (e.word x64 l o)
/-- R65, R271: the operand of an atomic: an immediate of FADD is converted to FP32, and one of BFADD2 to BF16 in both elements. -/
def Env.atomB (e : Env) (m : AMod) (l : Nat) (o : Opnd) : Nat :=
  match m.op with
  | .fadd => e.fcode fp32 l o 0
  | .bfadd2 => e.fcode bf16 l o 0 + 2 ^ 16 * e.fcode bf16 l o 1
  | _ => e.word m.x64 l o

/-- One lane's atomic, checked: the piece to be performed later. A half that the host holds of what it reads waits too (R424). -/
def State.atomLane (s : State) (e : Env) (m : AMod) (l : Nat) (sp : Space) (a b : Nat) (c : DWord) : Made Piece :=
  let n := m.w / 8
  match s.check e l sp a n true with
  | (.fail x y z, s) => .fail x y z s
  | (.wait, s) => .wait s
  | (.pass t, s) =>
    if sp == .global && !s.atomicOk m t.loc then .fail .pageProt a none s
    else match (if sp == .global then s.viewReady e.gr.version t n false else (.pass t, s)) with
      | (.pass _, s) => match s.presentAll e.gr.ctx (e.unitsOf sp a n) with
        | .done s => .done { lane := l, va := a, loc := t.loc, ov := t.ov, bytes := zeros n, b := BitVec.ofNat 64 b, c } s
        | .bad x va y => .fail x va y s
        | .wait s => .wait s
      | (_, s) => .wait s
/-- The pieces of an atomic, one for each lane that passes. -/
def atomPieces (e : Env) (m : AMod) (sp : Space) (addr : Nat → Nat) (b c : Opnd) (s : State) (act : Nat) : Out × List Piece :=
  (lanesOf act).foldl (fun (r : Out × List Piece) l =>
    match r.1.s.atomLane e m l sp (addr l) (e.atomB m l b) (if m.op == .cas then e.word64 m.x64 l c else 0) with
    | .done p s => ({ r.1 with s }, r.2 ++ [p])
    | .fail code a absent s => ({ r.1 with s, raises := r.1.raises ++ [{ lane := l, code, addr := a, absent }] }, r.2)
    | .wait s => ({ r.1 with s, waits := maskOr r.1.waits (2 ^ l) }, r.2)) ({ s }, [])

/-- R287, R288: an acquiring atomic is performed as it issues, so it waits until every earlier access of the group has been, and what
the core's L1 alone has is at its home, where the atomic is performed (log entry 92, DEDUCED). -/
def ready (ord : Order) (body : Body) : Body := fun s e act =>
  if Order.isAcq ord then
    match s.drain e.g.uid with
    | (s, true) => body s e act
    | (s, false) => { s, waits := act }
  else body s e act

/-- R271, R272: an atomic of a group: performed at some later moment, or, one that acquires, as it issues. -/
def atomBody (h : Hdr) (m : AMod) (d : Opnd) (sp : Space) (addr : Env → Nat → Nat) (b c : Opnd) : Body :=
  ordered m.ord m.scope (ready m.ord fun s e act =>
    let (o, ps) := atomPieces e m sp (addr e) b c s act
    match (Opnd.regs d 1).head?, ps.isEmpty with
    | some r, false =>
      let fl := o.s.uids
      let s := o.s.owe e.g h (pieceLanes ps) d (b2w m.x64)
      let s := s.pend e sp .l1 m.scope (some (m, r, fl)) none none (pieceLanes ps) ps
      if Order.isAcq m.ord then { o with s := (s.performMine e.g.uid).1 } else { o with s }
    | _, _ => o)

def execAtomg (h : Hdr) (m : AMod) (d a b c : Opnd) (off : BitVec 32) (s : State) : Host.Outcome State Fault Refusal :=
  issue (.atomg h m d a b c off) .lower (atomBody h m d .global (Env.litAddr a off true) b c) s

def execAtomsh (h : Hdr) (m : AMod) (d a b c : Opnd) (off : BitVec 32) (s : State) : Host.Outcome State Fault Refusal :=
  issue (.atomsh h m d a b c off) .lower (atomBody h m d .shared (Env.litAddr a off false) b c) s

/-! ### Prefetch, cache control and fence (R273 to R275) -/

/-- R273, R424: one lane's prefetch, and whether it waits: an address that fails a check is dropped; one whose half, or whose translation
table, the host holds is brought once it has come back. -/
def State.prefLane (s : State) (e : Env) (l2 : Bool) (a : Opnd) (l : Nat) : State × LaneEnd :=
  let va := e.w64 l a
  if 2 ^ 49 ≤ va then (s, .ok)
  else match s.checkGlobal e.t.core e.gr.ctx e.t.uid e.gr.version va 1 false 0 (e.writer l) with
    | (.pass t, s') => ((s'.loadAt e.t.core e.gr.ctx e.gr.version va 1 (if l2 then .l2 else .l1) t).2, .ok)
    | (.wait, s) => (s, .waits)
    | _ => (s, .ok)

def execPref (h : Hdr) (l2 : Bool) (a : Opnd) (s : State) : Host.Outcome State Fault Refusal :=
  issue (.pref h l2 a) (.load false) (fun s e act => forLanes s act fun s l => s.prefLane e l2 a l) s

def execCctl (h : Hdr) (op : CctlOp) (a : Opnd) (s : State) : Host.Outcome State Fault Refusal :=
  issue (.cctl h op a) (if op == .ivall then .once false else .store false) (fun s e act =>
    if op == .ivall then { s := s.dropL1 e.t.core fun x => !x.isSeal }
    else forLanes s act fun s l =>
      let va := e.w64 l a
      if 2 ^ 49 ≤ va then (s, .raised .misaligned va none)
      else match s.checkPage e.t.core e.gr.ctx e.gr.version va .load 0 with
        | (.pass t, s) => (if op == .iv then s.dropL1 e.t.core fun x => x.line == t.loc / 128 else s, .ok)
        | (.fail c x p, s) => (s, .raised c x p)
        | (.wait, s) => (s, .waits)) s

/-- The items of some lanes as ranges, or those of a span (R131, R140): they name who has issued a request, whichever group or span
holds the items later. -/
def Env.itemRanges (e : Env) (lanes : Nat) : List (Nat × Nat) :=
  match Tab.get? e.st.spans e.g.uid with
  | some sp => [(sp.first, sp.last)]
  | none => (lanesOf lanes).map fun l => let i := itemOf e.t e.gr e.g.gid l; (i, i)
/-- A range of items meets one of a list. -/
def itemsMeet (rs : List (Nat × Nat)) (r : Nat × Nat) : Bool := rs.any fun x => decide (x.1 ≤ r.2) && decide (r.1 ≤ x.2)
/-- R297: a remote request of some items of a grid that is not answered. -/
def State.owes (s : State) (grid : Nat) (rs : List (Nat × Nat)) : Bool :=
  s.streams.any fun x => x.owed.any fun o => o.grid == grid && o.copy.isNone && o.items.any (itemsMeet rs)

/-- R297: a remote load or atomic of some items that is not answered; kinds 0 and 2. -/
def State.owesLoads (s : State) (grid : Nat) (rs : List (Nat × Nat)) : Bool :=
  s.streams.any fun x => x.owed.any fun o => o.grid == grid && o.kind % 2 == 0 && o.copy.isNone && o.items.any (itemsMeet rs)

/-- R275, R288: a fence as an order. -/
def fenceOrder (k : FenceKind) : Order := match k with | .acq => .acq | .rel => .rel | .ar => .ar
/-- R275, R288: what is performed before a fence lets its lanes go on: every earlier access of the group at the fence's scope; the loads
and atomics alone for one that acquires. -/
def State.fenceFirst (s : State) (group : Nat) (scope : Scope) (kind : FenceKind) : State × Bool :=
  match kind with
  | .acq => s.performAll (s.before fun _ x => x.group == group && (x.load.isSome || x.atomic.isSome))
  | _ => s.release group (if scope == .group then .team else scope)
def execFence (h : Hdr) (scope : Scope) (kind : FenceKind) (s : State) : Host.Outcome State Fault Refusal :=
  issue (.fence h scope kind) (.once false) (fun s e act =>
    let rel := kind != .acq && scope.atLeastPod
    match (if rel then s.latches.find? fun x => x.ctx == e.gr.ctx else none) with
    | some x => { s, raises := (e.raiseAt act .remoteError (some x.addr)).map fun r => { r with latch := some x } }
    | none =>
    if scope.atLeastPod && (if rel then s.owes e.gr.uid (e.itemRanges act) else s.owesLoads e.gr.uid (e.itemRanges act)) then { s, waits := act }
    else match s.fenceFirst e.g.uid scope kind with
      | (s, false) => { s, waits := act }
      | (s, true) => { s := if Order.isAcq (fenceOrder kind) then s.acquire e.t.core scope else s }) s

/-! ### Sealed ranges (R276 to R281) -/

/-- The place of an address of a context, when a page holds it. -/
def State.placeOf (s : State) (ctx va : Nat) : Option Nat :=
  let w := s.walkNow ctx va
  match w.kind with
  | .leaf => some (trOf w.bits w.entry va).loc
  | _ => none
/-- The first address of each 4 KiB piece of a range: a piece has one home. -/
def pieces4k (base lines : Nat) : List Nat :=
  (List.range ((base + 128 * lines + 4095) / 4096 - base / 4096)).map fun k => if k == 0 then base else (base / 4096 + k) * 4096
/-- R276: whether a die homes a line of a range. -/
def State.sealDie (s : State) (ctx base lines d : Nat) : Bool :=
  (pieces4k base lines).any fun va => match s.placeOf ctx va with | some p => locDie p == d | none => false
/-- R276: free entries of a context in a die's table. -/
def State.sealFree (s : State) (ctx d : Nat) : Nat :=
  256 - (s.seals.filter fun k => k.ctx == ctx && s.sealDie ctx k.base k.lines d).length
/-- The places of a range's lines. -/
def State.sealLines (s : State) (k : Seal) : List Nat :=
  (List.range k.lines).filterMap fun i => (s.placeOf k.ctx (k.base + 128 * i)).map (· / 128)
/-- R278: the lines that the engines and the tensor load pipes of a context have begun to read and not finished. -/
def State.engineReads (s : State) (ctx : Nat) : List Nat :=
  let mine := fun (o : CopyOp) => ((Tab.get? s.teams o.team).map (·.ctx)) == some ctx
  (s.cores.flatMap fun c => ((c.2.channels.flatMap fun x => x.2) ++ c.2.fabric).filterMap fun o => if mine o then o.reading else none)
  ++ (s.teams.filter fun t => t.2.ctx == ctx).flatMap fun t => t.2.ops.filterMap fun o => o.2.reading
/-- R278: the copies of a range's lines that a die homes: those in an L1, and the reads of engines and pipes under way. -/
def State.sealCount (s : State) (k : Seal) (d : Nat) : Nat :=
  let ls := (s.sealLines k).filter fun x => locDie (128 * x) == d
  sumN (s.cores.map fun c => (c.2.l1.filter fun x => x.isSeal && ls.contains x.line).length)
  + ((s.engineReads k.ctx).filter fun p => decide (k.base / 128 ≤ p) && decide (p < k.base / 128 + k.lines)
      && (match s.placeOf k.ctx (128 * p) with | some x => locDie x == d | none => false)).length
/-- Drop lines from every L1. -/
def State.dropEvery (s : State) (p : L1Line → Bool) : State := s.cores.foldl (fun s c => s.dropL1 c.1 p) s

/-- R321, R424: the walks of some addresses of a context read no half that the host holds; or those are asked for. -/
def State.walksHeld (s : State) (ctx : Nat) (vas : List Nat) : Option State :=
  if s.port.lines.isEmpty then none
  else match vas.filter fun va => (s.walk ctx va).kind == .held with
    | [] => none
    | xs => some (xs.foldl (fun s va => s.recallWalk ctx va) s)
/-- R276: the addresses whose homes the seal tables of a context name. -/
def State.sealPieces (s : State) (ctx : Nat) : List Nat := (s.seals.filter fun k => k.ctx == ctx).flatMap fun k => pieces4k k.base k.lines

/-- R277: the first page of a range that a store may not reach. A version's or a host's is no such page: SEAL gives a status for
them. -/
def State.checkRange (s : State) (core ctx : Nat) : List Nat → Verdict × State
  | [] => (.pass { loc := 0, ov := none }, s)
  | va :: rest =>
    if 2 ^ 49 ≤ va then (.fail .misaligned va none, s)
    else match s.checkPage core ctx 0 va .store 1 with
      | (.pass _, s) => s.checkRange core ctx rest
      | r => r

/-- R277: the status of SEAL when it seals nothing. -/
def State.sealStatus (s : State) (ctx ver base lines : Nat) : Nat :=
  if (List.range 2).any fun d => s.sealDie ctx base lines d && s.sealFree ctx d == 0 then 1
  else if s.seals.any fun k => k.ctx == ctx && rangesMeet k.base (k.base + 128 * k.lines) base (base + 128 * lines) then 2
  else if (pieces4k base lines).any fun va => match s.placeOf ctx va with | some p => isHost p | none => false then 3
  else if ver != 0 then 4 else 0

def execSeal (h : Hdr) (d a b : Opnd) (s : State) : Host.Outcome State Fault Refusal :=
  issue (.seal h d a b) (.once false) (fun s e act =>
    let base := e.w64 (lowLane act) a
    let lines := e.w32 (lowLane act) b
    if base % 128 != 0 || decide (2 ^ 49 ≤ base) then { s, raises := e.raiseAt act .misaligned (some base) }
    else if lines == 0 || decide (2 ^ 24 < lines) then { s, raises := e.raiseAll act .illegalEnc }
    else match s.checkRange e.t.core e.gr.ctx (pieces4k base lines) with
      | (.fail code x absent, s) => { s, raises := (lanesOf act).map fun l => { lane := l, code, addr := x, absent } }
      | (.wait, s) => { s, waits := act }
      | (.pass _, s) =>
        match s.walksHeld e.gr.ctx (pieces4k base lines ++ s.sealPieces e.gr.ctx) with
        | some s => { s, waits := act }
        | none =>
        let st := s.sealStatus e.gr.ctx e.gr.version base lines
        if st != 0 then { s := scalarOut h d 2 s e act st }
        else match s.release e.g.uid .device with
          | (s, false) => { s, waits := act }
          | (s, true) =>
            let fl := s.uids
            let s := scalarOut h d 2 s e act 0
            let s := { s with seals := s.seals ++ [{ ctx := e.gr.ctx, base, lines, sealing := some fl, unsealing := false, handles := [] }] }
            -- a span, which has no scoreboard to wait on, stays until the seal is complete
            if (Tab.get? s.spans e.g.uid).isSome then { s := s.hold e.g.uid act (.engine fl), stays := act } else { s }) s

/-- R277, R292, R424: the event SEAL_COMPLETE: every store to the range that had passed a filter has been performed, and no peer's write
is half done. What the host holds of the range, and may have changed, comes back first. -/
def execSealComplete (ctx base : Nat) (s : State) : Host.Outcome State Fault Refusal :=
  match s.seals.find? fun k => k.ctx == ctx && k.base == base with
  | none => .next s
  | some k =>
    match k.sealing with
    | none => .next s
    | some fl =>
      let ls := s.sealLines k
      match s.walksHeld ctx (pieces4k k.base k.lines) with
      | some s => .next s
      | none =>
      if s.stores.any fun p => p.2.ctx == ctx && p.2.inTeam.isNone && p.2.pieces.any fun x => ls.contains (x.loc / 128) then .next s
      else if s.streams.any fun x => x.half.isSome then .next s
      else match s.port.lines.filter fun x => ls.contains x.1 && (x.2.lower || x.2.upper) with
      | y :: ys => .next ((y :: ys).foldl (fun s x => s.recallAt (128 * x.1) 128) s)
      | [] =>
        let s := s.dropEvery fun x => ls.contains x.line
        let s := { s with seals := s.seals.map fun x => if x == k then { k with sealing := none } else x }
        .next (({ s with spans := s.spans.map fun (p : Nat × Span) => if p.2.block == Block.engine fl then
            (p.1, { p.2 with block := .free, pc := p.2.pc + 12 }) else p }).land fl)

def execUnseal (h : Hdr) (d : UnsealDst) (a : Opnd) (s : State) : Host.Outcome State Fault Refusal :=
  issue (.unseal h d a) (match d with | .status _ => .once false | .handle _ => .lower) (fun s e act =>
    let base := e.w64 (lowLane act) a
    match s.walksHeld e.gr.ctx (s.sealPieces e.gr.ctx) with
    | some s => { s, waits := act }
    | none =>
    let entry := s.seals.find? fun k => k.ctx == e.gr.ctx && k.base == base
    let start := fun (s : State) (k : Seal) (hs : List (Nat × Nat)) =>
      let ls := s.sealLines k
      let s := s.dropEvery fun x => ls.contains x.line
      { s with seals := s.seals.map fun x => if x == k then { k with unsealing := true, handles := k.handles ++ hs } else x }
    match d with
    | .handle hn =>
      if e.createWaits hn.toNat then { s, waits := act }
      else
        let (fid, s) := s.newFuture e hn.toNat 4 0
        match entry, s.futureOf e.t.uid fid with
        | none, some f => { s := s.setFuture e.t.uid fid { f with state := 3, code := 1 } }
        | some k, _ => { s := start s k [(e.t.uid, fid)] }
        | _, _ => { s }
    | .status dst =>
      match entry, dst with
      | none, _ => { s := scalarOut h dst 2 s e act 1 }
      | some k, .s n =>
        let s := start s k []
        { s := (s.owe e.g h act dst 2).hold e.g.uid act (.unseal base n.toNat s.uids), stays := act }
      | some _, _ => { s }) s

/-- R280: the lanes of a group that wait for an unseal go on with status 0. -/
def State.unsealed (s : State) (uid base : Nat) : State :=
  let blocks := ((Tab.get? s.groups uid).map fun g => g.lanes.map (·.block)).getD []
  (List.range 64).foldl (fun s l =>
    match blocks.getD l .free with
    | .unseal b d n =>
      if b == base then
        ((((s.deliver uid (.s d) 0 l n 0).deliver uid (.s d) 1 l n 0).land n).updGroup uid fun g =>
          g.updLanes (2 ^ l) fun _ x => { x with block := .free, pc := x.pc + 12 })
      else s
    | _ => s) s

/-- R280: the event UNSEAL_COMPLETE: no copy remains. -/
def execUnsealComplete (ctx base : Nat) (s : State) : Host.Outcome State Fault Refusal :=
  match s.seals.find? fun k => k.ctx == ctx && k.base == base && k.unsealing with
  | none => .next s
  | some k =>
    match s.walksHeld ctx (pieces4k k.base k.lines) with
    | some s => .next s
    | none =>
    if s.sealCount k 0 + s.sealCount k 1 != 0 || k.sealing.isSome then .next s
    else
      let s := { s with seals := s.seals.filter fun x => x != k }
      let inCtx := fun (grid : Nat) => ((Tab.get? s.grids grid).map (·.ctx)) == some ctx
      let go := fun (p : Span) => match p.block with
        | .unseal b d _ => if b == base then
            { p with block := .free, pc := p.pc + 12, s := Tab.set p.s d 0, stamps := Tab.set p.stamps (stampS d) (s.core (s.spanCore p)).epoch } else p
        | _ => p
      let s := ((s.groups.filter fun g => inCtx g.2.grid).map (·.1)).foldl (fun s g => s.unsealed g base) s
      let spans := s.spans.map fun (p : Nat × Span) => if inCtx p.2.grid then (p.1, go p.2) else p
      -- the templates of a grid that was cut while one of its spans waited (R138)
      let grids := s.grids.map fun (g : Nat × Grid) => if inCtx g.1 then (g.1, { g.2 with templates := g.2.templates.map go }) else g
      .next (k.handles.foldl (fun s h => match s.futureOf h.1 h.2 with
        | some f => s.setFuture h.1 h.2 { f with state := 3 }
        | none => s) { s with spans, grids })

def execSealq (h : Hdr) (d a : Opnd) (s : State) : Host.Outcome State Fault Refusal :=
  issue (.sealq h d a) (.once false) (fun s e act =>
    let va := e.w64 (lowLane act) a
    if 2 ^ 49 ≤ va then { s, raises := e.raiseAt act .misaligned (some va) }
    else match s.walksHeld e.gr.ctx (va :: s.sealPieces e.gr.ctx) with
    | some s => { s, waits := act }
    | none =>
      let die := match s.placeOf e.gr.ctx va with | some p => locDie p | none => 0
      let x := match s.sealAt e.gr.ctx va with
        | some k => 1 + 2 * b2n k.unsealing + 2 ^ 8 * min (s.sealCount k die) (2 ^ 24 - 1)
        | none => 0
      { s := scalarOut h d 2 s e act (x + 2 ^ 32 * s.sealFree e.gr.ctx die) }) s

/-! ### PGQ (R334) -/

/-- The size code of a page of 2^bits bytes. -/
def sizeCode (bits : Nat) : Nat := if bits == 12 then 0 else if bits == 16 then 1 else if bits == 21 then 2 else 3
/-- R334: what PGQ reports of a walk that ended at an entry. -/
def pgqWord (level bits e va : Nat) (leaf err : Bool) : Nat :=
  let loc := (trOf bits e va).loc
  let home := if leaf && !err && !isHost loc then 2 ^ 9 * locDie loc + 2 ^ 10 * locStack loc else 0
  if err then 2 ^ 13 * (level - 1) + 2 ^ 15
  else eST e + 2 ^ 3 * b2n (eW e) + 2 ^ 4 * b2n (eX e) + 2 ^ 5 * sizeCode bits + 2 ^ 7 * eILV e + home
    + 2 ^ 13 * (level - 1) + 2 ^ 16 * b2n (eAC e) + 2 ^ 17 * b2n (eDT e)
/-- The size of the page that an entry of a level covers. -/
def levelBits (level e : Nat) : Nat := if level == 1 then (if ePS64 e then 16 else 12) else if level == 2 then 21 else 30
def State.pgq (s : State) (core ctx va : Nat) : Nat :=
  match tlbFind ((s.core core).tlb ++ s.dieTlb.getD (unitDie core) []) ctx va with
  | some t =>
    let gone := leafGone s.manage.perigee t.size t.entry va
    pgqWord t.level t.size t.entry va (!gone) gone
  | none =>
    let w := s.walk ctx va
    match w.kind with
    | .leaf => pgqWord w.level w.bits w.entry va true false
    | .error => pgqWord w.level 12 w.entry va false true
    | _ => pgqWord w.level (levelBits w.level w.entry) w.entry va false false

/-- A walk for PGQ that cannot end yet. -/
def State.pgqHeld (s : State) (core ctx va : Nat) : Bool :=
  (tlbFind ((s.core core).tlb ++ s.dieTlb.getD (unitDie core) []) ctx va).isNone && (s.walk ctx va).kind == .held

def execPgq (h : Hdr) (d a : Opnd) (s : State) : Host.Outcome State Fault Refusal :=
  issue (.pgq h d a) (.load false) (fun s e act =>
    let bad := laneMask fun l => inMask act l && decide (2 ^ 49 ≤ e.w64 l a)
    -- a walk that comes to an entry in a half that the host holds waits for it (R424)
    let late := laneMask fun l => inMask act l && !inMask bad l && s.pgqHeld e.t.core e.gr.ctx (e.w64 l a)
    let ok := maskDiff (maskDiff act bad) late
    let s := (lanesOf late).foldl (fun (s : State) l => s.recallWalk e.gr.ctx (e.w64 l a)) s
    { waits := late
      s := s.result e.g.uid h ok .var (resOf d (if d.isS then 2 else 1) (lowLane ok) fun l => s.pgq e.t.core e.gr.ctx (e.w64 l a)) 0
      raises := (lanesOf bad).map fun l => { lane := l, code := .misaligned, addr := e.w64 l a, absent := none } }) s

/-! ### Performing and landing (R72, R265, R471) -/

/-- The event STORE_PERFORMED: a store, an atomic or a load that has been issued is performed, where the orders of R287 let it
be next. -/
def execStorePerformed (ticket : Nat) (s : State) : Host.Outcome State Fault Refusal :=
  .next (if s.mayPerform ticket then (s.perform1 ticket).1 else s)

/-- R99: a context that is halted or saved issues a load again that owes a result. -/
def Context.keeps (c : Context) (n : Nat) : Bool :=
  (c.reissue.any fun r => r.2.2.flight == n) || c.loads.any fun p => match p.2.load with | some (_, _, f) => f == n | none => false
/-- Whether something still owes a result: an atomic or a load that is not performed, a SEAL, a remote reply, or the end of
the sleep of a lane (R167, R280). -/
def State.owedFlight (s : State) (n : Nat) : Bool :=
  (s.stores.any fun p => (match p.2.atomic with | some (_, _, f) => f == n | none => false)
    || (match p.2.load with | some (_, _, f) => f == n | none => false))
  || s.seals.any (fun k => k.sealing == some n)
  || s.streams.any (fun x => x.owed.any fun o => o.flight == n && !o.lanes.isEmpty && o.copy.isNone)
  || s.contexts.any (fun c => c.2.keeps n)
  || s.groups.any fun g => g.2.lanes.any fun x => match x.block with | .mwait _ _ f | .unseal _ _ f => f == n | _ => false

/-- The event VARIABLE_RESULT_LANDS: a result of variable latency lands (R72), be it that of a span, which is owed its flags
alone (R48). -/
def execVariableResultLands (group ticket : Nat) (s : State) : Host.Outcome State Fault Refusal :=
  match Tab.get? s.flights ticket with
  | some f => if f.group == group && f.due.isNone && !f.landed && !s.owedFlight ticket then .next (s.land ticket) else .next s
  | none => .next s

end Sys2Proof.Machine
end

