-- ==== Sys2Proof/Machine/Tile.lean ====
section
/-! DEFINITION. The tensor core (spec/18_tile.md R335 to R359): tile-store slots, address maps, tile registers,
accumulators, gangs, MMA and ASCA, the tile moves and their rows, ARD and AWR. Each instruction is performed whole on the
tile state in the order of issue (R336); the tile moves go on row by row. -/

namespace Sys2Proof

/-- R351: bits of an element. -/
def MmaTy.elem (t : MmaTy) : Nat := match t with | .bf16 | .f16 => 16 | .n8 | .i8 => 8 | .n4 | .i4 => 4 | .f64 => 64

/-- R357: the word of an accumulator, or the low word of a pair's element, that column `k` of the move is in lane `l`. -/
def FragMod.index (m : FragMod) (l k : Nat) : Nat :=
  let col := 16 * (l % 2) + (if m.qsel then 4 * m.q.toNat + k else k)
  if m.f64 then 64 * (l / 2) + 2 * col else 32 * (l / 2) + col
/-- The words a lane moves, in register order. -/
def FragMod.places (m : FragMod) (l : Nat) : List Nat :=
  (List.range (if m.qsel then 4 else 16)).flatMap fun k => if m.f64 then [m.index l k, m.index l k + 1] else [m.index l k]

end Sys2Proof

namespace Sys2Proof.Machine

/-! ### Tile state (R42, R344, R345) -/

/-- A register that is not in use. -/
def Tile.blank : Tile := { inuse := false, dirty := false, data := [], writer := none }
def Team.acc (t : Team) (n : Nat) : Tile := Tab.get t.a n Tile.blank
def Team.treg (t : Team) (n : Nat) : Tile := Tab.get t.t n Tile.blank

/-- The words from number `k` on of a table whose other words are zero. -/
def dense : Tab Word → Nat → Nat → List Word
  | _, _, 0 => []
  | [], k, n + 1 => 0 :: dense [] (k + 1) n
  | (i, w) :: t, k, n + 1 => if i == k then w :: dense t (k + 1) n else 0 :: dense ((i, w) :: t) (k + 1) n
/-- Words written into a table from number `k` on; zero words are not listed. -/
def putWords (d : Tab Word) (k : Nat) : List Word → Tab Word
  | [] => d
  | w :: ws => putWords (if w == 0 then Tab.del d k else Tab.set d k w) (k + 1) ws
/-- `count` pieces of `n` elements of a list. -/
def chunks {α : Type} (n count : Nat) (l : List α) : List (List α) := (List.range count).map fun r => (l.drop (n * r)).take n

/-- R345: the accumulators of a value: one, or an even and odd pair. -/
def accRegs (f64 : Bool) (n : Nat) : List Nat := if f64 then [n, n + 1] else [n]
def Team.accWords (t : Team) (rs : List Nat) : List Word := rs.flatMap fun n => dense (t.acc n).data 0 1024
/-- R360, R366: a register changes: no ATTS has left a pending block there as it stands now. -/
def Team.unmask (t : Team) (isT : Bool) (n : Nat) : Team :=
  { t with blockMask := t.blockMask.filter fun x => if isT then x.2.tp != n else x.1 != n }
/-- Write accumulators whole (R42): in use, with the dirty flag and the future given. -/
def Team.putAcc (t : Team) (dirty : Bool) (fut : Option Nat) : List Nat → List Word → Team
  | [], _ => t
  | n :: rs, ws =>
    (({ t with a := Tab.set t.a n { inuse := true, dirty, data := tileData (ws.take 1024), writer := fut } }).unmask false n).putAcc dirty fut rs (ws.drop 1024)
def State.putAcc (s : State) (team : Nat) (dirty : Bool) (rs : List Nat) (ws : List Word) : State :=
  s.updTeam team fun t => t.putAcc dirty none rs ws

/-- R344: the rows of a tile register, 16 words each. -/
def Team.tRows (t : Team) (n : Nat) : List (List Word) := chunks 16 32 (dense (t.treg n).data 0 512)
/-- Elements of 4 to 64 bits of a list of words. -/
def elemsOf (bits : Nat) (ws : List Word) : List Nat :=
  if bits == 64 then (chunks 2 (ws.length / 2) ws).map fun p => (p.getD 0 0).toNat + 2 ^ 32 * (p.getD 1 0).toNat
  else ws.flatMap fun w => (List.range (32 / bits)).map fun k => fld w.toNat (bits * k) bits

/-! ### Order on tile state (R335, R336, R347) -/

/-- A T register (true) or an A register, by number. -/
abbrev TReg := Bool × Nat
def tRegs (n count : Nat) : List TReg := (List.range count).map fun k => (true, n + k)
def aRegs (ns : List Nat) : List TReg := ns.map fun n => (false, n)
/-- The accumulators of an attention set (R360). -/
def setRegs (aset nh : Nat) : List Nat := (List.range (nh + 1)).map fun k => aset + k

/-- What an operation under way still reads and writes. -/
def TileOp.reads (o : TileOp) : List TReg :=
  match o.instr with
  | .ast _ _ f64 an _ _ _ => aRegs ((accRegs f64 an.toNat).filter fun n => !o.gone.contains n)
  | .atts _ m _ _ tq _ _ _ _ => tRegs tq.toNat (m.nh.toNat + 1)
  | .attv _ _ _ tp _ _ => tRegs tp.toNat 1
  | _ => []
def TileOp.writes (o : TileOp) : List TReg :=
  match o.instr with
  | .tld _ _ tots dst _ _ _ _ => if tots then [] else [(true, dst.toNat)]
  | .ald _ _ f64 an _ _ _ => aRegs (accRegs f64 an.toNat)
  | .atts _ _ _ aset _ _ _ tp _ => [(false, aset.toNat), (true, tp.toNat)]
  | .attv _ m aset _ _ _ => aRegs (setRegs aset.toNat (m.nh.toNat + 1))
  | _ => []

/-- R336: an instruction waits for operations under way. -/
def Team.tileBusy (t : Team) (rd wr : List TReg) : Bool :=
  t.ops.any fun o => (o.2.writes.any fun r => rd.contains r || wr.contains r) || o.2.reads.any fun r => wr.contains r
/-- R308, R355, R365: the futures that a read of a register consumes. -/
def Team.tileFutures (t : Team) (r : TReg) : List Future :=
  let x := if r.1 then t.treg r.2 else t.acc r.2
  (x.writer.toList ++ x.mark.toList).filterMap fun f => Tab.get? t.futures f
/-- R308, R355: a register whose asynchronous writer ended FAULTED or CANCELLED. -/
def Team.tileDead (t : Team) (rd : List TReg) : Bool := rd.any fun r => (t.tileFutures r).any fun x => decide (4 ≤ x.state)
/-- R308, R355: a register whose asynchronous writer has not ended. -/
def Team.tileLive (t : Team) (rd : List TReg) : Bool := rd.any fun r => (t.tileFutures r).any fun x => !x.final

/-- R346: the A registers of a team that hold a physical tile: those in use, and those that a move under way will write first. -/
def Team.heldTiles (t : Team) : Nat :=
  let moves := t.ops.flatMap fun o => o.2.writes.filterMap fun r => if !r.1 && !(t.acc r.2).inuse then some r.2 else none
  (t.a.filter fun x => x.2.inuse).length + moves.eraseDups.length
/-- R346: the free physical tiles of a core. -/
def State.accFree (s : State) (core : Nat) : Nat :=
  48 - sumN ((s.teams.filter fun t => t.2.resident && t.2.core == core).map fun t =>
    t.2.heldTiles + sumN (t.2.ops.map fun o => o.2.gone.length))
/-- R347: operations that read A registers go on with the tiles as they stood. -/
def Team.detach (t : Team) (rs : List Nat) : Team :=
  { t with ops := t.ops.map fun (o : Nat × TileOp) =>
      (o.1, { o.2 with gone := o.2.gone ++ rs.filter fun n => o.2.reads.contains (false, n) }) }
def State.detach (s : State) (team : Nat) (rs : List Nat) : State := s.updTeam team fun t => t.detach rs
/-- The registers of a list that an operation under way reads. -/
def Team.readers (t : Team) (rs : List Nat) : List Nat := rs.filter fun n => t.ops.any fun o => o.2.reads.contains (false, n)

/-- R346: the first that waits for a tile on a core: a group and a PC at which a lane of it still waits. -/
def State.accHead (s : State) (core : Nat) : Option (Nat × Nat) :=
  (s.core core).accq.find? fun x => match Tab.get? s.groups x.1 with
    | some g => g.lanes.any fun l => l.live && l.pc.toNat == x.2
    | none => false

/-- What an instruction on tile state does once it need not wait: it reads `rd`, writes `wr`, renames `ren` (R347), and
first writes the A registers `need` (R346). -/
def tileGate (s : State) (e : Env) (act : Nat) (rd wr : List TReg) (ren need : List Nat) (f : State → Env → Out) : Out :=
  let pc := (e.pc (lowLane act)).toNat
  let me := (e.g.uid, pc)
  let rn := e.t.readers ren
  let s := if !rn.isEmpty && decide (rn.length ≤ s.accFree e.t.core) then s.detach e.t.uid rn else s
  match Tab.get? s.teams e.t.uid with
  | none => { s }
  | some t =>
    if t.tileBusy rd wr || t.tileLive rd then { s, waits := act }
    else if t.tileDead rd then { s, raises := e.raiseAll act .futureDead }
    else withUnits s e act ((rd ++ wr).map fun r => (t.uid, if r.1 then 5 else 4, r.2)) fun s =>
      let n := (need.filter fun n => !(t.acc n).inuse).length
      let turn := match s.accHead t.core with | some x => x == me | none => true
      if n != 0 && (!turn || decide (s.accFree t.core < n)) then
        { s := s.updCore t.core fun c => { c with accq := if c.accq.contains me then c.accq else c.accq ++ [me] }, waits := act }
      else
        let s := if n == 0 && !(s.core t.core).accq.contains me then s else s.updCore t.core fun c => { c with accq := c.accq.filter fun x => x != me }
        match s.env? e.g.uid with
        | some e => f s e
        | none => { s }

/-- R335, step 1: T and A registers against the header. -/
def Env.tileBound (e : Env) (ts as : List Nat) : Bool :=
  (ts.any fun n => decide (e.gr.kernel.tiles ≤ n)) || as.any fun n => decide (e.gr.kernel.acc ≤ n)

/-- The event ACCUMULATOR_TILE_GRANT: a tile frees and the first that waits tries again. -/
def execAccumulatorTileGrant (core : Nat) (s : State) : Host.Outcome State Fault Refusal :=
  match s.accHead core with
  | some (uid, pc) =>
    if s.accFree core == 0 then .next s
    else .next (s.updGroup uid fun g => g.updLanes (laneMask fun l => (g.lane l).live && (g.lane l).pc.toNat == pc && (g.lane l).block == .retry)
      fun _ x => { x with block := .free })
  | none => .next s

/-! ### Tile-store slots (R338, R339) -/

/-- The free granules of a core. -/
def State.tsFree (s : State) (core : Nat) : Nat :=
  64 - sumN ((s.teams.filter fun t => t.2.resident && t.2.core == core).map fun t => t.2.granules + sumN (t.2.freeing.map fun x => x.2.1))
/-- R339: the free granules that are left to a TSALLOC behind some waits: each of these takes its granules as soon as they are
there, in its turn. -/
def tsLeft (free : Nat) : List (Nat × Nat × Nat) → Nat
  | [] => free
  | x :: xs => if x.2.2 ≤ free then tsLeft (free - x.2.2) xs else free
/-- The TSALLOC waits of a core whose lanes still stand there. -/
def State.tsWaits (s : State) (core : Nat) : List (Nat × Nat × Nat) :=
  (s.core core).tsallocq.filter fun x => match Tab.get? s.groups x.1 with
    | some g => g.lanes.any fun l => l.live && l.pc.toNat == x.2.1
    | none => false

def execTsalloc (h : Hdr) (d a : Opnd) (nb : Bool) (s : State) : Host.Outcome State Fault Refusal :=
  issue (.tsalloc h d a nb) .lower (fun s e act =>
    let n := e.w32 (lowLane act) a
    let pc := (e.pc (lowLane act)).toNat
    let q := s.tsWaits e.t.core
    let free := tsLeft (s.tsFree e.t.core) (q.takeWhile fun x => !(x.1 == e.g.uid && x.2.1 == pc))
    if !e.t.freeing.isEmpty then { s, waits := act }
    else if n == 0 || decide (64 < e.t.granules + n) then { s := scalarOut h d 2 s e act (2 ^ 57) }
    else if nb && decide (free < n) then { s := scalarOut h d 2 s e act (2 ^ 56) }
    else if free < n then
      let q' := if q.any fun x => x.1 == e.g.uid && x.2.1 == pc then q else q ++ [(e.g.uid, pc, n)]
      let s := s.updCore e.t.core fun c => { c with tsallocq := q' }
      { s := s.hold e.g.uid act (.tsalloc d.sNum), stays := act }
    else
      let s := s.updCore e.t.core fun c => { c with tsallocq := q.filter fun x => !(x.1 == e.g.uid && x.2.1 == pc) }
      let s := s.updTeam e.t.uid fun t => { t with granules := t.granules + n }
      { s := scalarOut h d 2 s e act (16384 * e.t.granules) }) s

/-- The event TSALLOC_GRANT: granules have returned and the first TSALLOC that waits takes them. -/
def execTsallocGrant (core : Nat) (s : State) : Host.Outcome State Fault Refusal :=
  match s.tsWaits core with
  | (uid, pc, n) :: _ =>
    if s.tsFree core < n then .next s
    else .next (s.updGroup uid fun g => g.updLanes (laneMask fun l => (g.lane l).pc.toNat == pc && match (g.lane l).block with | .tsalloc _ => true | _ => false)
      fun _ x => { x with block := .free, due := match x.block with | .tsalloc d => some d | _ => none })
  | [] => .next s

def execTsfree (h : Hdr) (a : Opnd) (s : State) : Host.Outcome State Fault Refusal :=
  issue (.tsfree h a) .lower (fun s e act =>
    let n := e.w32 (lowLane act) a
    if e.t.granules < n then { s, raises := e.raiseAt act .pageProt (some (16384 * e.t.granules)) }
    else if n == 0 then { s }
    else
      let s := s.updTeam e.t.uid fun t => { t with granules := t.granules - n, freeing := t.freeing ++ [(t.granules - n, n, e.g.uid, act)] }
      { s := s.hold e.g.uid act .tsfree, stays := act }) s

/-- R339: nothing touches `n` slots that a team gives back, from slot `first` on: no operation under way, which all lock what they read
and write of the tile store, and no load or store of a lane that has passed its checks. -/
def State.slotsQuiet (s : State) (t : Team) (first n : Nat) : Bool :=
  !((s.core t.core).locks.any fun k => k.team == t.uid && k.space == 2 && decide (16384 * first < k.high) && decide (k.low < 16384 * (first + n)))
  && !(s.stores.any fun p => p.2.touches (some (t.uid, true)) (16384 * first) (16384 * n))
/-- R339: one TSFREE is over: its slots are gone from the tile store, and its lanes go on. -/
def State.tsRelease (s : State) (t : Team) (x : Nat × Nat × Nat × Nat) : State :=
  let (first, n, group, lanes) := x
  let s := s.updTeam t.uid fun t => { t with
    freeing := t.freeing.erase x
    store := t.store.filter fun c => decide (c.1 < 16384 * first) || decide (16384 * (first + n) ≤ c.1) }
  let s := s.updCtx t.ctx fun c => { c with absent := c.absent.filter fun a => !(a.owner == t.uid && a.kind == 3 && decide (first ≤ a.index) && decide (a.index < first + n)) }
  s.updGroup group fun g => g.updLanes lanes fun _ y => if y.block == .tsfree then { y with block := .free, pc := y.pc + 8 } else y
/-- The event TSFREE_RELEASE: accesses to the freed slots of a TSFREE have drained and the granules return to the core. -/
def execTsfreeRelease (team : Nat) (s : State) : Host.Outcome State Fault Refusal :=
  match Tab.get? s.teams team with
  | none => .next s
  | some t => .next ((t.freeing.filter fun x => s.slotsQuiet t x.1 x.2.1).foldl (fun s x => s.tsRelease t x) s)

/-! ### Address maps (R340 to R343) -/

/-- R340: the fields of an address map. -/
structure AMap where
  base : Nat
  esz : Nat
  tile : Bool
  ndim : Nat
  ext : List Nat
  str : List Int
  wrap : List Nat
  deriving DecidableEq, Repr

/-- Bits of an element. -/
def AMap.bits (m : AMap) : Nat := 4 * 2 ^ m.esz
/-- The 8-byte and 4-byte words of a map. -/
def mapWord (bs : List Byte) (o n : Nat) : Nat := leNat ((bs.drop o).take n)
def Team.map (t : Team) (k : Nat) : List Byte := Tab.get t.am k (zeros 64)
/-- R341: a valid map. -/
def amapOf (bs : List Byte) : Option AMap :=
  let ctl := mapWord bs 8 1
  let m : AMap := {
    base := mapWord bs 0 8, esz := fld ctl 0 3, tile := bitOf ctl 3, ndim := fld ctl 4 2 + 1
    ext := (List.range 4).map fun d => mapWord bs (16 + 12 * d) 4
    str := (List.range 4).map fun d => sext 32 (mapWord bs (20 + 12 * d) 4)
    wrap := (List.range 4).map fun d => mapWord bs (24 + 12 * d) 4 }
  let b := m.bits / 8
  let dims := (List.range 4).all fun d =>
    if d < m.ndim then decide (1 ≤ m.ext.getD d 0) else m.ext.getD d 0 == 0 && m.str.getD d 0 == 0 && m.wrap.getD d 0 == 0
  let ok := decide (m.esz ≤ 4) && fld ctl 6 2 == 0 && mapWord bs 9 7 == 0 && decide (m.base < 2 ^ (if m.tile then 20 else 49))
    && dims && m.str.getD 0 0 == 0 && m.wrap.getD 0 0 == 0
    && (b == 0 || (m.base % b == 0 && m.str.all fun x => x % (b : Int) == 0))
  if ok then some m else none

/-- R342: the elements of a run of `n` from coordinates `x` on that are in range, and the address of the first. -/
def AMap.run (m : AMap) (x : List Int) (n : Nat) : Option (Nat × Nat × Nat) :=
  let x0 := x.getD 0 0
  let lo := (max 0 (-x0)).toNat
  let hi := min n (max 0 ((m.ext.getD 0 0 : Int) - x0)).toNat
  let ok := (List.range m.ndim).all fun d => d == 0 || (decide (0 ≤ x.getD d 0) && decide (x.getD d 0 < m.ext.getD d 0))
  if decide (lo < hi) && ok then
    let y := fun d => if m.wrap.getD d 0 == 0 then x.getD d 0 else x.getD d 0 % (m.wrap.getD d 0 : Int)
    let rest := ((List.range m.ndim).filter fun d => d != 0).foldl (fun (a : Int) d => a + y d * m.str.getD d 0) 0
    let a : Int := (m.base : Int) + (x0 + lo) * m.bits / 8 + rest
    some (lo, hi, wrapZ (if m.tile then 20 else 64) a)
  else none

/-- Bytes that `n` elements take. -/
def AMap.bytesOf (m : AMap) (n : Nat) : Nat := (n * m.bits + 7) / 8
/-- The size in which the places of a map are accessed. -/
def AMap.part (m : AMap) : Nat := max 1 (m.bits / 8)
def AMap.spc (m : AMap) : Spc := if m.tile then .ts else .g
/-- The places of `n` bytes from an address on. -/
def AMap.places (m : AMap) (a n : Nat) : List Nat :=
  (List.range (n / m.part)).map fun i => (a + m.part * i) % 2 ^ (if m.tile then 20 else 64)

def execAmset (h : Hdr) (am : BitVec 4) (a : Opnd) (w : BitVec 3) (mem : Bool) (s : State) : Host.Outcome State Fault Refusal :=
  issue (.amset h am a w mem) .lower (fun s e act =>
    let l := lowLane act
    let x := e.w64 l a
    let put := fun (s : State) (bs : List Byte) => s.updTeam e.t.uid fun t => { t with am := Tab.set t.am am.toNat bs }
    if mem then
      match s.loadLane e l .global 64 .l1 x with
      | .done bs s => { s := put s bs }
      | .fail code addr absent s => { s, raises := (lanesOf act).map fun l => { lane := l, code, addr, absent } }
      | .wait s => { s, waits := act }
    else
      let old := e.t.map am.toNat
      { s := put s (old.take (8 * w.toNat) ++ le 8 x ++ old.drop (8 * w.toNat + 8)) }) s

def execAmget (h : Hdr) (d : Opnd) (am : BitVec 4) (w : BitVec 3) (s : State) : Host.Outcome State Fault Refusal :=
  issue (.amget h d am w) .lower (fun s e act => { s := scalarOut h d 2 s e act (mapWord (e.t.map am.toNat) (8 * w.toNat) 8) }) s

/-! ### Gangs (R349, R350) -/

def execGang (h : Hdr) (a : Opnd) (s : State) : Host.Outcome State Fault Refusal :=
  issue (.gang h a) .lower (fun s e act =>
    let m := e.w32 (lowLane act) a
    if decide (1 ≤ popN 32 m) && decide (popN 32 m ≤ 6) && bitOf m e.g.gid && decide (m < 2 ^ e.gr.kernel.ngroups) then
      { s := s.updGroup e.g.uid fun g => { g with gang := m } }
    else { s, raises := e.raiseAll act .illegalEnc }) s

/-- How a gang operation goes on for its members. -/
inductive GangEnd where
  | done (s : State)
  | held (s : State)
  | waits (s : State)
  | trap (s : State) (code : TrapCode) (addr : Option Nat)

/-- R350: the parts of two instructions that a latch compares: all but the header. -/
def sameGangOp (i j : Instr) : Bool :=
  match i, j with
  | .mma _ m a b c, .mma _ n x y z => m == n && a == x && b == y && c == z
  | .atts _ m c a t k o p w, .atts _ n d x u l q r v => m == n && c == d && a == x && t == u && k == l && o == q && p == r && w == v
  | .attv _ m a t k o, .attv _ n x u l q => m == n && a == x && t == u && k == l && o == q
  | _, _ => false
/-- The FMT registers that a gang operation names. -/
def gangFmts (i : Instr) : List Nat := i.uses.rd.filterMap fun r => match r with | .fmt k => some k | _ => none

/-- R350: two arrivals agree. -/
def State.gangAgree (s : State) (x y : Latch) : Bool :=
  x.mask == y.mask && sameGangOp x.instr y.instr
  && match Tab.get? s.groups x.group, Tab.get? s.groups y.group with
     | some g, some k => (gangFmts x.instr).all fun n => g.fmtreg n == k.fmtreg n
     | _, _ => false

/-- The arrivals of a team's groups that a mask lists, when all have arrived. -/
def State.gangSet (s : State) (t : Team) (mask : Nat) : Option (List Latch) :=
  let xs := t.latches.filter fun x => match Tab.get? s.groups x.group with | some g => bitOf mask g.gid | none => false
  if xs.length == popN 32 mask then some xs else none

/-- The lanes of an arrival raise a trap. -/
def State.gangTrap (s : State) (x : Latch) (code : TrapCode) (addr : Option Nat) : State :=
  (s.hold x.group x.lanes .free).takeTrap x.group x.pc (x.pc + 16) 0
    ((lanesOf x.lanes).map fun l => { lane := l, code, addr := addr.getD x.pc.toNat, absent := none })
/-- The lanes of an arrival go on. -/
def State.gangGo (s : State) (x : Latch) : State :=
  s.updGroup x.group fun g => g.updLanes x.lanes fun _ y => { y with block := .free, pc := x.pc + 16 }
def State.dropLatches (s : State) (team : Nat) (xs : List Latch) : State :=
  s.updTeam team fun t => { t with latches := t.latches.filter fun x => !xs.contains x }

/-- R350: the member of a gang whose `Env` gives the scalar operands (log entry 14). One that waits already for a tile stays it, with its
place in the order of issue (R346). -/
def State.gangLead (s : State) (core : Nat) (me : Latch) (xs : List Latch) : Nat :=
  ((xs.find? fun x => (s.core core).accq.contains (x.group, x.pc.toNat)).getD (xs.getD (Config.gangPick s.free % xs.length) me)).group
/-- R350: a gang operation. `run` performs it for the members, each a group with its lanes; `Env` is that of the member
that gives the scalar operands. One that waits leaves the latches as they are, and keeps what the wait has taken (R346). -/
def gangOp (i : Instr) (run : State → Env → List (Nat × Nat) → GangEnd) : Body := fun s e act =>
  let fin := fun (r : GangEnd) => match r with
    | .done s => ({ s } : Out)
    | .held s => { s, stays := act }
    | .waits s => { s, waits := act }
    | .trap s code addr => { s, raises := e.raiseAt act code addr }
  if e.g.gang == 2 ^ e.g.gid then fin (run s e [(e.g.uid, act)])
  else if e.t.latches.any fun x => x.group == e.g.uid then { s, waits := act }
  else
    let me : Latch := { group := e.g.uid, lanes := act, mask := e.g.gang, instr := i, pc := e.pc (lowLane act) }
    let t := { e.t with latches := e.t.latches ++ [me] }
    match t.latches.findSome? fun x => s.gangSet t x.mask with
    | none => { s := (s.setTeam t).hold e.g.uid act .gang, stays := act }
    | some xs =>
      let others := xs.filter fun x => x != me
      if xs.all fun x => s.gangAgree me x then
        let pick := s.gangLead e.t.core me xs
        match s.env? pick with
        | none => { s }
        | some e' =>
          let r := run (s.dropLatches e.t.uid others) e' (xs.map fun x => (x.group, x.lanes))
          match r with
          | .waits r => { s := r.updTeam e.t.uid fun t => { t with latches := e.t.latches }, waits := act }
          | .done s => { s := others.foldl (fun s x => s.gangGo x) s }
          | .held s => { s, stays := act }
          | .trap s code addr =>
            { s := others.foldl (fun s x => s.gangTrap x code addr) s, raises := e.raiseAt act code addr }
      else
        { s := others.foldl (fun s x => s.gangTrap x .gangMismatch none) (s.dropLatches e.t.uid others)
          raises := e.raiseAll act .gangMismatch }

/-- R350: arrivals that wait for a group whose lanes have all exited raise GANG_MISMATCH. -/
def State.gangExits (s : State) (team : Nat) : State :=
  match Tab.get? s.teams team, (Tab.get? s.teams team).bind fun t => Tab.get? s.grids t.grid with
  | some t, some gr =>
    let gone := fun g => match s.groupOf team g with
      | some x => x.lanes.all fun l => !l.inRange || (l.exited && !l.held)
      | none => !(s.spans.any fun p => p.2.team == some team && gr.lanesIn t.index g p.2.first p.2.last != 0)
    let dead := t.latches.filter fun x => (List.range 32).any fun g => bitOf x.mask g && gone g
    dead.foldl (fun s x => s.gangTrap x .gangMismatch none) (s.dropLatches team dead)
  | _, _ => s

/-- R198: flags of the tensor core and the attention path, INV and OF alone, enter in every member as an operation completes. -/
def State.enterFlags (s : State) (who : List (Nat × Nat)) (fl : Nat) : State :=
  who.foldl (fun s x => s.updGroup x.1 fun g => g.orFlags (Nat.land fl (flagInv + flagOf))) s
/-- R48, R198: every member is owed such flags by an instruction that completes later. -/
def State.tileFlags (s : State) (who : List (Nat × Nat)) (fl : Nat) : State :=
  if Nat.land fl (flagInv + flagOf) == 0 then s
  else who.foldl (fun s x =>
    let (n, s) := s.fresh
    { s with flights := Tab.set s.flights n { group := x.1, lanes := x.2, regs := [], due := none, sb := none, flags := Nat.land fl (flagInv + flagOf), landed := false } }) s

/-- The lanes of a member of a gang operation. -/
def lanesIn (who : List (Nat × Nat)) (uid : Nat) : Nat := ((who.find? fun x => x.1 == uid).map (·.2)).getD 0

/-- The result of a gate inside a gang operation. FUTURE_DEAD gives each member its own PC (R106, R308). -/
def gangGate (s : State) (e : Env) (act : Nat) (rd wr : List TReg) (ren need : List Nat) (f : State → Env → GangEnd) : GangEnd :=
  -- The gate's own outcome is read back from an effect that does nothing.
  let o := tileGate s e act rd wr ren need fun s _ => { s }
  match o.raises with
  | r :: _ => .trap o.s r.code (if r.code == .futureDead then none else some r.addr)
  | [] => if o.waits != 0 then .waits o.s
    else match o.s.env? e.g.uid with
      | some e => f o.s e
      | none => .waits o.s

/-! ### Accumulators (R348) -/

def execAzero (h : Hdr) (an : BitVec 4) (f64 : Bool) (s : State) : Host.Outcome State Fault Refusal :=
  issue (.azero h an f64) .lower (fun s e act =>
    let rs := accRegs f64 an.toNat
    if e.tileBound [] rs then { s, raises := e.raiseAll act .regBound }
    else tileGate s e act [] (aRegs rs) rs rs fun s e => { s := s.putAcc e.t.uid false rs [] }) s

/-- R348: T or A registers in use are so no more: they read zero, and a restore has nothing of them to fill. -/
def State.letGo (s : State) (t : Team) (ctx : Nat) (isT : Bool) (rs : List Nat) : State :=
  (s.updTeam t.uid fun t => rs.foldl (fun t n =>
    (if isT then { t with t := Tab.del t.t n } else { t with a := Tab.del t.a n } : Team).unmask isT n) t).updCtx ctx fun c =>
      { c with absent := c.absent.filter fun a => !(a.owner == t.uid && a.kind == (if isT then 5 else 4) && rs.contains a.index) }

def execArel (h : Hdr) (f64 t : Bool) (n : BitVec 4) (s : State) : Host.Outcome State Fault Refusal :=
  issue (.arel h f64 t n) .lower (fun s e act =>
    let rs := if t then [n.toNat] else accRegs f64 n.toNat
    if (if t then e.tileBound rs [] else e.tileBound [] rs) then { s, raises := e.raiseAll act .regBound }
    else if t then
      if e.t.tileBusy [] [(true, n.toNat)] then { s, waits := act }
      else { s := s.letGo e.t e.gr.ctx true (rs.filter fun n => (e.t.treg n).inuse) }
    else
      let t' := e.t.detach rs
      if t'.tileBusy [] (aRegs rs) then { s, waits := act }
      else
        let used := rs.filter fun n => (e.t.acc n).inuse
        { s := (s.detach e.t.uid used).letGo e.t e.gr.ctx false used }) s

/-! ### MMA and ASCA (R200, R351 to R353) -/

/-- A product on the tensor core: a NaN element raises INV (R200). -/
def tileMul (a b : Fp) : Fp × Nat := if a.isNan || b.isNan then (.nan false, flagInv) else Fp.mul a b
/-- R200: an exact sum of products; an exact zero is +0. -/
def tileDot (a b : List Fp) : Fp × Nat :=
  (a.zip b).foldl (fun t x =>
    let p := tileMul x.1 x.2
    let r := Fp.add false t.1 p.1
    (r.1, orN t.2 (orN p.2 r.2))) (.fin false 0 0, 0)

/-- R352: the elements of a row that an MMA multiplies. -/
def mmaCut (m : MmaMod) (row : List Nat) : List Nat := if m.nb then (row.drop (32 * m.blk.toNat)).take 32 else row

/-- One destination element from the rows of its operands and the old word. -/
def mmaAll {α : Type} (f : α → α → Nat → Nat × Nat) (a b : List α) (d : List (List Nat)) : List Nat × Nat :=
  let xs := (a.zip d).flatMap fun (x : α × List Nat) => (b.zip x.2).map fun y => f x.1 y.1 y.2
  (xs.map (·.1), xs.foldl (fun fl x => orN fl x.2) 0)

/-- R352: the new accumulator words of an MMA and its flags; `fa` and `fb` are the narrow formats. -/
def mmaWords (m : MmaMod) (fa fb : Fmt) (ta tb : List (List Word)) (old : List Word) : List Word × Nat :=
  let rows := fun t => (t : List (List Word)).map fun r => mmaCut m (elemsOf m.ty.elem r)
  match m.ty with
  | .i8 | .i4 =>
    let w := m.ty.elem
    let xs := fun sgn t => (rows t).map fun r => r.map fun x => intOf sgn w x
    let d := (chunks 32 32 old).map fun r => r.map (·.toNat)
    let r := mmaAll (fun a b d => (wrapZ 32 ((a.zip b).foldl (fun (t : Int) x => t + x.1 * x.2) (sext 32 d)), 0)) (xs m.sgna ta) (xs m.sgnb tb) d
    (r.1.map fun x => BitVec.ofNat 32 x, 0)
  | .f64 =>
    let d := (chunks 64 32 old).map fun r => elemsOf 64 r
    let r := mmaAll (fun a b d => (a.zip b).foldl (fun t x =>
      let y := fp64.fmaOp .rn false x.1 x.2 t.1
      (y.1, orN t.2 y.2)) (d, 0)) (rows ta) (rows tb) d
    (r.1.flatMap fun x => [BitVec.ofNat 32 x, BitVec.ofNat 32 (x / 2 ^ 32)], r.2)
  | _ =>
    let f := fun (k : Fmt) => match m.ty with | .bf16 => bf16 | .f16 => fp16 | _ => k
    let xs := fun (k : Fmt) t => (rows t).map fun r => r.map (f k).value
    let d := (chunks 32 32 old).map fun r => r.map (·.toNat)
    let r := mmaAll (fun a b d =>
      let t := tileDot a b
      let y := Fp.add false (fp32.value d) t.1
      let z := fp32.put .rn 0 false (y.1, orN t.2 (orN y.2 (sigFlag (fp32.value d))))
      z) (xs fa ta) (xs fb tb) d
    (r.1.map fun x => BitVec.ofNat 32 x, r.2)

def execMma (h : Hdr) (m : MmaMod) (ad : BitVec 4) (ta tb : BitVec 3) (s : State) : Host.Outcome State Fault Refusal :=
  issue (.mma h m ad ta tb) .lower (fun s e act =>
    let rs := accRegs (m.ty == .f64) ad.toNat
    let ka := e.g.fmtreg m.fmta.toNat
    let kb := e.g.fmtreg m.fmtb.toNat
    let fresh := m.new || m.nb
    if e.tileBound [ta.toNat, tb.toNat] rs then { s, raises := e.raiseAll act .regBound }
    else if m.ty.narrow && !(fmtFits (m.ty == .n4) ka && fmtFits (m.ty == .n4) kb) then { s, raises := e.raiseAll act .illegalEnc }
    else gangOp (.mma h m ad ta tb) (fun s e who =>
      gangGate s e (lanesIn who e.g.uid) ([(true, ta.toNat), (true, tb.toNat)] ++ if fresh then [] else aRegs rs) (aRegs rs) (if fresh then rs else []) rs fun s e =>
        let old := if fresh then List.replicate (1024 * rs.length) 0 else e.t.accWords rs
        let r := mmaWords m (fmtOf ka) (fmtOf kb) (e.t.tRows ta.toNat) (e.t.tRows tb.toNat) old
        .done ((s.putAcc e.t.uid true rs r.1).tileFlags who r.2)) s e act) s

/-- A finite value times a power of two. -/
def Fp.scale (x : Fp) (k : Int) : Fp := match x with | .fin n m e => .fin n m (e + k) | x => x

/-- R353: one element of ASCA. -/
def ascaElem (sa sb : Nat) (d p : Word) : Word × Nat :=
  if sa == 0xFF || sb == 0xFF then (BitVec.ofNat 32 fp32.nanCode, flagInv)
  else
    let x := Fp.add false (fp32.value d.toNat) ((fp32.value p.toNat).scale ((sa : Int) + sb - 254))
    let r := fp32.put .rn 0 false x
    (BitVec.ofNat 32 r.1, r.2)

def execAsca (h : Hdr) (ad ap : BitVec 4) (ts : BitVec 3) (row : BitVec 5) (s : State) : Host.Outcome State Fault Refusal :=
  issue (.asca h ad ap ts row) .lower (fun s e act =>
    if e.tileBound [ts.toNat] [ad.toNat, ap.toNat] then { s, raises := e.raiseAll act .regBound }
    else tileGate s e act [(true, ts.toNat), (false, ap.toNat), (false, ad.toNat)] [(false, ad.toNat)] [] [ad.toNat] fun s e =>
      let sc := elemsOf 8 ((e.t.tRows ts.toNat).getD row.toNat [])
      let d := chunks 32 32 (e.t.accWords [ad.toNat])
      let p := chunks 32 32 (e.t.accWords [ap.toNat])
      let xs := ((sc.take 32).zip (d.zip p)).flatMap fun (r : Nat × List Word × List Word) =>
        ((sc.drop 32).zip (r.2.1.zip r.2.2)).map fun (x : Nat × Word × Word) => ascaElem r.1 x.1 x.2.1 x.2.2
      { s := (s.putAcc e.t.uid true [ad.toNat] (xs.map (·.1))).tileFlags [(e.g.uid, act)] (xs.foldl (fun fl x => orN fl x.2) 0) }) s

/-! ### Fragments (R357) -/

def execArd (h : Hdr) (m : FragMod) (d : Opnd) (an : BitVec 4) (s : State) : Host.Outcome State Fault Refusal :=
  issue (.ard h m d an) .lower (fun s e act =>
    let rs := accRegs m.f64 an.toNat
    if e.tileBound [] rs then { s, raises := e.raiseAll act .regBound }
    else tileGate s e act (aRegs rs) [] [] [] fun s e =>
      let ws := e.t.accWords rs
      let val := fun l => leNat ((m.places l).flatMap fun i => le 4 (ws.getD i 0).toNat)
      { s := s.result e.g.uid h act .var (resOf d m.count (lowLane act) val) 0 }) s

def execAwr (h : Hdr) (m : FragMod) (an : BitVec 4) (a : Opnd) (s : State) : Host.Outcome State Fault Refusal :=
  issue (.awr h m an a) .lower (fun s e act =>
    let rs := accRegs m.f64 an.toNat
    if e.tileBound [] rs then { s, raises := e.raiseAll act .regBound }
    else tileGate s e act [] (aRegs rs) [] rs fun s e =>
      let regs := Opnd.regs a m.count
      let new : List (Nat × Word) := (lanesOf act).flatMap fun l => (m.places l).zip (regs.map fun r => e.vec r l)
      let ws := new.foldl (fun (w : List Word) x => w.set x.1 x.2) (e.t.accWords rs)
      { s := s.putAcc e.t.uid true rs ws }) s

/-! ### Tile moves (R354 to R356) -/

/-- The shape of a move: the source or destination in memory, the other map of TLD.TS, rows, elements of a row. -/
def TileOp.maps (o : TileOp) : Option (AMap × Option AMap) :=
  match amapOf o.amap with
  | none => none
  | some m => some (m, amapOf o.amap2)
def TileOp.rows (o : TileOp) : Nat := match o.instr with | .tld _ _ _ _ _ r _ _ => r.toNat + 1 | _ => 32
def moveElems (i : Instr) (m : AMap) : Nat := match i with | .tld .. => 512 / m.bits | _ => 32
/-- R354: the coordinates of a row. -/
def moveX (b c r : Nat) : List Int := [sext 32 b, sext 32 (b / 2 ^ 32) + r, sext 32 c, sext 32 (c / 2 ^ 32)]

/-- R318: the bytes of a row that land: the whole row in a register, of one written through a map those of its elements in range. -/
def moveBytes (i : Instr) (m : AMap) (d : Option AMap) (x : List Int) : Nat :=
  let through := fun (m : AMap) => match m.run x (moveElems i m) with | some (lo, hi, _) => m.bytesOf (hi - lo) | none => 0
  match i with
  | .tld .. => match d with | some d => through d | none => 64
  | .ald _ _ f64 .. => if f64 then 256 else 128
  | .ast .. => through m
  | _ => 0

/-- R342: the byte address of the element at some coordinates, in range or not. -/
def AMap.elemAt (m : AMap) (x : List Int) : Nat :=
  let y := fun d => if m.wrap.getD d 0 == 0 then x.getD d 0 else x.getD d 0 % (m.wrap.getD d 0 : Int)
  let rest := ((List.range m.ndim).filter fun d => d != 0).foldl (fun (a : Int) d => a + y d * m.str.getD d 0) 0
  wrapZ (if m.tile then 20 else 64) ((m.base : Int) + Int.fdiv (x.getD 0 0 * m.bits) 8 + rest)

/-- R342, R355: the lowest and past the highest in-range byte of rows of `n` elements from the coordinates `xs` on; a row whose addresses pass the modulus has both the
highest and the lowest byte there is. -/
def AMap.foot (m : AMap) (xs : List (List Int)) (n : Nat) : Option (Nat × Nat) :=
  xs.foldl (fun acc x =>
    match m.run x n with
    | none => acc
    | some (lo, hi, a) =>
      let top := 2 ^ (if m.tile then 20 else 64)
      let (a, z) := if top < a + m.bytesOf (hi - lo) then (0, top) else (a, a + m.bytesOf (hi - lo))
      match acc with
      | none => some (a, z)
      | some (x, y) => some (min x a, max y z)) none

/-- R312, R355: the ranges of a move. -/
def moveRanges (i : Instr) (m : AMap) (d : Option AMap) (b c rows : Nat) : List OpRange :=
  let store := match i with | .ast .. => true | _ => false
  let one := fun (m : AMap) (dest : Bool) => match m.foot ((List.range rows).map (moveX b c)) (moveElems i m) with
    | some (lo, hi) => [({ space := spcNum m.spc, low := lo, high := hi, dest, enters := dest || m.tile } : OpRange)]
    | none => []
  one m store ++ (match d with | some d => one d true | none => [])

/-- R277: the first byte of a footprint's rows in a sealed range. -/
def State.moveSealed (s : State) (ctx : Nat) (i : Instr) (m : AMap) (b c : Nat) : Option Nat :=
  match i, m.tile with
  | .ast .., false => (List.range 32).findSome? fun r =>
      match m.run (moveX b c r) 32 with
      | some (lo, hi, a) => s.sealedRow ctx a (m.bytesOf (hi - lo))
      | none => none
  | _, _ => none

/-- R42, R355: the future of a register's last asynchronous writer; its flags change with its first write alone. -/
def Team.setWriter (t : Team) (r : TReg) (fid : Option Nat) : Team :=
  let x := if r.1 then t.treg r.2 else t.acc r.2
  let y := { x with writer := fid, mark := none }
  if x == y then t
  else if r.1 then { t with t := Tab.set t.t r.2 y }
  else { t with a := Tab.set t.a r.2 y }

/-- R365: a later read of these A registers consumes a future whose operation writes none of them. -/
def Team.markSet (t : Team) (fid : Option Nat) (ns : List Nat) : Team :=
  match fid with
  | none => t
  | some _ => { t with a := ns.foldl (fun a n => Tab.set a n { (Tab.get? a n).getD Tile.blank with mark := fid }) t.a }
/-- An operation enters its team: its registers `wr` are written by it from here on, and an asynchronous one marks those of
`marks` as well. Registers come into use with its first write alone (R42). -/
def Team.startOp (t : Team) (op : Nat) (o : TileOp) (wr : List TReg) (marks : List Nat) : Team :=
  (wr.foldl (fun (t : Team) r => t.setWriter r o.fid) { t with ops := Tab.set t.ops op o }).markSet o.fid marks

/-- R355: a move starts, once its own checks have passed. -/
def startMove (i : Instr) (hd : Option (BitVec 4)) (m : AMap) (d : Option AMap) (am2 : List Byte) (am : BitVec 4) (b c : Opnd) (rows : Nat)
    (rd wr : List TReg) (need : List Nat) : Body := fun s e act =>
  let l := lowLane act
  let bv := e.w64 l b
  let cv := if Opnd.isS c then e.w64 l c else 0
  if m.esz == 0 && bv % 2 == 1 then { s, raises := e.raiseAt act .misaligned (some (m.elemAt (moveX bv cv 0))) }
  else if match hd with | some n => e.createWaits n.toNat | none => false then { s, waits := act }
  else tileGate s e act rd wr [] need fun s e =>
    let ranges := moveRanges i m d bv cv rows
    if (s.core e.t.core).lockWaits e.gr.ctx e.t.uid ranges then { s, waits := act }
    else match s.moveSealed e.gr.ctx i m bv cv with
      | some a => { s, raises := e.raiseAt act .writeSealed (some a) }
      | none =>
        match s.drain e.g.uid with
        | (s, false) => { s, waits := act }
        | (s, true) =>
          let (op, s) := s.fresh
          let (fid, s) := match hd with
            | some n => let r := s.newFuture e n.toNat 2 0
                        (some r.1, r.2)
            | none => (none, s)
          let s := s.enterLocks e.t.core e.gr.ctx e.t.uid op ranges
          let o : TileOp := { instr := i, who := [(e.g.uid, act)], fid, amap := e.t.map am.toNat, amap2 := am2,
                              b := bv, c := cv, src := e.t.accWords (rd.map (·.2)), gone := [], limit := e.t.tileBytes, row := 0,
                              paused := false, faulted := false }
          let s := s.updTeam e.t.uid fun t => t.startOp op o wr []
          if hd.isSome then { s } else { s := s.hold e.g.uid act (.engine op), stays := act }

def execTld (h : Hdr) (hd : Option (BitVec 4)) (tots : Bool) (dst am : BitVec 4) (rows1 : BitVec 5) (b c : Opnd) (s : State) :
    Host.Outcome State Fault Refusal :=
  issue (.tld h hd tots dst am rows1 b c) .lower (fun s e act =>
    if !tots && e.tileBound [dst.toNat] [] then { s, raises := e.raiseAll act .regBound }
    else match amapOf (e.t.map am.toNat), (if tots then (amapOf (e.t.map dst.toNat)).map some else some none) with
      | some m, some d =>
        if match d with | some d => !d.tile || d.esz != m.esz | none => false then { s, raises := e.raiseAll act .illegalEnc }
        else startMove (.tld h hd tots dst am rows1 b c) hd m d (if tots then e.t.map dst.toNat else []) am b c (rows1.toNat + 1)
          [] (if tots then [] else [(true, dst.toNat)]) [] s e act
      | _, _ => { s, raises := e.raiseAll act .illegalEnc }) s

/-- ALD and AST: the checks of the map. -/
def accMove (i : Instr) (hd : Option (BitVec 4)) (f64 : Bool) (an am : BitVec 4) (b c : Opnd) (load : Bool) : Body := fun s e act =>
  let rs := accRegs f64 an.toNat
  if e.tileBound [] rs then { s, raises := e.raiseAll act .regBound }
  else match amapOf (e.t.map am.toNat) with
    | none => { s, raises := e.raiseAll act .illegalEnc }
    | some m =>
      if m.esz != (if f64 then 4 else 3) then { s, raises := e.raiseAll act .illegalEnc }
      else startMove i hd m none [] am b c 32 (if load then [] else aRegs rs) (if load then aRegs rs else []) (if load then rs else []) s e act

def execAld (h : Hdr) (hd : Option (BitVec 4)) (f64 : Bool) (an am : BitVec 4) (b c : Opnd) (s : State) : Host.Outcome State Fault Refusal :=
  issue (.ald h hd f64 an am b c) .lower (accMove (.ald h hd f64 an am b c) hd f64 an am b c true) s
def execAst (h : Hdr) (hd : Option (BitVec 4)) (f64 : Bool) (an am : BitVec 4) (b c : Opnd) (s : State) : Host.Outcome State Fault Refusal :=
  issue (.ast h hd f64 an am b c) .lower (accMove (.ast h hd f64 an am b c) hd f64 an am b c false) s

/-- The bytes at places of a map, in turn, with the checks of R266, those apart that the operation has kept (R299); `limit` bounds the tile
store. -/
def State.mapRead (s : State) (core ctx ver team limit : Nat) (kept : List Host.Cell) (m : AMap) : List Nat → (List Byte × EngEnd) × State
  | [] => (([], .ok), s)
  | a :: as =>
    if m.tile && decide (limit < a + m.part) then (([], .error .pageProt a), s)
    else if !m.tile && decide (2 ^ 49 ≤ a) then (([], .error .misaligned a), s)
    else match s.engOnce core ctx ver team m.spc kept a m.part 8 with
      | ((bs, .ok), s) =>
        match s.mapRead core ctx ver team limit kept m as with
        | ((cs, x), s) => ((bs ++ cs, x), s)
      | r => r
/-- Whether the places of a map may be written, with where they lie. -/
def State.mapRoom (s : State) (core ctx ver team op limit : Nat) (m : AMap) : List Nat → (List Tr × EngEnd) × State
  | [] => (([], .ok), s)
  | a :: as =>
    if m.tile && decide (limit < a + m.part) then (([], .error .pageProt a), s)
    else if !m.tile && decide (2 ^ 49 ≤ a) then (([], .error .misaligned a), s)
    else match s.engRoom core ctx ver team op m.spc a m.part 9 with
      | ((t, .ok), s) =>
        match s.mapRoom core ctx ver team op limit m as with
        | ((ts, x), s) => ((t :: ts, x), s)
      | ((_, x), s) => (([], x), s)

/-- R342: a row read through a map: elements out of range are zero. -/
def State.rowRead (s : State) (core ctx ver team limit : Nat) (kept : List Host.Cell) (m : AMap) (x : List Int) (n : Nat) : (List Byte × EngEnd) × State :=
  let size := m.bytesOf n
  match m.run x n with
  | none => ((zeros size, .ok), s)
  | some (lo, hi, a) =>
    match s.mapRead core ctx ver team limit kept m (m.places a (m.bytesOf (hi - lo))) with
    | ((bs, .ok), s) =>
      let bs := if m.esz == 0 && (hi - lo) % 2 == 1 then bs.dropLast ++ [(bs.getLast?.getD 0) &&& 0x0F] else bs
      let before := zeros (lo * m.bits / 8)
      (((before ++ bs ++ zeros size).take size, .ok), s)
    | r => r

/-- R342: a row written through a map: elements out of range are dropped. -/
def State.rowWrite (s : State) (core ctx ver team op limit : Nat) (m : AMap) (x : List Int) (n : Nat) (row : List Byte) : EngEnd × State :=
  match m.run x n with
  | none => (.ok, s)
  | some (lo, hi, a) =>
    let size := m.bytesOf (hi - lo)
    match s.mapRoom core ctx ver team op limit m (m.places a size) with
    | ((ts, .ok), s) =>
      let bs := (row.drop (lo * m.bits / 8)).take size
      let old := match ts.getLast? with
        | some t => (match m.spc with | .g => (s.viewBytes ver t 1).1 | sp => s.readTeam team (spcSpace sp) t.loc 1).getD 0 0
        | none => 0
      let bs := if m.esz == 0 && (hi - lo) % 2 == 1 then bs.dropLast ++ [((bs.getLast?.getD 0) &&& 0x0F) ||| (old &&& 0xF0)] else bs
      (.ok, (s.engPut core ver team m.part m.spc ts bs).clearParts ver m.part m.spc ts)
    | ((_, x), s) => (x, s)

/-- The words of bytes. -/
def wordsFrom (bs : List Byte) : List Word := (chunks 4 (bs.length / 4) bs).map fun b => BitVec.ofNat 32 (leNat b)

/-- R42, R104: a row lands in a T or an A register, which is in use and dirty from its first write; what a restore has left of it
to fill comes first. -/
def State.putRow (s : State) (t : Team) (ctx : Nat) (r : TReg) (k : Nat) (ws : List Word) : EngEnd × State :=
  match s.presentAll ctx [(t.uid, if r.1 then 5 else 4, r.2)] with
  | .bad c va x => (engBad c va x, s)
  | .wait s => (.wait, s)
  | .done s =>
    let put := fun (x : Tile) => { x with inuse := true, dirty := true, data := putWords x.data k ws }
    (.ok, s.updTeam t.uid fun t =>
      let t := t.unmask r.1 r.2
      if r.1 then { t with t := Tab.set t.t r.2 (put (t.treg r.2)) } else { t with a := Tab.set t.a r.2 (put (t.acc r.2)) })

/-- R278: the line of global memory that a load has begun and not finished when its next row is number `r`. -/
def moveBetween (o : TileOp) (m : AMap) (r : Nat) : Option Nat :=
  let row := fun k => m.run (moveX o.b o.c k) (moveElems o.instr m)
  match o.instr, m.tile, row (r - 1), row r with
  | .ast .., _, _, _ => none
  | _, false, some (lo, hi, a), some (_, _, b) =>
    let last := a + m.bytesOf (hi - lo) - 1
    if decide (0 < r) && decide (r < o.rows) && last / 128 == b / 128 then some (b / 128) else none
  | _, _, _, _ => none

/-- R299: the address and length in bytes of row `r` of a move's source. -/
def TileOp.srcRow (o : TileOp) (m : AMap) (r : Nat) : Option (Nat × Nat) :=
  (m.run (moveX o.b o.c r) (moveElems o.instr m)).map fun x => (x.2.2, m.bytesOf (x.2.1 - x.1))
/-- R299: a row from number `r` on takes some byte of the aligned source word at `w`. -/
def TileOp.again (o : TileOp) (m : AMap) (r w : Nat) : Bool :=
  (List.range o.rows).any fun k => decide (r ≤ k) && match o.srcRow m k with
    | some (a, n) => decide (a < w + 4) && decide (w < a + n)
    | none => false
/-- R299: the words of its next row's source that a move must keep, since a later row takes them too, are read whole; what an earlier row has
kept stands as long as it is wanted. -/
def State.keepRow (s : State) (t : Team) (ctx ver : Nat) (o : TileOp) (m : AMap) : List Host.Cell × State :=
  match o.instr, o.srcRow m o.row with
  | .ast .., _ | _, none => (o.kept, s)
  | _, some (a, n) =>
    let old := o.kept.filter fun x => o.again m o.row (x.1 / 4 * 4)
    let words := (List.range (n / 4 + 2)).map fun i => a / 4 * 4 + 4 * i
    (words.filter fun w => decide (w < a + n) && o.again m (o.row + 1) w).foldl (fun r w =>
      if (keptAt r.1 w 4).isSome || (m.tile && decide (o.limit < w + 4)) || (!m.tile && decide (2 ^ 49 ≤ w)) then r
      else match r.2.engPart t.core ctx ver t.uid m.spc w 4 8 with
        | ((bs, .ok), s) => (r.1 ++ cellsAt w bs, s)
        | (_, s) => (r.1, s)) (old, s)

/-- R99, R356: a context is halted: an operation that was paused at the halt stays as it is, and goes on after the restore. -/
def State.ctxHalted (s : State) (ctx : Nat) : Bool := match Tab.get? s.contexts ctx with | some c => c.halted | none => false

/-- R354: one row of a move. -/
def State.moveRow (s : State) (t : Team) (ctx ver op : Nat) (o : TileOp) (m : AMap) (d : Option AMap) : EngEnd × State :=
  let x := moveX o.b o.c o.row
  let n := moveElems o.instr m
  match o.instr with
  | .ast _ _ f64 _ _ _ _ =>
    let k := if f64 then 64 else 32
    s.rowWrite t.core ctx ver t.uid op o.limit m x n (((o.src.drop (k * o.row)).take k).flatMap fun w => le 4 w.toNat)
  | .ald _ _ f64 an _ _ _ =>
    match s.rowRead t.core ctx ver t.uid o.limit o.kept m x n with
    | ((bs, .ok), s) =>
      let k := if f64 then 64 else 32
      let reg := an.toNat + k * o.row / 1024
      s.putRow t ctx (false, reg) (k * o.row % 1024) (wordsFrom bs)
    | ((_, x), s) => (x, s)
  | .tld _ _ _ dst _ _ _ _ =>
    match s.rowRead t.core ctx ver t.uid o.limit o.kept m x n with
    | ((bs, .ok), s) =>
      match d with
      | some d => s.rowWrite t.core ctx ver t.uid op o.limit d x n bs
      | none => s.putRow t ctx (true, dst.toNat) (16 * o.row) (wordsFrom bs)
    | ((_, x), s) => (x, s)
  | _ => (.ok, s)

/-- Change an operation of a team. -/
def State.updOp (s : State) (team op : Nat) (f : TileOp → TileOp) : State :=
  s.updTeam team fun t => { t with ops := Tab.upd t.ops op f }

/-- R49: ROWPROG of the groups that issued an operation. -/
def State.rowProg (s : State) (o : TileOp) (f : Nat → Nat) : State :=
  o.who.foldl (fun s x => s.updGroup x.1 fun g => { g with rowprog := BitVec.ofNat 32 (f g.rowprog.toNat) }) s
/-- R49: ROWPROG describes the operation `op` of these groups, which has faulted last, and no other of theirs any more. -/
def TileOp.described (op : Nat) (o : TileOp) (x : Nat × TileOp) : Nat × TileOp :=
  let shares := x.2.who.any fun w => o.who.any fun v => v.1 == w.1
  (x.1, { x.2 with faulted := x.1 == op || (x.2.faulted && !shares) })
def State.describes (s : State) (team op : Nat) (o : TileOp) : State :=
  s.updTeam team fun t => { t with ops := t.ops.map (TileOp.described op o) }
/-- R10: TRAPADDR of the groups whose lanes wait for a synchronous operation that meets a fault (log entry 60, DEDUCED). -/
def State.faultAddrs (s : State) (o : TileOp) (va : Nat) : State :=
  if o.fid.isSome then s else o.who.foldl (fun s x => s.faultAddr x.1 va) s
/-- R53, R99, R356: the lanes of a synchronous operation are parked at a replayable fault, or wait for it again. -/
def State.parkPipe (s : State) (o : TileOp) (op : Nat) (on : Bool) : State :=
  o.who.foldl (fun s x => s.updGroup x.1 fun g => g.updLanes x.2 fun _ y =>
    { y with block := if on && y.block == .engine op then .pipe op else if !on && y.block == .pipe op then .engine op else y.block }) s

/-- R355, R356, R367: an operation ends: state 3 DONE, 4 FAULTED with its code and address, 5 CANCELLED. KV_DEPTH gives the PC of
each lane that traps (R106); a future has no faulting address for it, and 0 stands there (R318; log entry 64, DEDUCED). -/
def State.endTile (s : State) (team op state : Nat) (code : TrapCode) (addr : Nat) : State :=
  match Tab.get? s.teams team with
  | none => s
  | some t =>
    match Tab.get? t.ops op with
    | none => s
    | some o =>
      let s := ((s.unparkOp op).updTeam team fun t => { t with ops := Tab.del t.ops op }).dropLocks t.core op
      let s := match o.fid.bind fun f => s.futureOf team f, o.fid with
        | some f, some fid => s.setFuture team fid { f with state, code := if state == 4 then code.num else 0, addr := if state == 4 then addr else 0 }
        | _, _ => s
      let live := if o.fid.isSome then [] else o.who
      live.foldl (fun s x =>
        let m := match Tab.get? s.groups x.1 with
          | some g => laneMask fun l => inMask x.2 l && ((g.lane l).block == .engine op || (g.lane l).block == .pipe op)
          | none => 0
        let pc := match Tab.get? s.groups x.1 with | some g => (g.lane (lowLane m)).pc | none => 0
        let s := s.hold x.1 m .free
        if state == 3 then s.updGroup x.1 fun g => g.updLanes m fun _ y => { y with pc := y.pc + BitVec.ofNat 49 o.instr.bytes }
        else if m == 0 then s
        else s.takeTrap x.1 pc (pc + BitVec.ofNat 49 o.instr.bytes) 0 ((lanesOf m).map fun l =>
          { lane := l, code, addr := if code == .kvDepth then pc.toNat else addr, absent := none })) s

/-- R356, R367: what an operation of a team does about trouble: it pauses at an absent page, ends at an error. ROWPROG.VALID of a move
that has faulted and then ends at an error keeps 1: it clears when the operation completes, and this one never does (log entry 71,
DESIGN CHOICE). -/
def State.tileTrouble (s : State) (t : Team) (ctx op : Nat) (o : TileOp) (x : EngEnd) : State :=
  match x with
  | .absent va a =>
    match s.parkOp t.core ctx op va a with
    | (true, s) =>
      let move := match o.instr with | .atts .. | .attv .. => false | _ => true
      let s := ((s.updOp t.uid op fun o => { o with paused := true }).faultAddrs o va).parkPipe o op true
      if move then (s.describes t.uid op o).rowProg o fun _ => o.row + 64 else s
    | (false, s) => s
  | .error c va => s.endTile t.uid op 4 c va
  | _ => s

/-- The event TILE_ROW_MOVE: a tensor load pipe moves one row. -/
def execTileRowMove (team op : Nat) (s : State) : Host.Outcome State Fault Refusal :=
  match Tab.get? s.teams team with
  | none => .next s
  | some t =>
    match Tab.get? t.ops op with
    | none => .next s
    | some o =>
      match o.maps with
      | none => .next s
      | some (m, d) =>
        let (ctx, ver) := s.teamView team
        if o.paused || !t.resident || s.ctxHalted ctx then .next s
        else
          let d := if o.amap2.isEmpty then none else d
          let (kept, s) := s.keepRow t ctx ver o m
          match s.moveRow t ctx ver op { o with kept } m d with
          | (.ok, s) =>
            let s := s.updOp team op fun o => { o with kept, row := o.row + 1, reading := s.readsOn ctx o.reading (moveBetween o m (o.row + 1)) }
            let s := match o.fid.bind fun f => s.futureOf team f, o.fid with
              | some f, some fid =>
                let n := moveBytes o.instr m d (moveX o.b o.c o.row)
                s.setFuture team fid { f with state := if n == 0 then f.state else 2, wptr := f.wptr + n }
              | _, _ => s
            if o.row + 1 < o.rows then .next s
            else
              let s := match o.instr with
                | .tld _ _ false dst _ _ _ _ => s.updTeam team fun t =>
                    { t with t := Tab.set t.t dst.toNat { t.treg dst.toNat with data := (t.treg dst.toNat).data.filter fun x => decide (x.1 < 16 * o.rows) } }
                | _ => s
              let s := if o.faulted then s.rowProg o fun x => x % 64 else s
              .next (s.endTile team op 3 .pageProt 0)
          | (x, s) => .next (s.tileTrouble t ctx op o x)

end Sys2Proof.Machine
end

