-- ==== Sys2Proof/Machine/Attention.lean ====
section
/-! DEFINITION. The attention path (spec/19_attention.md R360 to R374): scores and pending blocks, their commit, merging,
finishing and resetting of attention sets, and the lookup of sequence tables with KVTR. -/

namespace Sys2Proof.Machine

/-! ### Sequence tables (R371 to R373) -/

/-- A read with the checks of R266: of table words at their home (R372), or of keys and values at TEAM scope (R283, R367). -/
def State.readWord (s : State) (core ctx team ver fl : Nat) (pol : Pol) (va n : Nat) : (List Byte × EngEnd) × State :=
  if 2 ^ 49 ≤ va || va % n != 0 then (([], .error .misaligned va), s)
  else match s.checkGlobal core ctx team ver va n false fl (.engine 0) with
    | (.pass t, s) =>
      match s.loadAt core ctx ver va n pol t with
      | ((_, true), s) => (([], .error .dataPoison va), s)
      | ((bs, false), s) => ((bs, .ok), s)
    | (.fail _ a (some p), s) => (([], .absent a p), s)
    | (.fail c a none, s) => (([], .error c a), s)
    | (.wait, s) => (([], .wait), s)
def State.tblRead (s : State) (core ctx team ver fl va n : Nat) : (List Byte × EngEnd) × State :=
  s.readWord core ctx team ver fl .l2 va n

/-- R371: a sequence descriptor: table, parent, entries, and the three offsets. -/
structure SeqDesc where
  table : Nat
  parent : Nat
  nblk : Nat
  hoff : Nat
  voff : Nat
  rstr : Nat
  deriving DecidableEq, Repr

/-- R371: read a descriptor. -/
def State.seqRead (s : State) (core ctx team ver fl d : Nat) : (SeqDesc × EngEnd) × State :=
  let blank : SeqDesc := { table := 0, parent := 0, nblk := 0, hoff := 0, voff := 0, rstr := 0 }
  match s.tblRead core ctx team ver fl d 64 with
  | ((bs, .ok), s) =>
    let w := mapWord bs
    let x : SeqDesc := { table := w 0 8, parent := w 8 8, nblk := w 16 4, hoff := w 20 4, voff := w 24 4, rstr := w 28 4 }
    ((x, if (bs.drop 32).all (· == 0) then .ok else .error .pageProt (d + 32)), s)
  | ((_, x), s) => ((blank, x), s)

/-- R372: an entry's version is visible to a grid. -/
def State.kvVisible (s : State) (ver v : Nat) : Bool := s.eff v == 0 || (s.chain ver).contains (s.eff v)

/-- R371, R372: entry `b` of a table: its block when it is valid and visible. Its second word is checked whether or not it is. -/
def State.seqEntry (s : State) (core ctx team ver fl table b : Nat) : (Option Nat × EngEnd) × State :=
  let a := table + 16 * b
  if a % 16 != 0 then ((none, .error .misaligned a), s)
  else match s.tblRead core ctx team ver fl a 8 with
    | ((bs, .ok), s) =>
      let w := leNat bs
      if fld w 49 14 != 0 then ((none, .error .pageProt a), s)
      else match s.tblRead core ctx team ver fl (a + 8) 8 with
        | ((cs, .ok), s) =>
          let v := leNat cs
          if 2 ^ 16 ≤ v then ((none, .error .pageProt (a + 8)), s)
          else ((if bitOf w 63 && s.kvVisible ver v then some (fld w 0 49) else none, .ok), s)
        | ((_, x), s) => ((none, x), s)
    | ((_, x), s) => ((none, x), s)

/-- R372: the search of a chain of tables from descriptor `d` on: `n` more parents may be searched. -/
def State.seqFind (s : State) (core ctx team ver fl b : Nat) : Nat → Nat → (Nat × EngEnd) × State
  | n, d =>
    match s.seqRead core ctx team ver fl d with
    | ((x, .ok), s) =>
      match (if b < x.nblk then s.seqEntry core ctx team ver fl x.table b else ((none, .ok), s)) with
      | ((some a, _), s) => ((a, .ok), s)
      | ((none, .ok), s) =>
        if x.parent == 0 then ((0, .error .pageProt d), s)
        else match n with
          | 0 => ((0, .error .kvDepth 0), s)
          | n + 1 => s.seqFind core ctx team ver fl b n x.parent
      | ((none, y), s) => ((0, y), s)
    | ((_, y), s) => ((0, y), s)

/-- R372: the address of the record of a position, K or V. -/
def State.kvLookup (s : State) (core ctx team ver fl d pos : Nat) (v : Bool) : (Nat × EngEnd) × State :=
  match s.seqRead core ctx team ver fl d with
  | ((x, .ok), s1) =>
    match s1.seqFind core ctx team ver fl (pos / 64) 4 d with
    | ((a, .ok), s) => (((a + (if v then x.voff else 0) + x.hoff + pos % 64 * x.rstr) % 2 ^ 64, .ok), s)
    | r => r
  | ((_, y), s) => ((0, y), s)

def execKvtr (h : Hdr) (vhalf : Bool) (d a b : Opnd) (s : State) : Host.Outcome State Fault Refusal :=
  issue (.kvtr h vhalf d a b) (.load false) (fun s e act =>
    match s.drain e.g.uid with
    | (s, false) => { s, waits := act }
    | (s, true) =>
      let r := (lanesOf act).foldl (fun (r : Out × List (Nat × Nat)) l =>
        match r.1.s.kvLookup e.t.core e.gr.ctx e.t.uid e.gr.version 0 (e.w64 l a) (e.w32 l b) vhalf with
        | ((x, .ok), s) => ({ r.1 with s }, r.2 ++ [(l, x)])
        | ((_, .absent va p), s) => ({ r.1 with s, raises := r.1.raises ++ [{ lane := l, code := .pageAbsent, addr := va, absent := some p }] }, r.2)
        | ((_, .error c va), s) =>
          ({ r.1 with s, raises := r.1.raises ++ [{ lane := l, code := c, addr := if c == .kvDepth then (e.pc l).toNat else va, absent := none }] }, r.2)
        | ((_, .wait), s) => ({ r.1 with s, waits := maskOr r.1.waits (2 ^ l) }, r.2)) ({ s }, [])
      let m := maskOfVals r.2
      { r.1 with s := r.1.s.result e.g.uid h m .var (resOf d 2 (lowLane m) (valOf r.2)) 0 }) s

/-! ### Keys and values (R364) -/

/-- Places of a map or of a record, each read with the checks of R266; `fl` is that of a fault record. -/
def State.attRead (s : State) (t : Team) (ctx ver limit : Nat) (tile : Bool) : List Nat → (List Nat × EngEnd) × State
  | [] => (([], .ok), s)
  | a :: as =>
    let one : (List Byte × EngEnd) × State :=
      if tile then
        if limit < a + 2 then (([], .error .pageProt a), s)
        else if s.lockHit t.core ctx t.uid 2 a 2 false then (([], .error .rangeLock a), s)
        else s.engPart t.core ctx ver t.uid .ts a 2 8
      else s.readWord t.core ctx t.uid ver 8 .l1 a 2
    match one with
    | ((bs, .ok), s) =>
      match s.attRead t ctx ver limit tile as with
      | ((xs, x), s) => ((leNat bs :: xs, x), s)
    | ((_, x), s) => (([], x), s)

/-- The elements of key or value `j`: `kv` is the address of position KPOS in the KV form, with the stride of a record. -/
def State.attRow (s : State) (t : Team) (ctx ver limit : Nat) (m : Option AMap) (kv rstr kpos hd j : Nat) : (List Nat × EngEnd) × State :=
  match m with
  | none => s.attRead t ctx ver limit false ((List.range hd).map fun c => (kv + j * rstr + 2 * c) % 2 ^ 64)
  | some m =>
    match m.run [0, (kpos : Int) + j, 0, 0] hd with
    | none => ((List.replicate hd 0, .ok), s)
    | some (lo, hi, a) =>
      match s.attRead t ctx ver limit m.tile (m.places a (2 * (hi - lo))) with
      | ((xs, .ok), s) => (((List.replicate lo 0 ++ xs ++ List.replicate hd 0).take hd, .ok), s)
      | r => r

/-- The rows of the keys or values that `want` asks for, in order. -/
def State.attRows (s : State) (t : Team) (ctx ver limit : Nat) (m : Option AMap) (kv rstr kpos hd : Nat) (want : Nat → Bool) :
    List Nat → (List (List Nat) × EngEnd) × State
  | [] => (([], .ok), s)
  | j :: js =>
    match (if want j then s.attRow t ctx ver limit m kv rstr kpos hd j else ((List.replicate hd 0, .ok), s)) with
    | ((x, .ok), s) =>
      match s.attRows t ctx ver limit m kv rstr kpos hd want js with
      | ((xs, y), s) => ((x :: xs, y), s)
    | ((_, y), s) => (([], y), s)

/-! ### Scores and the pending block (R364, R365) -/

def negInf : Nat := fp32.infCode true
/-- R364: a masked key. -/
def masked (causal : Bool) (window nk qpos kpos i j : Nat) : Bool :=
  decide (nk ≤ j) || (causal && decide (qpos + i < kpos + j)) || (window != 0 && decide (kpos + j + window ≤ qpos + i))
/-- R364: a score that is not masked: an infinite one of either sign raises OF and NX, and a NaN score is the default NaN. -/
def scoreOf (q k : List Fp) : Nat × Nat :=
  let t := tileDot q k
  let r := fp32.put .rn 0 false t
  if r.1 == fp32.infCode false then (fp32.nanCode, orN r.2 (orN flagOf (orN flagNx flagInv)))
  else if r.1 == negInf then (negInf, orN r.2 (orN flagOf flagNx))
  else if (fp32.value r.1).isNan then (fp32.nanCode, orN r.2 flagInv)
  else r

/-- Round(2^x) of an exact value. -/
def exp2Code (x : Fp) : Nat × Nat :=
  match x with
  | .fin n m e =>
    let v := exp2Val n m e
    if (cutAt m e 0).rest == 0 then fp32.round .rn 0 false v.1 v.2 else fp32.round .rn 0 false (2 * v.1 + 1) (v.2 - 1)
  | .inf n => (if n then 0 else fp32.infCode false, 0)
  | .nan _ => (fp32.nanCode, 0)

/-- What ATTS leaves for one row: PM, PR, PB, the P elements and flags. -/
structure AttRow where
  pm : Nat
  pr : Int
  pb : Nat
  p : List Nat
  flags : Nat

/-- R365: one row. -/
def attsRow (m : Nat) (r : Int) (ss : List (Nat × Nat)) : AttRow :=
  let mx := ss.foldl (fun a x => let y := fp32.minMax true a.1 x.1
                                 (y.1, orN a.2 y.2)) (m, 0)
  let mv := fp32.value mx.1
  let rn : Int :=
    if mv.isNan || mx.1 == negInf then r
    else if m == negInf || Fp.cmp mv (Fp.ofInt (r + 8)) == .gt then
      match mv with
      | .fin n k e => satZ (roundInt .ru n k e).1 (-(2 ^ 30)) (2 ^ 30)
      | _ => 2 ^ 30
    else r
  let ps := ss.map fun x =>
    if (fp32.value x.1).isNan then (fp32.nanCode, 0)
    else if x.1 == negInf then (0, 0)
    else exp2Code (Fp.add false (fp32.value x.1) (Fp.ofInt (-rn))).1
  let sum := ps.foldl (fun (t : Fp) x => (Fp.add false t (fp32.value x.1)).1) (.fin false 0 0)
  let pb := fp32.put .rn 0 false (sum, 0)
  let bs := ps.map fun x => bf16.put .rn 0 false (fp32.value x.1, 0)
  { pm := mx.1, pr := rn, pb := pb.1, p := bs.map (·.1)
    flags := (ss ++ ps ++ bs).foldl (fun f x => orN f x.2) (orN mx.2 pb.2) }

/-- The words of a list with some of them replaced. -/
def setWords (ws : List Word) (xs : List (Nat × Nat)) : List Word := xs.foldl (fun (w : List Word) x => w.set x.1 (BitVec.ofNat 32 x.2)) ws

/-- The element formats of Q, K and V. -/
def attFmt (f16 : Bool) : Fmt := if f16 then fp16 else bf16
/-- The rows of several tile registers side by side, as codes. -/
def Team.wideRows (t : Team) (n count : Nat) : List (List Nat) :=
  (List.range 32).map fun i => (List.range count).flatMap fun k => elemsOf 16 ((t.tRows (n + k)).getD i [])

/-- R365: what ATTS writes to the state tile and to the P tile, and its flags. -/
def attsWords (t : Team) (m : AttMod) (causal : Bool) (aset tq window qpos kpos : Nat) (keys : List (List Nat)) : List Word × List Word × Nat :=
  let f := attFmt m.f16
  let st := dense (t.acc aset).data 0 1024
  let ks := keys.map fun k => k.map f.value
  let rows := (List.range 32).map fun i =>
    let q := ((t.wideRows tq (m.nh.toNat + 1)).getD i []).map f.value
    let ss := (mapFrom (fun j (x : Nat × List Fp) => (j, x.2)) 0 (ks.map fun k => (0, k))).map fun x =>
      if masked causal window m.nk.toNat qpos kpos i x.1 then (negInf, 0) else scoreOf q x.2
    attsRow (st.getD (32 * i) 0).toNat (st.getD (32 * i + 1) 0).toInt ss
  let put := (mapFrom (fun i (x : Nat × AttRow) => (i, x.2)) 0 (rows.map fun r => (0, r))).flatMap fun x =>
    [(32 * x.1 + 8, x.2.pm), (32 * x.1 + 9, wrapZ 32 x.2.pr), (32 * x.1 + 10, x.2.pb)]
  (setWords st (put ++ [(16, 1), (17, kpos), (18, m.nk.toNat)]),
   wordsFrom (rows.flatMap fun r => r.p.flatMap fun x => le 2 x),
   rows.foldl (fun f r => orN f r.flags) 0)

/-! ### The commit of a block (R366) -/

/-- TwoSum: the rounded sum, its exact error, and flags. -/
def twoSum (a b : Fp) : Nat × Fp × Nat :=
  let x := Fp.add false a b
  let h := fp32.put .rn 0 false x
  match x.1, fp32.value h.1 with
  | .fin n m e, .fin n' m' e' => (h.1, (Fp.add false (.fin n m e) (.fin (!n') m' e')).1, h.2)
  | _, _ => (h.1, .fin false 0 0, h.2)
/-- A code of an exact value, with flags gathered. -/
def put32 (x : Fp × Nat) : Nat × Nat := fp32.put .rn 0 false x
def val32 (w : Word) : Fp := fp32.value w.toNat

/-- R366: the new denominator words and flags. -/
def denomStep (lhi llo : Word) (f : Int) (pb : Word) : Nat × Nat × Nat :=
  let a := put32 ((val32 lhi).scale f, sigFlag (val32 lhi))
  let (h, e, f1) := twoSum (fp32.value a.1) (val32 pb)
  let y := put32 (Fp.add false ((val32 llo).scale f) e)
  let (hi, lo, f2) := twoSum (fp32.value h) (fp32.value y.1)
  (hi, (put32 (lo, 0)).1, orN (orN a.2 f1) (orN y.2 f2))

/-- R364, R366: the keys that row `i` masks in the pending block of a set, whose P tile is register `tp`; of a block that no ATTS has
left as it stands, those from NK on (log entry 29). -/
def Team.maskRow (t : Team) (aset tp kpos nk i : Nat) : Nat :=
  match Tab.get? t.blockMask aset with
  | some b => if b.kpos == kpos && b.nk == nk && b.tp == tp then b.rows.getD i 0 else maskOf 32 fun j => decide (nk ≤ j)
  | none => maskOf 32 fun j => decide (nk ≤ j)

/-- R366: the new words of the whole set, and flags. The value of a masked key does not enter. -/
def attvWords (t : Team) (m : AttMod) (aset tp : Nat) (vals : List (List Nat)) : List Word × Nat :=
  let nh := m.nh.toNat + 1
  let f := attFmt m.f16
  let ws := t.accWords (setRegs aset nh)
  let at_ := fun k => ws.getD k 0
  let ps := (t.wideRows tp 1).map fun r => r.map bf16.value
  let cols := (List.range (32 * nh)).map fun c => vals.map fun v => f.value (v.getD c 0)
  let rows := (List.range 32).map fun i =>
    let sc := (at_ (32 * i + 1)).toInt - (at_ (32 * i + 9)).toInt
    let p := ps.getD i []
    let mask := t.maskRow aset tp (at_ 17).toNat (at_ 18).toNat i
    let o := (mapFrom (fun c (x : Nat × List Fp) => (c, mapFrom (fun j v => if bitOf mask j then .fin false 0 0 else v) 0 x.2)) 0 (cols.map fun v => (0, v))).map fun x =>
      let k := 1024 * (1 + x.1 / 32) + 32 * i + x.1 % 32
      let d := tileDot p x.2
      let y := Fp.add false ((val32 (at_ k)).scale sc) d.1
      let z := put32 (y.1, orN d.2 y.2)
      ((k, z.1), z.2)
    let (hi, lo, fl) := denomStep (at_ (32 * i + 2)) (at_ (32 * i + 3)) sc (at_ (32 * i + 10))
    (o.map (fun (z : (Nat × Nat) × Nat) => z.1) ++ [(32 * i, (at_ (32 * i + 8)).toNat), (32 * i + 1, (at_ (32 * i + 9)).toNat), (32 * i + 2, hi), (32 * i + 3, lo),
                      (32 * i + 4, (at_ (32 * i + 4)).toNat + 1)],
     o.foldl (fun f (z : (Nat × Nat) × Nat) => orN f z.2) fl)
  (setWords ws (rows.flatMap (fun (r : List (Nat × Nat) × Nat) => r.1) ++ [(16, 0)]), rows.foldl (fun f r => orN f r.2) 0)

/-! ### ATTS and ATTV (R363 to R367) -/

/-- R363: the checks of step 3 on the key or value source, with what the operation keeps of it. -/
def attSource (e : Env) (src : KvSrc) (kpos : Nat) : Except TrapCode (List Byte) :=
  match src with
  | .map am =>
    match amapOf (e.t.map am.toNat) with
    | some m => if m.esz == 2 && decide (2 ≤ m.ndim) then .ok (e.t.map am.toNat) else .error .illegalEnc
    | none => .error .illegalEnc
  | .desc _ => if kpos % 32 != 0 then .error .misaligned else .ok []

/-- The other members of a gang hold the handle of its future too (log entry 30, DEDUCED). -/
def State.shareHandle (s : State) (team fid n : Nat) (gs : List Nat) : State :=
  match s.futureOf team fid with
  | none => s
  | some f => gs.foldl (fun (s : State) g => match Tab.get? s.groups g with
    | some g => s.putHandle g n (f.word fid)
    | none => s) s

/-- R364, R366: the keys or values that an operation reads: those that some row does not mask. -/
def attWant (t : Team) (o : TileOp) (j : Nat) : Bool :=
  match o.instr with
  | .atts _ m causal _ _ _ _ _ w => (List.range 32).any fun i => !masked causal w.toNat m.nk.toNat (o.c % 2 ^ 32) (o.c / 2 ^ 32) i j
  | .attv _ m aset tp _ _ => (List.range 32).any fun i => !bitOf (t.maskRow aset.toNat tp.toNat (o.c / 2 ^ 32) m.nk.toNat i) j
  | _ => false

/-- R312, R367: the range that an operation of either form reads, from the lowest to the highest byte of its keys or values; one of the
tile store enters the lock table. That of the KV form is where its table puts the records at issue; where the lookup meets a
fault, there is none yet (log entry 64, DEDUCED). -/
def State.attRanges (s : State) (e : Env) (o : TileOp) (nh : Nat) (v : Bool) : List OpRange :=
  let kpos := o.c / 2 ^ 32
  let js := (List.range 32).filter (attWant e.t o)
  if o.amap.isEmpty then
    match s.kvLookup e.t.core e.gr.ctx e.t.uid e.gr.version 8 o.b kpos v, s.seqRead e.t.core e.gr.ctx e.t.uid e.gr.version 8 o.b, js.head?, js.getLast? with
    | ((a, .ok), _), ((d, .ok), _), some j0, some j1 =>
      [{ space := spcNum .g, low := a + j0 * d.rstr, high := a + j1 * d.rstr + 64 * nh, dest := false, enters := false }]
    | _, _, _, _ => []
  else match amapOf o.amap with
    | some m => match m.foot (js.map fun j => [0, Int.ofNat (kpos + j), 0, 0]) (32 * nh) with
      | some z => [{ space := spcNum m.spc, low := z.1, high := z.2, dest := false, enters := m.tile }]
      | none => []
    | none => []

/-- R350, R365 to R367: an attention operation starts for its members. -/
def startAtt (i : Instr) (m : AttMod) (src : KvSrc) (c : Opnd) (rd wr need : List TReg) (marks : List Nat)
    (pre : Env → Nat → Bool) : Body := fun s e act =>
  let kposOf := fun (e : Env) => e.w64 (lowLane act) c / 2 ^ 32
  match attSource e src (kposOf e) with
  | .error code => { s, raises := e.raiseAll act code }
  | .ok _ =>
    if match m.hd with | some n => e.createWaits n.toNat | none => false then { s, waits := act }
    else match s.drain e.g.uid with
      | (s, false) => { s, waits := act }
      | (s, true) =>
        gangOp i (fun (s : State) (e : Env) (who : List (Nat × Nat)) =>
          let act := ((who.find? fun x => x.1 == e.g.uid).map (·.2)).getD act
          let l := lowLane act
          let pos := e.w64 l c
          match attSource e src (pos / 2 ^ 32) with
          | .error code => .trap s code none
          | .ok bs =>
            gangGate s e act rd wr [] (need.map (·.2)) fun s e =>
              if !pre e (pos / 2 ^ 32) then .trap s .illegalEnc none
              else
                let desc := match src with | .desc a => e.w64 l a | .map _ => 0
                let o : TileOp := { instr := i, who, fid := m.hd.map fun _ => 0, amap := bs, amap2 := [], b := desc, c := pos, src := [], gone := [],
                                    limit := e.t.tileBytes, row := 0, paused := false, faulted := false }
                let ranges := s.attRanges e o (m.nh.toNat + 1) (match i with | .attv .. => true | _ => false)
                if (s.core e.t.core).lockWaits e.gr.ctx e.t.uid ranges then .waits s
                else
                  let (op, s) := s.fresh
                  let (fid, s) := match m.hd with
                    | some n =>
                      let r := s.newFuture e n.toNat 3 0
                      (some r.1, r.2.shareHandle e.t.uid r.1 n.toNat (List.filter (fun (g : Nat) => g != e.g.uid) (List.map (fun (x : Nat × Nat) => x.1) who)))
                    | none => (none, s)
                  let s := s.enterLocks e.t.core e.gr.ctx e.t.uid op ranges
                  let s := s.updTeam e.t.uid fun t => t.startOp op { o with fid } wr marks
                  if m.hd.isSome then .done s
                  else .held (List.foldl (fun (s : State) (x : Nat × Nat) => s.hold x.1 x.2 (.engine op)) s who)) s e act

def execAtts (h : Hdr) (m : AttMod) (causal : Bool) (aset : BitVec 4) (tq : BitVec 3) (src : KvSrc) (c : Opnd) (tp : BitVec 3)
    (window : BitVec 20) (s : State) : Host.Outcome State Fault Refusal :=
  issue (.atts h m causal aset tq src c tp window) .lower (fun s e act =>
    let nh := m.nh.toNat + 1
    let a := aset.toNat
    if e.tileBound ((List.range nh).map (tq.toNat + ·) ++ [tp.toNat]) (setRegs a nh) then { s, raises := e.raiseAll act .regBound }
    else startAtt (.atts h m causal aset tq src c tp window) m src c (tRegs tq.toNat nh ++ [(false, a)]) [(false, a), (true, tp.toNat)]
      [(false, a)] (setRegs a nh) (fun _ _ => true) s e act) s

def execAttv (h : Hdr) (m : AttMod) (aset : BitVec 4) (tp : BitVec 3) (src : KvSrc) (c : Opnd) (s : State) : Host.Outcome State Fault Refusal :=
  issue (.attv h m aset tp src c) .lower (fun s e act =>
    let rs := setRegs aset.toNat (m.nh.toNat + 1)
    if e.tileBound [tp.toNat] rs then { s, raises := e.raiseAll act .regBound }
    else startAtt (.attv h m aset tp src c) m src c ((true, tp.toNat) :: aRegs rs) (aRegs rs) (aRegs rs) []
      (fun e kpos =>
        let st := e.t.accWords [aset.toNat]
        st.getD 16 0 != 0 && (st.getD 17 0).toNat == kpos && (st.getD 18 0).toNat == m.nk.toNat) s e act) s

/-- R367: all keys or values of an operation's block are read. -/
def State.attFetch (s : State) (t : Team) (ctx ver : Nat) (o : TileOp) (nh : Nat) (v : Bool) : (List (List Nat) × EngEnd) × State :=
  let kpos := o.c / 2 ^ 32
  let js := List.range 32
  if o.amap.isEmpty then
    match s.kvLookup t.core ctx t.uid ver 8 o.b kpos v with
    | ((a, .ok), s1) =>
      match s1.seqRead t.core ctx t.uid ver 8 o.b with
      | ((d, .ok), s) => s.attRows t ctx ver o.limit none a d.rstr kpos (32 * nh) (attWant t o) js
      | ((_, x), s) => (([], x), s)
    | ((_, x), s) => (([], x), s)
  else s.attRows t ctx ver o.limit (amapOf o.amap) 0 0 kpos (32 * nh) (attWant t o) js

/-- The event ATTENTION_COMMIT: every key and value of the block is read and the results commit in one step. -/
def execAttentionCommit (team op : Nat) (s : State) : Host.Outcome State Fault Refusal :=
  match Tab.get? s.teams team with
  | none => .next s
  | some t =>
    match Tab.get? t.ops op with
    | none => .next s
    | some o =>
      if o.paused || !t.resident || s.ctxHalted (s.teamView team).1 then .next s
      else match s.presentAll (s.teamView team).1 ((o.reads ++ o.writes).map fun r => (t.uid, if r.1 then 5 else 4, r.2)) with
      | .bad c va x => .next (s.tileTrouble t (s.teamView team).1 op o (engBad c va x))
      | .wait s => .next s
      | .done s =>
        let t := (Tab.get? s.teams team).getD t
        let (ctx, ver) := s.teamView team
        let done := fun (s : State) (n : Nat) =>
          let s := match o.fid.bind fun f => s.futureOf team f, o.fid with
            | some f, some fid => s.setFuture team fid { f with wptr := n }
            | _, _ => s
          Host.Outcome.next (s.endTile team op 3 .pageProt 0)
        match o.instr with
        | .atts _ m causal aset tq _ _ tp w =>
          match s.attFetch t ctx ver o (m.nh.toNat + 1) false with
          | ((keys, .ok), s) =>
            let (st, p, fl) := attsWords t m causal aset.toNat tq.toNat w.toNat (o.c % 2 ^ 32) (o.c / 2 ^ 32) keys
            let s := s.updTeam team fun t =>
              let t := t.putAcc true o.fid [aset.toNat] st
              let rows := (List.range 32).map fun i => maskOf 32 fun j => masked causal w.toNat m.nk.toNat (o.c % 2 ^ 32) (o.c / 2 ^ 32) i j
              { t.unmask true tp.toNat with
                blockMask := Tab.set (t.unmask true tp.toNat).blockMask aset.toNat { kpos := o.c / 2 ^ 32, nk := m.nk.toNat, tp := tp.toNat, rows }, t := Tab.set t.t tp.toNat { inuse := true, dirty := true, data := tileData p, writer := o.fid } }
            done (s.enterFlags o.who fl) 2048
          | ((_, x), s) => .next (s.tileTrouble t ctx op o x)
        | .attv _ m aset tp _ _ =>
          match s.attFetch t ctx ver o (m.nh.toNat + 1) true with
          | ((vals, .ok), s) =>
            let (ws, fl) := attvWords t m aset.toNat tp.toNat vals
            let s := s.updTeam team fun t => t.putAcc true o.fid (setRegs aset.toNat (m.nh.toNat + 1)) ws
            done (s.enterFlags o.who fl) (4096 * (m.nh.toNat + 1))
          | ((_, x), s) => .next (s.tileTrouble t ctx op o x)
        | _ => .next s

/-! ### Merging, finishing, resetting (R368 to R370) -/

/-- R368: the new words of destination row `d` from source row `i`. -/
def mergeRowWords (nh : Nat) (dst src : List Word) (i d : Nat) : List (Nat × Nat) × Nat :=
  let da := fun k => dst.getD (32 * d + k) 0
  let sa := fun k => src.getD (32 * i + k) 0
  let os := (List.range (32 * nh)).map fun c => (1024 * (1 + c / 32) + c % 32)
  let nb := (32 * d + 4, (da 4).toNat + (sa 4).toNat)
  if (sa 0).toNat == negInf then ([nb], 0)
  else if (da 0).toNat == negInf then
    (nb :: (List.range 4).map (fun k => (32 * d + k, (sa k).toNat)) ++ os.map fun k => (k + 32 * d, (src.getD (k + 32 * i) 0).toNat), 0)
  else
    let rn := max (da 1).toInt (sa 1).toInt
    let fd := (da 1).toInt - rn
    let fs := (sa 1).toInt - rn
    let both := fun (x y : Word) => put32 (Fp.add false ((val32 x).scale fd) ((val32 y).scale fs))
    let o := os.map fun k => (k + 32 * d, both (dst.getD (k + 32 * d) 0) (src.getD (k + 32 * i) 0))
    let a := put32 ((val32 (da 2)).scale fd, sigFlag (val32 (da 2)))
    let b := put32 ((val32 (sa 2)).scale fs, sigFlag (val32 (sa 2)))
    let (h, e, f1) := twoSum (fp32.value a.1) (fp32.value b.1)
    let l := both (da 3) (sa 3)
    let l' := put32 (Fp.add false (fp32.value l.1) e)
    let (hi, lo, f2) := twoSum (fp32.value h) (fp32.value l'.1)
    let mx := fp32.minMax true (da 0).toNat (sa 0).toNat
    (nb :: (32 * d, mx.1) :: (32 * d + 1, wrapZ 32 rn) :: (32 * d + 2, hi) :: (32 * d + 3, (put32 (lo, 0)).1) :: o.map fun x => (x.1, x.2.1),
     o.foldl (fun f x => orN f x.2.2) (orN (orN (orN a.2 b.2) (orN f1 f2)) (orN (orN l.2 l'.2) mx.2)))

def execAttmrg (h : Hdr) (nh : BitVec 2) (ad asrc : BitVec 4) (b : Opnd) (s : State) : Host.Outcome State Fault Refusal :=
  issue (.attmrg h nh ad asrc b) .lower (fun s e act =>
    let n := nh.toNat + 1
    let rd := setRegs ad.toNat n
    let rs := setRegs asrc.toNat n
    let x := e.w64 (lowLane act) b
    let sr := fld x 0 5
    let dr := fld x 8 5
    let nr := fld x 16 6
    if e.tileBound [] (rd ++ rs) then { s, raises := e.raiseAll act .regBound }
    else tileGate s e act (aRegs (rd ++ rs)) (aRegs rd) [] rd fun s e =>
      let dst := e.t.accWords rd
      let src := e.t.accWords rs
      if nr == 0 || decide (32 < nr) || decide (32 < sr + nr) || decide (32 < dr + nr) || x != sr + 2 ^ 8 * dr + 2 ^ 16 * nr
         || dst.getD 16 0 == 1 || src.getD 16 0 == 1 then { s, raises := e.raiseAll act .illegalEnc }
      else
        let rows := (List.range nr).map fun k => mergeRowWords n dst src (sr + k) (dr + k)
        { s := (s.putAcc e.t.uid true rd (setWords dst (rows.flatMap (·.1)))).tileFlags [(e.g.uid, act)] (rows.foldl (fun f r => orN f r.2) 0) }) s

/-- R369: one element of O over the denominator. -/
def attDiv (o l : Fp) : Nat × Nat :=
  match o, l with
  | _, .fin _ 0 _ => (0, 0)
  | .nan _, _ | _, .nan _ | .inf _, .inf _ => (fp32.nanCode, flagInv)
  | .inf a, .fin b _ _ => (fp32.infCode (a != b), 0)
  | .fin a _ _, .inf b => (fp32.signBit (a != b), 0)
  | .fin a m e, .fin b n k =>
    if m == 0 then (fp32.signBit (a != b), 0)
    else
      let sh := log2N n + 64
      fp32.round .rn 0 (a != b) (withSticky (m * 2 ^ sh / n) (m * 2 ^ sh % n != 0)) (e - k - sh - 1)

def execAttfin (h : Hdr) (nh : BitVec 2) (aset : BitVec 4) (s : State) : Host.Outcome State Fault Refusal :=
  issue (.attfin h nh aset) .lower (fun s e act =>
    let n := nh.toNat + 1
    let rs := setRegs aset.toNat n
    let os := (List.range n).map fun k => aset.toNat + 1 + k
    if e.tileBound [] rs then { s, raises := e.raiseAll act .regBound }
    else tileGate s e act (aRegs rs) (aRegs os) [] os fun s e =>
      let ws := e.t.accWords rs
      if ws.getD 16 0 == 1 then { s, raises := e.raiseAll act .illegalEnc }
      else
        let ls := (List.range 32).map fun i => (Fp.add false (val32 (ws.getD (32 * i + 2) 0)) (val32 (ws.getD (32 * i + 3) 0))).1
        let xs := (chunks 32 (32 * n) (ws.drop 1024)).zip ((List.range n).flatMap fun _ => ls)
        let ys := xs.flatMap fun (x : List Word × Fp) => x.1.map fun w => attDiv (val32 w) x.2
        { s := (s.putAcc e.t.uid true os (ys.map fun y => BitVec.ofNat 32 y.1)).tileFlags [(e.g.uid, act)] (ys.foldl (fun f y => orN f y.2) 0) }) s

def execArset (h : Hdr) (nh : BitVec 2) (aset : BitVec 4) (s : State) : Host.Outcome State Fault Refusal :=
  issue (.arset h nh aset) .lower (fun s e act =>
    let n := nh.toNat + 1
    let rs := setRegs aset.toNat n
    if e.tileBound [] rs then { s, raises := e.raiseAll act .regBound }
    else tileGate s e act [] (aRegs rs) rs rs fun s e =>
      let st := (List.range 32).flatMap fun _ => BitVec.ofNat 32 negInf :: List.replicate 31 (0 : Word)
      { s := (s.putAcc e.t.uid true [aset.toNat] st).putAcc e.t.uid false (rs.drop 1) [] }) s

end Sys2Proof.Machine
end

