-- ==== Sys2Proof/Machine/Barrier.lean ====
section
/-! DEFINITION. The meanings of the barrier instructions (spec/09_barrier.md R171 to R183). -/

namespace Sys2Proof.Machine

/-- The items of a team that have not exited: those of its spans and of the lanes of its groups. -/
def State.teamItems (s : State) (team : Nat) : Nat :=
  sumN ((s.spans.filter fun p => p.2.team == some team).map fun p => p.2.size)
  + sumN ((s.groups.filter fun g => g.2.team == team && (Tab.get? s.spans g.1).isNone).map fun g => popN 64 g.2.liveMask)

/-- R173, R174: one arrival at a barrier of a team. -/
def State.arrive (s : State) (team b n : Nat) : State :=
  (s.updTeam team fun t => let x := t.bar b
                           t.setBar b { x with arrived := x.arrived + n }).barCheck team b
def State.barOf (s : State) (team b : Nat) : Barrier :=
  match Tab.get? s.teams team with
  | some t => t.bar b
  | none => { expect := 0, mode := 0, teamdone := false, arrived := 0, phase := 0 }

/-- The group's accesses are performed at the barrier's scope first, as the arrival is a release (R179). -/
def released (s : State) (e : Env) (act : Nat) (scope : Scope) (f : State → Out) : Out :=
  match s.release e.g.uid scope with
  | (s, true) => f s
  | (s, false) => { s, waits := act }

/-- R173, R183: each active lane arrives in turn and waits for the phase it arrived in. -/
def arriveWait (s : State) (e : Env) (b act : Nat) (scope : Scope) : Out :=
  released s e act scope fun s => forLanes s act fun s l =>
    let p := (s.barOf e.t.uid b).phase
    ((s.hold e.g.uid (2 ^ l) (.bar b p)).arrive e.t.uid b 1, .stay)

/-- R176: the parts of `n` items that arrive at a phase with `left` still missing of `expect`: how many, and how many
phases on; `fuel` bounds the parts. -/
def barParts (left expect n k : Nat) : Nat → List (Nat × Nat)
  | 0 => []
  | fuel + 1 => if n ≤ left then [(n, k)] else (left, k) :: barParts expect expect (n - left) (k + 1) fuel

/-- R176: the sub-spans of a span that arrive in different phases, with their phases. -/
def cutParts (sp : Span) (phase : Nat) (first : Nat) : List (Nat × Nat) → List (Span × Nat)
  | [] => []
  | (n, k) :: rest => ({ sp with first, last := first + n - 1 }, (phase + k) % 32768) :: cutParts sp phase (first + n) rest

/-- R139: room for `n` more spans beside one. -/
def State.spanRooms (s : State) (sp : Span) (n : Nat) : Bool :=
  decide ((s.spans.filter fun x => x.2.team.isSome && s.spanCore x.2 == s.spanCore sp).length + n ≤ 64)

/-- R173, R176: a span arrives at a TEAM or COUNT barrier: `f` says what each sub-span does with its token. -/
def State.spanArrive (s : State) (sp : Span) (b : Nat) (f : Span → Nat → Span) : Option State :=
  match sp.team with
  | none => none
  | some team =>
    let x := s.barOf team b
    let parts := barParts (x.expect - x.arrived) x.expect sp.size 0 (sp.size + 1)
    if x.expect == 0 || !s.spanRooms sp (parts.length - 1) then none
    else
      let done := sumN (parts.map (·.1)) + x.arrived
      let s := (cutParts sp x.phase sp.first parts).foldl (fun s p =>
        if p.1.first == sp.first then s.setSpan (f p.1 p.2)
        else let (n, s) := s.fresh
             (s.shareFlags sp.uid n).setSpan (f { p.1 with uid := n } p.2)) s
      let s := s.updTeam team fun t => t.setBar b { x with arrived := done % x.expect, phase := (x.phase + done / x.expect) % 32768 }
      some (if x.expect ≤ done then s.barRelease team b else s)

def execBar (h : Hdr) (b : BitVec 4) (s : State) : Host.Outcome State Fault Refusal :=
  let bn := b.toNat
  issue (.bar h b)
    (.own true fun s sp _ =>
      if decide (2 ≤ (s.barOf (sp.team.getD 0) bn).mode) then none
      else s.spanArrive sp bn fun x p => { x with block := .bar bn p })
    (fun s e act =>
      if 2 ≤ (e.t.bar bn).mode then { s, raises := e.raiseAll act .barrierError } else arriveWait s e bn act .team) s

/-- Lanes arrive one after another, each with its token. -/
def State.arriveTokens (s : State) (team b : Nat) : List Nat → State × List (Nat × Nat)
  | [] => (s, [])
  | l :: ls =>
    let p := (s.barOf team b).phase
    let r := (s.arrive team b 1).arriveTokens team b ls
    (r.1, (l, p) :: r.2)

def execBara (h : Hdr) (d : Opnd) (b : BitVec 4) (s : State) : Host.Outcome State Fault Refusal :=
  let bn := b.toNat
  issue (.bara h d b)
    (.own true fun s sp next =>
      if (s.barOf (sp.team.getD 0) bn).mode != 1 then none
      else s.spanArrive sp bn fun x p =>
        let x := { x with pc := next, block := .free }
        match d with
        | .s n => { x with s := Tab.set x.s n.toNat (BitVec.ofNat 64 p)
                           stamps := Tab.set x.stamps (stampS n.toNat) (s.core (s.spanCore sp)).epoch }
        | _ => match Opnd.vreg? d with
          | some r => x.setForm r (Form.u (BitVec.ofNat 32 p))
          | none => x)
    (fun s e act =>
      if (e.t.bar bn).mode != 1 then { s, raises := e.raiseAll act .barrierError }
      else released s e act .team fun s =>
        let (s, toks) := s.arriveTokens e.t.uid bn (lanesOf act)
        { s := s.result e.g.uid h act .var (resOf d 1 (lowLane act) fun l => ((toks.find? fun x => x.1 == l).map (·.2)).getD 0) 0 }) s

def execBarw (h : Hdr) (b : BitVec 4) (a : Opnd) (s : State) : Host.Outcome State Fault Refusal :=
  let bn := b.toNat
  issue (.barw h b a)
    (.own true fun s sp next =>
      match sp.team, Tab.get? s.grids sp.grid with
      | some team, some gr =>
        let x := s.barOf team bn
        match s.opForm gr sp a with
        | some f =>
          if !f.isU || decide (2 ≤ x.mode) then none
          else
            let p := f.base.toNat % 32768
            if phasePast x.phase p then some ((s.setSpan { sp with pc := next }).acquire (s.spanCore sp) .team)
            else some (s.setSpan { sp with block := .bar bn p })
        | none => none
      | _, _ => none)
    (fun s e act =>
      let x := e.t.bar bn
      if 2 ≤ x.mode then { s, raises := e.raiseAll act .barrierError }
      else
        let on := laneMask fun l => inMask act l && phasePast x.phase (e.w32 l a % 32768)
        let off := maskDiff act on
        let s := if on == 0 then s else s.acquire e.t.core .team
        { s := s.updGroup e.g.uid fun g => g.updLanes off fun l y => { y with block := .bar bn (e.w32 l a % 32768) }, stays := off }) s

def execBarinit (h : Hdr) (b : BitVec 4) (a : Opnd) (s : State) : Host.Outcome State Fault Refusal :=
  let bn := b.toNat
  issue (.barinit h b a) (.once true) (fun s e act =>
    let x := e.t.bar bn
    let c := e.w32 (lowLane act) a
    if x.arrived != 0 || decide (2048 < c) || decide (2 ≤ x.mode) then { s, raises := e.raiseAll act .barrierError }
    else
      let y := if c == 0 then { x with mode := 0, expect := s.teamItems e.t.uid } else { x with mode := 1, expect := c }
      { s := s.updTeam e.t.uid fun t => t.setBar bn y }) s

/-- R177, R180: CBAR or GBAR may be used now: not in COUNT mode, and not with an arrival in TEAM mode. -/
def wideOk (x : Barrier) : Bool := decide (2 ≤ x.mode) || (x.mode == 0 && x.arrived == 0)
/-- R177: the first use turns the barrier's mode. -/
def State.turnWide (s : State) (team b mode : Nat) : State :=
  s.updTeam team fun t => t.setBar b { t.bar b with mode }

/-- R177, R179: a span arrives for all its items, what its core's L1 alone has performed at its home first, and waits. -/
def State.spanWide (s : State) (sp : Span) (b mode : Nat) : Option State :=
  match sp.team with
  | none => none
  | some team =>
    let x := s.barOf team b
    if !wideOk x then none
    else match s.drain sp.uid with
      | (s, false) => some (s.updSpan sp.uid fun y => { y with block := .retry })
      | (s, true) => some (((s.turnWide team b mode).setSpan { sp with block := .bar b x.phase }).arrive team b sp.size)

def execCbar (h : Hdr) (s : State) : Host.Outcome State Fault Refusal :=
  issue (.cbar h) (.own true fun s sp _ => s.spanWide sp 15 2)
    (fun s e act =>
      if wideOk (e.t.bar 15) then arriveWait (s.turnWide e.t.uid 15 2) e 15 act .cluster
      else { s, raises := e.raiseAll act .barrierError }) s

/-- R178: more teams than can be resident at once. -/
def Grid.tooWide (gr : Grid) : Bool := decide (gr.coresident < gr.nteams)
def execGbar (h : Hdr) (s : State) : Host.Outcome State Fault Refusal :=
  issue (.gbar h)
    (.own true fun s sp _ =>
      match Tab.get? s.grids sp.grid with
      | some gr => if gr.tooWide then none else (s.updGrid gr.uid fun g => { g with gbarwait := true }).spanWide sp 14 3
      | none => none)
    (fun s e act =>
      if wideOk (e.t.bar 14) && !e.gr.tooWide then
        arriveWait ((s.updGrid e.gr.uid fun g => { g with gbarwait := true }).turnWide e.t.uid 14 3) e 14 act .device
      else { s, raises := e.raiseAll act .barrierError }) s

/-! ### Deadlock (R180) -/

/-- A lane or span that waits at BAR or BARW; and at BAR, BARW, JOIN or GSYNC. -/
def atBar (t : Team) (b : Block) : Bool := match b with | .bar n _ => decide ((t.bar n).mode < 2) | _ => false
def atSync (t : Team) (b : Block) : Bool := match b with | .join _ false => true | .gsync => true | b => atBar t b

/-- R180: when every item of a team that has not exited is blocked and none of them can be released, every lane at BAR or
BARW has that trap due, which it raises as a failure at its PC, in its turn where lanes of a group wait at several, and when VALID
clears where it is outside the handler (R108), whatever the barrier does meanwhile. Joins have been evaluated before; one at which
everything has arrived can release, as soon as its spans can lower, and so the spans at barriers lower before the trap is due. -/
def State.deadlock (s : State) (team : Nat) : State :=
  match Tab.get? s.teams team with
  | none => s
  | some t =>
    let gs := s.groups.filter fun g => g.2.team == team
    let ps := s.spans.filter fun p => p.2.team == some team
    let stuck := (gs.all fun g => g.2.lanes.all fun x => !x.live || atSync t x.block) && ps.all fun p => atSync t p.2.block
    let some_ := (gs.any fun g => g.2.lanes.any fun x => x.live && atBar t x.block) || ps.any fun p => atBar t p.2.block
    let joins := match Tab.get? s.grids t.grid with
      | some gr => ps.any fun p => match p.2.block with | .join j _ => (s.arrivals gr p.2 j).complete | _ => false
      | none => false
    if !stuck || !some_ || joins then s
    else
      let bars := ps.filter fun p => atBar t p.2.block
      match s.allReady (bars.map (·.2)) with
      | (false, s) => s
      | (true, s) =>
      let s := bars.foldl (fun s p => s.lowerWaiting p.2) s
      (s.groups.filter fun g => g.2.team == team).foldl (fun s g =>
        let all := laneMask fun l => (g.2.lane l).live && atBar t (g.2.lane l).block
        s.updGroup g.1 fun x => x.updLanes all fun _ y =>
          { y.fails 0 .barrierError y.pc.toNat with block := if x.trapValid && !y.handler then .trapWait else .free }) s

end Sys2Proof.Machine
end

