-- ==== Sys2Proof/Machine/Launch.lean ====
section
/-! DEFINITION. Queues and launches (spec/06_queue.md R115 to R128), grids and teams (spec/07_kernel.md R129 to R135): the
meanings of LAUNCH, ENQ and QSTAT and of the steps that Orrery takes. -/

namespace Sys2Proof.Machine

/-! ### Records and kernel headers (R118, R119, R129, R130) -/

/-- A field of some bytes. -/
def bytesAt (bs : List Byte) (off n : Nat) : Nat := leNat ((bs.drop off).take n)

/-- R129, R130: a kernel header; `none` is a record error. -/
def Kernel.parse (bs : List Byte) : Option Kernel :=
  let f := bytesAt bs
  let k : Kernel := {
    code := f 0 8, handler := f 8 8, vregs := f 0x10 2, sregs := f 0x12 2, divdepth := f 0x14 1, tiles := f 0x15 1, acc := f 0x16 1,
    span := bitOf (f 0x17 1) 0, prog := bitOf (f 0x17 1) 1, shared := f 0x18 4, fairt := f 0x1C 2, tx := f 0x20 2, ty := f 0x22 2,
    tz := f 0x24 2, clx := f 0x26 1, cly := f 0x27 1, codelen := f 0x28 4 }
  let bad := k.code % 32 != 0 || decide (2 ^ 49 ≤ k.code) || k.handler % 4 != 0 || decide (2 ^ 49 ≤ k.handler)
    || k.vregs == 0 || decide (640 < k.vregs) || k.sregs == 0 || decide (256 < k.sregs) || decide (64 < k.divdepth)
    || decide (8 < k.tiles) || decide (16 < k.acc) || decide (4 ≤ f 0x17 1) || k.shared % 128 != 0 || decide (262144 < k.shared)
    || decide (k.fairt < 64) || f 0x1E 2 != 0 || k.tsize == 0 || decide (2048 < k.tsize) || k.csize == 0 || decide (12 < k.csize)
    || f 0x2C 8 != 0 || f 0x34 8 != 0 || f 0x3C 4 != 0
    || decide (640 < k.vallot) || decide (2560 < k.ngroups * k.vallot)
  if bad then none else some k

/-- R118, R119: a launch record, but for its header and arguments; `none` is a record error. Bits [62:52] of a DEP entry are checked
where its valid bit is 1 alone: the spec does not say whether an entry that is not valid has a layout to break (log entry 65,
DESIGN CHOICE). -/
def Record.parse (bs : List Byte) : Option Record :=
  let f := bytesAt bs
  let r : Record := {
    kind := f 0 1, flags := f 1 1, argn := f 2 1, header := f 8 8, gx := f 0x10 4, gy := f 0x14 4, gz := f 0x18 4, argva := f 0x20 8,
    dep0 := BitVec.ofNat 64 (f 0x28 8), dep1 := BitVec.ofNat 64 (f 0x30 8), vdep := f 0x38 2, vreq := f 0x3A 1, kernel := none, args := [],
    pos := 0, version := 0, started := false, ready := false, go := false, posted := false, grid := none, code := 0, startUs := 0, ranUs := 0,
    timed := false }
  let dep := fun (d : DWord) => bitOf d.toNat 63 && fld d.toNat 52 11 != 0
  let zero := f 3 5 != 0 || f 0x1C 4 != 0 || f 0x3B 5 != 0 || decide (16 ≤ r.flags) || decide (2 ≤ r.vreq) || dep r.dep0 || dep r.dep1
  let grid := r.header % 64 != 0 || decide (2 ^ 49 ≤ r.header) || r.argva % 8 != 0 || decide (2 ^ 49 ≤ r.argva)
    || r.gx * r.gy * r.gz == 0 || decide (2 ^ 31 < r.gx * r.gy * r.gz) || decide (64 < r.argn)
  if zero || !(r.kind == 1 || r.kind == 2) || (r.kind == 1 && grid) then none else some r

/-- R119: a dependence names a queue of the context. -/
def State.depQueue (s : State) (ctx : Nat) (d : DWord) : Bool :=
  !bitOf d.toNat 63 || match Tab.get? s.queues (fld d.toNat 40 12) with
    | some q => q.desc.ctx.toNat == ctx
    | none => false

/-- What the taking of a record gives. -/
inductive Taken where
  | ok (r : Record)
  | bad (flags : Nat)
  | wait
  deriving DecidableEq, Repr

/-- Bytes that Orrery reads for a context in a version's view: `none` where it must wait. It takes bytes of a poisoned sector as they
stand: R119 names no such record error (log entry 87, DESIGN CHOICE). -/
def State.orreryRead (s : State) (home ctx ver va n : Nat) : Option (Option (List Byte)) × State :=
  match s.partReady home ctx va n false with
  | (.ok, s) => match s.partViewHeld ctx ver va n with
    | some loc => (none, s.recallAt loc 8)
    | none => (some (s.partLoad ctx ver va n), s)
  | (.bad _, s) => (some none, s)
  | (_, s) => (none, s)

/-- R118, R119: take and check the record at an address, with its header and arguments. -/
def State.takeRecord (s : State) (home ctx ver va : Nat) : Taken × State :=
  match s.orreryRead home ctx ver va 64 with
  | (none, s) => (.wait, s)
  | (some none, s) => (.bad 0, s)
  | (some (some bs), s) =>
    match Record.parse bs with
    | none => (.bad (bytesAt bs 1 1), s)
    | some r =>
      if !s.depQueue ctx r.dep0 || !s.depQueue ctx r.dep1 then (.bad r.flags, s)
      else if r.kind == 2 then (.ok r, s)
      else match s.orreryRead home ctx ver r.header 64 with
        | (none, s) => (.wait, s)
        | (some none, s) => (.bad r.flags, s)
        | (some (some hb), s) =>
          match Kernel.parse hb with
          | none => (.bad r.flags, s)
          | some k =>
            if k.slim < r.argn then (.bad r.flags, s)
            else match s.orreryRead home ctx ver r.argva (8 * r.argn) with
              | (none, s) => (.wait, s)
              | (some none, s) => (.bad r.flags, s)
              | (some (some ab), s) =>
                (.ok { r with kernel := some k, args := (List.range r.argn).map fun i => BitVec.ofNat 64 (bytesAt ab (8 * i) 8) }, s)

/-! ### Buffers (R125) -/

/-- The queue of the grid that a lane's group or span runs in. -/
def State.writerQueue (s : State) : Writer → Option Nat
  | .lane uid _ _ =>
    let grid := match Tab.get? s.groups uid, Tab.get? s.spans uid with
      | some g, _ => some g.grid
      | none, some p => some p.grid
      | none, none => none
    grid.bind fun g => (Tab.get? s.grids g).map (·.queue)
  | _ => none
/-- Record buffers that a queue holds: its records, the children that count against it, and those that wait for their prediction to be
written (R381). -/
def State.held (s : State) (q : Nat) : Nat :=
  ((Tab.get? s.queues q).map (·.records.length)).getD 0
  + (s.children.filter fun c => c.2.queue == q && c.2.done.isNone).length
  + (s.versions.filter fun v => v.2.launching.any fun x => s.writerQueue x.1 == some q).length
/-- Whether a queue gets one more buffer. -/
def State.canBuffer (s : State) (q : Nat) : Bool :=
  match Tab.get? s.queues q with
  | none => false
  | some k =>
    let peers := s.queues.filter fun x => x.2.desc.home == k.desc.home
    let free := 8192 - sumN (peers.map fun x => s.held x.1)
    let owed := sumN ((peers.filter fun x => x.1 != q && x.2.state != .destroyed).map fun x => x.2.desc.qmin.toNat - s.held x.1)
    decide (s.held q < k.desc.qmin.toNat) || (decide (s.held q < k.desc.qcap.toNat) && decide (owed < free))

/-! ### Queue states (R116, R117, R122) -/

/-- R122: CPTR moves over the positions that have completed, up to a faulted one. -/
def Queue.advance (k : Queue) : Nat → Queue
  | 0 => k
  | n + 1 =>
    if (Tab.get? k.codes k.cptr).isSome && (match k.faultPos with | some p => decide (k.cptr < p) | none => true) then
      Queue.advance { k with cptr := k.cptr + 1 } n
    else k

/-- The code of a completed position. -/
def Queue.codeAt (k : Queue) (pos : Nat) : Nat := (Tab.get? k.codes pos).getD 0

/-- R431: the privileged register window is open: before it opens, nothing that the host writes there arrives. -/
def State.windowOpen (s : State) : Bool := s.manage.ready && s.port.up
/-- A request that comes through the window. -/
def State.windowed (s : State) (r : State) : Host.Outcome State Fault Refusal := .next (if s.windowOpen then r else s)

/-- A refused request leaves the state as it is; the window's status reads the refusal (R431). -/
def State.refuse (s : State) : State := { s with port := { s.port with status := 1 } }
def State.accept (s : State) : State := { s with port := { s.port with status := 0 } }

/-- Change a queue that is in one of some states, or refuse. -/
def State.queueRequest (s : State) (q : Nat) (on : QState → Bool) (f : Queue → Queue) : State :=
  match Tab.get? s.queues q with
  | some k => if on k.state then ((s.accept).updQueue q f).settle q else s.refuse
  | none => s.refuse

/-- R115, R125: the event QUEUE_DESCRIPTOR_WRITE. -/
def execQueueDescriptorWrite (d : QueueDesc) (s : State) : Host.Outcome State Fault Refusal :=
  s.windowed <|
    let mins := sumN ((s.queues.filter fun k => k.2.desc.home == d.home && k.2.state != .destroyed).map fun k => k.2.desc.qmin.toNat)
    let ctxOk := match Tab.get? s.contexts d.ctx.toNat with | some c => c.state != .destroyed | none => false
    -- a destroyed queue that still owes an entry keeps its number (log entry 65, DESIGN CHOICE)
    let live := match Tab.get? s.queues d.qnum.toNat with
      | some k => k.state != .destroyed || !k.records.isEmpty || !k.owing.isEmpty
      | none => false
    let bad := live || !ctxOk || (!d.feed && d.base.toNat % 64 != 0) || d.cbase.toNat % 32 != 0
      || decide (d.size.toNat < 4) || decide (20 < d.size.toNat) || d.cls == 3 || decide (d.qcap.toNat < d.qmin.toNat)
      || decide (8192 < d.qcap.toNat) || decide (8192 < mins + d.qmin.toNat)
    if bad then s.refuse
    else
      let q : Queue := { desc := d, state := .idle, left := .idle, draining := false, wptr := 0, rptr := 0, cptr := 0, records := [],
                         codes := [], faultAddr := 0, faultPos := none, owing := [], served := 0 }
      { s.accept with queues := Tab.set s.queues d.qnum.toNat q }

def execQueueEnable (queue : Nat) (s : State) : Host.Outcome State Fault Refusal :=
  s.windowed <|
    (s.queueRequest queue (· == .idle) fun k => { k with state := .armed })
def execQueueSuspend (queue : Nat) (s : State) : Host.Outcome State Fault Refusal :=
  s.windowed <|
    (s.queueRequest queue (fun st => st == .armed || st == .running || st == .blocked) fun k => { k with state := .suspended, left := k.state })
def execQueueResume (queue : Nat) (s : State) : Host.Outcome State Fault Refusal :=
  s.windowed <|
    (s.queueRequest queue (fun st => st == .suspended || st == .drained) fun k =>
      { k with state := if k.state == .suspended then k.left else .armed })
def execQueueDrain (queue : Nat) (s : State) : Host.Outcome State Fault Refusal :=
  s.windowed <|
    (s.queueRequest queue (fun st => st == .armed || st == .running || st == .blocked || st == .suspended) fun k => { k with draining := true })
/-- R117, R122: RPTR and CPTR move past the faulted position, past earlier ones that have not completed too: a dependence on such a
one is met, and as completed with code 0x00 while it has none (log entry 65, DESIGN CHOICE). -/
def execQueueReset (queue : Nat) (s : State) : Host.Outcome State Fault Refusal :=
  s.windowed <|
    (s.queueRequest queue (· == .faulted) fun k =>
      let p := (k.faultPos.getD k.cptr) + 1
      let k := { k with state := .armed, faultPos := none, rptr := max k.rptr p, wptr := max k.wptr p, cptr := max k.cptr p, faultAddr := 0 }
      k.advance (k.codes.length + 1))

/-- R116, R117: the event DOORBELL_WRITE. One for a queue that the host does not feed is refused (log entry 31, DEDUCED). -/
def execDoorbellWrite (queue wptr : Nat) (s : State) : Host.Outcome State Fault Refusal :=
  s.windowed <|
    match Tab.get? s.queues queue with
    | none => s.refuse
    | some k =>
      if k.state == .faulted || k.state == .destroyed then s
      else if k.desc.feed then s.refuse
      else if wptr < k.rptr || k.cptr + 2 ^ k.desc.size.toNat < wptr then
        (s.refuse.faultQueue queue k.rptr 0xF1 (completionBytes k.desc.ctx.toNat 0xF1 queue k.rptr 0 0) false)
      else ((s.accept.updQueue queue fun k => { k with wptr }).settle queue)

/-! ### Taking records (R119, R125) -/

/-- R117, R119, R125: a host-fed queue that runs takes its next record, when a buffer is free. SUSPENDED stops dispatch alone. In the
entry of a record error, which never ran, the version and the microseconds are 0 (log entry 90, DESIGN CHOICE). -/
def State.takeNext (s : State) (q : Nat) : State :=
  match Tab.get? s.queues q with
  | none => s
  | some k =>
    if k.desc.feed || k.draining || !(k.state == .running || k.state == .blocked || k.state == .suspended) || decide (k.wptr ≤ k.rptr) || !s.canBuffer q then s
    else
      match s.takeRecord (b2n k.desc.home) k.desc.ctx.toNat 0 (k.desc.base.toNat + 64 * (k.rptr % 2 ^ k.desc.size.toNat)) with
      | (.wait, s) => s
      | (.bad fl, s) => s.faultQueue q k.rptr 0xF1 (completionBytes k.desc.ctx.toNat 0xF1 q k.rptr 0 0) (bitOf fl 0)
      | (.ok r, s) => s.updQueue q fun k =>
          { k with records := Tab.set k.records k.rptr { r with pos := k.rptr }, rptr := k.rptr + 1 }

def execRecordTake (queue : Nat) (s : State) : Host.Outcome State Fault Refusal := .next (s.takeNext queue)

/-- R125: the event QUEUE_BUFFER_GRANT: a queue that waits for a buffer takes its record. Lanes that wait in ENQ, LAUNCH or
SPLNCH test again as they issue. -/
def execQueueBufferGrant (die : Nat) (s : State) : Host.Outcome State Fault Refusal :=
  match s.queues.find? fun k => b2n k.2.desc.home == die && !k.2.desc.feed && !k.2.draining
      && (k.2.state == .running || k.2.state == .blocked || k.2.state == .suspended) && decide (k.2.rptr < k.2.wptr) && s.canBuffer k.1 with
  | some k => .next (s.takeNext k.1)
  | none => .next s

/-! ### Starting grids (R131, R134, R178) -/

/-- R178: the teams of a kernel that fit on the part at once. -/
def Kernel.coresident (k : Kernel) (cores : Nat) : Nat :=
  let room := fun (cap use : Nat) => if use == 0 then 8 else cap / use
  let per := min (min 8 (room 32 k.ngroups)) (min (room 2560 (k.ngroups * k.vallot)) (min (room 262144 k.shared) (room 48 k.acc)))
  cores * per

/-- Cores that Orrery may use (R430). -/
def State.coreCount (s : State) : Nat := if s.manage.perigee then 128 else 256

/-- R134: a grid starts: as a span at grid level, or ready to dispatch its teams. -/
def State.startGrid (s : State) (r : Record) (k : Kernel) (ctx ver queue pos level : Nat) (parent tag : Option Nat) (home : Nat) :
    Nat × State :=
  let (uid, s) := s.fresh
  let gr : Grid := {
    uid, ctx, kernel := k, gx := r.gx, gy := r.gy, gz := r.gz, args := r.args, version := ver, queue, pos, level, parent, tag, home,
    next := 0, spanning := k.span, cut := !k.span, templates := [], coresident := k.coresident s.coreCount, gbarwait := false,
    stopped := false, code := 0 }
  let s := { s with grids := Tab.set s.grids uid gr }
  if !k.span then (uid, s)
  else
    -- R291: what the launch, the ENQ or the met dependences observe, the span's loads find.
    let s := s.acquire (orreryCore home) .device
    let (n, s) := s.fresh
    let sp : Span := {
      uid := n, grid := uid, team := none, first := 0, last := gr.nteams * k.tsize - 1, pc := BitVec.ofNat 49 k.code, v := [], o := [],
      z := [], p := [], s := argTab r.args, j := [], vlim := k.vallot - k.reserve, slim := k.slim, gctl := k.gctl, fpctl := 0,
      fpstat := 0, fmt := [], rowprog := 0, block := .free, readyAt := 0, stamps := [] }
    (uid, s.setSpan sp)

/-- R121: whether a dependence is met, and then whether it completed with code 0. One on a position of a DESTROYED queue that CPTR has not
passed is met as failed at once, also where the position has completed above CPTR or its entry is still owed (log entry 89, DESIGN
CHOICE). -/
def State.depMet (s : State) (d : DWord) : Option Bool :=
  if !bitOf d.toNat 63 then some true
  else
    match Tab.get? s.queues (fld d.toNat 40 12) with
    | none => some false
    | some q =>
      let pos := fld d.toNat 0 40
      if pos < q.cptr then some (q.codeAt pos == 0)
      else if q.state == .destroyed then some false
      else none
/-- R121, R378: whether VDEP is met, and then whether the version is DEAD. A version of another context is waited for as one of
the record's own is: the spec does not bound VDEP to the context (log entry 65, DESIGN CHOICE). One whose entry has been freed is met
(R378) as a COMMITTED one is, also where it was DEAD: nothing holds which it was (log entry 89, DESIGN CHOICE). -/
def State.vdepMet (s : State) (v : Nat) : Option Bool :=
  if v == 0 then some false
  else match Tab.get? s.versions v with
    | some x => if x.state == 2 then some false else if x.state == 4 then some true else none
    | none => match Tab.get? s.foreign v with
      | some f => if f.dead.isSome then some true else none
      | none => some false
/-- R121: the dependences of a record: not met, met (0), or a skip code. Where both skips apply, the code is 0xF0: the spec gives
no order (log entry 65, DESIGN CHOICE). -/
def State.deps (s : State) (r : Record) : Option Nat :=
  match s.depMet r.dep0, s.depMet r.dep1, s.vdepMet r.vdep with
  | some a, some b, some dead =>
    some (if bitOf r.flags 2 && !(a && b) then 0xF0 else if bitOf r.vreq 0 && dead then 0xF2 else 0)
  | _, _, _ => none

/-- R120: whether the record before a record lets it start: it has completed, or OVERLAP is 1 and its teams are dispatched. -/
def State.orderMet (s : State) (q : Nat) (k : Queue) (r : Record) : Bool :=
  match if r.pos == 0 then none else Tab.get? k.records (r.pos - 1) with
  | none => true
  | some p =>
    bitOf r.flags 3 && p.started &&
      (match p.grid.bind fun g => Tab.get? s.grids g with
       | some g => g.cut && decide (g.nteams ≤ g.next)
       | none => !(s.grids.any fun g => g.2.queue == q && g.2.pos == p.pos && g.2.tag.isNone))

/-- R126: a ready event; the spec gives its length alone, so its bytes are free. -/
def readyBytes (n : Nat) : List Byte := (List.range 32).map (Config.freeByte n)

/-- The event queue of a context has room (R468). -/
def State.evqRoom (s : State) (ctx : Nat) : Bool :=
  match Tab.get? s.contexts ctx with
  | some c => c.evqHeld.isEmpty && decide (c.ewptr - c.erptr < 2 ^ c.desc.evqsz.toNat)
  | none => false

/-- R120, R121, R124: the record of a position starts: with a skip code or as a marker it has nothing to run. -/
def State.startRecord (s : State) (q : Nat) (k : Queue) (r : Record) (code : Nat) : State :=
  let us := s.orreryUs.getD (b2n k.desc.home) 0
  match r.kernel, code with
  | some kn, 0 =>
    let (g, s) := s.startGrid r kn k.desc.ctx.toNat r.version q r.pos 0 none none (b2n k.desc.home)
    s.updQueue q fun k => { k with state := .running, records := Tab.upd k.records r.pos fun r =>
      { r with started := true, grid := some g, startUs := us, ranIn := r.version } }
  | _, c => s.updQueue q fun k => { k with state := .running, records := Tab.upd k.records r.pos fun r =>
      { r with started := true, code := c, startUs := us, ranIn := r.version } }

/-- A state in which Orrery starts the records of a context: it has not been halted, saved or destroyed, and no request to pre-empt it is
held (R98). -/
def State.ctxStarts (s : State) (ctx : Nat) : Bool :=
  match Tab.get? s.contexts ctx with
  | some c => (c.state == .ready && !c.heldPreempt) || c.state == .running
  | none => false

/-- R379, R390: a version that a squash removes, an alias of one among them: its records do not start. -/
def State.dying (s : State) (v : Nat) : Bool :=
  (s.squashes.any fun q => q.vers.contains v)
  || match Tab.get? s.versions v with
  | some x => x.state == 3 || x.state == 4
  | none => false

/-- R126, R432: the mode of FNMODE.QSCHED that holds for a record. -/
def State.schedOf (s : State) (r : Record) : Bool := r.qsched.getD (bitOf s.fnmode.toNat 1)
/-- The same for a grid: that of its record. -/
def State.gridSched (s : State) (g : Grid) : Bool :=
  match (Tab.get? s.queues g.queue).bind fun k => Tab.get? k.records g.pos with
  | some r => s.schedOf r
  | none => bitOf s.fnmode.toNat 1
/-- R432: before FNMODE changes, the records whose dependences are met keep the mode they met them in. -/
def State.keepModes (s : State) : State :=
  { s with queues := s.queues.map fun (q : Nat × Queue) => (q.1, { q.2 with records := q.2.records.map fun (r : Nat × Record) =>
      if r.2.qsched.isNone && (r.2.started || (s.deps r.2).isSome) then (r.1, { r.2 with qsched := some (bitOf s.fnmode.toNat 1) }) else r }) }

/-- R126: a ready event for the first record of a queue whose dependences are met and that has had none. -/
def State.postReady (s : State) (q : Nat) (k : Queue) : State :=
  match k.records.find? fun r => !r.2.started && !r.2.ready && s.schedOf r.2 && !s.dying r.2.version && (s.deps r.2).isSome with
  | none => s
  | some (pos, _) =>
    if s.evqRoom k.desc.ctx.toNat then
      let (n, s) := s.draw
      (s.updQueue q fun k => { k with records := Tab.upd k.records pos fun r => { r with ready := true } }).evqPost k.desc.ctx.toNat (readyBytes n)
    else s

/-- R117: the head of a queue waits on a dependence, or does not. -/
def State.blockQueue (s : State) (q : Nat) (on : Bool) : State :=
  s.updQueue q fun k => { k with state := if on then .blocked else .running }

/-- R120, R121, R126: the event RECORD_START: the head of a queue starts where its order and its dependences let it, with
QSCHED = 1 one that the host has dispatched alone. A queue that is draining starts none of the records it has taken (log entry 72,
DESIGN CHOICE), nor does one whose context is neither READY nor RUNNING; its head still moves it to BLOCKED and back. No ready event is
written for a queue that is SUSPENDED, FAULTED or draining (log entry 74, DESIGN CHOICE), or while the context is in neither of those
states (log entry 91, DESIGN CHOICE). -/
def execRecordStart (queue : Nat) (s : State) : Host.Outcome State Fault Refusal :=
  match Tab.get? s.queues queue with
  | none => .next s
  | some k =>
    if !(k.state == .running || k.state == .blocked) then .next s
    else
      let starts := !k.draining && s.ctxStarts k.desc.ctx.toNat
      let s := if starts then s.postReady queue k else s
      match k.head with
      | none => .next s
      | some r =>
        if !s.orderMet queue k r then .next (s.blockQueue queue false)
        else match s.deps r with
          | none => .next (s.blockQueue queue true)
          | some code =>
            if !starts || s.dying r.version || (s.schedOf r && !r.go) then .next (s.blockQueue queue false)
            else .next (s.startRecord queue k r code)

/-- R126: the event DISPATCH_REGISTER_WRITE: the host starts a record that a ready event has reported. Where R120 does not yet let
the record start, the write stands until it does (log entry 65, DESIGN CHOICE). -/
def execDispatchRegisterWrite (queue pos : Nat) (s : State) : Host.Outcome State Fault Refusal :=
  s.windowed <|
    match Tab.get? s.queues queue with
    | none => s.refuse
    | some k =>
      match Tab.get? k.records pos with
      | none => s.refuse
      | some r =>
        match s.deps r with
        | none => s.refuse
        | some code =>
          if r.started || !r.ready || s.dying r.version || k.draining || !(k.state == .running || k.state == .blocked) || !s.ctxStarts k.desc.ctx.toNat then s.refuse
          else if s.orderMet queue k r && k.head == some r then s.accept.startRecord queue k r code
          else s.accept.updQueue queue fun k => { k with records := Tab.upd k.records pos fun r => { r with go := true } }

/-! ### Dispatching teams (R126, R132, R133) -/

/-- Teams that are resident on a core, with their kernels. -/
def State.coreTeams (s : State) (core : Nat) : List (Team × Grid) :=
  s.teams.filterMap fun t =>
    if t.2.resident && t.2.core == core then (Tab.get? s.grids t.2.grid).map fun g => (t.2, g) else none

/-- R132, R33, R346: a core has room for one more team of a kernel. -/
def State.coreFits (s : State) (k : Kernel) (core : Nat) : Bool :=
  let ts := s.coreTeams core
  decide (ts.length < 8)
  && decide (sumN (ts.map fun t => t.2.kernel.ngroups) + k.ngroups ≤ 32)
  && decide (s.coreV core + k.ngroups * k.vallot ≤ 2560)
  && decide (sumN (ts.map fun t => t.2.kernel.shared) + k.shared ≤ 262144)
  && decide (sumN (ts.map fun t => t.2.kernel.acc) + k.acc ≤ 48)

/-- R133: the cores of the teams of a cluster, by rank, for a place of its rectangle; `turned` is the other orientation. -/
def Kernel.rectangle (k : Kernel) (die x y : Nat) (turned : Bool) (n : Nat) : List Nat :=
  (List.range n).map fun r =>
    let c := r % k.clx
    let w := r / k.clx
    128 * die + (if turned then 16 * (y + c) + (x + w) else 16 * (y + w) + (x + c))

/-- R133: every place at which the cores qualify for a cluster of `n` teams. -/
def State.placements (s : State) (k : Kernel) (n : Nat) : List (List Nat) :=
  let fits := (List.range s.coreCount).filter (s.coreFits k)
  (List.range (if s.manage.perigee then 1 else 2)).flatMap fun d =>
    [false, true].flatMap fun turned =>
      let w := if turned then k.cly else k.clx
      let h := if turned then k.clx else k.cly
      (List.range (8 + 1 - h)).flatMap fun y =>
        (List.range (16 + 1 - w)).filterMap fun x =>
          let cs := k.rectangle d x y turned n
          if cs.all fits.contains then some cs else none

/-- A grid has teams that wait for a core. -/
def Grid.waits (g : Grid) : Bool := g.cut && !g.stopped && decide (g.next < g.nteams)
/-- The teams of a grid's next cluster. -/
def Grid.cluster (g : Grid) : List Nat :=
  let c := g.next / g.kernel.csize * g.kernel.csize
  ((List.range (c + g.kernel.csize)).filter fun t => decide (g.next ≤ t) && decide (t < g.nteams))

/-- R138: the items of a team that a span at grid level still holds, or all of them. -/
def Grid.covers (g : Grid) (t : Nat) : List Span :=
  g.templates.filter fun p => decide (p.first < (t + 1) * g.kernel.tsize) && decide (t * g.kernel.tsize ≤ p.last)
def Grid.hasItems (g : Grid) (t : Nat) : Bool := !g.kernel.span || !(g.covers t).isEmpty

/-- R126: the cores of a context that hold teams of a class, when `more` are added for class `c`. -/
def State.classCores (s : State) (ctx : Nat) (cls : List Nat) (c : Nat) (more : List Nat) : Nat :=
  ((List.range 256).filter fun core =>
    (cls.contains c && more.contains core)
    || (s.coreTeams core).any fun t => t.2.ctx == ctx && cls.contains (((Tab.get? s.queues t.2.queue).map (·.desc.cls.toNat)).getD 0)).length
def State.gridClass (s : State) (g : Grid) : Nat := ((Tab.get? s.queues g.queue).map (·.desc.cls.toNat)).getD 0

/-- R126, rule 1: the draft cap for a dispatch of a grid at some cores. A grid whose items are still in spans at grid level has no teams
yet, and so no undispatched ones (log entry 91, DESIGN CHOICE). -/
def State.capAllows (s : State) (g : Grid) (cores : List Nat) : Bool :=
  if s.gridClass g != 1 || s.gridSched g || !(s.grids.any fun x => x.2.ctx == g.ctx && s.gridClass x.2 == 2 && x.2.waits) then true
  else match Tab.get? s.contexts g.ctx with
    | none => true
    | some c =>
      let n := s.classCores g.ctx [1, 2] 1 cores
      let nd := s.classCores g.ctx [1] 1 cores
      let dmin : Int := c.dmin.toNat
      let dmax : Int := c.dmax.toNat
      let d : Int := dmin * 65536 + (dmax - dmin) * (c.ahist.toNat : Int)
      decide ((nd : Int) * (256 * 65536) ≤ d * n)

/-- R256: the local slots that a context's next team may get. -/
def State.freeSlots (s : State) (ctx : Nat) : List Nat :=
  let used := (s.teams.filter fun t => t.2.ctx == ctx).map fun t => t.2.localSlot
  (List.range 2048).filter fun n => !used.contains n

/-- R117: a grid has teams that Orrery may dispatch, as soon as there is a place. -/
def State.mayDispatch (s : State) (g : Grid) : Bool :=
  g.waits && s.ctxStarts g.ctx
  && match Tab.get? s.queues g.queue with | some q => q.state != .suspended && q.state != .destroyed | none => true
/-- R178: while a team of a grid waits at GBAR and others of it can be dispatched, no team of another grid of the context goes. -/
def State.gbarHeld (s : State) (g : Grid) : Bool :=
  !g.gbarwait && s.grids.any fun x => x.2.ctx == g.ctx && x.2.gbarwait && s.mayDispatch x.2
/-- R126, R133, R178, R256: the places at which a grid's next cluster may be dispatched now. A grid of which a team waits at GBAR is
dispatched regardless of the draft cap. -/
def State.gridPlaces (s : State) (g : Grid) : List (List Nat) :=
  let ts := g.cluster.filter g.hasItems
  if !s.mayDispatch g || s.gbarHeld g || decide ((s.freeSlots g.ctx).length < ts.length) then []
  else if ts.isEmpty then [[]]
  else (s.placements g.kernel g.cluster.length).filter fun cs => g.gbarwait || s.capAllows g cs

/-- R126: whether one grid goes before another: by priority, then by turns. -/
def State.goesBefore (s : State) (a b : Grid) : Bool :=
  let q := fun (g : Grid) => Tab.get? s.queues g.queue
  let prio : Grid → Nat := fun g => if s.gridSched g then 0 else ((q g).map (·.desc.prio.toNat)).getD 0
  let turn : Grid → Nat := fun g => ((q g).map (·.served)).getD 0
  if prio a != prio b then decide (prio b < prio a)
  else if turn a != turn b then decide (turn a < turn b)
  else decide (a.uid < b.uid)

/-- R159: the count of spilled frames of a lane is 0 at launch: Orrery stores it where memory holds another and the page is there to
be written (log entry 66, DESIGN CHOICE). -/
def State.zeroCount (s : State) (g : Grid) (core slot gid l : Nat) : State :=
  let va := localVa slot gid l 0
  let w := s.walk g.ctx va
  if w.kind != .leaf || !eW w.entry || eST w.entry == 3 then s
  else
    let t := trOf w.bits w.entry va
    if (s.viewBytes g.version t 8).1 == zeros 8 then s
    else match (s.touchWalk w .store).room g.ctx g.version t with
      | some s => s.storeAt core g.version .l2 t (zeros 8)
      | none => s
def State.zeroCounts (s : State) (g : Grid) (core slot : Nat) : State :=
  (List.range g.kernel.ngroups).foldl (fun s gid =>
    (lanesOf (g.kernel.laneMask gid)).foldl (fun s l => s.zeroCount g core slot gid l) s) s
/-- R424: the first place that the host must give back before the counts of a team's lanes are cleared. -/
def State.countHeld (s : State) (g : Grid) (slot : Nat) : Option Nat :=
  if s.port.lines.isEmpty then none
  else (List.range g.kernel.ngroups).findSome? fun gid => (lanesOf (g.kernel.laneMask gid)).findSome? fun l =>
    let va := localVa slot gid l 0
    let w := s.walk g.ctx va
    match w.kind with
    | .held => some (physLoc 0 w.at_)
    | .leaf =>
      let t := trOf w.bits w.entry va
      if s.heldHalf t.loc 8 then some t.loc else t.ov.bind fun o => s.ovlHeld g.ctx o.1
    | _ => none
/-- R256: local slots for `n` teams of a context, each one that no other has. -/
def State.pickSlots (s : State) : Nat → List Nat → List Nat × State
  | 0, _ => ([], s)
  | n + 1, free =>
    let (k, s) := s.draw
    let slot := free.getD (Config.place k % free.length) 0
    let (rest, s) := s.pickSlots n (free.erase slot)
    (slot :: rest, s)

/-- R139: a team span comes to a core; one that its span unit has no room for lowers. -/
def State.placeSpan (s : State) (sp : Span) : State :=
  let fits := s.spanRoom sp
  let s := s.setSpan sp
  if fits then s else s.lower sp

/-- R32, R134, R138, R171: one team of a grid comes to a core, with a local slot. -/
def State.placeTeam (s : State) (g : Grid) (index core slot : Nat) : State :=
  let (uid, s) := s.fresh
  let k := g.kernel
  let covers := g.covers index
  let first := index * k.tsize
  let items := if k.span then sumN (covers.map fun p => min p.last (first + k.tsize - 1) + 1 - max p.first first) else k.tsize
  let t := Team.blank uid g.uid g.ctx index core slot k
  let s := s.setTeam { t with bars := t.bars.map fun b => { b with expect := items } }
  let s := (s.acquire core .device).zeroCounts g core slot
  let now := (s.core core).now
  if k.span then
    covers.foldl (fun s p =>
      let (n, s) := s.fresh
      s.placeSpan { p with uid := n, team := some uid, first := max p.first first, last := min p.last (first + k.tsize - 1), readyAt := now + 1 }) s
  else
    (List.range k.ngroups).foldl (fun s gid =>
      let (n, s) := s.fresh
      let x := Group.blank n uid g gid
      s.setGroup { x with lanes := mapFrom (fun l y =>
        if inMask (k.laneMask gid) l then { Lane.launch (BitVec.ofNat 49 k.code) 0 l with readyAt := now + 1 } else y) 0 x.lanes }) s

/-- R124: the record of a grid without a span starts when its first team is dispatched. -/
def State.firstTeam (s : State) (g : Grid) : State :=
  if g.kernel.span || g.next != 0 || g.tag.isSome then s
  else s.updQueue g.queue fun k => { k with records := Tab.upd k.records g.pos fun r =>
    { r with startUs := s.orreryUs.getD (b2n k.desc.home) 0, ranUs := 0 } }

/-- R126, R133: the event TEAM_DISPATCH: the next cluster of a grid goes to free cores, when no other grid goes first. It waits for
what the host must give back (R424). -/
def execTeamDispatch (grid : Nat) (s : State) : Host.Outcome State Fault Refusal :=
  match Tab.get? s.grids grid with
  | none => .next s
  | some g =>
    let ps := s.gridPlaces g
    if ps.isEmpty || (s.grids.any fun x => x.1 != grid && s.goesBefore x.2 g && !(s.gridPlaces x.2).isEmpty) then .next s
    else
      let (n, s) := s.draw
      let cores := ps.getD (Config.place n % ps.length) []
      let goes := (g.cluster.zip cores).filter fun x => g.hasItems x.1
      let (slots, s) := s.pickSlots goes.length (s.freeSlots g.ctx)
      match slots.findSome? (s.countHeld g) with
      | some loc => .next (s.recallAt loc 8)
      | none =>
      let s := s.firstTeam g
      let s := (goes.zip slots).foldl (fun s x => s.placeTeam g x.1.1 x.1.2 x.2) s
      let s := s.updGrid grid fun g => { g with next := g.next + g.cluster.length }
      -- R177: with the last team dispatched, or passed over, a grid barrier may be complete.
      let s := (s.teams.filter fun x => x.2.grid == grid).foldl (fun s x => s.wideCheck x.1 14) s
      let s := s.updQueue g.queue fun k => { k with served := n + 1 }
      let s := s.updCtx g.ctx fun c => if c.state == .ready && !cores.isEmpty then { c with state := .running } else c
      .next (s.gridEnd grid)

/-! ### Retirement and completion (R122, R135) -/

/-- Work of a team that still runs (R135). -/
def State.teamBusy (s : State) (t : Team) : Bool :=
  (s.groups.any fun g => g.2.team == t.uid) || (s.spans.any fun p => p.2.team == some t.uid) || !t.ops.isEmpty || !t.halted.isEmpty
  || s.cores.any fun c => (c.2.channels.any fun ch => ch.2.any fun o => o.team == t.uid) || c.2.fabric.any fun o => o.team == t.uid

/-- R98: the context whose last resident team has retired is READY. -/
def State.ctxIdle (s : State) (ctx : Nat) : State :=
  if s.teams.any fun t => t.2.ctx == ctx && t.2.resident then s
  else s.updCtx ctx fun c => if c.state == .running then { c with state := .ready } else c

/-- R135, R177: a team goes, with all that names it; its cluster and its grid look again. -/
def State.removeTeam (s : State) (t : Team) : State :=
  let gone := fun (a : Absent) => a.owner == t.uid && decide (2 ≤ a.kind)
  let s : State := { s with
    teams := Tab.del s.teams t.uid
    contexts := s.contexts.map fun (c : Nat × Context) => (c.1, { c.2 with absent := c.2.absent.filter fun a => !gone a })
    seals := s.seals.map fun (k : Seal) => { k with handles := k.handles.filter fun h => h.1 != t.uid } }
  let s := (s.teams.filter fun x => x.2.grid == t.grid).foldl (fun s x => (s.wideCheck x.1 15).wideCheck x.1 14) s
  s.gridEnd t.grid

/-- R135, R177, R179: the event TEAM_RETIRE. What the team's core has performed in its L1 alone is at its home first, since the exits of the
team's items count for its cluster and its grid. -/
def execTeamRetire (team : Nat) (s : State) : Host.Outcome State Fault Refusal :=
  match Tab.get? s.teams team with
  | none => .next s
  | some t =>
    if !t.resident || s.teamBusy t then .next s
    else
      let q := ((Tab.get? s.grids t.grid).map (·.queue)).getD 0
      match s.performAll (s.before fun _ x => x.inL1 && x.core == t.core) with
      | (s, false) => .next s
      | (s, true) => .next (((s.removeTeam t).ctxIdle t.ctx).settle q)

/-- R122: whether a record's grid, its children and their stores are done. -/
def State.recordDone (s : State) (q : Nat) (r : Record) : Bool :=
  r.started
  && !(s.grids.any fun g => g.2.queue == q && g.2.pos == r.pos)
  && !(s.children.any fun c => c.2.queue == q && c.2.pos == r.pos && c.2.done.isNone)
  && (match Tab.get? s.queues q, r.grid with
      | some k, some g => s.gridQuiet k.desc.ctx.toNat g
      | _, _ => true)

/-- R122: a record completes with a code: the entry, CPTR, the interrupt. It waits where the entry's page does. For a record that
never started by R124 the entry's microseconds count from the time its start was tried, of one that was cancelled before from 0
(log entry 73, DESIGN CHOICE). -/
def State.completeRecord (s : State) (q : Nat) (r : Record) (code : Nat) : State :=
  match Tab.get? s.queues q with
  | none => s
  | some k =>
    match s.partReady (b2n k.desc.home) k.desc.ctx.toNat (k.entryVa r.pos) 32 true with
    | (.ok, s) =>
      let us := s.orreryUs.getD (b2n k.desc.home) 0 - r.startUs
      let bs := completionBytes k.desc.ctx.toNat code q r.pos (if r.started then r.ranIn else r.version) us
      let s := (s.partStore k.desc.ctx.toNat (k.entryVa r.pos) bs).getD s
      let s := s.updQueue q fun k =>
        let k := { k with codes := Tab.set k.codes r.pos code, records := Tab.del k.records r.pos }
        k.advance (k.codes.length + 1)
      let s := if bitOf r.flags 0 then s.queueInterrupt q else s
      s.settle q
    | (.bad va, s) => s.updQueue q fun k =>
        { k with codes := Tab.set k.codes r.pos 0x100, records := Tab.del k.records r.pos, faultAddr := va, draining := false,
                 state := if k.state == .destroyed then .destroyed else .faulted,
                 faultPos := match k.faultPos with | some p => some (min p r.pos) | none => some r.pos }
    | (_, s) => s

/-- R127: a marker child whose dependences are met completes. -/
def State.markerDone (s : State) (q : Nat) : State :=
  { s with children := s.children.map fun (c : Nat × Child) =>
      match c.2.marker with
      | some r => if c.2.queue == q && c.2.done.isNone then
          (match s.deps r with | some code => (c.1, { c.2 with done := some code }) | none => c) else c
      | none => c }

/-- R122: the event RECORD_COMPLETE: an entry that waited is written, or the first record that is done completes. -/
def execRecordComplete (queue : Nat) (s : State) : Host.Outcome State Fault Refusal :=
  let s := (s.markerDone queue).childrenDone
  match Tab.get? s.queues queue with
  | none => .next s
  | some k =>
    match k.owing with
    | (pos, bs, irq) :: rest => .next ((s.updQueue queue fun k => { k with owing := rest }).writeEntry queue pos bs irq)
    | [] =>
      match k.records.find? fun r => s.recordDone queue r.2 with
      | none => .next s
      | some r =>
        if r.2.posted then .next ((s.updQueue queue fun k => { k with records := Tab.del k.records r.1 }).settle queue)
        else .next (s.completeRecord queue r.2 r.2.code)

/-! ### The time limit (R124) -/

/-- Where a time limit is raised: the lowest item of a record's grids that still runs: its team, group and lane, whether
others run beside it, its PC and core, and its group where it has one. -/
structure TimeItem where
  key : Nat
  team : Nat
  gid : Nat
  lane : Nat
  multi : Bool
  pc : Nat
  core : Nat
  group : Option Group
  deriving DecidableEq, Repr

/-- R106: the lowest item of a record's grids, in a group or in a span. A span at grid level stands on no core: the trap record names
core 0 of its grid's home die (log entry 86, DESIGN CHOICE). -/
def State.timeItem (s : State) (q pos : Nat) : TimeItem :=
  let ofRec := fun (gr : Grid) => gr.queue == q && gr.pos == pos
  let gs : List TimeItem := s.groups.filterMap fun g =>
    match Tab.get? s.grids g.2.grid, Tab.get? s.teams g.2.team with
    | some gr, some t =>
      if ofRec gr && g.2.liveMask != 0 then
        let l := lowLane g.2.liveMask
        some { key := t.index * gr.kernel.tsize + 64 * g.2.gid + l, team := t.index, gid := g.2.gid, lane := l,
               multi := decide (1 < (lanesOf g.2.liveMask).length), pc := (g.2.lane l).pc.toNat, core := t.core, group := some g.2 }
      else none
    | _, _ => none
  let ps : List TimeItem := s.spans.filterMap fun p =>
    match Tab.get? s.grids p.2.grid with
    | some gr =>
      if ofRec gr then
        let item := p.2.first
        let i := item % gr.kernel.tsize
        some { key := item, team := item / gr.kernel.tsize, gid := i / 64, lane := i % 64, multi := decide (p.2.first < p.2.last),
               pc := p.2.pc.toNat, core := if p.2.team.isSome then s.spanCore p.2 else 128 * gr.home, group := none }
      else none
    | none => none
  let zero : TimeItem := { key := 0, team := 0, gid := 0, lane := 0, multi := false, pc := 0, core := 0, group := none }
  match gs ++ ps with
  | [] => zero
  | x :: xs => xs.foldl (fun b y => if y.key < b.key then y else b) x

/-- R106, R109, R124: the event KTIMEOUT: a record whose time has reached the limit takes the trap, its grid and its children
end, its entry takes the trap record and its queue enters FAULTED, in either mode; in host-assisted mode the context is halted and
saved as well, and the trap record goes to EVQ too (R98, R109). -/
def execKtimeout (queue : Nat) (s : State) : Host.Outcome State Fault Refusal :=
  match Tab.get? s.queues queue with
  | none => .next s
  | some k =>
    let limit := k.desc.tlimit.toNat
    match k.records.find? fun r => r.2.started && !r.2.posted && !r.2.timed && limit != 0 && decide (limit ≤ r.2.ranUs) with
    | none => .next s
    | some (pos, r) =>
      let ctx := k.desc.ctx.toNat
      let x := s.timeItem queue pos
      match (match bitOf s.fnmode.toNat 2, x.group with
          | false, some g => s.recordReady (b2n k.desc.home) ctx g.uid [g.recordSize]
          | _, _ => s.trapReady (b2n k.desc.home) ctx []) with
      | (false, s) => .next s
      | (true, s) =>
      let s := s.updQueue queue fun k => { k with records := Tab.upd k.records pos fun r => { r with timed := true } }
      -- R50, R106: the group's registers hold the trap.
      let s := match x.group with
        | some g => s.updGroup g.uid fun g => g.setTrap .ktimeout x.lane x.multi g.trapValid x.pc
        | none => s
      let info : TrapInfo := {
        ctx, code := TrapCode.ktimeout.num, tag := 0, queue, core := x.core, teamid := x.team, gid := x.gid, lane := x.lane,
        multi := x.multi, double := true, version := r.ranIn, addr := x.pc, recordVa := 0 }
      let host := bitOf s.fnmode.toNat 2
      let (va, s) := match x.group with | some g => if host then (0, s) else s.trapRecord ctx g.uid | none => (0, s)
      let gs := (s.grids.filter fun x => x.2.queue == queue && x.2.pos == pos).map (·.1)
      let s := gs.foldl (fun s x => (s.endGrid x info.code).childDone x info.code) s
      let s := { s with children := s.children.map fun (c : Nat × Child) =>
        if c.2.queue == queue && c.2.pos == pos && c.2.done.isNone && c.2.marker.isSome then (c.1, { c.2 with done := some info.code }) else c }
      let s := s.updQueue queue fun k => { k with records := Tab.upd k.records pos fun r => { r with posted := true, code := info.code } }
      let s := s.faultQueue queue pos info.code { info with recordVa := va }.bytes (bitOf r.flags 0)
      if host then
        let s := s.updCtx ctx fun c => if c.state == .running || c.state == .ready then { c with state := .preempting, toFaulted := true } else { c with toFaulted := true }
        .next (s.evqPost ctx info.bytes)
      else .next s

/-! ### Abandoning grids (R98, R117, R390) -/

/-- Rules 1 to 4 of R390 for a grid, without a save: its issued local stores are performed, its futures are cancelled, its
engines stop, and all it holds is freed. -/
def State.abandonGrid (s : State) (uid : Nat) : State :=
  let gs := (s.groups.filter fun g => g.2.grid == uid).map (·.1)
  let s := (gs ++ (s.spans.filter fun p => p.2.grid == uid).map (·.1)).foldl (fun s g => (s.drain g).1) s
  let ts := (s.teams.filter fun t => t.2.grid == uid).map (·.2)
  let s := ts.foldl (fun s t =>
    s.cores.foldl (fun s c =>
      let ops := (c.2.channels.flatMap (·.2) ++ c.2.fabric).filter fun o => o.team == t.uid
      let s := ops.foldl (fun s o => s.endCopy c.1 (s.teamView o.team).1 (s.teamView o.team).2 o 5 0 0) s
      s.updCore c.1 fun c => { c with locks := c.locks.filter fun k => k.team != t.uid })
      ((t.ops.map (·.1) ++ t.halted.map fun x => x.2.op).foldl (fun s op => s.unparkOp op) s)) s
  let s := gs.foldl (fun s g => s.dropGroup g) s
  let s := { s with spans := s.spans.filter fun p => p.2.grid != uid, grids := Tab.del s.grids uid }
  ts.foldl (fun s t => s.removeTeam t) s

/-- The grids of a queue. -/
def State.queueGrids (s : State) (q : Nat) : List Nat := (s.grids.filter fun g => g.2.queue == q).map (·.1)

/-- R117: a queue is destroyed: its running grids are abandoned and the records of these complete with code 0xF4, at once or as soon
as their stores are performed and the page of their entry is there (R122). A record that started and has no grid left completes with its own code, one that has
not started goes without an entry. CPTR stays at a faulted position, which no reset passes now. -/
def State.destroyQueue (s : State) (q : Nat) : State :=
  let hit := (s.grids.filter fun g => g.2.queue == q).map fun g => g.2.pos
  let s := (s.queueGrids q).foldl (fun s g => (s.abandonGrid g).childDone g 0xF4) s
  let s := State.childrenDone { s with children := s.children.map fun (c : Nat × Child) =>
    if c.2.queue == q && c.2.done.isNone && c.2.marker.isSome then (c.1, { c.2 with done := some 0xF4 }) else c }
  let mark := fun (r : Nat × Record) => if hit.contains r.1 then (r.1, { r.2 with code := 0xF4 }) else r
  let s := s.updQueue q fun k => { k with state := .destroyed, draining := false, records := (k.records.filter fun r => r.2.started && !r.2.posted).map mark }
  match Tab.get? s.queues q with
  | none => s
  | some k => (k.records.filter fun r => s.recordDone q r.2).foldl (fun s r => s.completeRecord q r.2 r.2.code) s

def execQueueDestroy (queue : Nat) (s : State) : Host.Outcome State Fault Refusal :=
  s.windowed <|
    match Tab.get? s.queues queue with
    | some k => if k.state == .destroyed then s.accept else ((s.accept.destroyQueue queue).ctxIdle k.desc.ctx.toNat)
    | none => s.refuse

/-! ### LAUNCH, ENQ, QSTAT (R127, R128) -/

/-- A status word of R127. -/
def launchWord (st tag : Nat) : Nat := 2 ^ 56 * st + (if st == 0 then tag else 0)

/-- R127: a child of a grid: it starts at once, or, a marker, waits for its dependences. -/
def State.startChild (s : State) (gr : Grid) (r : Record) (ver : Nat) : Nat × State :=
  let (tag, s) := s.fresh
  let (g, s) := match r.kernel with
    | some k =>
      let (g, s) := s.startGrid r k gr.ctx ver gr.queue gr.pos (gr.level + 1) (some gr.uid) (some tag) gr.home
      (some g, s)
    | none => (none, s)
  let c : Child := { ctx := gr.ctx, parent := gr.uid, queue := gr.queue, pos := gr.pos, home := gr.home, grid := g,
                     marker := if g.isNone then some { r with version := ver } else none, done := none, ver }
  (tag, { s with children := Tab.set s.children tag c })

/-- R127: a queue takes no record from a program. -/
def Queue.closed (k : Queue) : Bool := k.state == .destroyed || k.state == .faulted || k.state == .drained || k.draining

/-- R127: the shared part of LAUNCH and ENQ, after the release. `q` is the queue whose buffers count. -/
def launchBody (h : Hdr) (d : Opnd) (nb : Bool) (va q : Nat) (launch : Bool) : Body := fun s e act =>
  if va % 64 != 0 then { s, raises := e.raiseAt act .misaligned (some va) }
  else match s.release e.g.uid .device with
    | (s, false) => { s, waits := act }
    | (s, true) =>
      match s.takeRecord e.gr.home e.gr.ctx e.gr.version va with
      | (.wait, s) => { s, waits := act }
      | (.bad _, s) => { s := scalarOut h d 2 s e act (launchWord 2 0) }
      | (.ok r, s) =>
        let k := Tab.get? s.queues q
        let closed := match k with
          | some k => k.closed || k.desc.ctx.toNat != e.gr.ctx || (!launch && !k.desc.feed)
          | none => true
        if closed then { s := scalarOut h d 2 s e act (launchWord 3 0) }
        else if launch && decide (4 ≤ e.gr.level) then { s := scalarOut h d 2 s e act (launchWord 4 0) }
        else if !s.canBuffer q then
          if nb then { s := scalarOut h d 2 s e act (launchWord 1 0) } else { s, waits := act }
        else if launch then
          let (tag, s) := s.startChild e.gr r e.gr.version
          { s := scalarOut h d 2 s e act (launchWord 0 tag) }
        else
          let pos := (k.map (·.wptr)).getD 0
          let s := s.updQueue q fun k => { k with
            records := Tab.set k.records pos { r with pos, version := e.gr.version }, wptr := pos + 1, rptr := pos + 1 }
          { s := scalarOut h d 2 (s.settle q) e act (launchWord 0 pos) }

def execLaunch (h : Hdr) (d a : Opnd) (nb : Bool) (s : State) : Host.Outcome State Fault Refusal :=
  issue (.launch h d a nb) (.once false) (fun s e act => launchBody h d nb (e.w64 (lowLane act) a) e.gr.queue true s e act) s

def execEnq (h : Hdr) (d a b : Opnd) (nb : Bool) (s : State) : Host.Outcome State Fault Refusal :=
  issue (.enq h d a b nb) (.once false) (fun s e act =>
    launchBody h d nb (e.w64 (lowLane act) b) (fld (e.w64 (lowLane act) a) 0 12) false s e act) s

/-- R128: the number of a queue's state. -/
def QState.num : QState → Nat
  | .idle => 0 | .armed => 1 | .running => 2 | .blocked => 3 | .suspended => 4 | .faulted => 5 | .drained => 6 | .destroyed => 7

/-- R128: what QSTAT reads of a queue. -/
def State.queueWord (s : State) (ctx q : Nat) : Nat :=
  match Tab.get? s.queues q with
  | none => 7
  | some k => if k.desc.ctx.toNat != ctx then 7
    else k.state.num + 2 ^ 4 * k.desc.cls.toNat + 2 ^ 6 * k.desc.prio.toNat + 2 ^ 24 * (k.cptr % 2 ^ 40)
/-- R128: what QSTAT.CHILD reads of a tag. A child is pending while none of its teams and spans has come to be; one whose grid has
retired, and which waits for its own children and stores (R122), is running. -/
def State.childWord (s : State) (ctx tag : Nat) : Nat :=
  match Tab.get? s.children tag with
  | none => 15
  | some c =>
    if c.ctx != ctx then 15
    else match c.done with
      | some code => if code == 0 then 2 else 3 + 2 ^ 8 * (code % 256)
      | none => if c.ended.isSome then 1 else match c.grid.bind fun g => Tab.get? s.grids g with
        | some g => if g.spanning || g.next != 0 || g.cut && g.kernel.span then 1 else 0
        | none => 0

/-- R128: QSTAT. Of the register of QSTAT.CHILD bits [39:0] are the child tag, as a status word of R127 holds it, and bits [63:40] are not
looked at (log entry 103, DESIGN CHOICE). -/
def execQstat (h : Hdr) (d a : Opnd) (child : Bool) (s : State) : Host.Outcome State Fault Refusal :=
  issue (.qstat h d a child) (.once false) (fun s e act =>
    let x := e.w64 (lowLane act) a
    let s := s.acquire e.t.core .device
    { s := scalarOut h d 2 s e act (if child then s.childWord e.gr.ctx (x % 2 ^ 40) else s.queueWord e.gr.ctx (fld x 0 12)) }) s

end Sys2Proof.Machine
end

