-- ==== Sys2Proof/Machine/Link.lean ====
section
/-! DEFINITION. Links and streams (spec/21_link.md R399 to R411, spec/15_ordering.md R294, R295): the steps of a link, the
numbering of requests and what a reply does. -/

namespace Sys2Proof.Machine

/-! ### Links (R401) -/

def LState.num : LState → Nat
  | .dark => 0 | .training => 1 | .up => 2 | .degraded => 3 | .retraining => 4 | .quarantined => 5

/-- A link that has not trained. -/
def Link.dark : Link :=
  { state := .dark, mask := 0, lost := 0, retrained := 0, byHost := false, fseq := 0, acked := 65535, outbox := [], begun := 0, notes := [],
    out := none, replay := [], resendFrom := none, enc := false, epoch := 0, sealedCount := 0, resentTotal := 0,
    restripes := 0 }
/-- The same for the other direction. -/
def InLink.dark : InLink :=
  { state := .dark, mask := 0, lost := 0, retrained := 0, rx := 65535, nak := false, ackDue := false, part := none, inbox := [], flits := 0,
    broken := [] }
def State.inLink (s : State) (peer : Nat) : InLink := Tab.get s.inLinks peer InLink.dark
def State.updInLink (s : State) (peer : Nat) (f : InLink → InLink) : State := { s with inLinks := Tab.set s.inLinks peer (f (s.inLink peer)) }
/-- R401: the states in which flits pass. -/
def LState.carries (k : LState) : Bool := k == .up || k == .degraded || k == .retraining
def State.link (s : State) (peer : Nat) : Link := Tab.get s.links peer Link.dark
def State.updLink (s : State) (peer : Nat) (f : Link → Link) : State := { s with links := Tab.set s.links peer (f (s.link peer)) }

/-- R413: requests to the peer are refused at issue; or wait at issue. -/
def Link.refuses (k : Link) : Bool := k.state == .dark || k.state == .quarantined
/-- R402: what travels in control flits. -/
def isNote : Cargo → Bool
  | .request _ | .reply _ _ _ _ _ => false
  | _ => true
/-- What goes into a link waits there for a flit: notices for control flits, which pass the requests that wait (R393). A
quarantined link takes nothing but the acknowledgements of notices, which it keeps until it is back. -/
def State.sendCargo (s : State) (peer : Nat) (c : Cargo) : State :=
  let k := s.link peer
  let kept := match c with | .ack _ _ => k.state == .quarantined | _ => false
  if k.refuses && !kept then s
  else if isNote c then s.updLink peer fun k => { k with notes := k.notes ++ [c] }
  else s.updLink peer fun k => { k with outbox := k.outbox ++ [c] }
/-- R391: whether a cargo of version `v` waits behind another of the same peer: a version notice that lists `v`, another notice of
`v`, or a commit into `v`. -/
def waitsBehind (v : Nat) : Cargo → Bool
  | .version w _ above => w == v || above.contains v
  | .commit w target _ => w == v || target == v
  | .dead w _ => w == v
  | _ => false
/-- R391, R402: a cargo from a peer has come whole and waits for its event, with nothing before it that it waits behind. -/
def State.arrived (s : State) (peer : Nat) (c : Cargo) : Bool :=
  let l := (s.inLink peer).inbox
  let before := l.takeWhile (· != c)
  l.contains c && match c with
    | .version v _ _ | .commit v _ _ | .dead v _ => !before.any (waitsBehind v)
    | .request r => !before.any fun x => match x with | .version w _ above => w == r.version || above.contains r.version | _ => false
    | _ => true
def State.takeIn (s : State) (peer : Nat) (c : Cargo) : State := s.updInLink peer fun k => { k with inbox := k.inbox.erase c }

/-- Set and cleared bits of channel masks. -/
def chanAnd (a b : Nat) : Nat := maskOf 16 fun c => bitOf a c && bitOf b c
def chanDiff (a b : Nat) : Nat := maskOf 16 fun c => bitOf a c && !bitOf b c
def chanOr (a b : Nat) : Nat := maskOf 16 fun c => bitOf a c || bitOf b c

/-- R401: the state that a mask gives. -/
def stateOfMask (m : Nat) (few : LState) : LState :=
  let n := popN 16 m
  if n == 16 then .up else if 4 ≤ n then .degraded else few

/-- R400: the laser module that feeds channels 4q to 4q + 3 of the links to a peer. -/
def laserOf (peer q : Nat) : Nat :=
  let p := peer / 8
  p % 4 + 4 * q + 16 * (p / 4)
/-- R407: the suspect, when the channels lost are the 4 fibres of one laser module. -/
def suspect (peer lost : Nat) : Nat :=
  match (List.range 4).find? fun q => lost == 15 * 16 ^ q with
  | some q => laserOf peer q
  | none => 0xFF

/-- The place of the next record of the link event queue. -/
def State.linkPlace (s : State) : Nat := physLoc 0 (s.linkQueue.base + 32 * (s.linkQueue.wptr % 2 ^ s.linkQueue.size))
/-- R424, R468: the ring of the link event queue has room, and the host holds no half of the next record's line. -/
def State.linkRoom (s : State) : Bool :=
  let q := s.linkQueue
  decide (q.wptr - q.rptr < 2 ^ q.size) && decide (0 < q.size) && !s.heldHalf s.linkPlace 32
/-- R468: the link event queue takes a record: into the ring, or one of 64 held, or counted. -/
def State.linkPost (s : State) (rec : List Byte) : State :=
  let q := s.linkQueue
  let s := s.recallAt s.linkPlace 32
  if q.held.isEmpty && s.linkRoom then
    let s := s.pokeN s.linkPlace rec
    { s with linkQueue := { q with wptr := q.wptr + 1 }, port := { s.port with interrupts := s.port.interrupts ++ [q.msix] } }
  else if q.held.length < 64 then { s with linkQueue := { q with held := q.held ++ [rec] } }
  else { s with linkQueue := { q with lost := q.lost + 1 } }
/-- The records held go out as far as there is room. -/
def State.linkFlush (s : State) : List (List Byte) → State
  | [] => s
  | r :: rs =>
    let q := s.linkQueue
    if s.linkRoom then (State.linkPost { s with linkQueue := { q with held := [] } } r).linkFlush rs
    else { s.recallAt s.linkPlace 32 with linkQueue := { q with held := r :: rs } }

/-- R407: a link event record. -/
def State.linkEvent (s : State) (peer code lost resent first : Nat) : State :=
  let k := s.link peer
  let chans := popN 16 k.mask
  s.linkPost (le 1 code ++ le 1 peer ++ le 1 (k.state.num + 8 * chans) ++ le 1 (if code == 3 then 0xFF else suspect peer lost)
    ++ le 2 k.mask ++ le 2 lost ++ le 4 resent ++ le 2 first ++ zeros 2 ++ le 8 s.fabricCycles ++ zeros 8)

/-! ### Streams (R294, R295, R410) -/

/-- A pair of a peer and a stream that nothing has used. -/
def Stream.blank (peer stream : Nat) : Stream := { peer, stream, next := 0, owed := [], expect := 0, old := 0 }
def State.stream (s : State) (peer n : Nat) : Stream :=
  (s.streams.find? fun x => x.peer == peer && x.stream == n).getD (Stream.blank peer n)
def State.setStream (s : State) (x : Stream) : State :=
  { s with streams := if s.streams.any fun y => y.peer == x.peer && y.stream == x.stream then
      s.streams.map fun y => if y.peer == x.peer && y.stream == x.stream then x else y
    else s.streams ++ [x] }

/-- R408, R409: the fabric context number of a context. -/
def State.fctxOf (s : State) (ctx : Nat) : Nat :=
  match s.fabricCtx.find? fun x => x.2 == ctx with
  | some x => x.1
  | none => Config.unmappedFctx ctx % 4096

/-- R393: the last sequence number given on each stream to a peer. -/
def State.marks (s : State) (peer : Nat) : List Nat :=
  (List.range 16).map fun k => ((s.stream peer k).next + 65535) % 65536

/-- R391: the live ancestors of a version, nearest first: those on the way to the root by parents, COMMITTED and DEAD ones left
out. -/
def State.liveAboveFuel (s : State) : Nat → Nat → List Nat
  | 0, _ => []
  | n + 1, v =>
    match Tab.get? s.versions v with
    | some x =>
      let up := s.liveAboveFuel n x.parent
      match Tab.get? s.versions x.parent with
      | some p => if x.parent != 0 && (p.state == 0 || p.state == 1 || p.state == 3) then x.parent :: up else up
      | none => up
    | none => []
def State.liveAbove (s : State) (v : Nat) : List Nat := s.liveAboveFuel 1100 v

/-- R391: before the first request of a version to a peer, its own notice goes, also where a descendant's has listed it; the version
and its ancestors record the peer. Loopback needs none: the module holds the version. -/
def State.notice (s : State) (peer ver ctx : Nat) : State :=
  if ver == 0 || peer == s.device then s
  else match Tab.get? s.versions ver with
    | none => s
    | some v =>
      if v.told.contains peer then s
      else
        let up := s.liveAbove ver
        let s := s.sendCargo peer (.version ver (s.fctxOf ctx) up)
        -- an ancestor that is COMMITTING already owes the peer its commit notice too (R393)
        let late := up.filterMap fun a => ((Tab.get? s.versions a).filter fun x => x.state == 1 && !x.peers.contains peer).map fun x => (a, x.target)
        let s := late.foldl (fun s x => s.sendCargo peer (.commit x.1 x.2 (s.marks peer))) s
        { s with versions := s.versions.map fun (x : Nat × Ver) =>
            let y : Ver := if x.1 == ver then { x.2 with told := x.2.told ++ [peer] } else x.2
            if (x.1 == ver || up.contains x.1) && !y.peers.contains peer then
              (x.1, { y with peers := y.peers ++ [peer], owed := if y.state == 1 then y.owed ++ [peer] else y.owed })
            else (x.1, y) }

/-- R294, R391, R408: a request takes the next number of its stream and goes into the link. -/
def State.request (s : State) (peer n ver ctx : Nat) (kind : ReqKind) (addr : Nat) (o : Owed) : State :=
  let v := s.eff ver
  let s := s.notice peer v ctx
  let x := s.stream peer n
  let r : Req := { peer := s.device, stream := n, seq := x.next, version := v, fctx := s.fctxOf ctx, addr := addr % 2 ^ 49, kind }
  (s.setStream { x with next := (x.next + 1) % 65536, owed := x.owed ++ [{ o with seq := x.next, version := v, ctx, addr, what := kind }] }).sendCargo peer (.request r)

/-- R410: there is room in the window. -/
def State.windowRoom (s : State) (peer n k : Nat) : Bool := decide ((s.stream peer n).owed.length + k ≤ 4096)

/-! ### Replies (R409, R414 to R416) -/

/-- R415: the first failure of a store or release sets the latch; that of a destroyed context, whose requests name context 0, sets none
(R97, R98). -/
def State.setLatch (s : State) (ctx peer stream addr : Nat) : State :=
  if ctx == 0 || s.latches.any fun x => x.ctx == ctx && x.peer == peer && x.stream == stream then s
  else { s with latches := s.latches ++ [{ ctx, peer, stream, addr }] }

/-- R416: an operation of the fabric engine ends. -/
def State.endFabric (s : State) (core : Nat) (o : CopyOp) (state code addr : Nat) : State :=
  let s := (s.unparkOp o.op).dropCopy core o.op
  match s.futureOf o.team o.fid with
  | none => s
  | some f => s.setFuture o.team o.fid { f with state, code, addr }
def State.fabricOp (s : State) (op : Nat) : Option (Nat × CopyOp) :=
  s.cores.findSome? fun c => (c.2.fabric.find? fun o => o.op == op).map fun o => (c.1, o)
def State.setFabricOp (s : State) (core : Nat) (o : CopyOp) : State :=
  s.updCore core fun c => { c with fabric := c.fabric.map fun x => if x.op == o.op then o else x }

/-- R306, R319, R416: the write pointer of an RCOPY, and its end when every piece is answered. -/
def State.fabricMoves (s : State) (core : Nat) (o : CopyOp) : State :=
  let w := match o.unacked with | [] => o.sent | x :: _ => x.1
  match s.futureOf o.team o.fid with
  | none => if o.unacked.isEmpty then (s.unparkOp o.op).dropCopy core o.op else s
  | some f =>
    let s := if w == f.wptr then s else s.setFuture o.team o.fid { f with state := if w == 0 then f.state else 2, wptr := w }
    if f.cancel && o.unacked.isEmpty then s.endFabric core o 5 0 0
    else if o.sent == o.total && o.unacked.isEmpty then s.endFabric core o 3 0 0 else s

/-- R414: the value of a lane of a load or atomic reply. -/
def Owed.value (o : Owed) (data : List Byte) (off : Nat) : Nat :=
  let x := leNat ((data.drop off).take o.size)
  match o.sz with
  | .s8 => wrapZ 32 (sext 8 x)
  | .s16 => wrapZ 32 (sext 16 x)
  | _ => x
/-- The registers that a result of a size fills. -/
def Owed.regs (o : Owed) : Nat := (o.size + 3) / 4

/-- Lanes that waited for their reply go on past their 16-byte instruction, or stay to raise their failure. -/
def State.remoteGo (s : State) (o : Owed) (ok : Bool) : State :=
  if o.ns then s
  else s.updGroup o.group fun g =>
    g.updLanes (laneMask fun l => o.lanes.contains l) fun _ x =>
      if x.block == .remote then { x with block := .free, pc := if ok then x.pc + 16 else x.pc } else x

/-- R409, R414 to R416: the reply to a request of this module, the first that the stream owes of that number. -/
def State.reply (s : State) (peer n seq status : Nat) (data : List Byte) : State :=
  let x := s.stream peer n
  match x.owed.find? fun o => o.seq == seq with
  | none => s
  | some o =>
    let s := s.setStream { x with owed := x.owed.erase o }
    let code := if status == 1 then TrapCode.dataPoison else TrapCode.remoteError
    if o.kind % 2 == 0 && o.copy.isNone then
      let m := laneMask fun l => o.lanes.contains l
      if status == 0 then
        let s := (o.lanes.zip o.offs).foldl (fun s p => s.deliverN o.group o.reg p.1 o.flight (o.value data p.2) o.regs) s
        (s.land o.flight).remoteGo o true
      else
        let at_ := fun l => o.addr + (((o.lanes.zip o.offs).find? fun p => p.1 == l).map (·.2)).getD 0
        (s.failLanes o.flight m code at_).remoteGo o false
    else match o.copy with
      | none => if status == 0 then s else s.setLatch o.ctx peer n o.addr
      | some (_, op) =>
        match s.fabricOp op with
        | none => s
        | some (core, c) =>
          if status == 0 then
            let c := { c with unacked := c.unacked.filter fun p => p.1 != o.offs.headD 0 }
            (s.setFabricOp core c).fabricMoves core c
          else s.endFabric core c 4 code.num o.addr

/-- The event REMOTE_REPLY: a reply that flits have brought lands. -/
def execRemoteReply (peer stream seq status : Nat) (data : List (BitVec 8)) (s : State) : Host.Outcome State Fault Refusal :=
  let c := Cargo.reply peer stream seq status data
  .next (if s.arrived peer c then (s.takeIn peer c).reply peer stream seq status data else s)

/-! ### Losing a link (R404 to R406) -/

/-- R406: a link enters QUARANTINED: nothing further is sent, and what is not acknowledged fails with LINK status, in the order
of the numbers. The acknowledgements of notices are kept (R393). `lost` are the channels that led to it (R407). The loopback link has
both its ends here. -/
def State.quarantine (s : State) (peer lost : Nat) : State :=
  let held := fun (k : Link) => ((k.replay.flatMap fun x => x.flit.chunks.map (·.cargo)) ++ k.notes).filter fun c => match c with | .ack _ _ => true | _ => false
  let s := s.updLink peer fun k =>
    { k with state := .quarantined, mask := 0, outbox := [], begun := 0, notes := held k, replay := [], resendFrom := none, lost := 0, retrained := 0,
             byHost := false }
  let s := if peer == s.device then s.updInLink peer fun k => { k with state := .quarantined, mask := 0, lost := 0, retrained := 0, part := none } else s
  let s := s.linkEvent peer 4 lost 0 0
  (s.streams.filter fun x => x.peer == peer).foldl (fun s x =>
    x.owed.foldl (fun s o => s.reply peer x.stream o.seq 5 []) s) s

/-- R405: a link enters RETRAINING, or learns of more channels to leave out or take in. -/
def State.retrain (s : State) (peer lost back : Nat) : State :=
  let host := bitOf s.fnmode.toNat 4
  let fresh := (s.link peer).state != .retraining
  let s := s.updLink peer fun k =>
    { k with state := .retraining, lost := chanOr k.lost lost, retrained := chanDiff (chanOr k.retrained back) lost,
             byHost := if fresh then host else k.byHost }
  if fresh && host then s.linkEvent peer 1 (chanOr lost back) 0 0 else s

/-- R405, R411: a control message of the peer about the link to it. After 16 flits on end that fail authentication the link is
quarantined; the record is the sender's (R407). -/
def State.controlled (s : State) (peer : Nat) (c : Control) : State :=
  let k := s.link peer
  match c with
  | .lost m => if chanAnd m k.mask != 0 && k.state.carries then s.retrain peer (chanAnd m k.mask) 0 else s
  | .back m => if k.state == .degraded || k.state == .retraining then s.retrain peer 0 (chanOr (chanDiff m k.mask) (chanAnd m k.lost)) else s
  | .authFail run =>
    if !k.state.carries then s
    else
      let s := s.linkEvent peer 6 0 0 0
      if 16 ≤ run then s.quarantine peer 0 else s
  | .rekey _ => s
/-- R405: the end that receives tells the end that sends, in a control flit. Of the loopback link both ends are here, and the link that the flit
would take is the one that is RETRAINING: the sending end knows at once (log entry 83, DESIGN CHOICE). -/
def State.tellSender (s : State) (peer : Nat) (c : Control) : State :=
  if peer == s.device then s.controlled peer c else s.sendCargo peer (.control c)

/-- R405: a receiver loses channels of the link from a peer: it tells the sender, and the link is RETRAINING. -/
def State.loseChannels (s : State) (peer lost : Nat) : State :=
  let k := s.inLink peer
  let m := chanAnd lost k.mask
  if m == 0 || !k.state.carries then s
  else (s.updInLink peer fun k => { k with state := .retraining, lost := chanOr k.lost m, retrained := chanDiff k.retrained m }).tellSender peer (.lost m)

/-- The event LOSS_OF_LIGHT: this module, which receives, sees no light on some channels of the link from a peer. -/
def execLossOfLight (peer : Nat) (channels : BitVec 16) (s : State) : Host.Outcome State Fault Refusal :=
  .next (s.loseChannels peer channels.toNat)

/-- R405: the event CHANNEL_RETRAINED: light is back on a channel of the link from a peer, and it has trained; the sender hears
of it. -/
def execChannelRetrained (peer ch : Nat) (s : State) : Host.Outcome State Fault Refusal :=
  let k := s.inLink peer
  if decide (ch < 16) && (!bitOf k.mask ch || bitOf k.lost ch) && (k.state == .degraded || k.state == .retraining) then
    .next ((s.updInLink peer fun k =>
      { k with state := .retraining, lost := chanDiff k.lost (2 ^ ch), retrained := chanOr k.retrained (2 ^ ch) }).tellSender peer (.back (2 ^ ch)))
  else .next s

/-- The first flit that waits for an ACK. -/
def Link.firstUnacked (k : Link) : Option Nat := (k.replay.head?).map (·.flit.fseq)

/-- R405: the mask that the ends of the link from a peer agree: of the loopback link, that which its sending end has changed to. -/
def State.agreedMask (s : State) (link : LinkEnd) : Option Nat :=
  if link.peer != s.device then some link.mask.toNat
  else if (s.link link.peer).state == .retraining then none
  else some (s.link link.peer).mask
/-- R405, R407: the event RESTRIPE_COMPLETE: this end changes to the new mask, and replay resumes, with a record where the mask changes;
or, of the link from the peer, the end that receives changes to the mask that both agree. -/
def execRestripeComplete (link : LinkEnd) (s : State) : Host.Outcome State Fault Refusal :=
  if link.incoming then
    let k := s.inLink link.peer
    match s.agreedMask link with
    | none => .next s
    | some new =>
    if k.state != .retraining then .next s
    else if popN 16 new < 4 then
      .next (s.updInLink link.peer fun k => { k with state := .quarantined, mask := 0, lost := 0, retrained := 0, part := none })
    else .next (s.updInLink link.peer fun k => { k with state := stateOfMask new .quarantined, mask := new, lost := 0, retrained := 0 })
  else
    let k := s.link link.peer
    if k.state != .retraining || k.byHost then .next s
    else
      let new := chanOr (chanDiff k.mask k.lost) k.retrained
      let gone := chanDiff k.mask new
      let moved := if gone != 0 then gone else chanDiff new k.mask
      let code := if gone != 0 then 2 else 3
      if popN 16 new < 4 then .next (s.quarantine link.peer k.lost)
      else
        let s := s.updLink link.peer fun k =>
          { k with state := stateOfMask new .quarantined, mask := new, lost := 0, retrained := 0, restripes := min 65535 (k.restripes + 1),
                   resendFrom := k.firstUnacked }
        .next (if moved == 0 then s else s.linkEvent link.peer code moved k.replay.length ((k.firstUnacked).getD 0))

/-- R405: the event LINK_MASK_WRITE: the host gives the mask of a link that waits for it. -/
def execLinkMaskWrite (peer : Nat) (mask : BitVec 16) (s : State) : Host.Outcome State Fault Refusal :=
  s.windowed <|
    let k := s.link peer
    if k.state == .retraining && k.byHost then
      (s.accept.updLink peer fun k =>
        { k with byHost := false, lost := chanDiff k.mask mask.toNat, retrained := chanDiff mask.toNat k.mask })
    else s.refuse

/-- Two notices of the same kind about the same version. -/
def sameNotice : Cargo → Cargo → Bool
  | .version v _ _, .version w _ _ | .commit v _ _, .commit w _ _ | .dead v _, .dead w _ => v == w
  | _, _ => false
/-- R388: how many COMMITTING versions stand one behind the other from a version on. -/
def State.commitSteps (s : State) : Nat → Nat → Nat
  | 0, _ => 0
  | n + 1, v => match Tab.get? s.versions v with
    | some x => if x.state == 1 then s.commitSteps n x.target + 1 else 0
    | none => 0
/-- R393: the notices that a quarantine held are sent again, with marks of the sequence state as it now stands, each once: those that
were written while the link trained wait among them. A version that commits into another that is COMMITTING too goes before that. -/
def State.resendNotices (s : State) (peer : Nat) : State :=
  let here := s.versions.filter fun v => v.2.peers.contains peer && (v.2.state == 0 || v.2.state == 3 || v.2.owed.contains peer)
  let inTurn := (List.range 17).flatMap fun k => here.filter fun v => s.commitSteps 16 v.1 + k == 16
  let news := here.map (fun v => Cargo.version v.1 (s.fctxOf v.2.ctx) (s.liveAbove v.1))
    ++ inTurn.filterMap fun v =>
      if !v.2.owed.contains peer then none
      else if v.2.state == 1 then some (.commit v.1 v.2.target (s.marks peer))
      else if v.2.state == 4 then some (.dead v.1 (s.marks peer)) else none
  s.updLink peer fun k => { k with notes := news ++ k.notes.filter fun c => !news.any (sameNotice c) }

/-- R401, R402, R407: the event LINK_TRAINING_COMPLETE, of the link to a peer or of the one from it. -/
def execLinkTrainingComplete (link : LinkEnd) (trained : BitVec 16) (s : State) : Host.Outcome State Fault Refusal :=
  let m := trained.toNat
  if link.incoming then
    if (s.inLink link.peer).state != .training then .next s
    else if popN 16 m < 4 then .next (s.updInLink link.peer fun k => { k with state := .dark, mask := 0 })
    else .next (s.updInLink link.peer fun k => { k with state := stateOfMask m .dark, mask := m, rx := 65535, nak := false, ackDue := false, part := none })
  else if (s.link link.peer).state != .training then .next s
  else if popN 16 m < 4 then .next (s.updLink link.peer fun k => { k with state := .dark, mask := 0 })
  else
    let s := s.updLink link.peer fun k => { k with state := stateOfMask m .dark, mask := m, fseq := 0, acked := 65535 }
    .next ((s.linkEvent link.peer 5 0 0 0).resendNotices link.peer)

/-- R406: every stream of a pair starts again from 0; the requests that have come are performed before. -/
def State.restartStreams (s : State) (peer : Nat) : State :=
  let waiting := fun (n : Nat) => ((s.inLink peer).inbox.filter fun c => match c with | .request r => r.stream == n | _ => false).length
  ((List.range 16).filter fun n => waiting n != 0 || s.streams.any fun x => x.peer == peer && x.stream == n).foldl (fun s n =>
    s.setStream { s.stream peer n with next := 0, expect := 0, old := waiting n }) s

/-- R406: replies that have come and not been looked at belong to requests that the quarantine has failed. -/
def State.dropReplies (s : State) (peer : Nat) : State :=
  s.updInLink peer fun k => { k with inbox := k.inbox.filter fun c => match c with | .reply _ _ _ _ _ => false | _ => true }
/-- R406: the link from a peer trains anew; what has come whole stays. -/
def InLink.again (k : InLink) : InLink := { InLink.dark with state := .training, inbox := k.inbox }
/-- R406: the event LINK_RESET: the host resets a quarantined link, the loopback link at both its ends; or the peer's host has reset the
peer's link to this module, which in Perigee keeps every link DARK (R430). -/
def execLinkReset (link : LinkEnd) (s : State) : Host.Outcome State Fault Refusal :=
  if !link.incoming then
    s.windowed <|
      if (s.link link.peer).state != .quarantined then s.refuse
      else
        let s := s.accept.updLink link.peer fun k =>
          { Link.dark with state := .training, notes := k.notes, enc := k.enc, epoch := k.epoch, sealedCount := k.sealedCount,
                           resentTotal := k.resentTotal, restripes := k.restripes }
        ((if link.peer == s.device then s.updInLink link.peer InLink.again else s).dropReplies link.peer).restartStreams link.peer
  else if s.manage.perigee || !bitOf s.pod.toNat link.peer || link.peer == s.device then .next s
  else .next ((s.updInLink link.peer InLink.again).restartStreams link.peer)

/-- R411: the event REKEY: the two modules agree a new key by control flits. -/
def execRekey (peer : Nat) (s : State) : Host.Outcome State Fault Refusal :=
  let k := s.link peer
  if k.enc && (k.state == .up || k.state == .degraded) then
    let e := (k.epoch + 1) % 2 ^ 32
    .next (((s.updLink peer fun k => { k with epoch := e, sealedCount := 0 }).linkEvent peer 7 0 0 0).sendCargo peer (.control (.rekey e)))
  else .next s

/-! ### Flits (R402 to R404, R411) -/

/-- R404: the flits that an ACK covers leave the replay buffer. -/
def ackReplay (ack : Nat) (l : List Kept) : List Kept :=
  match l.findIdx? fun x => x.flit.fseq == ack with
  | some i => l.drop (i + 1)
  | none => l

/-- R404, R411: what the header of a flit from a peer does to the link to it: its ACK, and with NAK the resending of what it
leaves. A resending whose next flit the ACK covers goes on with the first that it leaves. -/
def Link.heard (k : Link) (ack : Nat) (nak : Bool) : Link :=
  let rest := ackReplay ack k.replay
  let first := (rest.head?).map (·.flit.fseq)
  { k with
    replay := rest, acked := ack % 65536
    resendFrom := if nak then first else match k.resendFrom with
      | some f => if rest.any fun x => x.flit.fseq == f then some f else first
      | none => none }

/-- R402: a flit's part of a cargo is taken; the last part brings the cargo. A notice, which takes a control flit of its own, may come
between the flits of a request. -/
def InLink.takeChunk (k : InLink) (c : Chunk) (size : Nat) : InLink :=
  if size == 0 then { k with inbox := k.inbox ++ [c.cargo] }
  else if c.start != 0 && k.part != some (c.cargo, c.start) then k
  else if size ≤ c.start + c.len then { k with part := none, inbox := k.inbox ++ [c.cargo] }
  else { k with part := some (c.cargo, c.start + c.len) }

/-- R402, R462: the bytes that a cargo takes in payloads: a header of 16, the extension of 8, and the data; a notice has a control
flit of its own. What a reply and an atomic take is log entry 37, DEDUCED. -/
def cargoSize : Cargo → Nat
  | .request r => match r.kind with
    | .read _ => 24
    | .write bs _ => 24 + bs.length
    | .atomic m _ _ => 24 + (m.w / 8) * (if m.op == .cas then 2 else 1)
    | .release _ => 32
  | .reply _ _ _ _ data => 24 + data.length
  | _ => 0

/-- R404: what a flit that is taken in order brings. -/
def State.takeFlit (s : State) (peer : Nat) (chunks : List Chunk) : State :=
  chunks.foldl (fun s c => match c.cargo with
    | .control m => s.controlled peer m
    | x => s.updInLink peer fun k => k.takeChunk c (cargoSize x)) s

/-- R405: a flit passes its CRC, or beats of some channels are broken: the count of the channels in the last 1,024 flits, and
the channels whose 64th this is. -/
def InLink.count (k : InLink) (channels : Nat) : InLink × Nat :=
  let l := (k.flits, channels) :: k.broken.filter fun x => decide (k.flits < x.1 + 1024)
  let l := if channels == 0 then l.drop 1 else l
  ({ k with flits := k.flits + 1, broken := l }, maskOf 16 fun c => bitOf channels c && decide (64 ≤ (l.filter fun x => bitOf x.2 c).length))

/-- R404, R405, R411: the event FLIT_RECEIVE: a flit from a peer. One that is broken, fails authentication or is out of order is
discarded, and the next flit to the peer asks for it again; one already taken is discarded. -/
def execFlitReceive (peer fseq ack : Nat) (nak : Bool) (got : Arrival) (s : State) : Host.Outcome State Fault Refusal :=
  if !(s.inLink peer).state.carries then .next s
  else
    let bad := match got.check with | .crc m => m.toNat | _ => 0
    let failed := ((s.inLink peer).count bad).2
    let s := s.updInLink peer fun k => (k.count bad).1
    match got.check with
    | .crc _ => .next ((s.updInLink peer fun k => { k with nak := true }).loseChannels peer failed)
    | .auth =>
      let run := (s.inLink peer).authRun + 1
      .next ((s.updInLink peer fun k => { k with nak := true, authRun := run }).sendCargo peer (.control (.authFail run)))
    | .good =>
      let s := s.updInLink peer fun k => { k with authRun := 0 }
      let s := if (s.link peer).state.carries then s.updLink peer fun k => k.heard ack nak else s
      let rx := (s.inLink peer).rx
      if got.ty == 1 || got.ty == 3 then .next s
      else if fseq == (rx + 1) % 65536 then
        .next ((s.updInLink peer fun k => { k with rx := fseq, nak := false, ackDue := true }).takeFlit peer got.chunks)
      else if (rx + 65536 - fseq) % 65536 < 32768 then .next (s.updInLink peer fun k => { k with ackDue := true })
      else .next (s.updInLink peer fun k => { k with nak := true })

/-- R402, R411: the payload of a flit in bytes: with encryption the tag takes 16. -/
def Link.payload (k : Link) : Nat := if k.enc then 224 else 240
/-- R402: requests and replies fill a payload of `cap` bytes back to back, the first from its byte `b` on: the parts, what is
left, and how far its first is packed. -/
def pack : Nat → Nat → List Cargo → List Chunk × List Cargo × Nat
  | _, _, [] => ([], [], 0)
  | cap, b, c :: cs =>
    if cap == 0 then ([], c :: cs, b)
    else if cargoSize c ≤ b + cap then
      let r := pack (cap - (cargoSize c - b)) 0 cs
      ({ cargo := c, start := b, len := cargoSize c - b } :: r.1, r.2)
    else ([{ cargo := c, start := b, len := cap }], c :: cs, b + cap)

/-- R399, R402: a flit leaves. On the link to the module itself it comes back to it, its beats whole or broken on some of the channels
(log entry 83, DESIGN CHOICE). -/
def State.emit (s : State) (peer : Nat) (f : Flit) : State :=
  let s := s.updLink peer fun k => { k with out := some f }
  if peer != s.device then s
  else
    let (n, s) := s.draw
    let broken := chanAnd (Config.loopBroken n).toNat (s.link peer).mask
    let check : FlitCheck := if broken == 0 then .good else .crc (BitVec.ofNat 16 broken)
    { s with agenda := s.agenda ++ [.flitReceive peer f.fseq f.ack f.nak { ty := f.ty, chunks := f.chunks, check }] }
/-- R402, R404: the ACK and the NAK that were due have gone, in the header of a flit that is not resent. -/
def State.told (s : State) (peer : Nat) : State := s.updInLink peer fun k => { k with nak := false, ackDue := false }

/-- R402, R404: a new flit with an FSEQ is kept and leaves, sealed where the port encrypts. -/
def State.emitNew (s : State) (peer : Nat) (f : Flit) (g : Link → Link) : State :=
  (s.updLink peer fun k => g { k with replay := k.replay ++ [{ flit := f, times := 0 }], fseq := (k.fseq + 1) % 65536,
                                      sealedCount := if k.enc then k.sealedCount + 1 else k.sealedCount }).told peer |>.emit peer f

/-- R404: the next flit to be resent leaves, byte for byte as it first left. One resent 16 times quarantines the link. -/
def State.resend (s : State) (peer f : Nat) : State :=
  let k := s.link peer
  match k.replay.dropWhile fun x => x.flit.fseq != f with
  | x :: rest =>
    let mark := fun (y : Kept) => if y.flit.fseq == f then { y with times := y.times + 1 } else y
    let s := (s.updLink peer fun k =>
      { k with replay := k.replay.map mark, resendFrom := (rest.head?).map (·.flit.fseq), resentTotal := min 65535 (k.resentTotal + 1) }).emit peer x.flit
    if 16 ≤ x.times + 1 then s.quarantine peer 0 else s
  | [] => s.updLink peer fun k => { k with resendFrom := none }

/-- R403, R404: the event FLIT_SEND: a flit that is to be sent again goes first, then a notice in a control flit, then requests
and replies, when the replay buffer and the key have room; with none of them an idle flit takes the ACK or NAK that is due. -/
def execFlitSend (peer : Nat) (s : State) : Host.Outcome State Fault Refusal :=
  let k := s.link peer
  let i := s.inLink peer
  if !(k.state == .up || k.state == .degraded) then .next s
  else match k.resendFrom with
    | some f => .next (s.resend peer f)
    | none =>
      let head : Flit := { fseq := k.fseq, ack := i.rx, ty := 0, nak := i.nak, chunks := [] }
      let room := decide (k.replay.length < 4096)
      if k.enc && decide (2 ^ 32 - 1 ≤ k.sealedCount) then .next s
      else match room, k.notes, k.outbox with
        | true, c :: rest, _ =>
          .next (s.emitNew peer { head with ty := 2, chunks := [{ cargo := c, start := 0, len := 0 }] } fun k => { k with notes := rest })
        | true, [], c :: cs =>
          let r := pack k.payload k.begun (c :: cs)
          .next (s.emitNew peer { head with chunks := r.1 } fun k => { k with outbox := r.2.1, begun := r.2.2 })
        | _, _, _ =>
          if i.nak || i.ackDue then
            .next ((s.updLink peer fun k => { k with sealedCount := if k.enc then k.sealedCount + 1 else k.sealedCount }).told peer |>.emit peer { head with ty := 1 })
          else .next s

end Sys2Proof.Machine
end

