-- ==== Sys2Proof/Machine/Version.lean ====
section
/-! DEFINITION. Versions (spec/20_version.md R375 to R398): the meanings of SPLNCH, RESOLVE, VQRY and VABORT, and the steps of
commit, squash and notices. -/

namespace Sys2Proof.Machine

/-! ### The table (R376 to R379) -/

def Ver.live (v : Ver) : Bool := v.state == 0 || v.state == 1 || v.state == 3

/-- R376: the depth of a version: its ancestors and itself, those COMMITTED or DEAD left out. -/
def State.depth (s : State) : Nat → Nat → Nat
  | 0, _ => 0
  | n + 1, v =>
    if v == 0 then 0
    else match Tab.get? s.versions v with
      | some x => (if x.live then 1 else 0) + s.depth n x.parent
      | none => 0

/-- R377, R390: whether version `v` is `a`, a descendant of it or an alias of one. -/
def State.under (s : State) (a : Nat) : Nat → Nat → Bool
  | 0, _ => false
  | n + 1, v =>
    v == a || (v != 0 && match Tab.get? s.versions v with
      | some x => s.under a n (if x.state == 1 || x.state == 2 then x.target else x.parent)
      | none => false)

/-- R378: whether a version's entry may be freed. One that a squash under way removes stays until its last rule, which finds the
records of its grids by it (R390; log entry 67, DESIGN CHOICE). Nor is one whose SPLNCH has not gone on, or whose requests to this module
itself, to which no notice goes, have not come to be performed or dropped, also after a quarantine (R399, R406, R421), or a DEAD one whose
last stores are not performed. -/
def State.verFree (s : State) (v : Nat) (x : Ver) : Bool :=
  (x.state == 2 || x.state == 4) && x.owed.isEmpty && x.launching.isNone
  && !(s.streams.any fun y => y.peer == s.device && y.owed.any fun o => o.version == v)
  && !((s.inLink s.device).inbox.any fun c => match c with | .request r => r.version == v | _ => false)
  && !(x.state == 4 && s.stores.any fun p => p.2.version == v)
  && !(s.squashes.any fun q => q.vers.contains v)
  && !(s.grids.any fun g => g.2.version == v) && !(s.versions.any fun y => y.2.live && y.2.parent == v)
  && !(s.vlines.any fun l => l.ver == v) && !(s.frames.any fun f => f.ver == v || f.tag == v)

/-- R378: the entry of a version goes. Aliases of a freed alias, and what carries it, turn to its merge target (R377): records, children,
accesses of its grid that are not performed (R388, R389), which stay accesses past L1 (R382), and what a restore issues again (R391). So
does the parent of an alias, so that the live versions above it still count (log entry 67, DESIGN CHOICE). -/
def State.freeVersion (s : State) (v : Nat) : State :=
  match Tab.get? s.versions v with
  | none => s
  | some x =>
    let turn := fun (n : Nat) => if x.state == 2 && n == v then x.target else n
    let access := fun (p : PStore) => if x.state == 2 && p.version == v then { p with version := x.target, pol := if p.pol == .l1 then .l2 else p.pol } else p
    { s with
      stores := s.stores.map fun (p : Nat × PStore) => (p.1, access p.2)
      contexts := s.contexts.map fun (c : Nat × Context) => (c.1, { c.2 with
        reissue := c.2.reissue.map fun r => (r.1, r.2.1, { r.2.2 with version := turn r.2.2.version })
        loads := c.2.loads.map fun p => (p.1, access p.2) })
      versions := (Tab.del s.versions v).map fun (y : Nat × Ver) => (y.1, { y.2 with target := turn y.2.target, parent := turn y.2.parent })
      queues := s.queues.map fun (q : Nat × Queue) => (q.1, { q.2 with records := q.2.records.map fun (r : Nat × Record) => (r.1, { r.2 with version := turn r.2.version }) })
      children := s.children.map fun (c : Nat × Child) =>
        (c.1, { c.2 with ver := turn c.2.ver, marker := c.2.marker.map fun r => { r with version := turn r.version } }) }
/-- The group or span of a writer is there. -/
def State.writerThere (s : State) : Writer → Bool
  | .lane uid _ _ => (Tab.get? s.groups uid).isSome || (Tab.get? s.spans uid).isSome
  | _ => true
/-- R376, R378: free what may be freed; a version whose SPLNCH ended with its group or span was never made (R381). -/
def State.sweepVersions (s : State) : State :=
  let s : State := { s with versions := s.versions.filter fun v => v.2.launching.all fun x => s.writerThere x.1 }
  (s.versions.filter fun v => s.verFree v.1 v.2).foldl (fun s v => s.freeVersion v.1) s

/-! ### Joining a view (R388, R393) -/

/-- Lines of the base that the join of version `v` into version 0 writes. -/
def State.joinLines (s : State) (v : Nat) : List Nat :=
  ((s.vlines.filter fun x => x.ver == v && !x.bytes.isEmpty).map (·.line))
  ++ ((s.frames.filter fun f => f.ver == v && !f.merged).flatMap fun f => f.written.map fun k => basePlace f.page k / 128).eraseDups
/-- R292, R388: the join of version `v` into `c` would change bytes of a range that is sealed, whose contents stand until its UNSEAL
starts: the commit waits for that (log entry 68, DEDUCED). -/
def State.joinSealed (s : State) (v c : Nat) : Bool :=
  c == 0 && s.seals.any fun k => k.held && (s.sealLines k).any (s.joinLines v).contains
/-- R280: the base bytes of a line change while its range is unsealing: no core keeps a copy of the line, so that every load returns the
one value (log entry 68, DESIGN CHOICE). -/
def State.dropSealed (s : State) (line : Nat) : State :=
  s.cores.foldl (fun s c => if c.2.l1.any fun x => x.isSeal && x.line == line then s.dropL1 c.1 fun x => x.line == line else s) s

/-- The copies of version `v` become writes of `c`: to the base lines, or over the copies of `c`. Of the base sectors those lose their poison
that one store of the version wrote whole (R267). -/
def State.joinLine (s : State) (c : Nat) (x : VLine) : State :=
  if c == 0 then
    let s := x.bytes.foldl (fun (s : State) b => s.poke (128 * x.line + b.1) b.2) s
    (State.dropSealed { s with poison := s.poison.filter fun q => !x.whole.contains q } x.line).fireLine x.line fun _ => true
  else if s.vlines.any fun y => y.ver == c && y.line == x.line then
    { s with vlines := s.vlines.map fun y => if y.ver == c && y.line == x.line then
        { y with bytes := x.bytes.foldl (fun t b => Tab.set t b.1 b.2) y.bytes
                 whole := x.whole.filter (fun q => !y.whole.contains q) ++ y.whole } else y }
  else { s with vlines := { x with ver := c } :: s.vlines }
/-- Where the bytes of a frame go that a commit into `c` merges: into the base, or the frame that `c` has; `none` where the frame turns
over to `c`. -/
def State.mergePlace (s : State) (c page : Nat) : Option (Nat → Nat) :=
  if c == 0 then some (basePlace page) else (s.frameOf c page).map fun g off => physLoc 0 (g.frame + off)
/-- The same for an overlay frame: with no frame of `c` for the page, the frame turns over to it; one whose bytes have merged waits for its
retagging, and no view finds it any more. Sectors that one store of the version wrote whole lose their poison where the bytes go, and bytes
that the host has lost take it with them (R267, R427). -/
def State.joinFrame (s : State) (c : Nat) (f : Frame) : State :=
  let off := { f with merged := true }
  match s.mergePlace c f.page with
  | none => { s with frames := s.frames.map fun g => if g == f then { f with ver := c } else g }
  | some at_ =>
    let src := fun (k : Nat) => physLoc 0 (f.frame + k)
    let bad := f.written.filter fun k => s.poisoned (src k)
    let s := f.written.foldl (fun (s : State) k => s.poke (at_ k) (s.peek (src k))) s
    let cleared := (f.whole.filterMap f.sectorOff).map fun k => sectorOf (at_ k)
    let s := bad.foldl (fun s k => s.markPoison (at_ k)) { s with poison := s.poison.filter fun q => !cleared.contains q }
    if c == 0 then
      let lines := (f.written.map fun k => at_ k / 128).eraseDups
      let s := lines.foldl (fun s line => (s.dropSealed line).fireLine line fun _ => true) s
      { s with frames := s.frames.map fun g => if g == f then off else g }
    else
      { s with frames := s.frames.map fun h =>
          if h == f then off
          else if h.ver == c && h.page == f.page && !h.merged then
            { h with written := h.written ++ (f.written.filter fun o => !h.written.contains o), whole := (f.whole.filter fun q => !h.whole.contains q) ++ h.whole }
          else h }
/-- The frames of a version that no commit has merged. -/
def State.ownFrames (s : State) (v : Nat) : List Frame := s.frames.filter fun f => f.ver == v && !f.merged
def State.join (s : State) (v c : Nat) : State :=
  let ls := s.vlines.filter fun x => x.ver == v
  let s := ls.foldl (fun s x => s.joinLine c x) { s with vlines := s.vlines.filter fun x => x.ver != v }
  (s.ownFrames v).foldl (fun s f => s.joinFrame c f) s
/-- R424: the first place in a half which the host holds that the join of `v` into `c` reads or writes. -/
def State.joinHeld (s : State) (v c : Nat) : Option Nat :=
  if s.port.lines.isEmpty then none
  else
    let lines := if c == 0 then (s.vlines.filter fun x => x.ver == v).flatMap fun x => x.bytes.map fun b => 128 * x.line + b.1 else []
    let frames := (s.ownFrames v).flatMap fun f => match s.mergePlace c f.page with
      | some at_ => f.written.flatMap fun k => [at_ k, physLoc 0 (f.frame + k)]
      | none => []
    (lines ++ frames).find? fun p => s.heldHalf p 1

/-- R388, R393: the commit point of `v` into `c`: COMMITTING until every peer has acknowledged. -/
def State.commit (s : State) (v c : Nat) : State :=
  match Tab.get? s.versions v with
  | none => s
  | some x =>
    let s := s.join v c
    let s := { s with versions := Tab.set s.versions v { x with state := if x.peers.isEmpty then 2 else 1, target := c, owed := x.peers } }
    x.peers.foldl (fun s p => s.sendCargo p (.commit v c (s.marks p))) s

/-- A frame goes back to its list, and its slot is cleared (R385, R390). -/
def State.freeFrame (s : State) (f : Frame) : State :=
  let s := s.slotWrite f.ctx f.dir (f.slot + 1) (zeros 8)
  let s := { s with frames := s.frames.filter fun g => g != f }
  s.updCtx f.ctx fun c => if locDie (basePlace f.page 0) == 0 then { c with frames0 := c.frames0 ++ [f.frame] } else { c with frames1 := c.frames1 ++ [f.frame] }
/-- R424: the slots of some frames lie in no half that the host holds; or those that do are asked for. -/
def State.slotsHeld (s : State) (fs : List Frame) : Option State :=
  match fs.filterMap fun f => s.ovlHeld f.ctx f.dir with
  | [] => none
  | ls => some (ls.foldl (fun s loc => s.recallAt loc 8) s)

/-- R394: on a page of sequence-table entries the records that a frame's version wrote, and that name `old`, name `new`. -/
def State.retagRecords (s : State) (f : Frame) (old new : Nat) (at_ : Nat → Nat) : State :=
  ((List.range 4096).filter fun i => f.written.contains (16 * i + 8) && f.written.contains (16 * i + 9)).foldl (fun (s : State) i =>
    if leNat [s.peek (at_ (16 * i + 8)), s.peek (at_ (16 * i + 9))] == old then
      (s.poke (at_ (16 * i + 8)) (BitVec.ofNat 8 new)).poke (at_ (16 * i + 9)) (BitVec.ofNat 8 (new / 256))
    else s) s

/-- Where the bytes of a frame lie now: in the frame, or, merged already, where the commits have taken them, into `c` at last. -/
def State.frameBytes (s : State) (c : Nat) (f : Frame) : Nat → Nat :=
  if f.merged then (s.mergePlace c f.page).getD (basePlace f.page) else fun off => physLoc 0 (f.frame + off)
/-- R388, R394: one frame of a version whose writes are `c`'s is retagged: the records that name the version name `c`; the slot turns
over with the frame, and a frame that its own version's commit merged is freed. -/
def State.retagFrame (s : State) (v c : Nat) (f : Frame) : State :=
  let s := if f.kvt then s.retagRecords f v c (s.frameBytes c f) else s
  if f.ver == v then s.freeFrame f
  else
    let s := s.slotWrite f.ctx f.dir (f.slot + 1) (leBytes 2 f.ver)
    { s with frames := s.frames.map fun g => if g == f then { f with tag := f.ver } else g }
/-- R424: the slot of a frame, and the records on its page, lie in no half that the host holds; or those that do are asked for. -/
def State.retagHeld (s : State) (c : Nat) (f : Frame) : Option State :=
  match s.slotsHeld [f] with
  | some s => some s
  | none =>
    if !f.kvt || s.port.lines.isEmpty then none
    else (f.written.find? fun k => s.heldHalf (s.frameBytes c f k) 1).map fun k => s.recallAt (s.frameBytes c f k) 1
/-- R388: the frames that still carry a version's tag are retagged; those that the host holds bytes of wait. -/
def State.retagAll (s : State) (v c : Nat) : State :=
  (s.frames.filter fun f => f.tag == v).foldl (fun s f => match s.retagHeld c f with
    | some s => s
    | none => s.retagFrame v c f) s

/-- R388: the event VERSION_RETAG. -/
def execVersionRetag (version : Nat) (s : State) : Host.Outcome State Fault Refusal :=
  match Tab.get? s.versions version with
  | none => .next s
  | some x =>
    if x.state == 1 || x.state == 2 then
      .next (s.retagAll version (s.eff version)).sweepVersions
    else .next s

/-! ### Squash (R390) -/

/-- The versions that a squash of some versions removes. -/
def State.squashSet (s : State) (ctx : Nat) (roots : List Nat) : List Nat :=
  (s.versions.filter fun v => v.2.ctx == ctx && v.2.state != 4 && roots.any fun r => s.under r 1100 v.1).map (·.1)

/-- A squash begins: its LIVE versions are SQUASHING. -/
def State.squash (s : State) (ctx : Nat) (roots : List Nat) : List Nat × State :=
  let set := s.squashSet ctx roots
  if set.isEmpty then ([], s)
  else
    let grids := (s.grids.filter fun g => set.contains g.2.version).map (·.1)
    (set, { s with
      versions := s.versions.map fun (v : Nat × Ver) => if set.contains v.1 && v.2.state == 0 then (v.1, { v.2 with state := 3 }) else v
      squashes := s.squashes ++ [{ ctx, vers := set, grids, rule := 0 }] })

/-- R390, rule 3: the operations of a grid stop. -/
def State.cancelGrid (s : State) (uid : Nat) : State :=
  (s.teams.filter fun t => t.2.grid == uid).foldl (fun s t =>
    let s := s.cores.foldl (fun s c =>
      let ops := (c.2.channels.flatMap (·.2)).filter fun o => o.team == t.1
      let s := ops.foldl (fun s o => s.endCopy c.1 (s.teamView o.team).1 (s.teamView o.team).2 o 5 0 0) s
      (c.2.fabric.filter fun o => o.team == t.1).foldl (fun s o => s.endFabric c.1 o 5 0 0) s) s
    let s := ((t.2.ops.map (·.1)) ++ t.2.halted.map fun x => x.2.op).foldl (fun s op => (s.unparkOp op).fed (s.teamView t.1).2 (.engine op)) s
    s.updTeam t.1 fun t => { t with ops := [], latches := [], halted := [], heldLocks := [], futures := t.futures.map fun f => if f.2.final then f else (f.1, { f.2 with state := 5 }) }) s

/-- R390, rule 4: what a grid's teams hold is freed. -/
def State.freeGrid (s : State) (uid : Nat) : State :=
  let gs := (s.groups.filter fun g => g.2.grid == uid).map (·.1)
  let s := gs.foldl (fun s g => s.dropGroup g) s
  let s := { s with spans := s.spans.filter fun p => p.2.grid != uid }
  let ts := (s.teams.filter fun t => t.2.grid == uid).map (·.2)
  ts.foldl (fun s t => (s.cores.foldl (fun (s : State) c => s.updCore c.1 fun c => { c with locks := c.locks.filter fun k => k.team != t.uid }) s).removeTeam t) s

/-- R390, rule 5: the versions are DEAD, and their peers hear of it. -/
def State.killVersions (s : State) (vers : List Nat) : State :=
  vers.foldl (fun s v => match Tab.get? s.versions v with
    | none => s
    | some x =>
      if x.state == 4 then s
      else
      let s := { s with versions := Tab.set s.versions v { x with state := 4, owed := x.peers } }
      x.peers.foldl (fun s p => s.sendCargo p (.dead v (s.marks p))) s) s

/-- R390, rule 8: the records and tags of the squashed grids complete with code 0xF4, and so do records of the versions. -/
def State.postSquash (s : State) (q : Squash) : State :=
  let of_ := q.grids.filterMap fun g => Tab.get? s.grids g
  let s := { s with grids := s.grids.filter fun g => !q.grids.contains g.1, squashes := s.squashes.filter fun x => x != q }
  let s := of_.foldl (fun s g => s.childDone g.uid 0xF4) s
  -- R127, R381: a child of such a version completes with the code too: a marker, and one whose grid has retired.
  let s := { s with children := s.children.map fun (c : Nat × Child) =>
      if c.2.done.isNone && q.vers.contains c.2.ver then (c.1, { c.2 with done := some 0xF4 }) else c }
  let mine := fun (qn : Nat) (r : Record) => q.vers.contains r.version || of_.any fun g => g.tag.isNone && g.queue == qn && g.pos == r.pos
  s.queues.foldl (fun s k =>
    let rs := (k.2.records.filter fun r => mine k.1 r.2 && !r.2.posted).map (·.2)
    let mark := fun (r : Nat × Record) => if mine k.1 r.2 && !r.2.posted then (r.1, { r.2 with started := true, code := 0xF4, ranIn := if r.2.started then r.2.ranIn else r.2.version }) else r
    let s := s.updQueue k.1 fun x => { x with records := x.records.map mark }
    (rs.foldl (fun s r => s.completeRecord k.1 { r with code := 0xF4 } 0xF4) s).settle k.1) s

/-- R390: the event SQUASH_RULE_STEP: the next rule of the oldest squash of a context completes for all of it. Rules 2
and 7 wait for a half that the host holds. -/
def execSquashRuleStep (ctx : Nat) (s : State) : Host.Outcome State Fault Refusal :=
  match s.squashes.find? fun q => q.ctx == ctx with
  | none => .next s
  | some q =>
    let on := fun (s : State) => { s with squashes := s.squashes.map fun x => if x == q then { q with rule := q.rule + 1 } else x }
    match q.rule with
    | 0 =>
      let gs := (s.grids.filter fun g => q.vers.contains g.2.version).map (·.1)
      let s := gs.foldl (fun s g => s.updGrid g fun g => { g with stopped := true }) s
      .next { s with squashes := s.squashes.map fun x => if x == q then { q with rule := 1, grids := gs } else x }
    | 1 =>
      let gs := (s.groups.filter fun g => q.grids.contains g.2.grid).map (·.1) ++ (s.spans.filter fun p => q.grids.contains p.2.grid).map (·.1)
      let r := gs.foldl (fun (r : State × Bool) g => let y := r.1.drain g; (y.1, r.2 && y.2)) (s, true)
      .next (if r.2 then on r.1 else r.1)
    | 2 => .next (on (q.grids.foldl (fun s g => s.cancelGrid g) s))
    | 3 => .next ((on (q.grids.foldl (fun s g => s.freeGrid g) s)).ctxIdle ctx)
    | 4 => .next (on (s.killVersions q.vers))
    | 5 => .next (on { s with vlines := s.vlines.filter fun x => !q.vers.contains x.ver })
    | 6 =>
      let fs := s.frames.filter fun f => q.vers.contains f.ver
      .next (match s.slotsHeld fs with
        | some s => s
        | none => on (fs.foldl (fun s f => s.freeFrame f) s))
    | _ => .next (s.postSquash q).sweepVersions

/-! ### SPLNCH (R381) -/

/-- R381: the least free number of a local version. -/
def State.freeNum (s : State) : Option Nat :=
  ((List.range 1024).find? fun n => n != 0 && (Tab.get? s.versions (1024 * s.device + n)).isNone).map fun n => 1024 * s.device + n

/-- R376: there is room for one more version under `c`. -/
def State.verRoom (s : State) (ctx c : Nat) : Bool :=
  decide ((s.versions.filter fun v => v.2.ctx == ctx && v.2.live).length < 64) && decide (s.versions.length < 768)
  && decide (s.depth 1100 c < 8)

/-- R381: the checks of R266 for the write of the prediction. -/
def State.predCheck (s : State) (e : Env) (va : Nat) : Verdict × State :=
  match s.checkPage e.t.core e.gr.ctx 1 va .store 1 with
  | (.pass t, s) =>
    if isHost t.loc then (.fail .pageProt va none, s)
    else if s.lockHit e.t.core e.gr.ctx e.t.uid 0 va 8 true then (.fail .rangeLock va none, s)
    else if (s.sealAt e.gr.ctx va).isSome then (.fail .writeSealed va none, s)
    else (.pass t, s)
  | r => r

/-- The launch of a version is written, or waits. -/
def State.setLaunch (s : State) (v : Nat) (x : Option (Writer × Record)) : State :=
  { s with versions := Tab.upd s.versions v fun y => { y with launching := x } }
/-- R381, R384: the prediction of a version is written, when there is room for it and the host holds none of its bytes (R424), and its
grid starts. Until then its SPLNCH waits, and goes on with the same version as it is tried again (log entry 69, DEDUCED). A version that
was squashed meanwhile starts no grid: its child completes as a squashed one does (R390). -/
def State.splaunch (s : State) (e : Env) (who : Writer) (v pred : Nat) (t : Tr) (r : Record) : Option Nat × State :=
  let dead := match Tab.get? s.versions v with | some x => x.state == 3 || x.state == 4 | none => true
  if dead then
    let (tag, s) := (s.setLaunch v none).fresh
    let c : Child := { ctx := e.gr.ctx, parent := e.gr.uid, queue := e.gr.queue, pos := e.gr.pos, home := e.gr.home, grid := none, marker := none,
                       done := if s.squashes.any fun q => q.vers.contains v then none else some 0xF4, ver := v }
    (some tag, { s with children := Tab.set s.children tag c })
  else match s.verRoom? e.gr.ctx v t who with
  | (false, s) => (none, s.setLaunch v (some (who, r)))
  | (true, s) =>
    match s.viewHeld v t 8 true with
    | some loc => (none, (s.recallAt loc 8).setLaunch v (some (who, r)))
    | none =>
      let p := ((s.setLaunch v none).storeAt e.t.core v .l1 t (leBytes 8 pred)).startChild e.gr r v
      (some p.1, p.2)
/-- R381: the SPLNCH at a PC of some lanes of a group or span that has made its version and waits to write the prediction: the version, with its
entry and the record. Lanes that have come to it since issue with those that wait. -/
def State.splaunching (s : State) (uid act pc : Nat) : Option (Nat × Ver × Record) :=
  s.versions.findSome? fun v => match v.2.launching with
    | some (.lane u l p, r) => if u == uid && inMask act l && p == pc then some (v.1, v.2, r) else none
    | _ => none

/-- R381: the child of version `v` starts, or its SPLNCH waits: of lanes that waited apart and issue together one version is made. -/
def splnchGo (h : Hdr) (d : Opnd) (e : Env) (act : Nat) (t : Tr) (s : State) (v pred : Nat) (r : Record) : Out :=
  match s.splaunch e (e.writer (lowLane act)) v pred t r with
  | (none, s) => { s, waits := act }
  | (some tag, s) => { s := scalarOut h d 2 (s.unborn e.g.uid act) e act (launchWord 0 (2 ^ 40 * v + tag % 2 ^ 40)) }

/-- R381: SPLNCH once its own operands are aligned: `go` goes on where the record has been taken. -/
def splnchTake (h : Hdr) (d : Opnd) (rec va pred slot : Nat) (nb : Bool) (go : State → Nat → Record → Out) : Body := fun s e act =>
  let answer := fun (s : State) (x : Nat) => ({ s := scalarOut h d 2 s e act x } : Out)
  match s.release e.g.uid .device with
  | (s, false) => { s, waits := act }
  | (s, true) =>
    match s.takeRecord e.gr.home e.gr.ctx e.gr.version rec with
    | (.wait, s) => { s, waits := act }
    | (.bad _, s) => answer s (launchWord 2 0)
    | (.ok r, s) =>
      let s := s.sweepVersions
      let c := s.eff e.gr.version
      let squashing := match Tab.get? s.versions c with | some x => x.state == 3 || x.state == 4 | none => false
      let closed := match Tab.get? s.queues e.gr.queue with | some k => k.closed | none => true
      let twin := s.versions.any fun x => x.2.ctx == e.gr.ctx && s.eff x.2.parent == c && x.2.slot == slot && x.2.opened && x.2.state == 0 && x.2.pred == pred
      if 4 ≤ e.gr.level then answer s (launchWord 4 0)
      else if closed then answer s (launchWord 3 0)
      else if squashing || !s.verRoom e.gr.ctx c || s.freeNum.isNone then answer s (launchWord 5 0)
      else if twin then answer s (launchWord 6 0)
      else if !s.canBuffer e.gr.queue then (if nb then answer s (launchWord 1 0) else { s, waits := act })
      else
        let v := s.freeNum.getD 0
        let x : Ver := { ctx := e.gr.ctx, state := 0, parent := c, slot, opened := true, pred, target := 0, launchVa := va }
        go { s with versions := Tab.set s.versions v x } v r

/-- R381, R266: the checks of the write of the prediction, and what follows them. -/
def splnchChecked (s : State) (e : Env) (act va : Nat) (f : State → Tr → Out) : Out :=
  match s.predCheck e va with
  | (.fail code a absent, s) => { s, raises := (lanesOf act).map fun l => { lane := l, code, addr := a, absent } }
  | (.wait, s) => { s, waits := act }
  | (.pass t, s) => f s t
/-- R381: SPLNCH, or, where it waits with its version made, the writing of that version's prediction at its address. -/
def splnchBody (h : Hdr) (d : Opnd) (rec va pred slot : Nat) (nb : Bool) : Body := fun s e act =>
  match s.splaunching e.g.uid act (e.pc (lowLane act)).toNat with
  | some (v, x, r) => splnchChecked s e act x.launchVa fun s t => splnchGo h d e act t s v x.pred r
  | none =>
  if rec % 64 != 0 then { s, raises := e.raiseAt act .misaligned (some rec) }
  else if va % 8 != 0 || decide (2 ^ 49 ≤ va) then { s, raises := e.raiseAt act .misaligned (some va) }
  else splnchChecked s e act va fun s t => splnchTake h d rec va pred slot nb (fun s v r => splnchGo h d e act t s v pred r) s e act

def execSplnch (h : Hdr) (d a b c : Opnd) (slot : BitVec 4) (ps nb : Bool) (lit : BitVec 32) (s : State) : Host.Outcome State Fault Refusal :=
  issue (.splnch h d a b c slot ps nb lit) (.once false) (fun s e act =>
    let l := lowLane act
    splnchBody h d (e.w64 l a) (e.w64 l c) (if ps then e.w64 l b else lit.toNat) slot.toNat nb s e act) s

/-! ### RESOLVE (R386 to R389, R395) -/

/-- R51, R395: the new average of the acceptance history. -/
def ahistNext (avg accepted proposed : Nat) : Nat :=
  let num := 15 * avg * proposed + 65536 * min accepted proposed
  let den := 16 * proposed
  let q := num / den
  let r := num % den
  min 65535 (if decide (den < 2 * r) || (2 * r == den && q % 2 == 1) then q + 1 else q)

def execResolve (h : Hdr) (d a b : Opnd) (slot : BitVec 4) (s : State) : Host.Outcome State Fault Refusal :=
  issue (.resolve h d a b slot) (.once false) (fun s e act =>
    let l := lowLane act
    let actual := e.w64 l a
    let s := s.sweepVersions
    let c := s.eff e.gr.version
    let squashing := match Tab.get? s.versions c with | some x => x.state == 3 || x.state == 4 | none => false
    let ours := fun (x : Ver) => x.ctx == e.gr.ctx && s.eff x.parent == c && x.slot == slot.toNat && x.opened
    let kids := s.versions.filter fun x => ours x.2 && x.2.state == 0
    if squashing then { s := scalarOut h d 2 s e act (2 ^ 57) }
    else if kids.isEmpty then { s := scalarOut h d 2 s e act (2 ^ 56) }
    else
      let win := (kids.find? fun x => x.2.pred == actual).map (·.1)
      if win.any fun v => s.joinSealed v c then { s, waits := act }
      else match win.bind fun v => s.joinHeld v c with
      | some loc => { s := s.recallAt loc 1, waits := act }
      | none =>
      let rest := (kids.map (·.1)).filter fun v => some v != win
      let shut : State := { s with versions := s.versions.map fun (x : Nat × Ver) => if ours x.2 then (x.1, { x.2 with opened := false }) else x }
      let done := match win with | some v => shut.commit v c | none => shut
      let (gone, s) := done.squash e.gr.ctx rest
      let counts := match b with | .s _ => e.w64 l b | _ => 0
      let s := if fld counts 32 32 == 0 then s
        else s.updCtx e.gr.ctx fun k => { k with ahist := BitVec.ofNat 16 (ahistNext k.ahist.toNat (fld counts 0 32) (fld counts 32 32)) }
      let s := s.acquire e.t.core .device
      { s := scalarOut h d 2 s e act (2 ^ 16 * min gone.length 255 + win.getD 0) }) s

/-! ### VQRY and VABORT (R397, R398) -/

/-- R384, R397: a writer that stalled still does: a lane of a group, or a span, that waits at issue at its PC; an operation of an engine;
a peer's request that has come and waits. -/
def State.stalls (s : State) : Writer → Bool
  | .lane uid l pc => match Tab.get? s.groups uid, Tab.get? s.spans uid with
    | some g, _ => (g.lane l).block == .retry && (g.lane l).pc.toNat == pc
    | none, some p => p.block == .retry && p.pc.toNat == pc
    | none, none => false
  | .engine op => (s.teams.any fun t => t.2.ops.any fun o => o.1 == op) || s.cores.any fun c => c.2.channels.any fun k => k.2.any fun o => o.op == op
  | .request peer stream => (s.inLink peer).inbox.any fun c => match c with | .request r => r.stream == stream | _ => false

/-- R397: what VQRY reads. -/
def State.versionWord (s : State) (ctx v : Nat) : Nat :=
  let kids := (s.versions.filter fun x => x.2.ctx == ctx && x.2.live && x.2.parent == v).length
  if v == 0 then 2 + 2 ^ 24 * min kids 255
  else match Tab.get? s.versions v with
    | none => 7
    | some x =>
      if x.ctx != ctx then 7
      else x.state + 2 ^ 3 * b2n (x.stalled.any s.stalls) + 2 ^ 4 * s.depth 1100 v + 2 ^ 8 * x.parent + 2 ^ 24 * min kids 255
        + (if x.state == 2 then 2 ^ 32 * s.eff v else 0)

def execVqry (h : Hdr) (d a : Opnd) (drops : Bool) (s : State) : Host.Outcome State Fault Refusal :=
  issue (.vqry h d a drops) (.once false) (fun s e act =>
    if drops then { s := scalarOut h d 2 s e act (((Tab.get? s.contexts e.gr.ctx).map (·.drops)).getD 0) }
    else
      let s := s.sweepVersions
      let w := s.versionWord e.gr.ctx (e.w64 (lowLane act) a % 2 ^ 16)
      { s := scalarOut h d 2 (if w % 8 == 2 then s.acquire e.t.core .device else s) e act w }) s

def execVabort (h : Hdr) (d a : Opnd) (s : State) : Host.Outcome State Fault Refusal :=
  issue (.vabort h d a) (.once false) (fun s e act =>
    let v := e.w64 (lowLane act) a % 2 ^ 16
    let s := s.sweepVersions
    let mine := s.eff e.gr.version
    if v == 0 then { s := scalarOut h d 2 s e act 2 }
    else match Tab.get? s.versions v with
      | some x =>
        if x.state != 0 || x.ctx != e.gr.ctx || !(mine == 0 || s.under mine 1100 v) then { s := scalarOut h d 2 s e act 1 }
        else
          let (gone, s) := s.squash e.gr.ctx [v]
          let s := if gone.contains e.gr.version then s.updGrid e.gr.uid fun g => { g with stopped := true } else s
          { s := scalarOut h d 2 s e act 0 }
      | none => { s := scalarOut h d 2 s e act 1 }) s

/-! ### Notices (R391, R393) -/

/-- R391: the event VERSION_NOTICE: foreign entries for a version and the ancestors that are not held; it waits while fewer
are free. -/
def execVersionNotice (peer version ctx : Nat) (ancestors : List Nat) (s : State) : Host.Outcome State Fault Refusal :=
  let note := Cargo.version version ctx ancestors
  let need := (version :: ancestors).filter fun v => (Tab.get? s.foreign v).isNone && v != 0
  if !s.arrived peer note || decide (255 < s.foreign.length + need.length) then .next s
  else
    let all := version :: ancestors
    let c := (Tab.get? s.fabricCtx ctx).getD 0
    .next { s.takeIn peer note with foreign := need.foldl (fun f v =>
      Tab.set f v { peer, ctx := c, ancestors := (all.dropWhile (· != v)).drop 1 }) s.foreign }

/-- R393: every request from a peer up to the marks has been performed, or has arrived and been dropped; those that came before a reset
of the link go before (R406). -/
def State.marksPassed (s : State) (peer : Nat) (marks : List Nat) : Bool :=
  (List.range 16).all fun k => (s.stream peer k).old == 0 && decide (((s.stream peer k).expect + 131071 - marks.getD k 65535) % 65536 < 32768)

/-- A version that is DEAD here (R393). -/
def State.deadHere (s : State) (v : Nat) : Bool :=
  v != 0 && ((match Tab.get? s.foreign v with | some f => f.dead.isSome | none => false)
    || match Tab.get? s.versions v with | some x => x.state == 4 | none => false)

/-- A foreign entry goes: it is no longer an ancestor, and what commits into it commits into `c`. -/
def State.dropForeign (s : State) (v c : Nat) : State :=
  let turn := fun (x : Nat × List Nat) => if x.1 == v then (c, x.2) else x
  { s with foreign := (Tab.del s.foreign v).map fun (f : Nat × Foreign) =>
      (f.1, { f.2 with ancestors := f.2.ancestors.filter (· != v), commits := f.2.commits.map turn }) }

/-- R393: a foreign version's lines and frames go, as far as the host holds no slot of them. -/
def State.dropView (s : State) (v : Nat) : State :=
  let s := { s with vlines := s.vlines.filter fun x => x.ver != v }
  (s.frames.filter fun g => g.ver == v).foldl (fun s g => match s.slotsHeld [g] with
    | some s => s
    | none => s.freeFrame g) s
/-- No frame carries a version or its tag. -/
def State.noFrame (s : State) (v : Nat) : Bool := s.frames.all fun g => g.ver != v && g.tag != v

/-- R377, R394: whose writes those of a foreign version are now: one whose own writes have joined their target's stands for that. -/
def State.effForeign (s : State) : Nat → Nat → Nat
  | 0, v => v
  | n + 1, v => match Tab.get? s.foreign v with
    | some f => match f.joined, f.commits with
      | true, some (c, _) => s.effForeign n c
      | _, _ => v
    | none => v

/-- R393: what a commit notice that has come does to a foreign entry, as far as it can: once its marks are passed the version's writes
join the target's view, when the host holds none of the bytes (R424) and none of them are sealed (R292); with the frames retagged the entry
goes and is acknowledged. A target that is DEAD takes no writes; one whose own writes have joined those of another, which take these too
(R394). -/
def State.commitForeign (s : State) (peer version target : Nat) (marks : List Nat) : State :=
  let hold := fun (s : State) (joined : Bool) =>
    { s with foreign := Tab.upd s.foreign version fun f => { f with commits := some (target, marks), joined := f.joined || joined } }
  let c := s.effForeign 16 target
  if !s.marksPassed peer marks then hold s false
  else
    let gone := c != 0 && (s.deadHere c || (Tab.get? s.foreign c).isNone)
    if !gone && s.joinSealed version c then hold s false
    else match if gone then none else s.joinHeld version c with
    | some loc => hold (s.recallAt loc 1) false
    | none =>
    let s := if gone then s.dropView version else (s.join version c).retagAll version c
    if s.noFrame version then (s.dropForeign version c).sendCargo peer (.ack version false) else hold s true

/-- R393: the event COMMIT_NOTICE: the notice comes, or is looked at again. -/
def execCommitNotice (peer version target : Nat) (marks : List Nat) (s : State) : Host.Outcome State Fault Refusal :=
  let note := Cargo.commit version target marks
  match Tab.get? s.foreign version with
  | none => .next (if s.arrived peer note then (s.takeIn peer note).sendCargo peer (.ack version false) else s)
  | some f =>
    match f.commits with
    | some c => .next (if c == (target, marks) then s.commitForeign peer version target marks else s)
    | none => .next (if s.arrived peer note then (s.takeIn peer note).commitForeign peer version target marks else s)

/-- R393: what a dead notice that has come does to a foreign entry: its view goes at once, the entry once the marks are passed. -/
def State.deadForeign (s : State) (peer version : Nat) (marks : List Nat) : State :=
  let s := State.dropView { s with foreign := Tab.upd s.foreign version fun f => { f with dead := some marks } } version
  if s.marksPassed peer marks && s.noFrame version then (s.dropForeign version version).sendCargo peer (.ack version true) else s

/-- R393: the event DEAD_NOTICE: the notice comes, or is looked at again. -/
def execDeadNotice (peer version : Nat) (marks : List Nat) (s : State) : Host.Outcome State Fault Refusal :=
  let note := Cargo.dead version marks
  match Tab.get? s.foreign version with
  | none => .next (if s.arrived peer note then (s.takeIn peer note).sendCargo peer (.ack version true) else s)
  | some f =>
    match f.dead with
    | some m => .next (if m == marks then s.deadForeign peer version marks else s)
    | none => .next (if s.arrived peer note then (s.takeIn peer note).deadForeign peer version marks else s)

/-- R393, R378, R410: the event NOTICE_ACK: of a commit notice, or of a dead notice. -/
def execNoticeAck (peer : Nat) (version : VerAck) (s : State) : Host.Outcome State Fault Refusal :=
  let note := Cargo.ack version.version version.dead
  if !s.arrived peer note then .next s
  else
    let s := s.takeIn peer note
    match Tab.get? s.versions version.version with
    | none => .next s
    | some x =>
      if x.state != (if version.dead then 4 else 1) then .next s
      else
        let owed := x.owed.filter (· != peer)
        let s := { s with versions := Tab.set s.versions version.version { x with owed, state := if !version.dead && owed.isEmpty then 2 else x.state } }
        let s := if version.dead then
            { s with streams := s.streams.map fun (y : Stream) => if y.peer == peer then { y with owed := y.owed.filter fun o => o.version != version.version } else y }
          else s
        .next s.sweepVersions

end Sys2Proof.Machine
end

