-- ==== Sys2Proof/Machine/Fabric.lean ====
section
/-! DEFINITION. The fabric instructions (spec/21_link.md R412 to R420), the fabric engine of RCOPY, and the performing of a
peer's request (R409). -/

namespace Sys2Proof.Machine

/-! ### Addresses and checks (R413) -/

/-- R413: the device of a fabric address, and the bits that must be zero. -/
def fabDevice (a : Nat) : Nat := fld a 58 6
def fabBad (a : Nat) : Bool := fld a 49 9 != 0
/-- R413: the address of an RLD or RST. -/
def Env.rAddr (a b : Opnd) (off : BitVec 32) (e : Env) (l : Nat) : Nat := wrapZ 64 ((e.w64 l a : Int) + sext 32 (e.w32 l b) + off.toInt)

/-- R295: a request of some items of a grid on another stream to the same line is outstanding. -/
def State.lineBusy (s : State) (grid : Nat) (rs : List (Nat × Nat)) (a stream : Nat) : Bool :=
  s.streams.any fun x => x.peer == fabDevice a && x.stream != stream && x.owed.any fun o =>
    o.grid == grid && o.copy.isNone && (o.items.zip o.offs).any fun p => itemsMeet rs p.1 && (o.addr + p.2) / 128 == a / 128

/-- How the checks of one lane end. -/
inductive RCheck where | ok | wait | bad (code : TrapCode)
  deriving DecidableEq, Repr
/-- R410, R413: the requests that the lanes before and one at `a` make to its device: one for each lane, or one for each block. -/
def requestsAt (each : Bool) (before : List (Nat × Nat)) (a : Nat) : Nat :=
  let as := ((before.map (·.2)) ++ [a]).filter fun x => fabDevice x == fabDevice a
  if each then as.length else (as.map (· / 256)).eraseDups.length
/-- R413: the checks of a lane behind lanes that have passed. -/
def State.rCheck (s : State) (e : Env) (each : Bool) (before : List (Nat × Nat)) (l a n stream : Nat) : RCheck :=
  let k := s.link (fabDevice a)
  if fabBad a || a % n != 0 then .bad .misaligned
  else if k.refuses then .bad .remoteError
  else if k.state == .training || !s.windowRoom (fabDevice a) stream (requestsAt each before a)
      || s.lineBusy e.gr.uid (e.itemRanges (2 ^ l)) a stream then .wait
  else .ok

/-- The lanes that go on, with their addresses; what the others do. The requests of one instruction are numbered together, in their order
(R413, R415): where a lane waits, those that pass wait with it. -/
def rLanes (s : State) (e : Env) (each : Bool) (act n stream : Nat) (addr : Nat → Nat) : Out × List (Nat × Nat) :=
  let r := (lanesOf act).foldl (fun (r : Out × List (Nat × Nat)) l =>
    match s.rCheck e each r.2 l (addr l) n stream with
    | .ok => (r.1, r.2 ++ [(l, addr l)])
    | .wait => ({ r.1 with waits := maskOr r.1.waits (2 ^ l) }, r.2)
    | .bad code => ({ r.1 with raises := r.1.raises ++ [{ lane := l, code, addr := addr l, absent := none }] }, r.2)) ({ s }, [])
  if r.1.waits == 0 then r else ({ r.1 with waits := maskOr r.1.waits (maskOfVals r.2) }, [])

/-- R413: the 256-byte blocks of some lanes' accesses, in increasing address. -/
def blocksOf (ls : List (Nat × Nat)) : List Nat :=
  let bs := (ls.map fun x => x.2 / 256).eraseDups
  bs.foldl (fun acc b => (acc.filter (· < b)) ++ [b] ++ acc.filter (b < ·)) []
/-- The lanes of a block, the first byte and the length of its request. -/
def blockLanes (ls : List (Nat × Nat)) (b n : Nat) : List (Nat × Nat) × Nat × Nat :=
  let xs := ls.filter fun x => x.2 / 256 == b
  let lo := xs.foldl (fun m x => min m x.2) (256 * b + 255)
  let hi := xs.foldl (fun m x => max m (x.2 + n)) 0
  (xs, lo, hi - lo)

/-- A request that is owed a reply. -/
def Owed.make (e : Env) (lanes offs : List Nat) (kind size : Nat) (sz : Sz) (reg : Reg) (flight : Nat) (ns : Bool) : Owed :=
  { seq := 0, addr := 0, version := 0, ctx := e.gr.ctx, group := e.g.uid, lanes, kind, sz, reg, size, offs, flight, ns, copy := none, what := .read 0,
    grid := e.gr.uid, items := lanes.flatMap fun l => e.itemRanges (2 ^ l) }

/-! ### RLD, RST, RATOM (R414, R415) -/

def execRld (h : Hdr) (sz : Sz) (ns : Bool) (stream : BitVec 4) (d a b : Opnd) (off : BitVec 32) (s : State) : Host.Outcome State Fault Refusal :=
  issue (.rld h sz ns stream d a b off) .lower (fun s e act =>
    let (o, ls) := rLanes s e false act sz.bytes stream.toNat (Env.rAddr a b off e)
    let reg := ((Opnd.regs d 1).head?).getD (.v 0)
    let s := (blocksOf ls).foldl (fun (s : State) blk =>
      let (xs, lo, n) := blockLanes ls blk sz.bytes
      let m := laneMask fun l => xs.any fun x => x.1 == l
      let fl := s.uids
      let s := s.result e.g.uid h m .var (e.g.keep d sz.regs) 0
      s.request (fabDevice lo) stream.toNat e.gr.version e.gr.ctx (.read n) lo
        (Owed.make e (xs.map (·.1)) (xs.map fun x => x.2 - lo) 0 sz.bytes sz reg fl ns)) o.s
    let m := laneMask fun l => ls.any fun x => x.1 == l
    if ns then { o with s } else { o with s := s.hold e.g.uid m .remote, stays := m }) s

/-- The bytes and enables of a write request. -/
def blockBytes (xs : List (Nat × Nat)) (lo n : Nat) (data : Nat → List Byte) : List Byte × List Bool :=
  xs.foldl (fun (r : List Byte × List Bool) x =>
    let k := x.2 - lo
    let bs := data x.1
    (mapFrom (fun i b => if k ≤ i && i < k + bs.length then bs.getD (i - k) 0 else b) 0 r.1,
     mapFrom (fun i b => b || (k ≤ i && decide (i < k + bs.length))) 0 r.2)) (zeros n, List.replicate n false)

def execRst (h : Hdr) (sz : Sz) (stream : BitVec 4) (a b c : Opnd) (off : BitVec 32) (s : State) : Host.Outcome State Fault Refusal :=
  issue (.rst h sz stream a b c off) .lower (fun s e act =>
    let (o, ls) := rLanes s e false act sz.bytes stream.toNat (Env.rAddr a b off e)
    { o with s := (blocksOf ls).foldl (fun (s : State) blk =>
      let (xs, lo, n) := blockLanes ls blk sz.bytes
      let (bs, ms) := blockBytes xs lo n (e.stData sz c)
      s.request (fabDevice lo) stream.toNat e.gr.version e.gr.ctx (.write bs ms) lo
        (Owed.make e (xs.map (·.1)) (xs.map fun x => x.2 - lo) 1 sz.bytes sz (.v 0) 0 true)) o.s }) s

def execRatom (h : Hdr) (op : AtomOp) (sgn x64 ns : Bool) (stream : BitVec 4) (d a b c : Opnd) (off : BitVec 32) (s : State) :
    Host.Outcome State Fault Refusal :=
  issue (.ratom h op sgn x64 ns stream d a b c off) .lower (fun s e act =>
    let m : AMod := { op, sgn, x64, scope := .pod, ord := .rlx }
    let (o, ls) := rLanes s e true act (m.w / 8) stream.toNat (Env.litAddr a off true e)
    let reg := ((Opnd.regs d 1).head?).getD (.v 0)
    let s := ls.foldl (fun (s : State) x =>
      let fl := s.uids
      let s := s.result e.g.uid h (2 ^ x.1) .var (e.g.keep d (b2w x64)) 0
      s.request (fabDevice x.2) stream.toNat e.gr.version e.gr.ctx
        (.atomic m (BitVec.ofNat 64 (e.atomB m x.1 b)) (if op == .cas then e.word64 x64 x.1 c else 0)) x.2
        (Owed.make e [x.1] [0] 2 (m.w / 8) (if x64 then .b64 else .b32) reg fl ns)) o.s
    let k := laneMask fun l => ls.any fun x => x.1 == l
    if ns then { o with s } else { o with s := s.hold e.g.uid k .remote, stays := k }) s

/-! ### RCOPY (R416) -/

/-- R416: the first byte of a fabric range whose bits [57:49] are not zero. -/
def fabPast (a n : Nat) : Option Nat :=
  if fabBad a then some a else if 2 ^ 49 < a % 2 ^ 49 + n then some (a / 2 ^ 49 * 2 ^ 49 + 2 ^ 49) else none

def State.rcopyTrap (s : State) (e : Env) (o : CopyOp) : Option (TrapCode × Option Nat) :=
  let limit := match o.ssp with | .sh => e.t.shared | _ => e.t.tileBytes
  let badSrc := if o.ssp == .g then badRow o.src o.rowlen else none
  let past := if o.ssp == .g then none else pastRow limit o.src o.rowlen
  if o.dst % 4 != 0 then some (.misaligned, some o.dst)
  else if o.src % 4 != 0 then some (.misaligned, some o.src)
  else if o.rowlen % 4 != 0 then some (.misaligned, none)
  else if o.rowlen == 0 || decide (2 ^ 32 - 4 < o.rowlen) then some (.illegalEnc, none)
  else match fabPast o.dst o.rowlen, badSrc, past with
    | some a, _, _ => some (.misaligned, some a)
    | none, some a, _ => some (.misaligned, some a)
    | none, none, some a => some (.pageProt, some a)
    | none, none, none => if (s.link (fabDevice o.dst)).refuses then some (.remoteError, some o.dst) else none

def execRcopy (h : Hdr) (ssp : Spc) (lens : Bool) (stream : BitVec 4) (hd : BitVec 4) (a b c : Opnd) (lit : BitVec 32) (s : State) :
    Host.Outcome State Fault Refusal :=
  issue (.rcopy h ssp lens stream hd a b c lit) .lower (fun s e act =>
    let l := lowLane act
    let src := e.w64 l b
    let o : CopyOp := { team := e.t.uid, group := e.g.uid, fid := 0, op := 0, dsp := .g, ssp, dst := e.w64 l a,
                        src := if ssp == .g then src else src % 2 ^ 32, rowlen := if lens then e.w64 l c else lit.toNat, rows := 1, dstr := 0,
                        sstr := 0, stream := stream.toNat, sent := 0, unacked := [], paused := false }
    match s.rcopyTrap e o with
    | some (code, x) => { s, raises := e.raiseAt act code x }
    | none =>
      let rs := (o.ranges).drop 1
      if e.createWaits hd.toNat || e.c.lockWaits e.gr.ctx e.t.uid rs || (s.link (fabDevice o.dst)).state == .training then { s, waits := act }
      else match s.drain e.g.uid with
        | (s, false) => { s, waits := act }
        | (s, true) =>
          let (fid, s) := s.newFuture e hd.toNat 1 0
          let (op, s) := s.fresh
          { s := (s.enterLocks e.t.core e.gr.ctx e.t.uid op rs).updCore e.t.core fun k => { k with fabric := k.fabric ++ [{ o with fid, op }] } }) s

/-- R416: the event RCOPY_PIECE_SEND: the fabric engine reads the next piece and sends it as a numbered write. -/
def execRcopyPieceSend (team fid : Nat) (s : State) : Host.Outcome State Fault Refusal :=
  match Tab.get? s.teams team with
  | none => .next s
  | some t =>
    match s.cores.findSome? (fun c => (c.2.fabric.find? fun o => o.team == team && o.fid == fid).map fun o => (c.1, o)), s.futureOf team fid with
    | some (core, o), some f =>
      let peer := fabDevice o.dst
      let (ctx, ver) := s.teamView team
      if f.cancel then .next ((s.setFabricOp core { o with reading := none }).fabricMoves core o)
      else if ((!t.resident || s.ctxHalted ctx) && o.ssp != .g) || o.paused || decide (o.total ≤ o.sent) then .next s
      else if (s.link peer).refuses then .next (s.endFabric core o 4 TrapCode.remoteError.num (o.dst + o.sent))
      else if (s.link peer).state == .training || !s.windowRoom peer o.stream 1 then .next s
      else
        let a := o.dst + o.sent
        let n := min (o.total - o.sent) (256 - a % 256)
        match s.engRead core ctx ver team o.ssp o.kept (o.srcAt o.sent) (n / 4) with
        | ((bs, .ok), s) =>
          let w : Owed := { seq := 0, addr := a, version := 0, ctx, group := o.group, lanes := [], kind := 5, sz := .b32, reg := .v 0,
                            size := n, offs := [o.sent], flight := 0, ns := true, copy := some (team, o.op), what := .read 0 }
          let s := s.request peer o.stream ver ctx (.write bs (List.replicate n true)) a w
          let reading := s.readsOn ctx o.reading (o.between (o.sent + n))
          .next (s.setFabricOp core { o with sent := o.sent + n, unacked := o.unacked ++ [(o.sent, n)], reading })
        | ((_, .error code va), s) => .next (s.endFabric core o 4 code.num va)
        | ((_, x), s) => .next (s.copyTrouble core ctx ver o x)
    | _, _ => .next s

/-! ### SREL, RJOIN, LNKQ (R417 to R419) -/

def execSrel (h : Hdr) (stream : BitVec 4) (value a : Opnd) (s : State) : Host.Outcome State Fault Refusal :=
  issue (.srel h stream value a) (.once false) (fun s e act =>
    let l := lowLane act
    let va := e.w64 l a
    let peer := fabDevice va
    if fabBad va || va % 8 != 0 then { s, raises := e.raiseAt act .misaligned (some va) }
    else if (s.link peer).refuses then { s, raises := e.raiseAt act .remoteError (some va) }
    else if (s.link peer).state == .training then { s, waits := act }
    else match s.drain e.g.uid with
      | (s, false) => { s, waits := act }
      | (s, true) =>
        match s.latches.find? fun x => x.ctx == e.gr.ctx && x.peer == peer && x.stream == stream.toNat with
        | some x => { s, raises := (e.raiseAt act .remoteError (some x.addr)).map fun r => { r with latch := some x } }
        | none =>
          if !s.windowRoom peer stream.toNat 1 || s.lineBusy e.gr.uid (e.itemRanges act) va stream.toNat then { s, waits := act }
          else { s := s.request peer stream.toNat e.gr.version e.gr.ctx (.release (BitVec.ofNat 64 (e.w64 l value))) va
                   (Owed.make e (lanesOf act) ((lanesOf act).map fun _ => 0) 3 8 .b64 (.v 0) 0 true) }) s

def execRjoin (h : Hdr) (j : BitVec 4) (s : State) : Host.Outcome State Fault Refusal :=
  issue (.rjoin h j) .lower (fun s e act => { s := s.hold e.g.uid act (.join j.toNat true), stays := act }) s

/-- R418: a lane at an RJOIN has arrived once no reply is owed to it. -/
def State.rjoinLane (s : State) (t : Team) (gr : Grid) (gid l : Nat) (x : Lane) : Lane :=
  match x.block with
  | .join j true =>
    let i := itemOf t gr gid l
    if x.failures.isEmpty && !s.owesLoads gr.uid [(i, i)] then { x with block := .join j false } else x
  | _ => x
def State.rjoinArrivals (s : State) : State :=
  { s with groups := s.groups.map fun (g : Nat × Group) => match Tab.get? s.teams g.2.team, Tab.get? s.grids g.2.grid with
      | some t, some gr => (g.1, { g.2 with lanes := mapFrom (s.rjoinLane t gr g.2.gid) 0 g.2.lanes })
      | _, _ => g }

/-- R419: what LNKQ reads. -/
def State.linkWord (s : State) (ctx peer : Nat) : Nat :=
  let k := s.link peer
  k.state.num + 2 ^ 3 * popN 16 k.mask + 2 ^ 8 * k.mask + 2 ^ 24 * b2n k.enc
    + 2 ^ 25 * b2n (s.latches.any fun x => x.ctx == ctx && x.peer == peer) + 2 ^ 32 * min k.resentTotal 65535 + 2 ^ 48 * min k.restripes 65535
def State.streamWord (s : State) (ctx peer n : Nat) : Nat :=
  let x := s.stream peer n
  x.owed.length + 2 ^ 16 * x.next + 2 ^ 32 * b2n (s.latches.any fun y => y.ctx == ctx && y.peer == peer && y.stream == n)

def execLnkq (h : Hdr) (str : Bool) (d a : Opnd) (s : State) : Host.Outcome State Fault Refusal :=
  issue (.lnkq h str d a) (.once false) (fun s e act =>
    let x := e.w64 (lowLane act) a
    { s := scalarOut h d 2 s e act (if str then s.streamWord e.gr.ctx (fld x 0 6) (fld x 8 4) else s.linkWord e.gr.ctx (fld x 0 6)) }) s

/-! ### Performing a peer's request (R409) -/

/-- How a request ends: answered with a status and data, half done with the bytes it has read, or stopped in its place. -/
inductive RDone where
  | answer (status : Nat) (data : List Byte)
  | part (bs : List Byte)
  | stop
  deriving DecidableEq, Repr

/-- The core number under which the fabric unit's accesses go: no core has it. -/
def fabricCore : Nat := 258

/-- R330, R409: a request attaches to a pending fault. -/
def State.parkReq (s : State) (ctx va : Nat) (a : AbsentAt) (r : Req) : State :=
  match s.pfaultSlot 0 ctx va a with
  | (none, s) => s
  | (some k, s) => State.postFaults { s with pfaults := Tab.upd s.pfaults k fun p =>
      ({ p with reqs := if p.reqs.contains r then p.reqs else p.reqs ++ [r] }.note
        { owner := 16 * r.peer + r.stream, lane := 1000, va, flags := a.flags, core := 0 }) }

/-- R382 to R385, R391: room for a version's write of some bytes, line by line; `who` is the writer. -/
def State.roomAll (s : State) (ctx ver : Nat) (t : Tr) (who : Writer) : List Nat → Bool × State
  | [] => (true, s)
  | k :: ks => match s.verRoom? ctx ver (t.add k) who with
    | (true, s) => s.roomAll ctx ver t who ks
    | r => r
/-- The first bytes of the lines that `n` bytes from a place on lie in. -/
def lineStarts (loc n : Nat) : List Nat := (List.range n).filter fun k => k == 0 || (loc + k) % 128 == 0
/-- R277, R292: a request writes a byte of a sealed range. -/
def State.remoteSealed (s : State) (r : Req) (ctx n : Nat) : Bool :=
  let on := fun (k : Nat) => match r.kind with | .write _ ms => ms.getD k false | .read _ => false | _ => true
  (List.range n).any fun k => on k && (s.sealAt ctx (r.addr + k)).isSome

/-- The bytes of a request. -/
def reqSize (r : Req) : Nat := match r.kind with | .read n => n | .write bs _ => bs.length | .atomic m _ _ => m.w / 8 | .release _ => 8
def reqAcc (r : Req) : Acc := match r.kind with | .read _ => .load | _ => .store
/-- R408, R409: a request of a shape that no request has, and an address that is misaligned or past the address space. -/
def reqBad (r : Req) : Bool :=
  decide (2 ^ 49 ≤ r.addr) || match r.kind with
    | .read _ | .write _ _ => reqSize r == 0 || decide (256 < r.addr % 256 + (reqSize r))
    | _ => r.addr % (reqSize r) != 0

/-- R424: the half of a request's bytes that the host holds is asked for; `none` where it holds none. -/
def State.heldAll (s : State) (r : Req) (t : Tr) : Option State :=
  let held := fun (write : Bool) => s.viewHeld r.version t (reqSize r) write
  (match r.kind with
    | .read _ => held false
    | .atomic _ _ _ => (held true).or (held false)
    | _ => held true).map fun loc => s.recallAt loc 1

/-- R266, R409: the checks of a request in a context's view of its version: its place, or how it ends. -/
def State.remoteCheck (s : State) (r : Req) (ctx : Nat) : (Tr ⊕ RDone) × State :=
  if reqBad r then (.inr (.answer 2 []), s)
  else match s.checkPage fabricCore ctx r.version r.addr (reqAcc r) (if reqAcc r == .store then 1 else 0) with
    | (.fail _ va (some a), s) => (.inr .stop, s.parkReq ctx va a r)
    | (.fail _ _ none, s) => (.inr (.answer 2 []), s)
    | (.wait, s) => (.inr .stop, s)
    | (.pass t, s) =>
      if s.hostErrors t.loc (reqSize r) then (.inr (.answer 2 []), s)
      else if s.remoteSealed r ctx (reqSize r) then (.inr (.answer 3 []), s)
      else match (if reqAcc r == .load then (true, s)
            else s.roomAll ctx r.version t (.request r.peer r.stream) (lineStarts t.loc (reqSize r))) with
        | (false, s) => (.inr .stop, s)
        | (true, s) => match s.heldAll r t with
          | some s => (.inr .stop, s)
          | none => (.inl t, s)

/-- The offsets of a request at a place whose bytes lie in 8-byte words of even or odd number. -/
def reqPart (r : Req) (loc : Nat) (odd : Bool) : List Nat := (List.range (reqSize r)).filter fun k => (loc + k) / 8 % 2 == b2n odd
/-- R286: a request of more than 8 bytes is performed in two parts, each of which keeps every 8-byte word whole. -/
def reqParts (r : Req) : Bool := match r.kind with | .read _ | .write _ _ => decide (8 < (reqSize r)) | _ => false

/-- R409: bytes of a read request, at the offsets of a list, put into `old`; or poison. -/
def State.remoteRead (s : State) (ver : Nat) (t : Tr) (ks : List Nat) (old : List Byte) : Option (List Byte) × State :=
  let s := ks.foldl (fun (s : State) k => (s.useView ver (t.add k) 1).hostUse .l2 (t.loc + k) 1) s
  let got := ks.map fun k => (k, s.viewByte ver (t.add k))
  if got.any fun x => x.2.2 then (none, s)
  else (some (mapFrom (fun k b => ((got.find? fun x => x.1 == k).map (·.2.1)).getD b) 0 old), s)
/-- R300, R318, R399, R416: the core whose L1 the write of a request goes past: for a copy of this module to itself that of its team, which then
reads no older value than the copy's future reports. -/
def State.reqCore (s : State) (r : Req) : Nat :=
  if r.peer != s.device then fabricCore
  else ((((s.stream r.peer r.stream).owed.find? fun o => o.seq == r.seq).bind fun o => o.copy).bind fun c => (Tab.get? s.teams c.1).map (·.core)).getD fabricCore
/-- A write of some bytes of a request at a place. -/
def State.remoteWrite (s : State) (core ver : Nat) (t : Tr) (bs : List Byte) (ks : List Nat) : State :=
  ks.foldl (fun (s : State) k => s.storeAt core ver .l2 (t.add k) [bs.getD k 0]) s
/-- R267: the sectors that a request writes whole. -/
def State.remoteClear (s : State) (ver : Nat) (t : Tr) (ks : List Nat) : State := s.clearView ver (ks.map fun k => t.loc + k)

/-- R409: what the bytes of a request at the offsets `ks` do at its place; `old` are the bytes read before, `last` says that no part
is left. -/
def State.remoteAct (s : State) (r : Req) (t : Tr) (ks : List Nat) (old : List Byte) (last : Bool) : RDone × State :=
  let end_ := fun (bs : List Byte) => if last then RDone.answer 0 bs else .part bs
  match r.kind with
  | .read _ => match s.remoteRead r.version t ks old with
    | (none, s) => (.answer 1 [], s)
    | (some bs, s) => (end_ bs, s)
  | .write bs ms =>
    let s := s.remoteWrite (s.reqCore r) r.version t bs (ks.filter fun k => ms.getD k false)
    (end_ [], if last then s.remoteClear r.version t ((List.range bs.length).filter fun k => ms.getD k false) else s)
  | .release v => (.answer 0 [], (s.remoteWrite (s.reqCore r) r.version t (leBytes 8 v.toNat) (List.range 8)).remoteClear r.version t (List.range 8))
  | .atomic m b c =>
    if !s.atomicOk m t.loc then (.answer 2 [], s)
    else match s.atomicAt fabricCore r.version m t b.toNat c.toNat with
      | (some x, s) => (.answer 0 (leBytes (reqSize r) x), s)
      | (none, s) => (.answer 1 [], s)

/-- R286, R409: perform a request, or one part of it: the first after the checks, the second at the place that they gave. -/
def State.remoteDo (s : State) (r : Req) (ctx : Nat) : RDone × State :=
  match (s.stream r.peer r.stream).half with
  | some h =>
    let t : Tr := { loc := h.loc, ov := h.ov }
    if s.hostErrors t.loc h.size then (.answer 2 [], s)
    else match s.heldAll r t with
    | some s => (.stop, s)
    | none => s.remoteAct r t (reqPart r h.loc !h.odd) h.bytes true
  | none => match s.remoteCheck r ctx with
    | (.inr x, s) => (x, s)
    | (.inl t, s) =>
      if !reqParts r then s.remoteAct r t (List.range (reqSize r)) (zeros (reqSize r)) true
      else
        let (n, s) := s.draw
        let odd := Config.highFirst n
        match s.remoteAct r t (reqPart r t.loc odd) (zeros (reqSize r)) false with
        | (.part bs, s) => (.part bs, s.setStream { s.stream r.peer r.stream with half := some { odd, loc := t.loc, ov := t.ov, bytes := bs, size := reqSize r } })
        | x => x

/-- R295, R406: the turn of a request that has come: it is the first of its source and stream, and its number is next, or it came
before the link was reset. -/
def State.reqTurn (s : State) (r : Req) : Bool :=
  let x := s.stream r.peer r.stream
  let mine := (s.inLink r.peer).inbox.filter fun c => match c with | .request q => q.stream == r.stream | _ => false
  s.arrived r.peer (.request r) && mine.head? == some (.request r) && (decide (0 < x.old) || r.seq == x.expect)
  && !(s.pfaults.any fun p => p.2.reqs.contains r)

/-- The sequence of a source and stream goes on. -/
def State.seqOn (s : State) (r : Req) : State :=
  let s := s.takeIn r.peer (.request r)
  let x := s.stream r.peer r.stream
  s.setStream (if 0 < x.old then { x with old := x.old - 1, half := none } else { x with expect := (x.expect + 1) % 65536, half := none })

/-- R408, R409: the context that a fabric context number names, unless it is destroyed. -/
def State.fctxCtx (s : State) (fctx : Nat) : Option Nat :=
  (Tab.get? s.fabricCtx fctx).bind fun c => match Tab.get? s.contexts c with
    | some k => if k.state == .destroyed then none else some c
    | none => none

/-- R393, R410: a request of a DEAD version is dropped. One of this module to itself, to which no dead notice goes that would be
acknowledged, leaves the window as it is dropped (R399; log entry 83, DESIGN CHOICE). -/
def State.dropReq (s : State) (r : Req) : State :=
  let own := r.peer == s.device && (s.stream r.peer r.stream).old == 0
  let s := (s.seqOn r).fed r.version (.request r.peer r.stream)
  let x := s.stream r.peer r.stream
  match x.owed.find? fun o => o.seq == r.seq with
  | some o => if own then s.setStream { x with owed := x.owed.erase o } else s
  | none => s

/-- R295, R393, R409: the event REMOTE_REQUEST_PERFORM: the request whose turn it is, is performed, or one part of it. One of a
version that is DEAD is dropped. One that came before a reset of the link is not answered: its number has failed, and is another request's
now (R406). -/
def execRemoteRequestPerform (r : Req) (s : State) : Host.Outcome State Fault Refusal :=
  let late := decide (0 < (s.stream r.peer r.stream).old)
  let answer := fun (s : State) (st : Nat) (data : List Byte) =>
    if late then s.seqOn r else (s.seqOn r).sendCargo r.peer (.reply s.device r.stream r.seq st data)
  if !s.reqTurn r then .next s
  else match s.deadHere r.version, s.fctxCtx r.fctx with
    | true, c => .next ((match c with | some c => s.updCtx c fun k => { k with drops := (k.drops + 1) % 2 ^ 64 } | none => s).dropReq r)
    | false, none => .next (answer s 4 [])
    | false, some c =>
      match s.remoteDo r c with
      | (.answer st data, s) => .next (answer s st data)
      | (_, s) => .next s

end Sys2Proof.Machine
end

