-- ==== Sys2Proof/Machine/Contexts.lean ====
section
/-! DEFINITION. Contexts (spec/05_context.md R97 to R105, R110, R468): descriptor, activation, pre-emption, save, restore,
destruction, and the event queue's read count. -/

namespace Sys2Proof.Machine

/-! ### Descriptor and requests (R97, R98, R110, R468) -/

/-- A context as it is created (R97, R51). -/
def Context.new (d : CtxDesc) : Context :=
  { desc := d, state := .created, toFaulted := false, halted := false, heldPreempt := false, heldDestroy := false, ewptr := 0, erptr := 0,
    evqHeld := [], ahist := 0, dmin := 0, dmax := 0, frames0 := [], frames1 := [], spillBase := 0, spillSize := 0, ovlDir := 0, drops := 0,
    trapLow := none, saveEnd := none, absent := [], msix := 0, invalidate := none, slots := [], savedSpans := [], reissue := [], loads := [] }

/-- R97: the event CONTEXT_DESCRIPTOR_WRITE: a malformed descriptor is refused, and so is one of a context that has been
activated and not destroyed. One of a context that is CREATED replaces it: R98 has no row for it (log entry 52, DESIGN
CHOICE). -/
def execContextDescriptorWrite (d : CtxDesc) (s : State) : Host.Outcome State Fault Refusal :=
  s.windowed <|
    let bad := d.ctx == 0 || d.savebase.toNat % 128 != 0
      || d.evq.toNat % 32 != 0 || decide (d.evqsz.toNat < 4) || decide (20 < d.evqsz.toNat)
    let free := match Tab.get? s.contexts d.ctx.toNat with
      | some c => c.state == .created || c.state == .destroyed
      | none => true
    if bad || !free then s.refuse
    else { s.accept with contexts := Tab.set s.contexts d.ctx.toNat (Context.new d) }

/-- R97: a state in which a context counts among the 64. -/
def CState.counts (c : CState) : Bool := !(c == .created || c == .destroyed)

/-- R98, R321: the event CONTEXT_ACTIVATE. -/
def execContextActivate (ctx : Nat) (s : State) : Host.Outcome State Fault Refusal :=
  s.windowed <|
    match Tab.get? s.contexts ctx with
    | none => s.refuse
    | some c =>
      if c.state == .created && c.desc.ptroot != 0 && c.desc.ptroot.toNat % 8192 == 0 && decide (c.desc.ptroot.toNat < 2 ^ 39) && c.desc.savebase != 0
         && decide ((s.contexts.filter fun x => x.2.state.counts).length < 64) then
        (s.accept.updCtx ctx fun c => { c with state := .ready })
      else s.refuse

/-- R98: the first boundary at which a record may stand after `n` directory entries and the zero entry. -/
def Context.firstRecord (c : Context) (n : Nat) : Nat := (c.desc.savebase.toNat + 16 * (n + 1) + 4095) / 4096 * 4096
/-- R110: where the space of a save ends: at the lowest trap-time record. -/
def Context.saveTop (c : Context) : Nat :=
  match c.trapLow with
  | some x => x
  | none => c.desc.savebase.toNat + c.desc.savelen.toNat

/-- R98: a pre-emption of a context: RUNNING is PREEMPTING, and READY is SAVED with an empty save. While the page of that save is not
there, or the host holds the half that it is written to (R424), the request is held and no team of the context is dispatched (log entry
53, DEDUCED). -/
def State.preempt (s : State) (ctx : Nat) : State :=
  match Tab.get? s.contexts ctx with
  | none => s
  | some c =>
    if c.state == .running then s.updCtx ctx fun c => { c with state := .preempting, halted := false }
    else if c.state != .ready then s
    else
      let base := c.desc.savebase.toNat
      match s.partReady 0 ctx base 16 true with
      | (.ok, s) => match s.partStore ctx base (zeros 16) with
        | some s => s.updCtx ctx fun c =>
            { c with state := .saved, slots := [], savedSpans := [], saveEnd := some (c.firstRecord 0), heldPreempt := false }
        | none => s.updCtx ctx fun c => { c with heldPreempt := true }
      | (_, s) => s.updCtx ctx fun c => { c with heldPreempt := true }

/-- The event PREEMPT_REQUEST: one in RESTORING is held. -/
def execPreemptRequest (ctx : Nat) (s : State) : Host.Outcome State Fault Refusal :=
  s.windowed <|
    match Tab.get? s.contexts ctx with
    | none => s.refuse
    | some c =>
      if c.state == .running || c.state == .ready then (s.accept.preempt ctx)
      else if c.state == .restoring then (s.accept.updCtx ctx fun c => { c with heldPreempt := true })
      else s.refuse

/-- R110: the event TRAP_AREA_RESET. -/
def execTrapAreaReset (ctx : Nat) (s : State) : Host.Outcome State Fault Refusal :=
  s.windowed <|
    match Tab.get? s.contexts ctx with
    | none => s.refuse
    | some c =>
      if c.state != .preempting && c.state != .restoring then (s.accept.updCtx ctx fun c => { c with trapLow := none })
      else s.refuse

/-- R407, R468: the event ERPTR_WRITE, of a context's event queue or of the link event queue: records that wait go out. -/
def execErptrWrite (ctx : Option Nat) (count : Nat) (s : State) : Host.Outcome State Fault Refusal :=
  s.windowed <|
    match ctx with
    | none =>
      let q := s.linkQueue
      if count < q.rptr || q.wptr < count then s.refuse
      else (State.linkFlush { s.accept with linkQueue := { q with rptr := count } } q.held)
    | some n =>
      match Tab.get? s.contexts n with
      | none => s.refuse
      | some c =>
        if count < c.erptr || c.ewptr < count then s.refuse
        else ((s.accept.updCtx n fun c => { c with erptr := count }).evqFlush n c.evqHeld)

/-! ### Destruction (R98) -/

/-- Every grid, queue, version, seal and fault of a context goes; nothing is saved. Its versions are DEAD and their peers hear of it
(R390, rule 5); the entry of one that a peer has not acknowledged stays so long, of no context (R378, R393). Foreign versions of the context
go with their lines. A completion entry that is not written by then stays unwritten and counts as failed, since a walk of a DESTROYED
context is INVALID (log entry 94, DESIGN CHOICE). -/
def State.destroyCtx (s : State) (ctx : Nat) : State :=
  let qs := (s.queues.filter fun q => q.2.desc.ctx.toNat == ctx && q.2.state != .destroyed).map (·.1)
  let s := qs.foldl (fun s q => s.destroyQueue q) s
  let gs := (s.grids.filter fun g => g.2.ctx == ctx).map (·.1)
  let s := gs.foldl (fun s g => s.abandonGrid g) s
  let vs := (s.versions.filter fun v => v.2.ctx == ctx).map (·.1)
  let fs := (s.foreign.filter fun f => f.2.ctx == ctx).map (·.1)
  let s := (s.frames.filter fun f => f.ctx == ctx).foldl (fun s f => s.freeFrame f) s
  let s := s.killVersions vs
  let s : State := { s with
    versions := s.versions.map fun v => if v.2.ctx == ctx then (v.1, { v.2 with ctx := 0, launching := none, stalled := [] }) else v
    foreign := s.foreign.filter fun f => f.2.ctx != ctx
    vlines := s.vlines.filter fun l => !(vs ++ fs).contains l.ver
    streams := s.streams.map fun x => { x with owed := x.owed.map fun o => if o.ctx == ctx then { o with ctx := 0 } else o }
    squashes := s.squashes.filter fun q => q.ctx != ctx
    seals := s.seals.filter fun k => k.ctx != ctx
    latches := s.latches.filter fun l => l.ctx != ctx
    pfaults := s.pfaults.filter fun p => p.2.ctx != ctx
    children := s.children.filter fun c => c.2.ctx != ctx
    dieTlb := s.dieTlb.map fun ts => ts.filter fun t => t.ctx != ctx
    cores := s.cores.map fun (c : Nat × Core) => (c.1, { c.2 with tlb := c.2.tlb.filter fun t => t.ctx != ctx }) }
  let s := s.dropEvery fun x => x.ctx == ctx
  (s.updCtx ctx fun c => { Context.new c.desc with state := .destroyed }).sweepVersions

/-- A held destroy request is taken as soon as the state permits it, and the host holds no slot of the context's frames (R424). -/
def State.heldRequests (s : State) (ctx : Nat) : State :=
  match Tab.get? s.contexts ctx with
  | none => s
  | some c =>
    if !c.heldDestroy || c.state == .preempting || c.state == .restoring then s
    else match s.slotsHeld (s.frames.filter fun f => f.ctx == ctx) with
      | some s => s
      | none => s.destroyCtx ctx

/-- The event CONTEXT_DESTROY, which every state admits; in PREEMPTING and RESTORING it is held. -/
def execContextDestroy (ctx : Nat) (s : State) : Host.Outcome State Fault Refusal :=
  s.windowed <|
    match Tab.get? s.contexts ctx with
    | none => s.refuse
    | some _ => (s.accept.updCtx ctx fun c => { c with heldDestroy := true }).heldRequests ctx

/-! ### The halt (R99, R100, R146) -/

/-- The teams of a context that a core holds. -/
def State.ctxTeams (s : State) (ctx : Nat) : List Team := (s.teams.filter fun t => t.2.ctx == ctx && t.2.resident).map (·.2)
def State.ctxGroups (s : State) (ctx : Nat) : List Nat :=
  (s.groups.filter fun g => (s.teams.any fun t => t.1 == g.2.team && t.2.ctx == ctx)).map (·.1)

/-- R100: the locks of an operation leave its core with its team. -/
def State.holdLocks (s : State) (core team op : Nat) : State :=
  let ls := (s.core core).locks.filter fun k => k.op == op
  (s.dropLocks core op).updTeam team fun t => { t with heldLocks := t.heldLocks ++ ls }
/-- R100: an operation of shared memory or the tile store leaves its channel, with its locks; those of an RCOPY that stops and of
a tile move that is paused go too. -/
def State.stopCopies (s : State) (ctx : Nat) : State :=
  let mine := fun (o : CopyOp) => (s.teamView o.team).1 == ctx && !(o.dsp == .g && o.ssp == .g)
  let out := s.cores.flatMap fun c => c.2.channels.flatMap fun x => (x.2.filter mine).map fun o => (c.1, x.1, o)
  let s := out.foldl (fun s x =>
    ((s.holdLocks x.1 x.2.2.team x.2.2.op).dropCopy x.1 x.2.2.op).updTeam x.2.2.team fun t => { t with halted := t.halted ++ [x.2] }) s
  let fab := s.cores.flatMap fun c => (c.2.fabric.filter fun o => (s.teamView o.team).1 == ctx && o.ssp != .g).map fun o => (c.1, o.team, o.op)
  let tiles := (s.ctxTeams ctx).flatMap fun t => t.ops.map fun o => (t.core, t.uid, o.1)
  (fab ++ tiles).foldl (fun s x => s.holdLocks x.1 x.2.1 x.2.2) s

/-- R99, R420: a remote load or atomic whose reply is owed is abandoned. Lanes that wait for it stay at their PC; one that has
gone on is sent again after the restore. Its reply, when it comes, goes to no lane: until then it is outstanding (R410). -/
def State.abandonReply (s : State) (ctx peer n : Nat) (o : Owed) : State :=
  if o.ctx != ctx || o.kind % 2 == 1 || o.copy.isSome || o.lanes.isEmpty then s
  else
    let x := s.stream peer n
    let s := s.setStream { x with owed := x.owed.map fun y => if y.seq == o.seq then { y with group := 0, lanes := [], flight := 0 } else y }
    if o.ns then s.updCtx ctx fun c => { c with reissue := c.reissue ++ [(peer, n, o)] }
    else
      let m := laneMask fun l => o.lanes.contains l
      (s.unwind o.flight m).updGroup o.group fun g => g.updLanes m fun _ x => if x.block == .remote then { x with block := .free } else x
def State.abandonReplies (s : State) (ctx : Nat) : State :=
  s.streams.foldl (fun s x => x.owed.foldl (fun s o => s.abandonReply ctx x.peer x.stream o) s) s

/-- R146, R181: a span that waits at a barrier or for an unseal, or that has rejoin state, lowers before the save. -/
def Span.haltWaits (sp : Span) : Bool := match sp.block with | .bar _ _ | .unseal _ _ _ => true | _ => false
/-- Its lanes wait as it did. One at grid level cuts its grid into the templates of team spans (R138), which the grid keeps with their rejoin
state while the context is saved: no record is written of them, and the team spans that are made of them do not lower (log entry 99, DESIGN
CHOICE). -/
def State.haltSpan (s : State) (uid : Nat) : State :=
  match Tab.get? s.spans uid with
  | none => s
  | some sp => if sp.haltWaits then s.lowerWaiting sp else if sp.j.isEmpty then s else s.lower sp
/-- The spans of a context. -/
def State.spansOf (s : State) (ctx : Nat) : List Nat :=
  (s.spans.filter fun p => match Tab.get? s.grids p.2.grid with | some g => g.ctx == ctx | none => false).map (·.1)

/-- R99: the global loads of a context that are not performed are abandoned: their registers keep their old values, and they are
issued again after the restore. One that its group has issued a store or an atomic after is performed before that, as R287 has it.
A span that waits for the halves of a load issues it again. -/
def State.abandonLoads (s : State) (ctx : Nat) : State :=
  let gs := s.ctxGroups ctx
  let ps := s.spansOf ctx
  let mine := fun (p : Nat × PStore) => p.2.load.isSome && p.2.inTeam.isNone && gs.contains p.2.group
    && !(s.stores.any fun q => decide (p.1 < q.1) && q.2.group == p.2.group && q.2.load.isNone)
  let spanned := fun (p : Nat × PStore) => p.2.load.isSome && ps.contains p.2.group
  let again := (s.stores.filter spanned).map fun p => p.2.group
  State.updCtx { s with
    stores := s.stores.filter fun p => !mine p && !spanned p
    spans := s.spans.map fun (p : Nat × Span) => if again.contains p.1 then (p.1, { p.2 with block := .free }) else p } ctx
    fun c => { c with loads := c.loads ++ s.stores.filter mine }

/-- Blocks that a halt ends: the lanes execute their instruction again after the restore. -/
def Block.halts : Block → Bool
  | .rgrow | .tsalloc _ | .tsfree | .gang => true
  | _ => false

/-- What the halt leaves of a context: no result under way, no waiting arrival, no operation on a team's memory, no copy of a
sealed line (R278). -/
def State.halt (s : State) (ctx : Nat) : State :=
  let s := (s.spansOf ctx).foldl (fun s p => s.haltSpan p) s
  let s := ((s.abandonReplies ctx).stopCopies ctx).dropEvery fun x => x.ctx == ctx && x.isSeal
  let gs := s.ctxGroups ctx
  let owners := gs ++ s.spansOf ctx
  let s := (s.flights.filter fun f => owners.contains f.2.group && !s.owedFlight f.1).foldl (fun s f => s.land f.1) s
  let kept := fun (n : Nat) => ((Tab.get? s.contexts ctx).map fun c => c.keeps n).getD false
  let s : State := { s with
    groups := s.groups.map fun (g : Nat × Group) => if gs.contains g.1 then
        (g.1, { g.2 with lanes := g.2.lanes.map fun x => if x.block.halts then { x with block := .free, due := match x.block with | .tsalloc d => some d | _ => x.due } else x }) else g
    teams := s.teams.map fun (t : Nat × Team) => if t.2.ctx == ctx && t.2.resident then
        (t.1, { t.2 with latches := [], granules := t.2.granules + sumN (t.2.freeing.map fun x => x.2.1), freeing := [] }) else t
    cores := s.cores.map fun (c : Nat × Core) => (c.1, { c.2 with
        rgrowq := c.2.rgrowq.filter fun x => !gs.contains x.1
        tsallocq := c.2.tsallocq.filter fun x => !gs.contains x.1
        accq := c.2.accq.filter fun x => !gs.contains x.1 }) }
  -- results that a reissued request will bring stay; every other one under way is over
  let keep := fun (f : Nat × Flight) => !gs.contains f.2.group || f.2.landed || kept f.1
  -- a SPLNCH that waits to write its prediction is issued again after the restore (R381)
  let s := owners.foldl (fun s g => s.unborn g allLanes) s
  State.updCtx { s with flights := s.flights.filter keep } ctx fun c => { c with halted := true }

/-- R99, R277: a group or a span of a list waits for a SEAL. -/
def State.sealingFor (s : State) (owners : List Nat) : Bool :=
  s.seals.any fun k => match k.sealing with
    | some n => (s.flights.any fun f => f.1 == n && owners.contains f.2.group) || s.spans.any fun p => owners.contains p.1 && p.2.block == .engine n
    | none => false
/-- R99: the event PREEMPT_HALT: once the tensor and attention operations that are not paused have completed, every store and
atomic issued has been performed, every SEAL is answered and what lowers can lower (R104), the cores halt. -/
def execPreemptHalt (ctx : Nat) (s : State) : Host.Outcome State Fault Refusal :=
  match Tab.get? s.contexts ctx with
  | none => .next s
  | some c =>
    if c.heldDestroy && c.state != .preempting then .next (s.heldRequests ctx)
    else if c.state == .ready && c.heldPreempt then .next (s.preempt ctx)
    else if c.state != .preempting || c.halted then .next s
    else if (s.ctxTeams ctx).any fun t => t.ops.any fun o => !o.2.paused then .next s
    else
      let s := s.abandonLoads ctx
      let owners := s.ctxGroups ctx ++ s.spansOf ctx
      let r := owners.foldl (fun (r : State × Bool) g => let y := r.1.drain g; (y.1, r.2 && y.2)) (s, true)
      let lowers := (r.1.spans.filter fun p => owners.contains p.1 && (p.2.haltWaits || !p.2.j.isEmpty)).map (·.2)
      let t := r.1.allReady lowers
      .next (if r.2 && t.1 && !t.2.sealingFor owners then t.2.halt ctx else t.2)

/-! ### Records of teams and spans (R54, R55) -/

/-- R172: the word of a barrier, and a barrier from its word. -/
def Barrier.word (b : Barrier) : Nat := b.expect % 4096 + 2 ^ 12 * b.mode + 2 ^ 14 * b2n b.teamdone + 2 ^ 16 * (b.arrived % 4096) + 2 ^ 32 * b.phase
def Barrier.ofWord (w : Nat) : Barrier :=
  { expect := fld w 0 12, mode := fld w 12 2, teamdone := bitOf w 14, arrived := fld w 16 12, phase := fld w 32 15 }

def Tile.bytes (x : Tile) (n : Nat) : List Byte := (List.range n).flatMap fun k => le 4 (Tab.get x.data k 0).toNat
/-- The tiles of a table that are in use and dirty, in increasing number. -/
def storedTiles (t : Tab Tile) : List (Nat × Tile) := t.filter fun x => x.2.inuse && x.2.dirty

/-- R54: a team record. -/
def Team.record (t : Team) : List Byte :=
  let flag := fun (f : Tile → Bool) (x : Tab Tile) => maskOf 16 fun n => ((Tab.get? x n).map f).getD false
  le 4 (flag (·.inuse) t.a + 2 ^ 16 * flag (·.dirty) t.a) ++ le 4 (flag (·.inuse) t.t % 256 + 2 ^ 8 * (flag (·.dirty) t.t % 256))
  ++ le 4 t.shared ++ le 4 t.granules ++ zeros 240
  ++ (List.range 16).flatMap (fun b => le 8 (t.bar b).word) ++ zeros 128
  ++ (List.range 16).flatMap (fun n => t.map n)
  ++ (storedTiles t.t).flatMap (fun x => x.2.bytes 512) ++ (storedTiles t.a).flatMap (fun x => x.2.bytes 1024)
  ++ Mem.readN t.sharedMem 0 t.shared ++ Mem.readN t.store 0 t.tileBytes

/-- Places of units that follow one another from an address on. -/
def unitsFrom (owner kind size : Nat) : Nat → List Nat → List Absent
  | _, [] => []
  | va, n :: ns => { owner, kind, index := n, va } :: unitsFrom owner kind size (va + size) ns
/-- The units of a team record at an address, and of a group record (R104). -/
def Team.units (t : Team) (va : Nat) : List Absent :=
  let ts := (storedTiles t.t).map (·.1)
  let as := (storedTiles t.a).map (·.1)
  let va1 := va + 0x600 + 2048 * ts.length
  let va2 := va1 + 4096 * as.length
  unitsFrom t.uid 5 2048 (va + 0x600) ts ++ unitsFrom t.uid 4 4096 va1 as
  ++ unitsFrom t.uid 2 4096 va2 (List.range ((t.shared + 4095) / 4096)) ++ unitsFrom t.uid 3 16384 (va2 + t.shared) (List.range t.granules)
def Group.units (g : Group) (va : Nat) : List Absent :=
  unitsFrom g.uid 1 128 (va + 0x2000) (List.range (g.slim / 16)) ++ unitsFrom g.uid 0 2048 (va + 0x2000 + 8 * g.slim) (List.range (g.vallot / 8))

/-- Small codes packed two bits each. -/
def packForms (l : List Nat) : Nat := l.foldr (fun x acc => x + 4 * acc) 0
def Form.code (f : Form) : Nat := if f.isU then 0 else 1
def Form.bytes (f : Form) : List Byte := le 4 f.base.toNat ++ le 4 f.stride.toNat
/-- R55, R136: a threshold stands as its offset from the span's first item. -/
def PForm.word (first : Nat) : PForm → Nat
  | .u b => 4 * b2n b
  | .lt t => 2 + 2 ^ 32 * ((t - first) % 2 ^ 32)
  | .ge t => 3 + 2 ^ 32 * ((t - first) % 2 ^ 32)
/-- O0 to O7, then Z0 and Z1. -/
def oAndZ : List Reg := (List.range 8).map Reg.o ++ [.z 0, .z 1]

/-- R55: a span record. -/
def Span.record (p : Span) : List Byte :=
  le 8 p.first ++ le 8 p.last ++ le 8 p.pc.toNat ++ le 4 p.gctl.toNat ++ le 4 p.fpctl.toNat ++ le 4 p.fpstat.toNat
  ++ le 4 (p.vlim + 2 ^ 16 * p.slim) ++ zeros 24
  ++ le 160 (packForms ((List.range 640).map fun n => (p.formOf (.v n)).code)) ++ le 4 (packForms (oAndZ.map fun r => (p.formOf r).code)) ++ zeros 28
  ++ (List.range 7).flatMap (fun n => le 8 ((p.pform n).word p.first)) ++ zeros 8
  ++ (List.range p.slim).flatMap (fun n => le 8 (p.sreg n).toNat)
  ++ (List.range p.vlim).flatMap (fun n => (p.formOf (.v n)).bytes) ++ oAndZ.flatMap fun r => (p.formOf r).bytes

/-! ### The save (R102) -/

/-- A record of a save: its directory entry but for the offset, its bytes, and the units it holds by its address. -/
structure SaveRec where
  kind : Nat
  slot : Nat
  gid : Nat
  team : Nat
  bytes : List Byte
  units : Nat → List Absent

/-- Insert by a key, and sort. -/
def insertBy {α : Type} (key : α → Nat) (x : α) : List α → List α
  | [] => [x]
  | y :: ys => if key x ≤ key y then x :: y :: ys else y :: insertBy key x ys
def sortBy {α : Type} (key : α → Nat) (l : List α) : List α := l.foldr (insertBy key) []

/-- R100: the engine records of a team: its stopped operations, its paused ones that no lane waits for, and the futures that
a token holds. The spec gives their size and no layout: their bytes are free. -/
def State.engineRecords (s : State) (t : Team) : Nat :=
  t.halted.length + (t.ops.filter fun o => o.2.fid.isSome).length + (t.futures.filter fun f => f.2.token).length
  + sumN (s.cores.map fun c => (c.2.fabric.filter fun o => o.team == t.uid && o.ssp != .g).length)

/-- The number under which the span records of a team stand in the directory. -/
def spanTeam (s : State) (p : Span) : Nat :=
  match p.team with
  | some t => ((Tab.get? s.teams t).map (·.index)).getD 0
  | none => 0xFFFFFFFF

/-- The spans of a context, in the order of their records. -/
def State.ctxSpans (s : State) (slots : List Nat) : List (Nat × Span) :=
  (mapFrom (fun i x => (i, x.2)) 0 (slots.map fun g => (0, g))).flatMap fun x =>
    (sortBy (fun (p : Span) => spanTeam s p * 2 ^ 64 + p.first) ((s.spans.filter fun p => p.2.grid == x.2).map (·.2))).map fun p => (x.1, p)
/-- The resident teams of a context, in the order of their records. -/
def State.slotTeams (s : State) (slots : List Nat) : List (Nat × Team) :=
  (mapFrom (fun i x => (i, x.2)) 0 (slots.map fun g => (0, g))).flatMap fun x =>
    (sortBy (fun (t : Team) => t.index) ((s.teams.filter fun t => t.2.grid == x.2 && t.2.resident).map (·.2))).map fun t => (x.1, t)
/-- The groups of a team, by index. -/
def State.teamGroups (s : State) (team : Nat) : List Group :=
  sortBy (fun (g : Group) => g.gid) ((s.groups.filter fun g => g.2.team == team).map (·.2))

/-- R102: the records of a save, in order; `n` is an index of free values. -/
def State.saveRecords (s : State) (slots : List Nat) (n : Nat) : List SaveRec :=
  (s.ctxSpans slots).map (fun x => { kind := 1, slot := x.1, gid := 0, team := spanTeam s x.2, bytes := x.2.record, units := fun _ => [] })
  ++ (s.slotTeams slots).flatMap (fun x =>
    { kind := 2, slot := x.1, gid := 0, team := x.2.index, bytes := x.2.record, units := x.2.units } ::
    (List.range (s.engineRecords x.2)).map fun k =>
      { kind := 3, slot := x.1, gid := 0, team := x.2.index, bytes := (List.range 64).map fun j => Config.freeByte n (64 * (1024 * x.2.uid + k) + j),
        units := fun _ => [] })
  ++ (s.slotTeams slots).flatMap fun x => (s.teamGroups x.2.uid).map fun g =>
    { kind := 4, slot := x.1, gid := g.gid, team := x.2.index, bytes := g.record, units := g.units }

/-- Records follow one another at 128-byte boundaries. -/
def layRecords : Nat → List SaveRec → List (SaveRec × Nat)
  | _, [] => []
  | va, r :: rs => (r, va) :: layRecords ((va + r.bytes.length + 127) / 128 * 128) rs
/-- R102: the directory, with its zero entry. -/
def directory (base : Nat) (l : List (SaveRec × Nat)) : List Byte :=
  l.flatMap (fun x => le 1 x.1.kind ++ le 1 x.1.slot ++ le 1 x.1.gid ++ zeros 1 ++ le 4 x.1.team ++ le 8 (x.2 - base)) ++ zeros 16

/-- Writes of the part, one after another. -/
def State.partStores (s : State) (ctx : Nat) : List (Nat × List Byte) → Option State
  | [] => some s
  | (va, bs) :: rest => match s.partStore ctx va bs with
    | some s => s.partStores ctx rest
    | none => none

/-- R105: a unit that is still absent keeps its content: it is taken from its old place before anything is written. `none`
where its page is gone. -/
def State.fillAll (s : State) : List Absent → Option State
  | [] => some s
  | a :: rest =>
    match s.partLoad (((s.contexts.find? fun c => c.2.absent.contains a).map (·.1)).getD 0) 0 a.va (s.unitSize a) with
    | none => none
    | some bs =>
      let ctx := ((s.contexts.find? fun c => c.2.absent.contains a).map (·.1)).getD 0
      ((s.partTouch ctx a.va (s.unitSize a)).fillUnit a bs).fillAll rest

/-- R105: sectors that were poisoned at a unit's old place are poisoned at its new one. -/
def State.keepPoison (s : State) (ctx : Nat) (old : List (Absent × List Nat)) (new : List Absent) : State :=
  old.foldl (fun s o =>
    match new.find? fun a => a.owner == o.1.owner && a.kind == o.1.kind && a.index == o.1.index with
    | some a => o.2.foldl (fun s k => s.markPoison (s.partPlace ctx (a.va + 32 * k))) s
    | none => s) s

/-- What is on the cores of a context that has been saved leaves them. -/
def State.clearCtx (s : State) (ctx : Nat) (slots : List Nat) : State :=
  let gs := s.ctxGroups ctx
  let spans := (s.ctxSpans slots).map (·.2)
  let bare := fun (x : Nat × Tile) => (x.1, { x.2 with data := [] })
  let s : State := { s with
    teams := s.teams.map fun (t : Nat × Team) => if t.2.ctx == ctx && t.2.resident then
        (t.1, { t.2 with resident := false, sharedMem := [], store := [], a := t.2.a.map bare, t := t.2.t.map bare,
                         saved := (s.teamGroups t.1).map fun g => (g.gid, { g with v := [], s := [] }) }) else t
    groups := s.groups.filter fun g => !gs.contains g.1
    spans := s.spans.filter fun p => !spans.any fun q => q.uid == p.1 }
  s.updCtx ctx fun c => { c with slots, savedSpans := spans, absent := [], halted := false }

/-- R102, R105: the event CONTEXT_SAVE_COMPLETE. The save waits while a page of it is not there (log entry 41, DEDUCED). -/
def execContextSaveComplete (ctx : Nat) (s : State) : Host.Outcome State Fault Refusal :=
  match Tab.get? s.contexts ctx with
  | none => .next s
  | some c =>
    if c.state != .preempting || !c.halted || (c.toFaulted && !c.evqHeld.isEmpty) then .next s
    else
      let old := c.absent.map fun a => (a, (List.range (unitBytes a.kind / 32)).filter fun k => s.poisoned (s.partPlace ctx (a.va + 32 * k)))
      match s.fillAll c.absent with
      | none => .next (c.absent.foldl (fun s a => s.partRecall ctx a.va (s.unitSize a)) s)
      | some s =>
        let slots := (s.grids.filter fun g => g.2.ctx == ctx).map (·.1)
        let (n, s) := s.draw
        let rs := s.saveRecords slots n
        let base := c.desc.savebase.toNat
        let laid := layRecords (c.firstRecord rs.length) rs
        let last := match laid.getLast? with | some x => x.2 + x.1.bytes.length | none => c.firstRecord 0
        let fits := decide (last ≤ c.saveTop)
        let body := laid.filterMap fun x =>
          if fits then some (x.2, x.1.bytes)
          else if x.2 + x.1.bytes.length ≤ c.saveTop then
            some (x.2, (List.range x.1.bytes.length).map fun k => Config.freeByte n (2 ^ 64 + x.2 + k))
          else none
        let dir := if base + 16 * (rs.length + 1) ≤ c.saveTop then [(base, directory base laid)] else []
        match s.partStores ctx (dir ++ body) with
        | none => .next ((dir ++ body).foldl (fun s x => s.partRecall ctx x.1 x.2.length) s)
        | some s =>
          let s := (s.keepPoison ctx (old.filter fun x => !x.2.isEmpty) (laid.flatMap fun x => x.1.units x.2)).clearCtx ctx slots
          let s := s.updCtx ctx fun c =>
            { c with state := if fits && !c.toFaulted then .saved else .faulted, toFaulted := false, saveEnd := some (min last c.saveTop) }
          .next (s.heldRequests ctx)

/-! ### The restore (R104) -/

/-- The event RESUME_REQUEST. -/
def execResumeRequest (ctx : Nat) (s : State) : Host.Outcome State Fault Refusal :=
  s.windowed <|
    match Tab.get? s.contexts ctx with
    | none => s.refuse
    | some c =>
      if c.state == .saved || c.state == .faulted then (s.accept.updCtx ctx fun c => { c with state := .restoring })
      else s.refuse

/-- A directory entry as read. -/
structure DirEntry where
  kind : Nat
  slot : Nat
  gid : Nat
  team : Nat
  va : Nat
  deriving DecidableEq, Repr

/-- R102: the directory at an address: `none` where its page is not there. -/
def State.readDirectory (s : State) (ctx base : Nat) : Nat → Nat → Option (List DirEntry)
  | 0, _ => some []
  | n + 1, va =>
    match s.partLoad ctx 0 va 16 with
    | none => none
    | some bs =>
      if leNat bs == 0 then some []
      else
        let e : DirEntry := { kind := bytesAt bs 0 1, slot := bytesAt bs 1 1, gid := bytesAt bs 2 1, team := bytesAt bs 4 4, va := base + bytesAt bs 8 8 }
        match s.readDirectory ctx base n (va + 16) with
        | some es => some (e :: es)
        | none => none

/-- R424: the first entry of the directory that the host holds is asked for. -/
def State.recallDirectory (s : State) (ctx : Nat) : Nat → Nat → State
  | 0, _ => s
  | n + 1, va =>
    match s.partLoad ctx 0 va 16 with
    | none => s.partRecall ctx va 16
    | some bs => if leNat bs == 0 then s else s.recallDirectory ctx n (va + 16)
/-- The bytes that the eager part of a restore reads of a record (R104). -/
def DirEntry.head (e : DirEntry) : Nat := if e.kind == 4 then 0x2000 else if e.kind == 2 then 0x600 else 64
/-- R424: what the host holds of the heads of records is asked for. -/
def State.recallHeads (s : State) (ctx : Nat) (es : List (DirEntry × Option Span)) : State :=
  es.foldl (fun s x => s.partRecall ctx x.1.va (match x.2 with | some p => 0x140 + 8 * p.slim + 8 * p.vlim + 80 | none => x.1.head)) s

/-- R103: a grid of a saved context whose records are not restored: it is gone, or a squash removes it. -/
def State.discarded (s : State) (grid : Nat) : Bool := (Tab.get? s.grids grid).isNone || s.squashes.any fun q => q.grids.contains grid
/-- The team that an entry names, if it is still there and comes back (R103). -/
def State.entryTeam (s : State) (slots : List Nat) (e : DirEntry) : Option Team :=
  match slots[e.slot]? with
  | none => none
  | some g => if s.discarded g then none
    else (s.teams.find? fun t => t.2.grid == g && t.2.index == e.team).map (·.2)

/-- R53: the implementation words of a group record are what the save wrote, or the record is not there to read. -/
def State.implOk (s : State) (ctx : Nat) (slots : List Nat) (e : DirEntry) : Option Bool :=
  if e.kind != 4 then some true
  else match s.entryTeam slots e with
    | none => some true
    | some t =>
      match Tab.get? t.saved e.gid, s.partLoad ctx 0 (e.va + 0x24) 92 with
      | none, _ => some true
      | some g, some bs => some (bs == g.implWords.flatMap (le 4))
      | some _, none => none

/-- R327: what the check of R53 reads of a group record sets AC. -/
def State.implTouch (s : State) (ctx : Nat) (slots : List Nat) (e : DirEntry) : State :=
  if e.kind == 4 && (s.entryTeam slots e).isSome then s.partTouch ctx (e.va + 0x24) 92 else s
/-- R133: the cores of every place for a cluster of a kernel, by rank. -/
def State.spots (s : State) (k : Kernel) : List (List Nat) :=
  (List.range (if s.manage.perigee then 1 else 2)).flatMap fun d =>
    [false, true].flatMap fun turned =>
      let w := if turned then k.cly else k.clx
      let h := if turned then k.clx else k.cly
      (List.range (8 + 1 - h)).flatMap fun y => (List.range (16 + 1 - w)).map fun x => k.rectangle d x y turned k.csize

/-- V registers that a saved team needs (R33). -/
def Team.vneed (t : Team) (k : Kernel) : Nat :=
  sumN ((List.range k.ngroups).map fun g => match Tab.get? t.saved g with
    | some x => x.vallot
    | none => Tab.get t.vgone g k.vallot)

/-- A core has room for a saved team. -/
def State.teamFits (s : State) (k : Kernel) (t : Team) (core : Nat) : Bool :=
  s.coreFits k core && decide (s.coreV core + t.vneed k ≤ 2560) && decide (t.granules ≤ s.tsFree core)

/-- R100, R104: a saved team comes to a core: its operations go on there. -/
def State.bringTeam (s : State) (t : Team) (core : Nat) : State :=
  let s := t.halted.foldl (fun s x => s.updCore core fun c => { c with channels := Tab.set c.channels x.1 (Tab.get c.channels x.1 [] ++ [x.2]) }) s
  let mine := fun (o : CopyOp) => o.team == t.uid
  let fab := s.cores.flatMap fun c => c.2.fabric.filter mine
  let s : State := { s with cores := s.cores.map fun (c : Nat × Core) => (c.1, { c.2 with fabric := c.2.fabric.filter fun o => !mine o }) }
  let ls := t.heldLocks.filter fun k => (Tab.get? t.ops k.op).isSome || (t.halted.any fun x => x.2.op == k.op) || fab.any fun o => o.op == k.op
  let s := s.updCore core fun c => { c with fabric := c.fabric ++ fab, locks := c.locks ++ ls }
  let s := t.saved.foldl (fun s g => s.setGroup g.2) s
  (s.updTeam t.uid fun t => { t with core, resident := true, saved := [], halted := [], heldLocks := [] }).acquire core .device

/-- R104: the clusters of a restore come to free cores; `none` where there is no place yet. -/
def State.placeSaved (s : State) : List (List Team) → Option State
  | [] => some s
  | ts :: rest =>
    match ts.head?.bind fun t => Tab.get? s.grids t.grid with
    | none => s.placeSaved rest
    | some gr =>
      let k := gr.kernel
      let at_ := fun (cs : List Nat) (t : Team) => cs.getD (t.index % k.csize) 0
      let ps := (s.spots k).filter fun cs => ts.all fun t => s.teamFits k t (at_ cs t)
      if ps.isEmpty then none
      else
        let (n, s) := s.draw
        let cs := ps.getD (Config.place n % ps.length) []
        (ts.foldl (fun s t => s.bringTeam t (at_ cs t)) s).placeSaved rest

/-- The clusters of the saved teams of a context. -/
def State.savedClusters (s : State) (slots : List Nat) : List (List Team) :=
  slots.flatMap fun g =>
    match Tab.get? s.grids g with
    | none => []
    | some gr =>
      let ts := if s.discarded g then [] else (s.teams.filter fun t => t.2.grid == g && !t.2.resident).map (·.2)
      ((ts.map fun t => t.index / gr.kernel.csize).eraseDups).map fun c => ts.filter fun t => t.index / gr.kernel.csize == c

/-- R54: a team takes back what its record holds; its units are absent. -/
def State.restoreTeam (s : State) (ctx : Nat) (t : Team) (va : Nat) (bs : List Byte) : State :=
  let f := bytesAt bs
  let tile := fun (old : Tab Tile) (use dirty n : Nat) => (List.range n).foldl (fun (x : Tab Tile) k =>
    let writer := (Tab.get? old k).bind (·.writer)
    let mark := (Tab.get? old k).bind (·.mark)
    if bitOf use k then Tab.set x k { inuse := true, dirty := bitOf dirty k, data := [], writer, mark }
    else if writer.isSome || mark.isSome then Tab.set x k { inuse := false, dirty := false, data := [], writer, mark } else x) []
  let t := { t with
    a := tile t.a (f 0 2) (f 2 2) 16, t := tile t.t (f 4 1) (f 5 1) 8, shared := f 8 4, granules := f 12 4
    bars := (List.range 16).map fun b => Barrier.ofWord (f (0x100 + 8 * b) 8)
    am := (List.range 16).foldl (fun m n => Tab.set m n ((bs.drop (0x200 + 64 * n)).take 64)) [] }
  (s.setTeam t).updCtx ctx fun c => { c with absent := c.absent ++ t.units va }

/-- R53, R101, R181: a lane takes back what its record holds. One parked on a tensor or attention operation waits for it again,
and a sleeper is looked at afterwards. Of its PC the 49 bits of the record are taken, bits [1:0] too, and the lane fetches there (log entry
102, DESIGN CHOICE). -/
def Lane.restore (x : Lane) (s : State) (uid l now : Nat) (bs : List Byte) : Lane :=
  let f := bytesAt bs
  let st := f (0x280 + l) 1
  let op := match x.block with
    | .engine n | .pipe n => (s.teams.findSome? fun t => Tab.get? t.2.ops n).map fun o => if o.paused then Block.pipe n else .engine n
    | _ => Option.none
  { x with
    pc := BitVec.ofNat 49 (f (0x80 + 8 * l) 8), exited := bitOf st 0, inRange := bitOf st 1, held := bitOf (f 0x540 8) l
    block := if bitOf st 6 then (match op with
        | some b => b
        | Option.none => if s.pfaults.any fun p => p.2.lanes.any fun y => y.1 == uid && inMask y.2 l then .fault else .free)
      else match x.block with
        | .bar _ _ | .mwait _ _ _ | .unseal _ _ _ | .yield _ => if bitOf st 7 then x.block else .free
        | _ => .free
    due := match x.block with | .fwait _ d => some d | _ => x.due
    readyAt := now + 1
    sb := (List.range 6).map fun n => (s.flights.filter fun y => y.2.group == uid && !y.2.landed && y.2.sb == some n && inMask y.2.lanes l).length
    rstack := (List.range (fld st 2 4)).map fun k => BitVec.ofNat 64 (f (0x600 + 64 * l + 8 * k) 8)
    lfsr := BitVec.ofNat 32 (f (0x440 + 4 * l) 4)
    watch := x.watch.map fun w => { w with fired := true }
    waits := 0 }

/-- R8, R305: a handle reads its future as it stands now. One that names no future is EMPTY, and reads 0 in every field (of a record
that was changed; log entry 81, DEDUCED). -/
def Team.rehandle (t : Team) (w : DWord) : DWord :=
  if hState w == 0 then 0 else match Tab.get? t.futures (hFid w) with | some f => f.word (hFid w) | none => 0

/-- R53, R104: a group takes back what its record holds: all but its granules, which are absent. A divergence depth that software has changed
there is taken as it stands, and the V reserve of R35 stays that of the launch, above the VLIM of the record (log entry 101, DESIGN
CHOICE). -/
def State.restoreGroup (s : State) (ctx : Nat) (t : Team) (g : Group) (va : Nat) (bs : List Byte) : State :=
  let f := bytesAt bs
  let row := fun o => wordsOf (bs.drop o) 64
  let now := (s.core t.core).now
  let g := { g with
    gctl := gctlValue (f 0 4), fpctl := fpctlValue (f 4 4), fpstat := BitVec.ofNat 32 (f 8 4 % 32), rowprog := BitVec.ofNat 32 (f 12 4 % 128)
    trapcode := BitVec.ofNat 32 (f 0x10 2), vallot := f 0x14 2 + g.reserve, slim := f 0x16 2, trapaddr := BitVec.ofNat 64 (f 0x18 8)
    divdepth := f 0x20 1 % 128, depth := f 0x21 1 % 128
    p := (List.range 7).map fun n => (n, f (0x2C0 + 8 * n) 8), j := (List.range 16).map fun n => (n, f (0x300 + 8 * n) 8)
    h := (List.range 16).map fun n => (n, t.rehandle (BitVec.ofNat 64 (f (0x380 + 8 * n) 8)))
    fmt := (List.range 8).map fun n => (n, f (0x400 + 4 * n) 4 % 2 ^ 19)
    o := (List.range 8).map fun n => (n, row (0x1600 + 256 * n)), z := [(0, row 0x1E00), (1, row 0x1F00)], v := [], s := []
    lanes := mapFrom (fun l x => x.restore s g.uid l now bs) 0 g.lanes }
  (s.setGroup g).updCtx ctx fun c => { c with absent := c.absent ++ g.units va }

/-- R55: a span takes back what its record holds. -/
def Span.restore (p : Span) (now : Nat) (bs : List Byte) : Span :=
  let f := bytesAt bs
  let vlim := f 0x24 2
  let slim := f 0x26 2
  let form := fun at_ => ({ base := BitVec.ofNat 32 (f at_ 4), stride := BitVec.ofNat 32 (f (at_ + 4) 4) } : Form)
  let vat := 0x140 + 8 * slim
  let first := f 0 8
  let thr := fun (x : Nat) => first + x
  let pred := fun n =>
    let w := f (0x100 + 8 * n) 8
    if w % 4 == 2 then PForm.lt (thr (w / 2 ^ 32)) else if w % 4 == 3 then .ge (thr (w / 2 ^ 32)) else .u (bitOf w 2)
  let oz := fun k => form (vat + 8 * vlim + 8 * k)
  { p with
    first, last := f 8 8, pc := BitVec.ofNat 49 (f 16 8), gctl := gctlValue (f 24 4), fpctl := fpctlValue (f 28 4), fpstat := BitVec.ofNat 32 (f 32 4 % 32)
    vlim, slim, v := (List.range vlim).map fun n => (n, form (vat + 8 * n)), o := (List.range 8).map fun n => (n, oz n), z := [(0, oz 8), (1, oz 9)]
    p := (List.range 7).map fun n => (n, pred n), s := (List.range slim).map fun n => (n, BitVec.ofNat 64 (f (0x140 + 8 * n) 8)), j := [], block := .free
    readyAt := now + 1 }

/-- The span of each span entry, in order. -/
def pairSpans : List DirEntry → List Span → List (DirEntry × Option Span)
  | [], _ => []
  | e :: es, ps => if e.kind == 1 then (e, ps.head?) :: pairSpans es (ps.drop 1) else (e, none) :: pairSpans es ps

/-- One directory entry is loaded; `none` where its page is not there. -/
def State.restoreEntry (s : State) (ctx : Nat) (slots : List Nat) (x : DirEntry × Option Span) : Option State :=
  let (e, p) := x
  if e.kind == 1 then
    match p with
    | none => some s
    | some p =>
      if s.discarded p.grid then some s
      else match s.partLoad ctx 0 e.va (0x140 + 8 * p.slim + 8 * p.vlim + 80) with
        | some bs => some ((s.partTouch ctx e.va (0x140 + 8 * p.slim + 8 * p.vlim + 80)).setSpan (p.restore (s.core (s.spanCore p)).now bs))
        | none => none
  else match s.entryTeam slots e with
    | none => some s
    | some t =>
      if e.kind == 2 then (s.partLoad ctx 0 e.va 0x600).map fun bs => (s.partTouch ctx e.va 0x600).restoreTeam ctx t e.va bs
      else if e.kind == 4 then
        match s.groupOf t.uid e.gid with
        | some g => (s.partLoad ctx 0 e.va 0x2000).map fun bs => (s.partTouch ctx e.va 0x2000).restoreGroup ctx t g e.va bs
        | none => some s
      else some s
def State.restoreEntries (s : State) (ctx : Nat) (slots : List Nat) : List (DirEntry × Option Span) → Option State
  | [] => some s
  | x :: xs => match s.restoreEntry ctx slots x with
    | some s => s.restoreEntries ctx slots xs
    | none => none

/-- R101: what a lane that was saved asleep sleeps at, by the instruction at its PC, or, where that cannot be fetched now, as it
slept; with the header of an instruction that owes it a result. -/
def State.sleepsAt (s : State) (e : Env) (l ph : Nat) : Block × Option Hdr :=
  let was := (e.g.lane l).block
  match was with
  | .yield _ => (.free, none)
  | _ =>
  match (s.fetch e.t.core e.gr.ctx e.gr.version (e.pc l).toNat).1 with
  | .ok (.bar _ b) _ | .ok (.barw _ b _) _ => (.bar b.toNat ph, none)
  | .ok (.cbar _) _ => (.bar 15 ph, none)
  | .ok (.gbar _) _ => (.bar 14 ph, none)
  | .ok (.mwait h d _) _ => match (Opnd.regs d 1).head? with
    | some r => (.mwait none r 0, some h)
    | none => (.free, none)
  | .ok (.unseal h (.status (.s n)) _) _ => match was with
    | .unseal base _ _ => (.unseal base n.toNat 0, some h)
    | _ => (.free, none)
  | .ok _ _ => (.free, none)
  | _ => (match was with | .bar b _ => .bar b ph | x => x, none)

/-- R101, R181, R280: a lane that was saved asleep, at phase `ph`: at a barrier it waits for the phase again unless that has passed,
at MWAIT it goes on with status 1, at UNSEAL it waits while the range unseals and goes on with status 0 when it has, at
FWAIT it tests again, and after YIELD it goes on. The register that it is owed is filled first (R104), which may have to wait. -/
def State.wake (s : State) (uid l ph : Nat) : Fill :=
  match s.env? uid with
  | none => .done s
  | some e =>
    let b := s.sleepsAt e l ph
    let r := match b.1 with | .mwait _ r _ => some r | .unseal _ d _ => some (.s d) | _ => none
    match s.presentAll e.gr.ctx (regUnits uid r.toList) with
    | .wait s => .wait s
    | .bad c va none => .done ((s.hold uid (2 ^ l) .free).takeTrap uid (e.pc l) (e.pc l) 0 [{ lane := l, code := c, addr := va, absent := none }])
    | .bad c va (some a) => .bad c va (some a)
    | .done s =>
      let n := s.uids
      let owed := fun (s : State) => match b.2, r, Tab.get? s.groups uid with
        | some h, some r, some g => s.result uid h (2 ^ l) .var [(r, fun k => (g.words r).getD k 0)] 0
        | _, _, _ => s
      match b.1 with
      | .bar k _ =>
        if phasePast (e.t.bar k).phase ph then .done (s.updGroup uid fun g => g.updLanes (2 ^ l) fun _ x => { x with block := .free, pc := x.pc + 8 })
        else .done (s.hold uid (2 ^ l) (.bar k ph))
      | .mwait _ r _ => .done (((owed s).hold uid (2 ^ l) (.mwait none r n)).wakeMwait uid l 1)
      | .unseal base d _ =>
        let t := (owed s).hold uid (2 ^ l) (.unseal base d n)
        .done (if s.seals.any fun k => k.ctx == e.gr.ctx && k.base == base && k.unsealing then t else t.unsealed uid base)
      | _ => .done (s.hold uid (2 ^ l) .free)
/-- The sleeping lanes of a group record. -/
def sleepers (bs : List Byte) : List (Nat × Nat) :=
  (List.range 64).filterMap fun l => if bitOf (bytesAt bs (0x280 + l) 1) 7 then some (l, fld (bytesAt bs (0x80 + 8 * l) 8) 49 15) else none
def State.wakeAll (s : State) (uid : Nat) : List (Nat × Nat) → Fill
  | [] => .done s
  | x :: xs => match s.wake uid x.1 x.2 with
    | .done s => s.wakeAll uid xs
    | r => r
def State.wakeEntry (s : State) (ctx : Nat) (slots : List Nat) (e : DirEntry) : Fill :=
  if e.kind != 4 then .done s
  else match s.entryTeam slots e with
    | none => .done s
    | some t =>
      match s.groupOf t.uid e.gid, s.partLoad ctx 0 e.va 0x600 with
      | some g, some bs => s.wakeAll g.uid (sleepers bs)
      | _, _ => .done s
def State.wakeEntries (s : State) (ctx : Nat) (slots : List Nat) : List DirEntry → Fill
  | [] => .done s
  | e :: es => match s.wakeEntry ctx slots e with
    | .done s => s.wakeEntries ctx slots es
    | r => r

/-- R104: the registers that a result will come to are filled, and then `f` goes on; lanes whose fill meets poison take it (R105), and one
whose record's page is absent waits. -/
def State.reachable (s : State) (ctx group : Nat) (r : Reg) (n flight m : Nat) (f : State → State) : Fill :=
  match s.presentAll ctx (regUnits group ((List.range n).map r.plus)) with
  | .done s => .done (f s)
  | .bad c va none => .done (s.failLanes flight m c fun _ => va)
  | r => r
/-- R99, R420: a remote load or atomic whose lanes had gone on is sent again, or fails where its link takes no request. While the
link trains or the window has no room, it waits (R410, R413). -/
def State.sendAgain (s : State) (x : Nat × Nat × Owed) : Fill :=
  let o := x.2.2
  if (Tab.get? s.groups o.group).isNone then .done s
  else if (s.link x.1).state == .training || (!(s.link x.1).refuses && !s.windowRoom x.1 x.2.1 1) then .wait s
  else
    let m := laneMask fun l => o.lanes.contains l
    s.reachable o.ctx o.group o.reg o.sz.regs o.flight m fun s =>
      if (s.link x.1).refuses then
        s.failLanes o.flight m .remoteError fun l => o.addr + (((o.lanes.zip o.offs).find? fun p => p.1 == l).map (·.2)).getD 0
      else s.request x.1 x.2.1 o.version o.ctx o.what o.addr o
/-- R99: a load that was abandoned is issued again, on the core where its group now is and with its addresses translated again.
A lane whose page permits it no more takes PAGE_PROT (log entry 41, DEDUCED). -/
def State.loadAgain (s : State) (x : Nat × PStore) : Fill :=
  let p := x.2
  match Tab.get? s.groups p.group, p.load with
  | some g, some (sz, d, fl) =>
    s.reachable p.ctx p.group d sz.regs fl p.lanes fun s =>
      let leaf := fun (y : Piece) => (s.walkNow p.ctx y.va).kind == .leaf
      let bad := p.pieces.filter fun y => !leaf y
      let s := bad.foldl (fun s y => s.failLanes fl (2 ^ y.lane) .pageProt fun _ => y.va) s
      let s := (p.pieces.filter leaf).foldl (fun (s : State) y => s.touchLeaf p.ctx y.va .load) s
      let ps := (p.pieces.filter leaf).map fun y =>
        let w := s.walkNow p.ctx y.va
        let t := trOf w.bits w.entry y.va
        { y with loc := t.loc, ov := t.ov }
      if ps.isEmpty then s else { s with stores := Tab.set s.stores x.1 { p with core := s.coreOfGroup g, pieces := ps } }
  | _, _ => .done s
def State.issueAgain (s : State) : List (Nat × Nat × Owed) → List (Nat × PStore) → Fill
  | [], [] => .done s
  | [], p :: ps => match s.loadAgain p with
    | .done s => s.issueAgain [] ps
    | r => r
  | x :: xs, ps => match s.sendAgain x with
    | .done s => s.issueAgain xs ps
    | r => r

/-- R139: spans of restored teams for which their new core's span unit has no room lower, as far as they can; the second part is
false while one has to wait (R104). -/
def State.lowerExtra (s : State) (ctx : Nat) : State × Bool :=
  (s.spansOf ctx).foldl (fun (r : State × Bool) uid => match Tab.get? r.1.spans uid with
    | none => r
    | some p =>
      if p.team.isNone || decide ((r.1.spans.filter fun x => x.2.team.isSome && r.1.spanCore x.2 == r.1.spanCore p).length ≤ 64) then r
      else match r.1.lowerReady p with
        | (true, s) => (s.lower p, r.2)
        | (false, s) => (s, false)) (s, true)

/-- R330: the first page that a load to be issued again needs and that is not there goes to fault service; `none` where all are
there or never will be. -/
def State.loadsWait (s : State) (ctx : Nat) : List Piece → Option State
  | [] => none
  | y :: ys => match s.partReady 0 ctx y.va y.bytes.length false with
    | (.absent _ _, s) | (.wait _, s) => some s
    | (_, s) => s.loadsWait ctx ys

/-- R100: a copy of a context from global memory to global memory or to a peer runs on while the context is saved. -/
def State.copiesRun (s : State) (ctx : Nat) : Bool :=
  let mine := fun (o : CopyOp) => (s.teamView o.team).1 == ctx && o.ssp == .g
  s.cores.any fun c => (c.2.channels.any fun ch => ch.2.any fun o => mine o && o.dsp == .g) || c.2.fabric.any mine

/-- R104: the event RESTORE_EAGER_COMPLETE. It waits while a page of the save area, a page of a load to be issued again or a place
for a cluster is missing, and while a copy of the context runs on (R100). -/
def execRestoreEagerComplete (ctx : Nat) (s : State) : Host.Outcome State Fault Refusal :=
  match Tab.get? s.contexts ctx with
  | none => .next s
  | some c =>
    if c.state != .restoring || s.copiesRun ctx then .next s
    else match s.loadsWait ctx (c.loads.flatMap fun p => p.2.pieces) with
    | some s => .next s
    | none =>
      let base := c.desc.savebase.toNat
      match s.readDirectory ctx base 262144 base with
      | none => .next (s.recallDirectory ctx 262144 base)
      | some es =>
        let pairs := pairSpans es c.savedSpans
        let oks := es.map (s.implOk ctx c.slots)
        if oks.any (·.isNone) then .next (s.recallHeads ctx pairs)
        else if oks.any (· == some false) then
          let s := es.foldl (fun s e => s.implTouch ctx c.slots e) (s.partTouch ctx base (16 * (es.length + 1)))
          .next ((s.updCtx ctx fun c => { c with state := .faulted }).heldRequests ctx)
        else match s.placeSaved (s.savedClusters c.slots) with
          | none => .next s
          | some s1 =>
            match (s1.partTouch ctx base (16 * (es.length + 1))).restoreEntries ctx c.slots pairs with
            | none => .next (s.recallHeads ctx pairs)
            | some s1 =>
              match (match s1.wakeEntries ctx c.slots es with | .done s => s.issueAgain c.reissue c.loads | r => r) with
              | .bad _ va _ => .next (s.partReady 0 ctx va 1 false).2
              | .wait t => .next { s with port := t.port }
              | .done t =>
              let x := t.lowerExtra ctx
              if !x.2 then .next { s with port := x.1.port }
              else
                let s := x.1
                let s := s.updCtx ctx fun c => { c with state := .running, slots := [], savedSpans := [], reissue := [], loads := [], heldPreempt := false }
                let s := if c.heldPreempt && !c.heldDestroy then s.preempt ctx else s
                .next (s.heldRequests ctx)

/-- R104: the event ABSENT_UNIT_FILL: a unit of a group or a team, numbered kind * 4096 + index, is filled. -/
def execAbsentUnitFill (owner unit : Nat) (s : State) : Host.Outcome State Fault Refusal :=
  match s.contexts.find? fun c => c.2.absent.any fun a => a.owner == owner && a.kind == unit / 4096 && a.index == unit % 4096 with
  | none => .next s
  | some c => match s.present c.1 owner (unit / 4096) (unit % 4096) with
    | .done s | .wait s => .next s
    | .bad _ _ _ => .next s

end Sys2Proof.Machine
end

