-- ==== Sys2Proof/Machine/CrossLane.lean ====
section
/-! DEFINITION. The meanings of the cross-lane instructions (spec/13_crosslane.md R240 to R253). -/

namespace Sys2Proof

/-- R242: the width of a sub-group. -/
def Sw.w : Sw → Nat | .full => 64 | .sg2 => 2 | .sg4 => 4 | .sg8 => 8 | .sg16 => 16 | .sg32 => 32 | .sg64 => 64

end Sys2Proof

namespace Sys2Proof.Machine

/-- What a cross-lane instruction gives lane `l` when the lanes of a mask take part (R240). -/
abbrev XFun := Env → Nat → Nat → Lres

/-- The base of a lane's sub-group. -/
def subBase (w l : Nat) : Nat := w * (l / w)

/-- R245, R252: the groups of a span's range that differ in which lanes take part: those of its first two teams and of its
last two. -/
def Span.shapes (gr : Grid) (sp : Span) : List (Nat × Nat) :=
  let t0 := gr.teamOf sp.first
  let t1 := gr.teamOf sp.last
  (([t0, t0 + 1, t1 - 1, t1].filter fun t => decide (t0 ≤ t) && decide (t ≤ t1)).eraseDups).flatMap fun t =>
    ((List.range gr.kernel.ngroups).map fun g => (t, gr.lanesIn t g sp.first sp.last)).filter fun x => x.2 != 0

/-- R252: the one result that every item of a span would receive, if it is one. -/
def State.spanX (s : State) (gr : Grid) (sp : Span) (f : XFun) : Option Lres :=
  let (tu, s1) := s.proxyTeam gr sp
  match (s1.setGroup (sp.proxy gr tu)).env? sp.uid with
  | none => none
  | some e =>
    let all := (sp.shapes gr).flatMap fun x => (lanesOf x.2).map fun l => f e x.2 l
    match all with
    | [] => none
    | r :: rest => if rest.all fun q => q.val == r.val && q.pred == r.pred && q.flags == r.flags then some r else none

/-- R48, R198: flags that a span's instruction raises when it completes. -/
def State.oweFlags (s : State) (uid flags : Nat) : State :=
  if flags == 0 then s
  else
    let (n, s) := s.fresh
    { s with flights := Tab.set s.flights n { group := uid, lanes := 1, regs := [], due := none, sb := none, flags, landed := false } }

/-- A cross-lane instruction (R240 to R243): the registers or the predicate it writes. -/
def crossOp (i : Instr) (h : Hdr) (d : Option (Opnd × Nat)) (pd : Option (BitVec 3)) (f : XFun) (s : State) :
    Host.Outcome State Fault Refusal :=
  issue i
    (.own false fun s sp next =>
      match Tab.get? s.grids sp.grid with
      | none => none
      | some gr =>
        if !sp.allU i.uses then none
        else (s.spanX gr sp f).map fun r =>
          let sp := { sp with pc := next }
          let sp := match pd with | some p => sp.setP p.toNat (.u r.pred) | none => sp
          let sp := match d with
            | some (.s n, k) => { sp with s := Tab.set sp.s n.toNat (BitVec.ofNat 64 (if k < 2 then r.val % 2 ^ 32 else r.val)),
                                          stamps := Tab.set sp.stamps (stampS n.toNat) (s.core (s.spanCore sp)).epoch }
            | some (o, k) => (Opnd.regs o k).foldl (fun (x : Span × Nat) q => (x.1.setForm q (Form.u (BitVec.ofNat 32 x.2)), x.2 / 2 ^ 32)) (sp, r.val) |>.1
            | none => sp
          (s.setSpan sp).oweFlags sp.uid r.flags)
    (fun s e act =>
      let rs := (List.range 64).map fun l => if inMask act l then f e act l else {}
      let at_ := fun l => rs.getD l {}
      let dres : List Res := match d with | some (d, n) => resOf d n (lowLane act) fun l => (at_ l).val | none => []
      let pres : List Res := match pd with | some p => [(Reg.p p.toNat, fun l => if (at_ l).pred then 1 else 0)] | none => []
      { s := s.result e.g.uid h act .var (dres ++ pres) (rs.foldl (fun x r => orN x r.flags) 0) }) s

/-! ### Shuffles and broadcast (R244, R245) -/

/-- R244: the value of a source position of a sub-group, or the fill. -/
def gather (m : XMod) (a c : Opnd) (e : Env) (act l : Nat) (j : Int) : Lres :=
  let base := subBase m.sw.w l
  let ok := decide (0 ≤ j) && decide (j < m.sw.w) && inMask act (base + j.toNat)
  { val := if ok then e.word m.x64 (base + j.toNat) a else e.word m.x64 l c }
/-- R244: with WRAP, the position modulo the width. -/
def wrapPos (wrap : Bool) (w : Nat) (j : Int) : Int := if wrap then j % (w : Int) else j
def laneGather (i : Instr) (h : Hdr) (m : XMod) (wrap : Bool) (d a b c : Opnd) (pos : Nat → Nat → Int) (s : State) :
    Host.Outcome State Fault Refusal :=
  crossOp i h (some (d, m.n)) none (fun e act l =>
    gather m a c e act l (wrapPos wrap m.sw.w (pos (l - subBase m.sw.w l) (e.w32 l b)))) s

def execLnget (h : Hdr) (m : XMod) (wrap : Bool) (d a b c : Opnd) (s : State) : Host.Outcome State Fault Refusal :=
  laneGather (.lnget h m wrap d a b c) h m wrap d a b c (fun _ b => (b : Int)) s
def execLnxor (h : Hdr) (m : XMod) (wrap : Bool) (d a b c : Opnd) (s : State) : Host.Outcome State Fault Refusal :=
  laneGather (.lnxor h m wrap d a b c) h m wrap d a b c (fun i b => (Nat.xor i b : Int)) s
def execLnsub (h : Hdr) (m : XMod) (wrap : Bool) (d a b c : Opnd) (s : State) : Host.Outcome State Fault Refusal :=
  laneGather (.lnsub h m wrap d a b c) h m wrap d a b c (fun i b => (i : Int) - b) s
def execLnadd (h : Hdr) (m : XMod) (wrap : Bool) (d a b c : Opnd) (s : State) : Host.Outcome State Fault Refusal :=
  laneGather (.lnadd h m wrap d a b c) h m wrap d a b c (fun i b => ((i + b : Nat) : Int)) s

def execBcast (h : Hdr) (m : XMod) (first : Bool) (d a b c : Opnd) (s : State) : Host.Outcome State Fault Refusal :=
  crossOp (.bcast h m first d a b c) h (some (d, m.n)) none (fun e act l =>
    let base := subBase m.sw.w l
    let j := if first then ((List.range m.sw.w).find? fun k => inMask act (base + k)).getD 0 else e.w32 (lowLane act) b
    gather m a c e act l (j : Int)) s

/-! ### Reduction and scan (R246 to R248) -/

/-- A slot: empty, or a value and the flags of the steps so far. -/
abbrev Slot := Option Nat
/-- R246: one step, on `w` bits; the flags it raises. -/
def redStep (op : RedOp) (x64 ftz : Bool) (x y : Nat) : Nat × Nat :=
  let w := if x64 then 64 else 32
  let f := if x64 then fp64 else fp32
  match op with
  | .add => ((x + y) % 2 ^ w, 0)
  | .minS => (if sext w x ≤ sext w y then x else y, 0)
  | .minU => (min x y, 0)
  | .maxS => (if sext w x ≤ sext w y then y else x, 0)
  | .maxU => (max x y, 0)
  | .and => (Nat.land x y, 0)
  | .or => (Nat.lor x y, 0)
  | .xor => (Nat.xor x y, 0)
  | .fadd => f.addOp .rn ftz x y
  | .fmin => f.minMax false x y
  | .fmax => f.minMax true x y
def slotStep (op : RedOp) (x64 ftz : Bool) (x y : Slot) : Slot × Nat :=
  match x, y with
  | none, y => (y, 0)
  | x, none => (x, 0)
  | some a, some b => let r := redStep op x64 ftz a b
                      (some r.1, r.2)

/-- R246: a source of a reduction: converted and flushed for a floating-point operation. -/
def redSrc (op : RedOp) (x64 : Bool) (e : Env) (l : Nat) (o : Opnd) : Nat :=
  if op.isFp then (fpSel x64).flush e.ftz (e.fcode (fpSel x64) l o 0) else e.word x64 l o
/-- R246: the slots of a sub-group. -/
def slotsOf (op : RedOp) (m : XMod) (a : Opnd) (e : Env) (act base : Nat) : List Slot :=
  (List.range m.sw.w).map fun i => if inMask act (base + i) then some (redSrc op m.x64 e (base + i) a) else none

/-- R247: the tree, level by level: neighbours combine until one slot is left. -/
def redTree (f : Slot → Slot → Slot × Nat) : Nat → List Slot → Slot × Nat
  | 0, v => (v.headD none, 0)
  | n + 1, v =>
    let ps := (List.range (v.length / 2)).map fun k => f (v.getD (2 * k) none) (v.getD (2 * k + 1) none)
    let r := redTree f n (ps.map (·.1))
    (r.1, ps.foldl (fun x p => orN x p.2) r.2)

def execRedx (h : Hdr) (m : XMod) (op : RedOp) (d a : Opnd) (s : State) : Host.Outcome State Fault Refusal :=
  crossOp (.redx h m op d a) h (some (d, m.n)) none (fun e act l =>
    let r := redTree (slotStep op m.x64 e.ftz) (log2N m.sw.w) (slotsOf op m a e act (subBase m.sw.w l))
    { val := r.1.getD 0, flags := r.2 }) s

/-- R248: the steps of a scan from a distance of 2^k on. -/
def scanSteps (f : Slot → Slot → Slot × Nat) : Nat → Nat → List Slot → List Slot × Nat
  | 0, _, v => (v, 0)
  | n + 1, k, v =>
    let ps := (List.range v.length).map fun i =>
      if i < k then (v.getD i none, 0) else f (v.getD (i - k) none) (v.getD i none)
    let r := scanSteps f n (2 * k) (ps.map (·.1))
    (r.1, ps.foldl (fun x p => orN x p.2) r.2)

def execScan (h : Hdr) (m : XMod) (excl : Bool) (op : RedOp) (d a c : Opnd) (s : State) : Host.Outcome State Fault Refusal :=
  crossOp (.scan h m excl op d a c) h (some (d, m.n)) none (fun e act l =>
    let base := subBase m.sw.w l
    let r := scanSteps (slotStep op m.x64 e.ftz) (log2N m.sw.w) 1 (slotsOf op m a e act base)
    let fill := if op.isFp then e.fcode (fpSel m.x64) l c 0 else e.word m.x64 l c
    { val := if excl then (if l == base then fill else (r.1.getD (l - base - 1) none).getD fill)
             else (r.1.getD (l - base) none).getD 0
      flags := r.2 }) s

/-! ### Vote and match (R249, R250) -/

/-- R240: the participants of a lane's sub-group. -/
def partners (w act l : Nat) : List Nat := ((List.range w).map fun i => subBase w l + i).filter fun k => inMask act k

def execPcons (h : Hdr) (sw : Sw) (dst : PconsDst) (pa : BitVec 3) (s : State) : Host.Outcome State Fault Refusal :=
  let i := Instr.pcons h sw dst pa
  let q := fun (e : Env) act l => (partners sw.w act l).map fun k => e.pbit pa.toNat k
  match dst with
  | .every pd => crossOp i h none (some pd) (fun e act l => { pred := (q e act l).all fun b => b }) s
  | .some pd => crossOp i h none (some pd) (fun e act l => { pred := (q e act l).any fun b => b }) s
  | .same pd => crossOp i h none (some pd) (fun e act l => { pred := ((q e act l).all fun b => b) || (q e act l).all fun b => !b }) s
  | .mask d => crossOp i h (some (d, 2)) none (fun e act l =>
      { val := maskOf 64 fun k => (partners sw.w act l).contains k && e.pbit pa.toNat k }) s

def execMatchv (h : Hdr) (m : XMod) (d a : Opnd) (s : State) : Host.Outcome State Fault Refusal :=
  crossOp (.matchv h m d a) h (some (d, 2)) none (fun e act l =>
    { val := maskOf 64 fun k => (partners m.sw.w act l).contains k && e.word m.x64 k a == e.word m.x64 l a }) s

end Sys2Proof.Machine
end

