-- ==== Sys2Proof/Machine/Pages.lean ====
section
/-! DEFINITION. Fault service and TLB invalidation (spec/17_page.md R328 to R332). -/

namespace Sys2Proof.Machine

/-- R330: every access that an entry of a pending-fault table names is made again: the lanes execute their instruction, pipes
and channels go on, requests are performed again as their stream turns to them. A halted context's pipe goes on for a lane that stays
parked at its instruction, as its record says of it (R53, R356). -/
def State.replayAll (s : State) (p : PFault) : State :=
  let free := fun (x : Lane) => match x.block with | .fault => { x with block := .free } | _ => x
  let s := p.lanes.foldl (fun (s : State) x => s.updGroup x.1 fun g => g.updLanes x.2 fun _ y => free y) s
  p.ops.foldl (fun (s : State) x =>
    let s := match s.teams.findSome? fun t => Tab.get? t.2.ops x.2 with
      | some o => if (match Tab.get? s.contexts p.ctx with | some c => c.halted | none => false) then s else s.parkPipe o x.2 false
      | none => s.pauseCopy x.2 false
    { s with teams := s.teams.map fun (t : Nat × Team) => (t.1, { t.2 with ops := Tab.upd t.2.ops x.2 fun o => { o with paused := false } }) }) s
/-- The entry goes, and every access attached to it is made again. -/
def State.replay (s : State) (key : Nat) : State :=
  match Tab.get? s.pfaults key with
  | none => s
  | some p => State.replayAll { s with pfaults := Tab.del s.pfaults key } p

/-- The bytes of a page of host memory, or `none` where the copy meets an error (R323). -/
def State.hostPage (s : State) (p n : Nat) : Option (List Byte) :=
  if (List.range (n / 32)).all fun k => !s.hostError (hostBase + p + 32 * k) && !s.poisoned (hostBase + p + 32 * k) then some (Mem.readN s.hostMem p n)
  else none

/-- R424: the first line of a frame of which the host holds a half. -/
def State.frameHeld (s : State) (fr : Nat) : Option Nat :=
  if s.port.lines.isEmpty then none
  else (List.range 512).findSome? fun k => let loc := physLoc 0 (fr + 128 * k); if s.heldHalf loc 128 then some loc else none

/-- R331, R332: a fault that the die does not service is forwarded to the host. -/
def State.forward (s : State) (key : Nat) : State :=
  State.postFaults { s with pfaults := Tab.upd s.pfaults key fun p => { p with host := true } }

/-- R331: the event HW_FAULT_SERVICE. An entry in a half that the host holds is asked for first (R424). -/
def execHwFaultService (die slot : Nat) (s : State) : Host.Outcome State Fault Refusal :=
  let key := 256 * die + slot
  match Tab.get? s.pfaults key with
  | none => .next s
  | some p =>
    let e := s.entryAt p.key
    let at_ := physLoc 0 p.key
    if p.host || eST p.entry == 3 then .next s
    else if s.heldHalf at_ 8 then .next (s.recallAt at_ 8)
    else if eST e != 2 then .next (s.replay key)
    else
      let c := Tab.get? s.contexts p.ctx
      let list := (c.map fun c => if die == 0 then c.frames0 else c.frames1).getD []
      let wx := 8 * b2n (eW e) + 16 * b2n (eX e)
      if p.level == 1 && ePFN e != 0 && eILV e == 2 then
        if !ePS64 e then .next ((s.setEntry p.key (1 + wx + 2 ^ 7 * 2 + 2 ^ 12 * ePFN e)).replay key)
        else match list, s.hostPage (ePFN e * 4096) 65536 with
          | fr :: rest, some bs =>
            match s.frameHeld fr with
            | some loc => .next (s.recallAt loc 128)
            | none =>
            let s := s.updCtx p.ctx fun c => if die == 0 then { c with frames0 := rest } else { c with frames1 := rest }
            let s := (List.range 16).foldl (fun (s : State) k => s.pokeN (physLoc 0 (fr + 4096 * k)) ((bs.drop (4096 * k)).take 4096)) s
            let s := s.clearPoison ((List.range 65536).map fun k => physLoc 0 (fr + k))
            .next ((s.setEntry p.key (1 + wx + 2 ^ 6 + 2 ^ 12 * (fr / 4096))).replay key)
          | _, _ => .next (s.forward key)
      else .next (s.forward key)

/-- The part of an entry that holds some of its accesses: by owner and lane, as `Met` names them. -/
def PFault.only (p : PFault) (on : Nat → Nat → Bool) : PFault :=
  { p with
    lanes := (p.lanes.map fun x => (x.1, laneMask fun l => inMask x.2 l && on x.1 l)).filter fun x => x.2 != 0
    ops := p.ops.filter fun x => on x.2 (64 + x.1)
    reqs := p.reqs.filter fun r => on (16 * r.peer + r.stream) 1000
    met := p.met.filter fun m => on m.owner m.lane }
/-- Nothing is attached to an entry. -/
def PFault.bare (p : PFault) : Bool := p.lanes.isEmpty && p.ops.isEmpty && p.reqs.isEmpty

/-- R330: one access of an entry attaches to the entry of the ABSENT entry at which its walk now ends: one that is there, or a new
one that is the host's; with no entry free the access is made again. -/
def State.moveMet (s : State) (p : PFault) (m : Met) (w : Walk) : State :=
  let one := p.only fun o l => o == m.owner && l == m.lane
  let was := s.pfaults
  match s.pfaultSlot m.core p.ctx m.va { level := w.level, entry := w.entry, key := w.at_, flags := m.flags } with
  | (none, s) => s.replayAll one
  | (some k, s) =>
    let s := { s with pfaults := Tab.upd s.pfaults k fun q =>
      { q with
        host := q.host || (Tab.get? was k).isNone
        lanes := one.lanes.foldl (fun ls x =>
          if ls.any fun y => y.1 == x.1 then ls.map fun y => if y.1 == x.1 then (y.1, maskOr y.2 x.2) else y else ls ++ [x]) q.lanes
        ops := q.ops ++ one.ops.filter fun x => !q.ops.contains x
        reqs := q.reqs ++ one.reqs.filter fun r => !q.reqs.contains r
        met := q.met ++ [m] } }
    -- a pipe or a channel stays paused, a lane parked
    s

/-- The accesses of an entry that are still attached to it. -/
def PFault.attached (p : PFault) : List Met :=
  p.met.filter fun m => !(p.only fun o l => o == m.owner && l == m.lane).bare
/-- R332: the walk for each attached access is made again. Those that end at the same ABSENT entry keep the entry, which sends a new
record; those that end at another ABSENT entry move to its own; the others are made again, and take PAGE_PROT themselves where the
walk denies it. -/
def State.walkAgain (s : State) (key : Nat) (p : PFault) : State :=
  let ends := p.attached.map fun m => (m, s.walk p.ctx m.va)
  let absent := ends.filter fun x => x.2.kind == .absent
  let still := absent.filter fun x => x.2.at_ == p.key
  let moved := absent.filter fun x => x.2.at_ != p.key
  let named := fun (l : List (Met × Walk)) (o k : Nat) => l.any fun x => x.1.owner == o && x.1.lane == k
  let kept := p.only (named still)
  let again := fun (x : Met × Walk) => ({ kept with
    entry := x.2.entry, level := x.2.level, va := x.1.va, core := x.1.core, flags := x.1.flags, recorded := false, host := true } : PFault)
  let s : State := { s with pfaults := match still.head? with
    | some x => Tab.set s.pfaults key (again x)
    | none => Tab.del s.pfaults key }
  let s := s.replayAll (p.only fun o k => !named absent o k)
  (moved.foldl (fun s x => s.moveMet p x.1 x.2) s).postFaults

/-! ### Requests of the host that wait (R424, R425) -/

/-- The 64-byte half of an address: its line, which half, and its first place. -/
def halfOf (p : Nat) : Nat × Bool × Nat :=
  let loc := physLoc 0 (p / 64 * 64)
  (loc / 128, decide (64 ≤ loc % 128), loc)
/-- What a request of the host waits for its turn at: a line of the bridge, a line of BAR2, or an entry of a pending-fault table. -/
def hostTurn : Instr → Option (Nat × Nat)
  | .hostRead p _ | .hostWriteback p _ | .hostWrite p _ _ => some (0, (halfOf p).1)
  | .bar2Access p _ => some (1, physLoc 0 p / 128)
  | .faultReplayWrite slot => some (2, slot.toNat)
  | _ => none
/-- A request of the host is served, behind those of its turn that wait; where `f` answers false it waits and is tried again
(`State.takeHeld`). -/
def State.serve (s : State) (i : Instr) (f : State → Bool × State) : Host.Outcome State Fault Refusal :=
  let again := s.port.again
  let s : State := { s with port := { s.port with again := false } }
  let wait := fun (s : State) =>
    Host.Outcome.next { s with port := { s.port with held := if again then i :: s.port.held else s.port.held ++ [i] } }
  if !again && s.port.held.any (fun j => hostTurn j == hostTurn i) then wait s
  else match f s with
    | (true, s) => .next s
    | (false, s) => wait s
/-- The requests that may be tried again: the oldest of each turn. -/
def State.heldFirst (s : State) : List Instr :=
  s.port.held.filter fun i => (s.port.held.find? fun j => hostTurn j == hostTurn i) == some i
/-- The step takes up a request that waits. -/
def State.takeHeld (s : State) (i : Instr) : State :=
  if s.port.held.contains i then { s with port := { s.port with held := s.port.held.erase i, again := true } } else s

/-- R332: the event FAULT_REPLAY_WRITE. A slot that no fault forwarded to the host holds is refused; a walk that comes to a half which
the host holds waits for it (R424). -/
def execFaultReplayWrite (slot : BitVec 16) (s : State) : Host.Outcome State Fault Refusal :=
  s.serve (.faultReplayWrite slot) fun s =>
    let key := 256 * b2n (slot.getLsbD 15) + slot.toNat % 256
    if !s.windowOpen then (true, s)
    else match Tab.get? s.pfaults key with
      | none => (true, s.refuse)
      | some p =>
        if eST p.entry == 3 || !p.host then (true, s.refuse)
        else match p.attached.find? fun m => (s.walk p.ctx m.va).kind == .held with
          | some m => (false, s.recallWalk p.ctx m.va)
          | none => (true, s.accept.walkAgain key p)

/-- R329: whether a range of a request covers an address; no range is the whole context. -/
def inRange (range : Option (Nat × Nat)) (lo n : Nat) : Bool :=
  match range with
  | none => true
  | some (a, len) => decide (a < lo + n) && decide (lo < a + len)

/-- R329: the event TLB_INVALIDATE: the range is its first address and its length. One request of a context is under way at a
time. -/
def execTlbInvalidate (ctx : Nat) (range : Option (Nat × Nat)) (s : State) : Host.Outcome State Fault Refusal :=
  if !s.windowOpen then .next s
  else match Tab.get? s.contexts ctx with
    | none => .next s.refuse
    | some c => if c.invalidate.isSome || c.state == .destroyed then .next s.refuse
      else .next (s.accept.updCtx ctx fun c => { c with invalidate := some range })

/-- R329: a request covers a page that an entry of a level maps. -/
def coversPage (range : Option (Nat × Nat)) (level entry va : Nat) : Bool :=
  let n := 2 ^ levelBits level entry
  inRange range (va / n * n) n

/-- R328, R329: the accesses of an entry that wait on a MIGRATING page which a request covers, each by its own address, are made again;
the others stay. -/
def State.replayCovered (s : State) (range : Option (Nat × Nat)) (key : Nat) (p : PFault) : State :=
  let hit := fun (o l : Nat) => p.met.any fun m => m.owner == o && m.lane == l && coversPage range p.level p.entry m.va
  let rest := p.only fun o l => !hit o l
  if rest.bare then s.replay key
  else State.replayAll { s with pfaults := Tab.set s.pfaults key rest } (p.only hit)

/-- R329: the event TLB_INVALIDATE_COMPLETE, once every access that may have translated through an old entry has been performed:
one in a gigabyte of the range, which the largest leaf covers. Lanes that parked on a MIGRATING page of the range replay. -/
def execTlbInvalidateComplete (ctx : Nat) (s : State) : Host.Outcome State Fault Refusal :=
  match (Tab.get? s.contexts ctx).bind fun c => c.invalidate with
  | none => .next s
  | some range =>
    if (s.streams.any fun x => x.half.isSome)
        || (s.stores.any fun p => p.2.ctx == ctx && p.2.inTeam.isNone && p.2.pieces.any fun x => inRange range (x.va / 2 ^ 30 * 2 ^ 30) (2 ^ 30)) then .next s
    else
      let keep := fun (t : TlbEntry) => !(t.ctx == ctx && inRange range (t.page * 2 ^ t.size) (2 ^ t.size))
      let s : State := { s with
        dieTlb := s.dieTlb.map fun ts => ts.filter keep
        cores := s.cores.map fun (c : Nat × Core) => (c.1, { c.2 with tlb := c.2.tlb.filter keep }) }
      let s := s.updCtx ctx fun c => { c with invalidate := none }
      .next ((s.pfaults.filter fun p => p.2.ctx == ctx && eST p.2.entry == 3).foldl (fun s p => s.replayCovered range p.1 p.2) s)

end Sys2Proof.Machine
end

