-- ==== Sys2Proof/Machine/Host.lean ====
section
/-! DEFINITION. The host port and the coherence bridge (spec/22_host.md R422 to R427): what the host's accesses to device
memory do. Addresses are device physical addresses under the die-local map. -/

namespace Sys2Proof.Machine

/-- The bridge serves requests: CXL.mem is there. -/
def State.hasMem (s : State) : Bool := s.port.up && s.port.mode == 0

/-! ### The state of a line (R424, R425) -/

def Bridge.none_ : Bridge := { lower := false, upper := false, recalled := 0, stale := 0, yields0 := 0, yields1 := 0 }
def State.bridge (s : State) (line : Nat) : Bridge := Tab.get s.port.lines line Bridge.none_
def Bridge.holds (b : Bridge) (up : Bool) : Bool := if up then b.upper else b.lower
def Bridge.hold (b : Bridge) (up on : Bool) : Bridge := if up then { b with upper := on } else { b with lower := on }
/-- A line that the host holds no half of, with no recall under way, is in state DEV. -/
def State.setBridge (s : State) (line : Nat) (b : Bridge) : State :=
  { s with port := { s.port with lines :=
      if !b.lower && !b.upper && b.recalled == 0 then Tab.del s.port.lines line else Tab.set s.port.lines line b } }

/-- R425: a host request for a line of which halves are being recalled: the device yields. -/
def Bridge.yielded (b : Bridge) : Bridge :=
  { b with stale := Nat.lor b.stale b.recalled, yields0 := b.yields0 + b2n (bitOf b.recalled 0), yields1 := b.yields1 + b2n (bitOf b.recalled 1) }
/-- R425: a recall that has yielded 4 times and is not complete: new requests for the line are held. -/
def Bridge.closed (b : Bridge) : Bool :=
  (bitOf b.recalled 0 && decide (4 ≤ b.yields0)) || (bitOf b.recalled 1 && decide (4 ≤ b.yields1))
/-- R425: a response to the recall of a half has come. Unless the device has yielded since the snoop, the host's half is gone and the
recall complete; otherwise the outcome is discarded and the recall decided again: the snoop goes once more while the host holds the
half. -/
def Bridge.answered (b : Bridge) (up : Bool) : Bridge :=
  let k := b2n up
  let clear := fun (m : Nat) => m - (if bitOf m k then 2 ^ k else 0)
  if bitOf b.stale k && b.holds up then { b with stale := clear b.stale }
  else
    let b := { b.hold up false with recalled := clear b.recalled, stale := clear b.stale }
    if up then { b with yields1 := 0 } else { b with yields0 := 0 }

/-- R276: a line of a sealed range. -/
def State.lineSealed (s : State) (line : Nat) : Bool := s.seals.any fun k => (s.sealLines k).contains line

/-! ### Performing a host access -/

/-- An answer to the host. -/
def State.answer (s : State) (p : Nat) (bs : List Byte) (st : Nat) : State :=
  { s with port := { s.port with outbox := s.port.outbox ++ [(p, bs, st)] } }

/-- R266, R471: loads under way that read some bytes are performed, before the host takes or poisons them: step 6 of their
checks then stands as it was when their lanes went on (log entry 23, DEDUCED). False where one of them waits for the host. -/
def State.loadsFirst (s : State) (loc n : Nat) : Bool × State :=
  (s.performAll (s.before fun _ p => p.load.isSome && p.touches none loc n)).swap
/-- The same for some places, by their sectors. -/
def State.loadsFirstAll (s : State) (ps : List Nat) : Bool × State :=
  (ps.map sectorOf).eraseDups.foldl (fun r q => if r.1 then r.2.loadsFirst (32 * q) 32 else r) (true, s)

/-- R424, R267: bytes that the host writes at some places, performed at the home; with poison their sectors are marked. -/
def State.hostPut (s : State) (ps : List Nat) (bs : List Byte) (poison : Bool) : State :=
  let s := (ps.zip bs).foldl (fun (s : State) x => s.poke x.1 x.2) s
  let s := s.clearPoison (ps.take bs.length)
  let s := if poison then (ps.take bs.length).foldl (fun s p => s.markPoison p) s else s
  (ps.map (· / 128)).eraseDups.foldl (fun s line => s.fireLine line fun _ => true) s
/-- The places of `n` bytes from a place on. -/
def placesFrom (loc n : Nat) : List Nat := (List.range n).map (loc + ·)
/-- Data that the host gives back with a half: none of it where the host has not changed it. -/
def State.hostBack (s : State) (loc : Nat) (back : HostData) : State :=
  if back.data.isEmpty then s
  else
    let s := if back.poison then (s.loadsFirstAll (placesFrom loc 64)).2 else s
    s.hostPut (placesFrom loc 64) (back.data.take 64) back.poison

/-- R424: the event HOST_READ of a half, with or without ownership. -/
def execHostRead (p : Nat) (own : Bool) (s : State) : Host.Outcome State Fault Refusal :=
  s.serve (.hostRead p own) fun s =>
    let (line, up, loc) := halfOf p
    let b := s.bridge line
    if !s.hasMem || decide (2 ^ 39 ≤ p) then (true, s)
    else if b.closed then (false, s)
    else match s.loadsFirst loc 64 with
      | (false, s) => (false, s)
      | (true, s) =>
        let bs := (List.range 64).map fun k => s.peek (loc + k)
        let bad := s.poisoned loc || s.poisoned (loc + 32)
        let s := s.answer (p / 64 * 64) bs (b2n bad)
        if s.lineSealed line then (true, s)
        else (true, (s.dropEvery fun x => x.line == line).setBridge line (b.yielded.hold up true))

/-- R424: the event HOST_WRITEBACK of a half that the host holds; with no data it is a clean eviction. -/
def execHostWriteback (p : Nat) (back : HostData) (s : State) : Host.Outcome State Fault Refusal :=
  s.serve (.hostWriteback p back) fun s =>
    let (line, up, loc) := halfOf p
    let b := s.bridge line
    if !s.hasMem || decide (2 ^ 39 ≤ p) || !b.holds up then (true, s)
    else if b.closed then (false, s)
    else (true, (s.hostBack loc back).setBridge line (b.yielded.hold up false))

/-- R424, R277: the event HOST_WRITE of bytes of one half. -/
def execHostWrite (p : Nat) (data : List (BitVec 8)) (poison : Bool) (s : State) : Host.Outcome State Fault Refusal :=
  s.serve (.hostWrite p data poison) fun s =>
    let (line, _, loc) := halfOf p
    let b := s.bridge line
    let ps := placesFrom (loc + p % 64) (min data.length (64 - p % 64))
    if !s.hasMem || decide (2 ^ 39 ≤ p) then (true, s)
    else if b.closed then (false, s)
    else if s.lineSealed line then (true, s.answer p [] 2)
    else match (if poison then s.loadsFirstAll ps else (true, s)) with
      | (false, s) => (false, s)
      | (true, s) =>
        let s := (s.hostPut ps data poison).answer p [] 0
        (true, if (Tab.get? s.port.lines line).isSome then s.setBridge line b.yielded else s)

/-- R425: writebacks of a half that the bridge holds are served as the recall that held them completes: they carry its newest
data (log entry 42, DEDUCED). -/
def State.backsFirst (s : State) (line : Nat) (up : Bool) : State :=
  let mine := fun (i : Instr) => match i with
    | .hostWriteback p _ => (halfOf p).1 == line && (halfOf p).2.1 == up
    | _ => false
  let s := s.port.held.foldl (fun (s : State) i => match i with
    | .hostWriteback p back => if mine i then s.hostBack (halfOf p).2.2 back else s
    | _ => s) s
  { s with port := { s.port with held := s.port.held.filter fun i => !mine i } }

/-- R424, R425: the event RECALL_RESPONSE: its dirty data is written; its outcome stands unless the device has yielded. The
access that recalled the half is decided again as it is tried again. -/
def execRecallResponse (p : Nat) (back : HostData) (s : State) : Host.Outcome State Fault Refusal :=
  let (line, up, loc) := halfOf p
  let b := s.bridge line
  if !s.hasMem || !bitOf b.recalled (b2n up) then .next s
  else
    let s := (s.hostBack loc back).setBridge line (b.answered up)
    .next (if bitOf (b.answered up).recalled (b2n up) then s else s.backsFirst line up)

/-- R301, R424, R426: the event HOST_SNOOP of a line of host memory: the home-die L2 answers for a line that it holds, and gives it up
where it must. With data the host writes the line, for which the part gives up its copy first. -/
def execHostSnoop (p : Nat) (snoop : Snoop) (s : State) : Host.Outcome State Fault Refusal :=
  if !s.port.up then .next s
  else
    let at_ := hostBase + p / 64 * 64
    let s := if decide (s.port.mode < 3) && s.port.l2host.contains (p / 64) then
        let s := s.answer (p / 64 * 64) ((List.range 64).map fun k => s.peek (at_ + k)) 0
        if snoop.inval || !snoop.data.isEmpty then
          let s : State := { s with port := { s.port with l2host := s.port.l2host.filter fun x => x != p / 64 } }
          s.dropEvery fun x => x.line == at_ / 128
        else s
      else s
    .next (if snoop.data.isEmpty then s else s.hostPut (placesFrom at_ 64) (snoop.data.take 64) false)

/-- R423, R424, R430: the event BAR2_ACCESS: an uncached access to device memory, of 8 bytes when it reads (log entry 42, DESIGN
CHOICE), performed as a device access, so that a half which the host holds is recalled first. -/
def execBar2Access (p : Nat) (write : Option (List (BitVec 8))) (s : State) : Host.Outcome State Fault Refusal :=
  s.serve (.bar2Access p write) fun s =>
    let n := match write with | some bs => bs.length | none => 8
    let ps := (List.range n).map fun k => physLoc 0 (p + k)
    if !s.port.up || s.manage.recovery || decide (2 ^ 39 < p + n) then (true, s)
    else if s.manage.perigee && ps.any (fun x => decide (4 ≤ locStack x)) then
      let s : State := { s with port := { s.port with perigeeCount := s.port.perigeeCount + 1 } }
      (true, if write.isSome then s else s.answer p [] 3)
    else if write.isSome && (ps.map (· / 128)).eraseDups.any s.lineSealed then (true, s.answer p [] 2)
    else match ps.filter fun x => s.heldHalf x 1 with
      | x :: xs => (false, (x :: xs).foldl (fun s x => s.recallAt x 1) s)
      | [] => (true, match write with
        | none => s.answer p (ps.map s.peek) (b2n (ps.any s.poisoned))
        | some bs => s.hostPut ps bs false)

/-! ### The port goes down (R427) -/

/-- R427: lanes of a pending access to host memory fail with PAGE_PROT; a span issues its access again and lowers (R143). -/
def State.failHost (s : State) (n : Nat) : State :=
  match Tab.get? s.stores n with
  | none => s
  | some p =>
    let out := p.pieces.filter fun x => p.inTeam.isNone && isHost x.loc
    if out.isEmpty then s
    else if (Tab.get? s.spans p.group).isSome then
      State.updSpan { s with stores := s.stores.filter fun q => q.2.group != p.group } p.group fun sp => { sp with block := .retry }
    else
      let m := laneMask fun l => out.any fun x => x.lane == l
      let at_ := fun l => ((out.find? fun x => x.lane == l).map (·.va)).getD 0
      let left := p.pieces.filter fun x => !isHost x.loc
      let s := { s with stores := if left.isEmpty then Tab.del s.stores n else Tab.set s.stores n { p with pieces := left } }
      match p.atomic, p.load with
      | some (_, _, fl), _ | none, some (_, _, fl) => s.failLanes fl m .pageProt at_
      | none, none => s.updGroup p.group fun g => g.updLanes m fun l x => x.fails n .pageProt (at_ l)

/-- The first byte of `n` from an address of a context on that lies in host memory. -/
def State.hostByte (s : State) (ctx : Nat) (x : Nat × Nat) : Option Nat :=
  ((List.range (x.2 / 4096 + 2)).map fun j => if j == 0 then x.1 else (x.1 / 4096 + j) * 4096).find? fun a =>
    decide (a < x.1 + x.2) && (let w := s.walkNow ctx a; w.kind == .leaf && isHost (trOf w.bits w.entry a).loc)
/-- The rows of global memory that an operation of a copy channel or of the fabric engine moves; the destination of the latter is a
peer's. -/
def CopyOp.globalRows (o : CopyOp) (fabric : Bool) : List (Nat × Nat) :=
  ((if o.ssp == .g then o.srcRows else []) ++ if o.dsp == .g && !fabric then o.dstRows else []).map fun a => (a, o.rowlen)
/-- The rows of global memory that an operation of a tensor load pipe or of the attention path has still to move. -/
def State.opRows (s : State) (t : Team) (ver : Nat) (o : TileOp) : List (Nat × Nat) :=
  let runs := fun (m : AMap) (xs : List (List Int)) (n : Nat) =>
    if m.tile then [] else xs.filterMap fun x => (m.run x n).map fun z => (z.2.2, m.bytesOf (z.2.1 - z.1))
  let kpos := o.c / 2 ^ 32
  let att := fun (nh : Nat) (v : Bool) =>
    let js := (List.range 32).filter (attWant t o)
    if o.amap.isEmpty then
      (o.b, 64) :: match s.kvLookup t.core t.ctx t.uid ver 8 o.b kpos v, s.seqRead t.core t.ctx t.uid ver 8 o.b with
        | ((a, .ok), _), ((d, .ok), _) => js.map fun j => (a + j * d.rstr, 64 * nh)
        | _, _ => []
    else match amapOf o.amap with
      | some m => runs m (js.map fun j => [0, Int.ofNat (kpos + j), 0, 0]) (32 * nh)
      | none => []
  match o.instr with
  | .atts _ m .. => att (m.nh.toNat + 1) false
  | .attv _ m .. => att (m.nh.toNat + 1) true
  | _ => match o.maps with
    | some (m, d) =>
      let xs := (List.range (o.rows - o.row)).map fun r => moveX o.b o.c (o.row + r)
      runs m xs (moveElems o.instr m) ++ (match d with | some d => if o.amap2.isEmpty then [] else runs d xs (moveElems o.instr m) | none => [])
    | none => []

/-- R427, R311: every engine operation on host memory ends FAULTED with PAGE_PROT. -/
def State.failEngines (s : State) : State :=
  let code := TrapCode.pageProt.num
  let copies := s.cores.flatMap fun c =>
    (c.2.channels.flatMap fun x => x.2.map fun o => (c.1, o, false)) ++ c.2.fabric.map fun o => (c.1, o, true)
  let s := copies.foldl (fun (s : State) x =>
    let (ctx, ver) := s.teamView x.2.1.team
    match (x.2.1.globalRows x.2.2).findSome? (s.hostByte ctx) with
    | some va => if x.2.2 then s.endFabric x.1 x.2.1 4 code va else s.endCopy x.1 ctx ver x.2.1 4 code va
    | none => s) s
  s.teams.foldl (fun (s : State) t =>
    if !t.2.resident then s
    else
      let (ctx, ver) := s.teamView t.1
      t.2.ops.foldl (fun (s : State) o => match (s.opRows t.2 ver o.2).findSome? (s.hostByte ctx) with
        | some va => s.endTile t.1 o.1 4 .pageProt va
        | none => s) s) s

/-- R427: the event PORT_DOWN. What the host held is poisoned, and what it asked for is gone. -/
def execPortDown (s : State) : Host.Outcome State Fault Refusal :=
  let s := { s with port := { s.port with up := false, l2host := [] } }
  let lost := s.port.lines.flatMap fun x =>
    (if x.2.lower then [128 * x.1, 128 * x.1 + 32] else []) ++ (if x.2.upper then [128 * x.1 + 64, 128 * x.1 + 96] else [])
  let s := lost.foldl (fun s loc => s.markPoison loc) s
  let s := { s with port := { s.port with lines := [], held := [], again := false } }
  .next ((s.stores.map (·.1)).foldl (fun s n => s.failHost n) s).failEngines

end Sys2Proof.Machine
end

