-- ==== Sys2Proof/Machine/Integer.lean ====
section
/-! DEFINITION. The meanings of the integer, logic and address instructions (spec/11_integer.md). -/

namespace Sys2Proof

/-- R206: forms are kept in the 32-bit forms without SAT. -/
def IMod.plain (m : IMod) : Bool := m.wid == .w32 && !m.sat
/-- The comparison with its operands exchanged (R206). -/
def Cmp.mirror : Cmp → Cmp | .lt => .gt | .le => .ge | .gt => .lt | .ge => .le | c => c
/-- R220: the width of an element. -/
def QDst.w : QDst → Nat | .i8 | .u8 => 8 | .i4 | .u4 => 4

end Sys2Proof

namespace Sys2Proof.Machine

/-- The elements of a result, packed (R185). -/
def packElems (w : Wid) (f : Nat → Nat) : Nat :=
  sumN ((List.range w.count).map fun k => 2 ^ (w.w * k) * (f k % 2 ^ w.w))

/-- R205: a result of `w` bits, saturated to its type or wrapped. -/
def satWrap (sat sgn : Bool) (w : Nat) (x : Int) : Nat :=
  wrapZ w (if sat then (if sgn then satZ x (-(2 ^ (w - 1) : Int)) ((2 ^ (w - 1) : Int) - 1) else satZ x 0 ((2 ^ w : Int) - 1)) else x)

/-- An element of an operand under the type of the instruction. -/
def Env.ielem (e : Env) (m : IMod) (l : Nat) (o : Opnd) (k : Nat) : Int := intOf m.sgn m.wid.w (e.elem m.wid l o k)

def affTo (d : Opnd) (f : Option Form) : Option AffOut :=
  match Opnd.vreg? d, f with
  | some r, some f => some { regs := [(r, f)] }
  | _, _ => none

/-- R137: a form of two operands' forms. -/
def aff2 (ok : Bool) (d a b : Opnd) (f : Form → Form → Option Form) : State → Grid → Span → Option AffOut :=
  fun s gr sp => if !ok then none else
    match s.opForm gr sp a, s.opForm gr sp b with
    | some x, some y => affTo d (f x y)
    | _, _ => none

/-- A lane-by-lane integer instruction of one value (R203 to R206). -/
def intOp (i : Instr) (h : Hdr) (lat : Nat) (d : Opnd) (n : Nat) (aff : State → Grid → Span → Option AffOut) (f : Env → Nat → Nat)
    (s : State) : Host.Outcome State Fault Refusal :=
  issue i (.values false aff) (aluBody h (.fixed lat) (some (d, n)) none fun e l => { val := f e l }) s

/-- R207, R208: an instruction that combines elements of two operands. -/
def elem2 (m : IMod) (a b : Opnd) (op : Int → Int → Int) (e : Env) (l : Nat) : Nat :=
  packElems m.wid fun k => satWrap m.sat m.sgn m.wid.w (op (e.ielem m l a k) (e.ielem m l b k))

/-- R207. -/
def execIadd (h : Hdr) (m : IMod) (d a b : Opnd) (s : State) : Host.Outcome State Fault Refusal :=
  intOp (.iadd h m d a b) h 4 d m.n
    (aff2 m.plain d a b fun x y => some { base := x.base + y.base, stride := x.stride + y.stride })
    (elem2 m a b (· + ·)) s
/-- R207. -/
def execIsub (h : Hdr) (m : IMod) (d a b : Opnd) (s : State) : Host.Outcome State Fault Refusal :=
  intOp (.isub h m d a b) h 4 d m.n
    (aff2 m.plain d a b fun x y => some { base := x.base - y.base, stride := x.stride - y.stride })
    (elem2 m a b (· - ·)) s
/-- R208. -/
def execImul (h : Hdr) (m : IMod) (d a b : Opnd) (s : State) : Host.Outcome State Fault Refusal :=
  intOp (.imul h m d a b) h 6 d m.n
    (aff2 m.plain d a b fun x y =>
      if y.isU then some { base := x.base * y.base, stride := x.stride * y.base }
      else if x.isU then some { base := y.base * x.base, stride := y.stride * x.base } else none)
    (elem2 m a b (· * ·)) s
/-- R208: the upper half of the product. -/
def execImulh (h : Hdr) (m : IMod) (d a b : Opnd) (s : State) : Host.Outcome State Fault Refusal :=
  intOp (.imulh h m d a b) h 6 d m.n noAff
    (fun e l => wrapZ m.wid.w (Int.fdiv (e.ielem m l a 0 * e.ielem m l b 0) (2 ^ m.wid.w : Int))) s
/-- R208. -/
def execImad (h : Hdr) (m : IMod) (d a b c : Opnd) (s : State) : Host.Outcome State Fault Refusal :=
  intOp (.imad h m d a b c) h 6 d m.n noAff
    (fun e l => satWrap m.sat m.sgn m.wid.w (e.ielem m l a 0 * e.ielem m l b 0 + e.ielem m l c 0)) s
/-- R208: 32-bit factors, 64-bit sum. -/
def execImadw (h : Hdr) (m : IMod) (d a b c : Opnd) (s : State) : Host.Outcome State Fault Refusal :=
  intOp (.imadw h m d a b c) h 6 d 2 noAff
    (fun e l => satWrap m.sat m.sgn 64 (intOf m.sgn 32 (e.w32 l a) * intOf m.sgn 32 (e.w32 l b) + intOf m.sgn 64 (e.w64 l c))) s

/-- R209: the carry-in of a lane. -/
def Env.carryIn (e : Env) (cy : Carry) (l : Nat) : Nat := if cy.nci then 0 else b2n (e.pbit cy.pci.toNat l)
/-- R209: ADDC, SUBB and MADC: the word and the carry of an exact sum. -/
def carryOp (i : Instr) (h : Hdr) (lat : Nat) (cy : Carry) (d : Opnd) (f : Env → Nat → Int) (s : State) :
    Host.Outcome State Fault Refusal :=
  issue i (.values false noAff) (aluBody h (.fixed lat) (some (d, 1)) (some cy.pco) fun e l =>
    { val := wrapZ 32 (f e l), pred := decide (f e l < 0) || decide ((2 ^ 32 : Int) ≤ f e l) }) s
/-- R209. -/
def execAddc (h : Hdr) (m : IMod) (cy : Carry) (d a b : Opnd) (s : State) : Host.Outcome State Fault Refusal :=
  carryOp (.addc h m cy d a b) h 4 cy d (fun e l => (e.w32 l a + e.w32 l b + e.carryIn cy l : Nat)) s
/-- R209. -/
def execSubb (h : Hdr) (m : IMod) (cy : Carry) (d a b : Opnd) (s : State) : Host.Outcome State Fault Refusal :=
  carryOp (.subb h m cy d a b) h 4 cy d (fun e l => (e.w32 l a : Int) - e.w32 l b - e.carryIn cy l) s
/-- R209. -/
def execMadc (h : Hdr) (m : IMod) (hi : Bool) (cy : Carry) (d a b c : Opnd) (s : State) : Host.Outcome State Fault Refusal :=
  carryOp (.madc h m hi cy d a b c) h 6 cy d (fun e l =>
    let p := e.w32 l a * e.w32 l b
    ((if hi then p / 2 ^ 32 else p % 2 ^ 32) + e.w32 l c + e.carryIn cy l : Nat)) s

/-- R207. -/
def execImin (h : Hdr) (m : IMod) (d a b : Opnd) (s : State) : Host.Outcome State Fault Refusal :=
  intOp (.imin h m d a b) h 4 d m.n noAff (elem2 m a b min) s
/-- R207. -/
def execImax (h : Hdr) (m : IMod) (d a b : Opnd) (s : State) : Host.Outcome State Fault Refusal :=
  intOp (.imax h m d a b) h 4 d m.n noAff (elem2 m a b max) s
/-- R207: always signed. -/
def execIabs (h : Hdr) (m : IMod) (d a : Opnd) (s : State) : Host.Outcome State Fault Refusal :=
  intOp (.iabs h m d a) h 4 d m.n noAff
    (fun e l => packElems m.wid fun k => satWrap m.sat true m.wid.w ((sext m.wid.w (e.elem m.wid l a k)).natAbs)) s

/-- R210: the shift amount of a lane. -/
def Env.shiftBy (e : Env) (wrap : Bool) (w l : Nat) (b : Opnd) : Nat := if wrap then e.w32 l b % w else e.w32 l b
/-- R210: a left shift of an exact value; an amount past every bit gives what any larger one does. -/
def shlVal (sat sgn : Bool) (w : Nat) (a : Int) (n : Nat) : Nat := satWrap sat sgn w (a * 2 ^ (min n (2 * w)))
/-- R210. -/
def execShl (h : Hdr) (m : IMod) (wrap : Bool) (d a b : Opnd) (s : State) : Host.Outcome State Fault Refusal :=
  intOp (.shl h m wrap d a b) h 4 d m.n
    (aff2 m.plain d a b fun x y =>
      if !y.isU then none
      else
        let n := if wrap then y.base.toNat % 32 else y.base.toNat
        some (if 32 ≤ n then Form.zero else { base := x.base <<< n, stride := x.stride <<< n }))
    (fun e l => packElems m.wid fun k => shlVal m.sat m.sgn m.wid.w (e.ielem m l a k) (e.shiftBy wrap m.wid.w l b)) s
/-- R210. -/
def execShr (h : Hdr) (m : IMod) (wrap : Bool) (d a b : Opnd) (s : State) : Host.Outcome State Fault Refusal :=
  intOp (.shr h m wrap d a b) h 4 d m.n noAff
    (fun e l => packElems m.wid fun k => e.elem m.wid l a k / 2 ^ (min (e.shiftBy wrap m.wid.w l b) 64)) s
/-- R210. -/
def execShra (h : Hdr) (m : IMod) (wrap : Bool) (d a b : Opnd) (s : State) : Host.Outcome State Fault Refusal :=
  intOp (.shra h m wrap d a b) h 4 d m.n noAff
    (fun e l => packElems m.wid fun k =>
      wrapZ m.wid.w (Int.fdiv (sext m.wid.w (e.elem m.wid l a k)) (2 ^ (min (e.shiftBy wrap m.wid.w l b) 64) : Int))) s
/-- R211: the funnel shift. -/
def execShf (h : Hdr) (m : IMod) (right wrap : Bool) (d a b c : Opnd) (s : State) : Host.Outcome State Fault Refusal :=
  intOp (.shf h m right wrap d a b c) h 4 d 1 noAff
    (fun e l =>
      let v := 2 ^ 32 * e.w32 l b + e.w32 l a
      let n := if wrap then e.w32 l c % 64 else min (e.w32 l c) 64
      if right then wrapZ 32 (Int.fdiv (if m.sgn then sext 64 v else (v : Int)) (2 ^ n : Int))
      else v * 2 ^ n / 2 ^ 32 % 2 ^ 32) s

/-- R212: any function of three inputs, bit by bit. -/
def execBitfn (h : Hdr) (m : IMod) (fn : BitVec 8) (d a b c : Opnd) (s : State) : Host.Outcome State Fault Refusal :=
  intOp (.bitfn h m fn d a b c) h 4 d m.n noAff
    (fun e l =>
      let x := e.word m.w64 l a
      let y := e.word m.w64 l b
      let z := e.word m.w64 l c
      maskOf m.wid.w fun i => bitOf fn.toNat (b2n (bitOf x i) + 2 * b2n (bitOf y i) + 4 * b2n (bitOf z i))) s
/-- R213. -/
def execPopc (h : Hdr) (m : IMod) (d a : Opnd) (s : State) : Host.Outcome State Fault Refusal :=
  intOp (.popc h m d a) h 4 d 1 noAff (fun e l => popN m.wid.w (e.word m.w64 l a)) s
/-- R213: leading zeros, or with SGN the bits below the sign that equal it. -/
def clzVal (sgn : Bool) (w x : Nat) : Nat :=
  if sgn then
    let y := if bitOf x (w - 1) then 2 ^ w - 1 - x else x
    match topBit w y with | some k => w - 2 - k | none => w - 1
  else match topBit w x with | some k => w - 1 - k | none => w
/-- R213. -/
def execClz (h : Hdr) (m : IMod) (d a : Opnd) (s : State) : Host.Outcome State Fault Refusal :=
  intOp (.clz h m d a) h 4 d 1 noAff (fun e l => clzVal m.sgn m.wid.w (e.word m.w64 l a)) s
/-- R213. -/
def execBrev (h : Hdr) (m : IMod) (d a : Opnd) (s : State) : Host.Outcome State Fault Refusal :=
  intOp (.brev h m d a) h 4 d m.n noAff (fun e l => maskOf m.wid.w fun i => bitOf (e.word m.w64 l a) (m.wid.w - 1 - i)) s
/-- R214: the extracted field. -/
def bfeVal (sgn : Bool) (w x p n : Nat) : Nat :=
  let n := min n w
  let f := maskOf n fun i => if p + i < w then bitOf x (p + i) else sgn && bitOf x (w - 1)
  if n == 0 then 0 else if sgn then wrapZ w (sext n f) else f
/-- R214. -/
def execBfe (h : Hdr) (m : IMod) (d a b : Opnd) (s : State) : Host.Outcome State Fault Refusal :=
  intOp (.bfe h m d a b) h 4 d m.n noAff
    (fun e l => bfeVal m.sgn m.wid.w (e.word m.w64 l a) (fld (e.w32 l b) 0 8) (fld (e.w32 l b) 8 8)) s
/-- R214: the inserted field. -/
def bfiVal (w x y p n : Nat) : Nat := maskOf w fun i => if decide (p ≤ i) && decide (i < p + n) then bitOf y (i - p) else bitOf x i
/-- R214. -/
def execBfi (h : Hdr) (m : IMod) (d a b c : Opnd) (s : State) : Host.Outcome State Fault Refusal :=
  intOp (.bfi h m d a b c) h 4 d m.n noAff
    (fun e l => bfiVal m.wid.w (e.word m.w64 l a) (e.word m.w64 l b) (fld (e.w32 l c) 0 8) (fld (e.w32 l c) 8 8)) s
/-- R215: one byte of the result. -/
def byselByte (x c : Nat) : Nat :=
  let y := fld x (8 * fld c 0 3) 8
  let mode := fld c 3 2
  let y := if mode == 1 then (if bitOf y 7 then 0xFF else 0) else if mode == 2 then 0 else if mode == 3 then 0xFF else y
  if bitOf c 5 then maskOf 8 fun i => bitOf y (7 - i) else y
/-- R215. -/
def execBysel (h : Hdr) (m : IMod) (d a b c : Opnd) (s : State) : Host.Outcome State Fault Refusal :=
  intOp (.bysel h m d a b c) h 4 d 1 noAff
    (fun e l => sumN ((List.range 4).map fun k => 2 ^ (8 * k) * byselByte (2 ^ 32 * e.w32 l b + e.w32 l a) (fld (e.w32 l c) (8 * k) 8))) s

/-- R216: a comparison. -/
def icmp (c : Cmp) (a b : Int) : Bool :=
  match c with
  | .eq => a == b
  | .ne => a != b
  | .lt => decide (a < b)
  | .le => decide (a ≤ b)
  | .gt => decide (b < a)
  | .ge => decide (b ≤ a)
/-- R216: the combination with Pc. -/
def bopVal (b : Bop) (c pc : Bool) : Bool :=
  match b with
  | .none => c
  | .and => c && pc
  | .or => c || pc
  | .xor => c != pc
/-- R137, R216: the combination of a threshold with a Pc of form U. -/
def bopForm (b : Bop) (t : PForm) (pc : Bool) : PForm :=
  match b, pc with
  | .none, _ | .and, true | .or, false | .xor, false => t
  | .and, false => .u false
  | .or, true => .u true
  | .xor, true => t.neg
/-- R137: A against U: the threshold, when the values over the range do not wrap in the comparison's signedness. The stride is read as
signed in both, so that one of 2^31 or more counts down in an unsigned comparison too (log entry 76, DESIGN CHOICE). -/
def thresholdOf (sgn : Bool) (c : Cmp) (x : Form) (u : Word) (first last : Nat) : Option PForm :=
  let v0 := intOf sgn 32 (x.at_ first).toNat
  let st := x.stride.toInt
  let vl := v0 + st * ((last : Int) - first)
  let lo : Int := if sgn then -(2 ^ 31 : Int) else 0
  let hi : Int := if sgn then (2 ^ 31 : Int) - 1 else (2 ^ 32 : Int) - 1
  if c == .eq || c == .ne || vl < lo || hi < vl || st == 0 then none
  else
    let up := decide (0 < st)
    let diff := if up then intOf sgn 32 u.toNat - v0 else v0 - intOf sgn 32 u.toNat
    let m := if up then st else -st
    let low := c == .lt || c == .le
    -- the first place from which the comparison has its last value
    let turn := if (c == .lt || c == .ge) == up then Int.fdiv (diff + m - 1) m else Int.fdiv diff m + 1
    let t := first + turn.toNat
    some (PForm.norm first last (if low == up then .lt t else .ge t))
/-- R216. -/
def execIsetp (h : Hdr) (m : IMod) (cmp : Cmp) (bop : Bop) (pd : BitVec 3) (a b : Opnd) (pc : BitVec 3) (s : State) :
    Host.Outcome State Fault Refusal :=
  issue (.isetp h m cmp bop pd a b pc)
    (.values false fun s gr sp =>
      if !m.plain then none
      else match s.opForm gr sp a, s.opForm gr sp b, (if bop == .none then .u true else sp.pform pc.toNat) with
        | some x, some y, .u p =>
          let t := if y.isU then thresholdOf m.sgn cmp x y.base sp.first sp.last
                   else if x.isU then thresholdOf m.sgn cmp.mirror y x.base sp.first sp.last else none
          t.map fun t => { preds := [(pd.toNat, bopForm bop t p)] }
        | _, _, _ => none)
    (aluBody h (.fixed 4) none (some pd) fun e l =>
      { pred := bopVal bop (icmp cmp (e.ielem m l a 0) (e.ielem m l b 0)) (e.pbit pc.toNat l) }) s

/-- R217. -/
def execSel (h : Hdr) (m : IMod) (d a b : Opnd) (pc : BitVec 3) (s : State) : Host.Outcome State Fault Refusal :=
  intOp (.sel h m d a b pc) h 4 d m.n
    (fun s gr sp => if !m.plain then none else
      match sp.pform pc.toNat with
      | .u p => affTo d (s.opForm gr sp (if p then a else b))
      | _ => none)
    (fun e l => e.word m.w64 l (if e.pbit pc.toNat l then a else b)) s
/-- R218. -/
def execMov (h : Hdr) (m : IMod) (d a : Opnd) (s : State) : Host.Outcome State Fault Refusal :=
  intOp (.mov h m d a) h 4 d m.n (fun s gr sp => if m.plain then affTo d (s.opForm gr sp a) else none)
    (fun e l => e.word m.w64 l a) s
/-- R218. -/
def execMovi (h : Hdr) (m : IMod) (d : Opnd) (lit : BitVec 32) (s : State) : Host.Outcome State Fault Refusal :=
  intOp (.movi h m d lit) h 4 d m.n noAff
    (fun _ _ => if m.w64 && m.sgn then wrapZ 64 lit.toInt else lit.toNat) s
/-- R219. -/
def execLea (h : Hdr) (m : IMod) (sh : BitVec 5) (d a b : Opnd) (s : State) : Host.Outcome State Fault Refusal :=
  intOp (.lea h m sh d a b) h 4 d m.n
    (aff2 m.plain d a b fun x y => some { base := (x.base <<< sh.toNat) + y.base, stride := (x.stride <<< sh.toNat) + y.stride })
    (fun e l =>
      if m.w64 then wrapZ 64 (intOf m.sgn 32 (e.w32 l a) * 2 ^ sh.toNat + e.w64 l b)
      else (e.w32 l a * 2 ^ sh.toNat + e.w32 l b) % 2 ^ 32) s

/-- R220: the rounded quotient of an integer by 2^n. -/
def rqRound (rm : QRm) (t : Int) (n : Nat) : Int :=
  (roundInt (match rm with | .rn => .rn | .rz => .rz | .rd => .rd | .ru => .ru) (decide (t < 0)) t.natAbs (-(n : Int))).1
/-- R220: the element, saturated. -/
def rqElem (dst : QDst) (q : Int) : Int :=
  match dst with
  | .i8 => satZ q (-128) 127
  | .u8 => satZ q 0 255
  | .i4 => satZ q (-8) 7
  | .u4 => satZ q 0 15
/-- Replace element `pos` of width `w` of a word. -/
def putElem (x w pos v : Nat) : Nat := x - 2 ^ (w * pos) * fld x (w * pos) w + 2 ^ (w * pos) * (v % 2 ^ w)
/-- R220. -/
def execRqnt (h : Hdr) (dst : QDst) (rm : QRm) (pos : BitVec 3) (shift : BitVec 6) (pack : Bool) (d a b c : Opnd) (s : State) :
    Host.Outcome State Fault Refusal :=
  intOp (.rqnt h dst rm pos shift pack d a b c) h 6 d 1 noAff
    (fun e l =>
      let q := rqRound rm (sext 32 (e.w32 l a) * sext 32 (e.w32 l b)) shift.toNat + sext 32 (e.w32 l c)
      let v := rqElem dst q
      if pack then putElem (e.w32 l d) (QDst.w dst) pos.toNat (wrapZ (QDst.w dst) v) else wrapZ 32 v) s

/-- R221: the exact dot product of elements of `w` bits. -/
def dotVal (w : Nat) (sa sb : Bool) (x y : Nat) : Int :=
  ((List.range (32 / w)).map fun k => intOf sa w (fld x (w * k) w) * intOf sb w (fld y (w * k) w)).foldl (· + ·) 0
/-- R65, R221: a packed operand of `w`-bit elements: an immediate fills every element, cut to its width (DEDUCED for 4 bits,
which do not hold every immediate). -/
def Env.packed (e : Env) (w l : Nat) (o : Opnd) : Nat :=
  match o with
  | .imm n => sumN ((List.range (32 / w)).map fun k => 2 ^ (w * k) * wrapZ w n.toInt)
  | o => e.w32 l o
def idpVal (w : Nat) (m : IMod) (bsgn : Bool) (a b c : Opnd) (e : Env) (l : Nat) : Nat :=
  satWrap m.sat (m.sgn || bsgn) 32 (dotVal w m.sgn bsgn (e.packed w l a) (e.packed w l b) + intOf (m.sgn || bsgn) 32 (e.w32 l c))
/-- R221. -/
def execIdp4 (h : Hdr) (m : IMod) (bsgn : Bool) (d a b c : Opnd) (s : State) : Host.Outcome State Fault Refusal :=
  intOp (.idp4 h m bsgn d a b c) h 6 d 1 noAff (idpVal 8 m bsgn a b c) s
/-- R221. -/
def execIdp8 (h : Hdr) (m : IMod) (bsgn : Bool) (d a b c : Opnd) (s : State) : Host.Outcome State Fault Refusal :=
  intOp (.idp8 h m bsgn d a b c) h 6 d 1 noAff (idpVal 4 m bsgn a b c) s

end Sys2Proof.Machine
end

