-- ==== Sys2Proof/Machine/Sign.lean ====
section
/-! DEFINITION. The signatures of a firmware image and of an attestation report (R21; spec/23_bringup.md R428, R433): ECDSA on P-521 over the SHA-512 digest. The spec names
the two algorithms and prints neither: both are FIPS 180-4's and FIPS 186-5's, log entry 82, PRESUMED. -/

namespace Sys2Proof.Machine

/-! ### SHA-512 -/

/-- The largest number whose `k`-th power is at most `x`, below 2^`n`. -/
def rootBelow (k x : Nat) : Nat → Nat → Nat
  | 0, r => r
  | n + 1, r => rootBelow k x n (if (r + 2 ^ n) ^ k ≤ x then r + 2 ^ n else r)
/-- The first 80 primes. -/
def shaPrimes : List Nat := (List.range 410).filter fun p => decide (2 ≤ p) && (List.range 21).all fun d => d < 2 || p ≤ d || p % d != 0
/-- The first 64 bits behind the point of a root of each prime. -/
def shaRoots (k : Nat) : List (BitVec 64) := shaPrimes.map fun p => BitVec.ofNat 64 (rootBelow k (p * 2 ^ (64 * k)) 70 0)
/-- The round constants and the initial hash value. -/
def shaK : List (BitVec 64) := shaRoots 3
def shaInit : List (BitVec 64) := (shaRoots 2).take 8

def shaMix (a b c : Nat) (shift : Bool) (x : BitVec 64) : BitVec 64 :=
  x.rotateRight a ^^^ x.rotateRight b ^^^ (if shift then x >>> c else x.rotateRight c)
/-- The message schedule, the latest word first. -/
def shaSchedule : Nat → List (BitVec 64) → List (BitVec 64)
  | 0, w => w
  | n + 1, w =>
    shaSchedule n ((shaMix 19 61 6 true (w.getD 1 0) + w.getD 6 0 + shaMix 1 8 7 true (w.getD 14 0) + w.getD 15 0) :: w)
/-- One round on the eight working variables. -/
def shaRound (v : List (BitVec 64)) (kw : BitVec 64 × BitVec 64) : List (BitVec 64) :=
  match v with
  | [a, b, c, d, e, f, g, h] =>
    let t1 := h + shaMix 14 18 41 false e + ((e &&& f) ^^^ (~~~e &&& g)) + kw.1 + kw.2
    let t2 := shaMix 28 34 39 false a + ((a &&& b) ^^^ (a &&& c) ^^^ (b &&& c))
    [t1 + t2, a, b, c, d + t1, e, f, g]
  | _ => v
/-- The number that bytes stand for, the most significant first. -/
def beNat (bs : List Byte) : Nat := bs.foldl (fun n b => 256 * n + b.toNat) 0
def beBytes (n x : Nat) : List Byte := (List.range n).map fun k => BitVec.ofNat 8 (x / 256 ^ (n - 1 - k))
/-- One block of 128 bytes. -/
def shaBlock (h : List (BitVec 64)) (bs : List Byte) : List (BitVec 64) :=
  let w := (List.range 16).map fun k => BitVec.ofNat 64 (beNat ((bs.drop (8 * k)).take 8))
  let v := (shaK.zip (shaSchedule 64 w.reverse).reverse).foldl shaRound h
  (h.zip v).map fun x => x.1 + x.2
/-- The message with its padding. -/
def shaPad (bs : List Byte) : List Byte :=
  bs ++ [0x80] ++ List.replicate ((239 - bs.length % 128) % 128) 0 ++ beBytes 16 (8 * bs.length)
/-- The SHA-512 digest as a number, its first byte the most significant. -/
def sha512 (bs : List Byte) : Nat :=
  let m := shaPad bs
  let h := (List.range (m.length / 128)).foldl (fun h k => shaBlock h ((m.drop (128 * k)).take 128)) shaInit
  h.foldl (fun n w => 2 ^ 64 * n + w.toNat) 0

/-! ### ECDSA on P-521 -/

def p521 : Nat := 2 ^ 521 - 1
/-- The order of the base point. -/
def n521 : Nat := 2 ^ 521 - 0x5ae79787c40d069948033feb708f65a2fc44a36477663b851449048e16ec79bf7
def g521 : Nat × Nat × Nat :=
  (0xC6858E06B70404E9CD9E3ECB662395B4429C648139053FB521F828AF606B4D3DBAA14B5E77EFE75928FE1DC127A2FFA8DE3348B3C1856A429BF97E7E31C2E5BD66,
   0x11839296A789A3BC0045C8A5FB42C7D1BD998F54449579B446817AFBD17273E662C97EE72995EF42640C550B9013FAD0761353C7086A272C24088BE94769FD16650, 1)

def subMod (m a b : Nat) : Nat := (a + m - b % m) % m
/-- `a` to the power whose bits are the `n` low ones of `e`, modulo `m`. -/
def powMod (m a e : Nat) : Nat → Nat
  | 0 => 1
  | n + 1 =>
    let h := powMod m (a * a % m) (e / 2) n
    if e % 2 == 1 then h * a % m else h
/-- The inverse modulo a prime below 2^521. -/
def invMod (m a : Nat) : Nat := powMod m a (m - 2) 521
/-- Points in Jacobian coordinates, Z = 0 the neutral one: double a point, and add two. -/
def ecDouble (a : Nat × Nat × Nat) : Nat × Nat × Nat :=
  let p := p521
  let (x, y, z) := a
  let yy := y * y % p
  let s := 4 * x * yy % p
  let zz := z * z % p
  let m := 3 * subMod p x zz * (x + zz) % p
  let x3 := subMod p (m * m) (2 * s)
  (x3, subMod p (m * subMod p s x3) (8 * yy * yy), 2 * y * z % p)
def ecAdd (a b : Nat × Nat × Nat) : Nat × Nat × Nat :=
  let p := p521
  let (x1, y1, z1) := a
  let (x2, y2, z2) := b
  if z1 == 0 then b
  else if z2 == 0 then a
  else
    let u1 := x1 * z2 * z2 % p
    let u2 := x2 * z1 * z1 % p
    let s1 := y1 * z2 * z2 * z2 % p
    let s2 := y2 * z1 * z1 * z1 % p
    if u1 == u2 then (if s1 == s2 then ecDouble a else (1, 1, 0))
    else
      let h := subMod p u2 u1
      let r := subMod p s2 s1
      let hh := h * h % p
      let v := u1 * hh % p
      let x3 := subMod p (r * r) (hh * h + 2 * v)
      (x3, subMod p (r * subMod p v x3) (s1 * hh * h), z1 * z2 * h % p)
/-- A multiple of a point, by the `n` low bits of the factor. -/
def ecMul (k : Nat) : Nat → Nat × Nat × Nat → Nat × Nat × Nat
  | 0, _ => (1, 1, 0)
  | n + 1, a =>
    let r := ecMul (k / 2) n (ecDouble a)
    if k % 2 == 1 then ecAdd r a else r
/-- The abscissa of a point. -/
def ecX (a : Nat × Nat × Nat) : Nat :=
  let i := invMod p521 a.2.2
  a.1 * i * i % p521
/-- The signature of a digest of 512 bits with a key and a nonce, each from 1 to the order less 1; none where the nonce must be drawn
again. -/
def ecdsa (key nonce digest : Nat) : Option (Nat × Nat) :=
  let r := ecX (ecMul nonce 521 g521) % n521
  let t := invMod n521 nonce * ((digest + r * key) % n521) % n521
  if r == 0 || t == 0 then none else some (r, t)

/-- R428: whether (`r`, `t`) signs a digest with the key whose point is `q`. -/
def ecVerify (q : Nat × Nat) (digest r t : Nat) : Bool :=
  let w := invMod n521 t
  let x := ecAdd (ecMul (digest * w % n521) 521 g521) (ecMul (r * w % n521) 521 (q.1, q.2, 1))
  decide (1 ≤ r ∧ r < n521 ∧ 1 ≤ t ∧ t < n521) && x.2.2 != 0 && ecX x % n521 == r

/-- R433: r then s, 66 bytes each, big-endian. The identity key and the nonces are free values (log entry 13, DESIGN CHOICE). -/
def signature (tag : Nat) (bs : List Byte) : List Byte :=
  let key := 1 + Config.identityKey % (n521 - 1)
  match (List.range 8).findSome? fun k => ecdsa key (1 + Config.signNonce tag k % (n521 - 1)) (sha512 bs) with
  | some (r, t) => beBytes 66 r ++ beBytes 66 t
  | none => List.replicate 132 0

end Sys2Proof.Machine
end

