-- ==== Sys2Proof/Machine/Manage.lean ====
section
/-! DEFINITION. Start, trust and power (spec/23_bringup.md R428 to R435), and the fields of the privileged register window
that have no row of their own. -/

namespace Sys2Proof.Machine

/-! ### The start (R422, R428 to R430) -/

/-- R422: the mode that the port trains to, and the width. -/
def portMode (accepts : Nat) (perigee : Bool) : Option Nat := (List.range 5).find? fun m => bitOf accepts m && (!perigee || decide (3 ≤ m))
def portWidth (accepts : Nat) : Nat := if bitOf accepts 6 then 16 else if bitOf accepts 7 then 8 else 4

/-- R21, R428, step 1: what a slot's image gives under a root key and a rollback floor: it runs, or a reason code. -/
def imageCheck (key : Nat × Nat) (x : Image) (floor : Nat) : Nat :=
  if !ecVerify key (sha512 x.code) x.sigR x.sigS then 1 else if x.version < floor then 2 else 0

/-- R422, R429, R430: a failed start: the count, the reason, and in Perigee what the port still is; that of a full start, once trained, keeps
its mode and width until module reset. -/
def State.failStart (s : State) (reason stack : Nat) : State :=
  let m := s.manage
  let rec_ := reason != 4 && bitOf m.hostAccepts 4
  let last := { s.port with up := rec_, mode := if rec_ then 4 else s.port.mode, width := if rec_ then portWidth m.hostAccepts else 0 }
  { s with
    manage := { m with failed := true, ready := false, reason, lastReason := reason, badStack := stack, startCount := min 255 (m.startCount + 1),
                       recovery := m.perigee && reason != 4 }
    port := if m.perigee then last else s.port }

/-- R401, R430: a link trains at a start: one toward a module that is there, but in Perigee. -/
def State.trains (s : State) (d : Nat) : Bool := !s.manage.perigee && bitOf s.pod.toNat d
/-- R401, R411, R428: the links of a start, with each port's ENC; that of the module's own group is 0. -/
def State.startLinks (s : State) : State :=
  let from_ := fun (d : Nat) => if s.trains d then LState.training else .dark
  { s with
    links := (List.range 64).map fun d => (d, { Link.dark with state := from_ d, enc := d / 8 != s.device / 8 && Config.enc (d / 8) })
    inLinks := (List.range 64).map fun d => (d, { InLink.dark with state := from_ d }) }

/-- What module reset leaves before the start sequence: nothing runs. Memory, the host's memory and the controller's own store
stay (log entries 43 and 8, DESIGN CHOICE; unsafe). -/
def State.powerOn (s : State) : State :=
  { State.reset with
    mem := s.mem, hostMem := s.hostMem, device := s.device, pod := s.pod, uids := s.uids, free := s.free, turn := s.turn, agenda := s.agenda
    cores := s.cores.map fun (c : Nat × Core) => (c.1, { Core.reset with lanemap := c.2.lanemap })
    manage := { s.manage with step := 0, ready := false, perigee := decide (3 ≤ s.manage.startCount), failed := false, reason := 0,
                              recovery := false, clock := 2000, goodMs := 0, stopping := none, stepMs := none, powered := true } }

/-- R428 to R430: the start sequence from a powered module. A step that does not end leaves the start there (R428). -/
def State.start (s : State) : State :=
  let m := s.manage
  let hangs := fun (n : Nat) (s t : State) => if m.hang == some n then { s with manage := { s.manage with step := n } } else t
  let a := imageCheck m.rootKey m.slotA m.floor
  let b := imageCheck m.rootKey m.slotB m.floor
  hangs 1 s <|
    if a != 0 && b != 0 then s.failStart b 0
    else
      let img := if a == 0 then m.slotA else m.slotB
      let s1 := { s with manage := { m with step := 2, measured := BitVec.ofNat 512 (sha512 img.code), measuredCfg := BitVec.ofNat 512 (sha512 img.config) } }
      hangs 2 s <| hangs 3 s1 <|
        match m.badStacks.find? fun k => decide (k < (if m.perigee then 4 else 8)) with
        | some k => s1.failStart 3 k
        | none =>
          let s3 := { s1 with manage := { s1.manage with step := 3 } }
          hangs 4 s3 <| match portMode m.hostAccepts m.perigee with
            | none => s3.failStart 4 0
            | some mode =>
              let s4 : State := { s3 with port := { s.port with mode, width := portWidth m.hostAccepts, up := true } }
              let s5 := s4.startLinks
              hangs 5 s4 <| hangs 6 s5 <|
                { s5 with manage := { s5.manage with step := 6, ready := true, startCount := if m.perigee then m.startCount else 0 } }

/-- The event MODULE_RESET. -/
def execModuleReset (s : State) : Host.Outcome State Fault Refusal := .next s.powerOn.start

/-- R428: the event START_TIMEOUT: 30 s after reset the window has not opened. A start that a stop has ended has failed already (R434). -/
def execStartTimeout (s : State) : Host.Outcome State Fault Refusal :=
  if s.manage.ready || s.manage.failed || s.manage.stopping.isSome || !s.manage.powered then .next s else .next (s.failStart 8 0)

/-- R430: the event FULL_START_REQUEST. -/
def execFullStartRequest (s : State) : Host.Outcome State Fault Refusal :=
  s.windowed (if !s.manage.perigee then s.refuse
    else State.start (State.powerOn { s with manage := { s.manage with startCount := 0 } }))

/-- R430: the event RECOVERY_IMAGE_WRITE. -/
def execRecoveryImageWrite (image : Image) (s : State) : Host.Outcome State Fault Refusal :=
  if s.manage.recovery && s.port.up then .next { s with manage := { s.manage with slotB := image } } else .next s

/-! ### The attestation report (R433) -/

/-- R433: the report, but for its signature. -/
def State.reportBytes (s : State) (nonce : BitVec 512) : List Byte :=
  le 4 1 ++ le 2 s.device ++ le 1 (b2n s.manage.perigee) ++ le 1 s.manage.lastReason ++ le 8 s.manage.serial.toNat
  ++ le 64 nonce.toNat ++ beBytes 64 s.manage.measured.toNat ++ beBytes 64 s.manage.measuredCfg.toNat ++ le 4 s.fnmode.toNat
  ++ le 1 (maskOf 8 fun g => (s.link (8 * g)).enc) ++ zeros 3 ++ (List.range 256).flatMap fun c => le 4 (s.core c).lanemap

/-- The event ATTESTATION_REQUEST: the report with its signature. -/
def execAttestationRequest (nonce : BitVec 512) (s : State) : Host.Outcome State Fault Refusal :=
  let r := s.reportBytes nonce ++ signature s.free (s.reportBytes nonce)
  s.windowed { s with free := s.free + 1, port := { s.port with report := r, nonce := nonce.toNat } }

/-! ### The window (R431, R432) -/

/-- R52, R432: the event FNMODE_WRITE; reserved bits read 0. Records keep the QSCHED under which their dependences were met. -/
def execFnmodeWrite (value : BitVec 32) (s : State) : Host.Outcome State Fault Refusal :=
  s.windowed { s.keepModes.accept with fnmode := BitVec.ofNat 32 (value.toNat % 32) }

/-- A context whose window fields may be written. -/
def State.ctxLive (s : State) (ctx : Nat) : Bool :=
  match Tab.get? s.contexts ctx with
  | some c => c.state != .destroyed
  | none => false
/-- Write a field of a context, or refuse. -/
def State.ctxField (s : State) (ctx : Nat) (ok : Bool) (f : Context → Context) : State :=
  if ok && s.ctxLive ctx then s.accept.updCtx ctx f else s.refuse
/-- R331: a 64 KiB frame of a die. -/
def frameOk (die f : Nat) : Bool := f % 65536 == 0 && decide (f < 2 ^ 39) && locDie (physLoc 0 f) == die

/-- R431: a field of the window. A larger spill pool or a longer list of frames releases the stalls as their writes are tried
again. -/
def State.windowWrite (s : State) : WinReg → State
  | .freeFrames ctx die frames =>
    s.ctxField ctx (decide (die < 2) && frames.all (frameOk die)) fun c => if die == 0 then { c with frames0 := frames } else { c with frames1 := frames }
  | .spillPool ctx base size => s.ctxField ctx (base % 128 == 0 && decide (base + size ≤ 2 ^ 39)) fun c => { c with spillBase := base, spillSize := size }
  | .overlayDir ctx va => s.ctxField ctx (va % 64 == 0 && decide (va < 2 ^ 49)) fun c => { c with ovlDir := va }
  | .vways die n => if die < 2 && n ≤ 12 then { s.accept with vways := s.vways.set die n } else s.refuse
  | .fabricCtx fctx ctx =>
    if 4096 ≤ fctx then s.refuse
    else if ctx == 0 then { s.accept with fabricCtx := Tab.del s.fabricCtx fctx }
    else if s.ctxLive ctx then { s.accept with fabricCtx := Tab.set s.fabricCtx fctx ctx } else s.refuse
  | .linkQueue base size =>
    if base % 32 != 0 || size < 4 || 20 < size then s.refuse else { s.accept with linkQueue := { LinkQueue.reset with base, size, msix := s.linkQueue.msix } }
  | .ahist ctx avg => s.ctxField ctx true fun c => { c with ahist := avg }
  | .draftCap ctx dmin dmax => s.ctxField ctx true fun c => { c with dmin, dmax }
  | .msix (some ctx) vector => s.ctxField ctx (decide (vector < 64)) fun c => { c with msix := vector }
  | .msix none vector => if vector < 64 then { s.accept with linkQueue := { s.linkQueue with msix := vector } } else s.refuse

def execWindowRegisterWrite (r : WinReg) (s : State) : Host.Outcome State Fault Refusal := s.windowed (s.windowWrite r)

/-! ### Power, cooling and telemetry (R434, R435) -/

/-- R434, first row: the reason of a stop. -/
def stopReason (r : Readings) : Option Nat :=
  if r.inlet > 45 || r.inlet < 10 || decide (r.flow < 20) || r.hot0 ≥ 105 || r.hot1 ≥ 105 then some 6
  else if decide (r.supply < 500) || decide (620 < r.supply) then some 7 else none
/-- R434, second row. -/
def tooHot (r : Readings) : Bool := decide (r.hot0 ≥ 95) || decide (r.hot1 ≥ 95) || decide (r.inlet > 40) || decide (2600 < r.power)
/-- R434, third row. -/
def tooCold (r : Readings) : Bool := decide (10 ≤ r.inlet) && decide (r.inlet < 15)
/-- R434: every condition met. -/
def allGood (r : Readings) : Bool := (stopReason r).isNone && !tooHot r && !tooCold r && decide (40 ≤ r.flow)

/-- R434: the clock changes once in a millisecond. -/
def State.clockStill (s : State) : Bool := s.manage.stepMs == some s.manage.ms
/-- R434: a row of the table acts on the clock: in this millisecond it has changed. -/
def State.setClock (s : State) (r : Readings) (mhz : Nat) : State :=
  { s with manage := { s.manage with readings := r, clock := mhz, stepMs := some s.manage.ms } }
/-- R434, R98: contexts that run while the module is to stop are pre-empted, those too that have begun to run since. -/
def State.stopRunning (s : State) : State := (s.contexts.filter fun c => c.2.state == .running).foldl (fun s c => s.preempt c.1) s

/-- R434: the event THERMAL_STOP: every running context is pre-empted and the module will power off. The start counts as failed, once if it
had failed already (R429). -/
def execThermalStop (r : Readings) (s : State) : Host.Outcome State Fault Refusal :=
  match stopReason r with
  | none => .next s
  | some reason =>
    if s.manage.stopping.isSome || !s.manage.powered then .next s
    else
      let s := s.stopRunning
      .next { s with manage := { s.manage with readings := r, stopping := some s.manage.ms, reason, lastReason := reason,
                                               startCount := if s.manage.failed then s.manage.startCount else min 255 (s.manage.startCount + 1) } }

/-- R434: the event CLOCK_THROTTLE. -/
def execClockThrottle (r : Readings) (s : State) : Host.Outcome State Fault Refusal :=
  if (stopReason r).isNone && tooHot r && !s.clockStill then
    let s := s.setClock r (max 1000 (s.manage.clock - 100))
    .next { s with manage := { s.manage with goodMs := 0 } }
  else .next s

/-- R434: the event CLOCK_RAISE, after the conditions have held for 10 ms. -/
def execClockRaise (r : Readings) (s : State) : Host.Outcome State Fault Refusal :=
  if allGood r && decide (10 ≤ s.manage.goodMs) && !s.clockStill then .next (s.setClock r (min 2000 (s.manage.clock + 100)))
  else .next s

/-- R435: the event TELEMETRY_UPDATE, every millisecond of the controller's own count. The controller acts on the readings in the
events that follow (`State.stopDuties`); the third row of R434 is reported where it decides. -/
def execTelemetryUpdate (r : Readings) (s : State) : Host.Outcome State Fault Refusal :=
  .next { s with manage := { s.manage with
    readings := r, ms := s.manage.ms + 1, goodMs := if allGood r then s.manage.goodMs + 1 else 0,
    reported := (stopReason r).isNone && !tooHot r && tooCold r } }

/-- R434: the event POWER_OFF: after a stop, once the saves have finished or 100 ms have passed. -/
def execPowerOff (s : State) : Host.Outcome State Fault Refusal :=
  match s.manage.stopping with
  | none => .next s
  | some t =>
    let s := s.stopRunning
    if (s.contexts.any fun c => c.2.state == .preempting) && decide (s.manage.ms < t + 100) then .next s
    else
      let s := s.powerOn
      .next { s with agenda := [], manage := { s.manage with powered := false, perigee := false } }

end Sys2Proof.Machine
end

