-- ==== Sys2Proof/Machine/Vote.lean ====
section
/-! DEFINITION. One cycle of a core (spec/08_group.md R151 to R154, spec/03_encoding.md R61, R71, R72, R78, spec/02_state.md
R39, spec/07_kernel.md R139): time advances, results of fixed latency land, waits are looked at, and the vote chooses what
issues. Cores 0 to 255 are the part's; 256 and 257 stand for the span processors of the two Orreries. -/

namespace Sys2Proof.Machine

/-! ### What stands at a PC -/

/-- R78: what the vote sees at a PC: the instruction, where the fetch gives one, and the class it pairs by. -/
structure Seen where
  instr : Option Instr
  cls : Option Cls
  deriving DecidableEq, Repr

/-- The first word at a PC, where its block can be fetched. -/
def State.peekWord (s : State) (core ctx ver pc : Nat) : Option Nat :=
  match (s.checkPage core ctx ver (pc / 32 * 32) .fetch 2).1 with
  | .pass t => some (leNat (s.viewBytes ver (t.add (pc % 32)) 4).1)
  | _ => none

/-- R78: the instruction and class at a PC for a group with this allotment; a fetch that fails at steps 1 to 4a of R81
has no class, and one that fails at 4b or 5 its opcode's. One with the never guard does not fail at 5 (R68). -/
def State.seen (s : State) (core ctx ver : Nat) (g : Group) (pc : Nat) : Seen :=
  match (s.fetch core ctx ver pc).1 with
  | .ok i w =>
    let u := i.uses
    let never := match i.hdr? with | some h => h.never | none => false
    { instr := some i, cls := some (if !never && g.outOfBounds (u.rd ++ u.wr) then clsOfOpc (fld w 2 10) else i.cls) }
  | .bad .illegalEnc _ _ =>
    { instr := none, cls := match s.peekWord core ctx ver pc with
        | some w => if w % 4 == 3 then none else some (clsOfOpc (fld w 2 10))
        | none => none }
  | _ => { instr := none, cls := none }

/-- R39: group-scope registers: S, P, J, H and FMT; P7 is no storage. -/
def Reg.groupScope : Reg → Bool
  | .s _ | .j _ | .h _ | .fmt _ => true
  | .p n => n != 7
  | _ => false

/-- The group-scope registers an instruction reads, its guard among them, and those it writes. -/
def groupReads (i : Instr) : List Reg :=
  (i.uses.rd ++ (match i.hdr? with | some h => guardRegs h | none => [])).filter Reg.groupScope
def groupWrites (i : Instr) : List Reg := i.uses.wr.filter Reg.groupScope

/-- R39: the second port holds back `j` beside `i`. -/
def heldBack (i j : Instr) : Bool :=
  (groupWrites j).any (fun r => (groupReads i).contains r || (groupWrites i).contains r)
  || (groupReads j).any (fun r => (groupWrites i).contains r)
  || j.uses.swr.any (fun n => i.uses.srd.contains n || i.uses.swr.contains n)
  || j.uses.srd.any (fun n => i.uses.swr.contains n)

/-- R78: `y` issues through the second port beside `x`. -/
def Seen.admits (x y : Seen) : Bool :=
  match x.cls, y.cls with
  | some p, some q => p != q && (match x.instr, y.instr with | some i, some j => !heldBack i j | _, _ => true)
  | _, _ => false

/-! ### Readiness (R151) -/

/-- R71: the S register that a lane asleep in FWAIT or TSALLOC, or woken from it and not issued since, will write. -/
def Lane.willWrite (x : Lane) : Option Reg :=
  match x.block with
  | .fwait _ d | .tsalloc d => some (.s d)
  | _ => x.due.map Reg.s
/-- R71: two lanes that have woken together to write one register are of one lane set. -/
def Lane.withIt (x y : Lane) : Bool := x.due.isSome && x.due == y.due && x.pc == y.pc
/-- R71: an unfinished write of a group-scope register by another lane set. -/
def State.interlocked (s : State) (uid now l : Nat) (i : Instr) : Bool :=
  let rs := groupReads i ++ groupWrites i
  (s.flights.any fun f =>
    f.2.group == uid && !f.2.landed && !inMask f.2.lanes l && f.2.due.all (fun d => now < d)
    && f.2.regs.any fun x => rs.contains x.1)
  || (!rs.isEmpty && match Tab.get? s.groups uid with
    | some g => g.lanes.any fun x => !x.withIt (g.lane l) && match x.willWrite with | some r => rs.contains r | none => false
    | none => false)

/-- R151, R69, R72: whether the counts of a lane allow the instruction at its PC. -/
def State.countsAllow (s : State) (uid now l : Nat) (x : Lane) (i : Instr) : Bool :=
  match i.hdr? with
  | none => true
  | some h =>
    h.never
    || ((List.range 6).all (fun n => !bitOf h.wait.toNat n || x.sb.getD n 0 == 0)
        && (decide (5 < h.wsb.toNat) || decide (x.sb.getD h.wsb.toNat 0 < 63))
        && !s.interlocked uid now l i)

/-- R151: not blocked, and the cycles of its last issue are over. A lane that waits at issue lets one vote pass before it
tries again. -/
def Lane.rested (x : Lane) (now passes : Nat) : Bool :=
  match x.block with
  | .free => decide (x.readyAt ≤ now)
  | .retry => decide (x.readyAt + passes ≤ now)
  | _ => false
def Lane.awake (x : Lane) (now passes : Nat) : Bool := x.live && x.failures.isEmpty && x.rested now passes

/-- A set of ready lanes at one PC (R153). -/
structure Ready where
  pc : BitVec 49
  lanes : Nat
  count : Nat
  yielding : Bool
  seen : Seen
  deriving DecidableEq, Repr

/-- The distinct PCs at which lanes of a mask stand, in rising order. -/
def Group.pcsOf (g : Group) (m : Nat) : List (BitVec 49) := sortBy BitVec.toNat (((lanesOf m).map fun l => (g.lane l).pc).eraseDups)

/-- R151: the sets of ready lanes of a group, in rising order of PC. -/
def State.readySets (s : State) (e : Env) : List Ready :=
  let awake := laneMask fun l => (e.g.lane l).awake e.c.now e.c.passes
  (e.g.pcsOf awake).filterMap fun pc =>
    let seen := s.seen e.t.core e.gr.ctx e.gr.version e.g pc.toNat
    let m := laneMask fun l => inMask awake l && (e.g.lane l).pc == pc && (match seen.instr with
      | some i => s.countsAllow e.g.uid e.c.now l (e.g.lane l) i
      | none => true)
    if m == 0 then none
    else some { pc, lanes := m, count := (lanesOf m).foldl (fun c l => max c (e.g.lane l).waits) 0,
                yielding := (lanesOf m).all fun l => (e.g.lane l).yielding, seen }

/-! ### The vote (R153, R154) -/

/-- R153: the order of the sets: yielding PCs last, lower PCs first. -/
def voteOrder (prog : Bool) (rs : List Ready) : List Ready :=
  if prog then rs.filter (fun r => !r.yielding) ++ rs.filter (fun r => r.yielding) else rs

/-- R153: the overdue set with the greatest count, the lower PC at a tie. -/
def promoted (fairt : Nat) (rs : List Ready) : Option Ready :=
  (rs.filter fun r => decide (fairt ≤ r.count)).foldl (fun b r => match b with
    | none => some r
    | some x => if x.count < r.count || (x.count == r.count && r.pc.toNat < x.pc.toNat) then some r else some x) none

/-- R78, R153, R154: the sets that issue at a vote: one, or two through the two ports. -/
def chosen (prog : Bool) (fairt : Nat) (rs : List Ready) : List Ready :=
  match voteOrder prog rs with
  | [] => []
  | p1 :: rest =>
    match (if prog then promoted fairt rs else none) with
    | none => match rest with
      | p2 :: _ => if p1.seen.admits p2.seen then [p1, p2] else [p1]
      | [] => [p1]
    | some p =>
      if p.pc != p1.pc && p1.seen.admits p.seen then [p1, p]
      else p :: ((p1 :: rest).find? fun r => r.pc != p.pc && p.seen.admits r.seen).toList

/-- R153: wait counts after a cycle: lanes that are not ready hold 0; in a group cycle the ready lanes that do not issue
count one more. -/
def Group.countWaits (g : Group) (ready issued : Nat) (held : Bool) : Group :=
  { g with lanes := mapFrom (fun l x =>
      if !inMask ready l || inMask issued l then { x with waits := 0 }
      else if held then { x with waits := x.waits + 1 } else x) 0 g.lanes }

/-! ### What runs (R98, R99, R109) -/

/-- A context whose teams issue. -/
def State.ctxIssues (s : State) (ctx : Nat) : Bool :=
  s.manage.powered && (match Tab.get? s.contexts ctx with
    | some c => c.state == .ready || c.state == .running
    | none => false)

/-- The groups of a core that may issue, with what they see, in the order of their turns (R152). -/
def State.voters (s : State) (core : Nat) : List Env :=
  let es := s.groups.filterMap fun g =>
    match s.env? g.1 with
    | some e => if e.t.core == core && e.t.resident && !e.gr.stopped && s.ctxIssues e.gr.ctx then some e else none
    | none => none
  let last := (s.core core).lastGroup
  es.filter (fun e => decide (last < e.g.uid)) ++ es.filter fun e => decide (e.g.uid ≤ last)

/-- The spans of a core, or of an Orrery, that may issue, in the order of their turns (R139). -/
def State.spanVoters (s : State) (core : Nat) : List Span :=
  let ps := (s.spans.map (·.2)).filter fun p =>
    s.spanCore p == core && (match Tab.get? s.grids p.grid with
      | some gr => !gr.stopped && s.ctxIssues gr.ctx
      | none => false)
  let last := (s.core core).lastSpan
  ps.filter (fun p => decide (last < p.uid)) ++ ps.filter fun p => decide (p.uid ≤ last)

/-! ### Before the vote -/

/-- The core on which what a result belongs to runs: a group's, or a span's. -/
def State.coreOfFlight (s : State) (f : Flight) : Option Nat :=
  match Tab.get? s.groups f.group, Tab.get? s.spans f.group with
  | some g, _ => (Tab.get? s.teams g.team).map (·.core)
  | none, some p => some (s.spanCore p)
  | none, none => none
/-- R48: the flags that entered in the last cycle of a core are those of the present cycle no longer. -/
def State.ageFlags (s : State) (core : Nat) : State :=
  { s with
    groups := s.groups.map fun (g : Nat × Group) => if g.2.fpnew != 0 && s.coreOfGroup g.2 == core then (g.1, { g.2 with fpnew := 0 }) else g
    spans := s.spans.map fun (p : Nat × Span) => if p.2.fpnew != 0 && s.spanCore p.2 == core then (p.1, { p.2 with fpnew := 0 }) else p }
/-- R114, R70: a cycle passes, and the results of fixed latency whose time has come land. -/
def State.cycle (s : State) (core : Nat) : State :=
  let (n, s) := s.fresh
  let s := (s.updCore core fun c => { c with now := (c.now + 1) % 2 ^ 64, epoch := n }).ageFlags core
  let now := (s.core core).now
  let on := fun (f : Flight) => s.coreOfFlight f == some core
  let due := (s.flights.filter fun f => on f.2 && !f.2.landed && (match f.2.due with | some d => decide (d ≤ now) | none => false)).map (·.1)
  due.foldl (fun s n => s.land n) s

/-- R151, R414: a lane would issue its next instruction now, but for the failures that it holds. -/
def State.wouldIssue (s : State) (e : Env) (l : Nat) : Bool :=
  let x := e.g.lane l
  x.rested e.c.now e.c.passes && match (s.seen e.t.core e.gr.ctx e.gr.version e.g x.pc.toNat).instr with
    | some i => s.countsAllow e.g.uid e.c.now l x i
    | none => true
/-- The lanes that a failure of an earlier access has reached and that may take its trap now (R72, R414), as they are about to issue,
to try again, or to arrive at an RJOIN: the lowest lane's, with the lanes at its PC that failed the same way. -/
def State.failing (s : State) (e : Env) : Option (BitVec 49 × List Raise) :=
  let g := e.g
  let may := fun (l : Nat) =>
    let x := g.lane l
    x.live && !x.failures.isEmpty && (!g.trapValid || x.handler)
      && (match x.block with | .join _ r => r | _ => s.wouldIssue e l)
  match (List.range 64).find? may with
  | none => none
  | some l0 =>
    let code := ((g.lane l0).failures.head?).map (·.2.1)
    some ((g.lane l0).pc, (List.range 64).filterMap fun l =>
      let x := g.lane l
      match x.failures with
      | (n, c, a) :: _ =>
        if may l && x.pc == (g.lane l0).pc && some c == code then some { lane := l, code := c, addr := a, absent := none, failed := some n } else none
      | [] => none)

/-- R414: the lanes of a group whose accesses have failed raise their trap. -/
def State.raiseFailures (s : State) (uid : Nat) : State :=
  match (s.env? uid).bind s.failing with
  | none => s
  | some (pc, rs) => s.takeTrap uid pc pc 0 rs

/-- R61: lanes that stand at pad words move past them. -/
def State.pastPads (s : State) (e : Env) : State :=
  let m := laneMask fun l => (e.g.lane l).live && ((e.g.lane l).block == .free || (e.g.lane l).block == .retry)
  (e.g.pcsOf m).foldl (fun s pc =>
    let (pc', s) := s.skipPads e.t.core e.gr.ctx e.gr.version pc padFuel
    if pc' == pc then s
    else s.updGroup e.g.uid fun g => g.updLanes (laneMask fun l => inMask m l && (g.lane l).pc == pc) fun _ x => { x with pc := pc' }) s
def State.spanPads (s : State) (p : Span) : State :=
  match Tab.get? s.grids p.grid with
  | some gr => match Tab.get? s.spans p.uid with
    | some x => let (pc, s) := s.skipPads (s.spanCore p) gr.ctx gr.version x.pc padFuel
                s.updSpan p.uid fun x => { x with pc }
    | none => s
  | none => s

/-- R145, R161, R164, R350, R418, R180: the waits of a core's teams are looked at. -/
def State.syncTeams (s : State) (core : Nat) : State :=
  let s := s.rjoinArrivals
  let ts := (s.teams.filter fun t => t.2.resident && t.2.core == core).map (·.1)
  ts.foldl (fun s t =>
    let s := s.joinsOfTeam t
    let s := ((s.groups.filter fun g => g.2.team == t).map (·.2)).foldl (fun s g => s.gsyncGroup g) s
    (s.gangExits t).deadlock t) s

/-- R124: a started record's time runs from its first team's dispatch, or of a record that starts as a grid span from its start. -/
def State.recordBegan (s : State) (r : Record) : Bool :=
  r.started && (match r.grid.bind fun g => Tab.get? s.grids g with
    | some gr => gr.kernel.span || gr.next != 0
    | none => r.grid.isSome)
/-- R468: records that wait for their ring go out as soon as they can. -/
def State.flushEvqs (s : State) : State :=
  let s := if s.linkQueue.held.isEmpty then s else s.linkFlush s.linkQueue.held
  s.contexts.foldl (fun s c => if c.2.evqHeld.isEmpty then s else s.evqFlush c.1 c.2.evqHeld) s

/-- R117, R124: the timer of an Orrery, and the execution times of the records it is home to, while their context runs. -/
def State.tickOrrery (s : State) (die : Nat) : State :=
  let (n, s) := s.draw
  let us := Config.clockSkew die n
  let s := if die == 0 then s.flushEvqs else s
  { s with
    orreryUs := mapFrom (fun d t => if d == die then t + us else t) 0 s.orreryUs
    queues := s.queues.map fun (q : Nat × Queue) =>
      if b2n q.2.desc.home == die && (match Tab.get? s.contexts q.2.desc.ctx.toNat with | some c => c.state == .running | none => false) then
        (q.1, { q.2 with records := q.2.records.map fun (r : Nat × Record) =>
          if s.recordBegan r.2 then (r.1, { r.2 with ranUs := r.2.ranUs + us }) else r })
      else q
    fabricCycles := if die == 0 then s.fabricCycles + Config.clockSkew 2 n else s.fabricCycles }

/-! ### The events -/

/-- The next span of a core that issues (R139). -/
def State.spanTurn (s : State) (core : Nat) : State :=
  let now := (s.core core).now
  match (s.spanVoters core).find? fun p => (p.block == .free || p.block == .retry) && decide (p.readyAt ≤ now) with
  | none => s
  | some p =>
    { s.updCore core fun c => { c with lastSpan := p.uid } with
      issuing := s.issuing ++ [{ who := .span p.uid, pc := p.pc, next := p.pc, word := 0 }] }

/-- R152, R153: the issue slot of a core: it is granted when it is free, and the wait counts of the group that holds it
move. -/
def State.slotTurn (s : State) (core : Nat) : State :=
  let c := s.core core
  let es := (s.voters core).map fun e => (e, s.readySets e)
  let count := fun (s : State) (holder issued : Nat) =>
    es.foldl (fun s x => s.updGroup x.1.g.uid fun g =>
      g.countWaits (x.2.foldl (fun m r => maskOr m r.lanes) 0) (if x.1.g.uid == holder then issued else 0) (x.1.g.uid == holder)) s
  if c.now < c.slotTill then count s c.lastGroup 0
  else
    match es.find? fun x => !x.2.isEmpty with
    | none => count s 0 0
    | some (e, rs) =>
      let go := chosen e.g.prog e.g.fairt rs
      let s := count s e.g.uid (go.foldl (fun m r => maskOr m r.lanes) 0)
      { s.updCore core fun c => { c with lastGroup := e.g.uid, slotTill := c.now + c.passes } with
        issuing := s.issuing ++ go.map fun r => { who := .group e.g.uid r.lanes, pc := r.pc, next := r.pc, word := 0, chk := e.g.chk } }

/-- The event VOTE: one cycle of a core, or of an Orrery's span processor. What it chooses issues in the next steps. -/
def execVote (core : Nat) (s : State) : Host.Outcome State Fault Refusal :=
  if 258 ≤ core then .fault .noSuchUnit
  else
    let s := s.cycle core
    if 256 ≤ core then
      let s := s.tickOrrery (core - 256)
      let s := (s.grids.map (·.1)).foldl (fun s g => if (s.grids.any fun x => x.1 == g && x.2.home == core - 256) then s.joinsOfGrid g else s) s
      let s := (s.spanVoters core).foldl (fun s p => s.spanPads p) s
      .next (s.spanTurn core)
    else
      let s := s.syncTeams core
      let s := (s.voters core).foldl (fun s e => s.pastPads e) s
      let s := ((s.voters core).map (·.g.uid)).foldl (fun s g => s.raiseFailures g) s
      let s := (s.spanVoters core).foldl (fun s p => s.spanPads p) s
      .next ((s.slotTurn core).spanTurn core)

/-- R167: a lane whose MWAIT limit passes before the next cycle. -/
def State.mwaitDue (s : State) (group lane : Nat) : Bool :=
  match s.env? group with
  | some e => (match (e.g.lane lane).block with
    | .mwait (some d) _ _ => decide (d ≤ e.c.now + 1)
    | _ => false)
  | none => false
/-- The event MWAIT_TIMEOUT: the lane wakes with status 1 and its watch is disarmed. -/
def execMwaitTimeout (group lane : Nat) (s : State) : Host.Outcome State Fault Refusal :=
  .next (if s.mwaitDue group lane then s.wakeMwait group lane 1 else s)

/-- R165: a lane whose YIELD ends before the next cycle. -/
def State.yieldDue (s : State) (group lane : Nat) : Bool :=
  match s.env? group with
  | some e => (match (e.g.lane lane).block with
    | .yield d => decide (d ≤ e.c.now + 1)
    | _ => false)
  | none => false
/-- The event YIELD_WAKE. -/
def execYieldWake (group lane : Nat) (s : State) : Host.Outcome State Fault Refusal :=
  .next (if s.yieldDue group lane then s.updGroup group fun g => g.updLanes (2 ^ lane) fun _ x => { x with block := .free } else s)

/-- R169: the event RGROW_GRANT. -/
def execRgrowGrant (core : Nat) (s : State) : Host.Outcome State Fault Refusal := .next (s.rgrowTry core)

end Sys2Proof.Machine
end

