-- ==== Sys2Proof/Machine/Dispatch.lean ====
section
/-! DEFINITION. One arm per instruction: the call of its meaning. -/

namespace Sys2Proof.Machine

-- Every arm is one call.
def exec (i : Instr) (s : State) : Host.Outcome State Fault Refusal :=
  match i with
  | .nop h => Sys2Proof.Machine.execNop h s
  | .bra h off => Sys2Proof.Machine.execBra h off s
  | .brx h a => Sys2Proof.Machine.execBrx h a s
  | .call h off => Sys2Proof.Machine.execCall h off s
  | .callx h a => Sys2Proof.Machine.execCallx h a s
  | .ret h => Sys2Proof.Machine.execRet h s
  | .exit h => Sys2Proof.Machine.execExit h s
  | .jset h j add => Sys2Proof.Machine.execJset h j add s
  | .join h j => Sys2Proof.Machine.execJoin h j s
  | .jpush h j => Sys2Proof.Machine.execJpush h j s
  | .jpop h j => Sys2Proof.Machine.execJpop h j s
  | .brk h off j n1 => Sys2Proof.Machine.execBrk h off j n1 s
  | .yield h a => Sys2Proof.Machine.execYield h a s
  | .monw h a => Sys2Proof.Machine.execMonw h a s
  | .mwait h d a => Sys2Proof.Machine.execMwait h d a s
  | .gsync h => Sys2Proof.Machine.execGsync h s
  | .spmat h => Sys2Proof.Machine.execSpmat h s
  | .gfold h => Sys2Proof.Machine.execGfold h s
  | .spform h d src => Sys2Proof.Machine.execSpform h d src s
  | .rgnld h base mask offs => Sys2Proof.Machine.execRgnld h base mask offs s
  | .rshrink h a k => Sys2Proof.Machine.execRshrink h a k s
  | .rgrow h a k => Sys2Proof.Machine.execRgrow h a k s
  | .plop h pd pa pb lut => Sys2Proof.Machine.execPlop h pd pa pb lut s
  | .pmov h pd pa neg => Sys2Proof.Machine.execPmov h pd pa neg s
  | .trap h tag => Sys2Proof.Machine.execTrap h tag s
  | .bpt h tag => Sys2Proof.Machine.execBpt h tag s
  | .srd h d a => Sys2Proof.Machine.execSrd h d a s
  | .swr h d a => Sys2Proof.Machine.execSwr h d a s
  | .cyc h d hi => Sys2Proof.Machine.execCyc h d hi s
  | .bar h b => Sys2Proof.Machine.execBar h b s
  | .bara h d b => Sys2Proof.Machine.execBara h d b s
  | .barw h b a => Sys2Proof.Machine.execBarw h b a s
  | .barinit h b a => Sys2Proof.Machine.execBarinit h b a s
  | .cbar h => Sys2Proof.Machine.execCbar h s
  | .gbar h => Sys2Proof.Machine.execGbar h s
  | .launch h d a nb => Sys2Proof.Machine.execLaunch h d a nb s
  | .enq h d a b nb => Sys2Proof.Machine.execEnq h d a b nb s
  | .qstat h d a child => Sys2Proof.Machine.execQstat h d a child s
  | .splnch h d a b c slot ps nb lit => Sys2Proof.Machine.execSplnch h d a b c slot ps nb lit s
  | .resolve h d a b slot => Sys2Proof.Machine.execResolve h d a b slot s
  | .vqry h d a drops => Sys2Proof.Machine.execVqry h d a drops s
  | .vabort h d a => Sys2Proof.Machine.execVabort h d a s
  | .iadd h m d a b => Sys2Proof.Machine.execIadd h m d a b s
  | .isub h m d a b => Sys2Proof.Machine.execIsub h m d a b s
  | .imul h m d a b => Sys2Proof.Machine.execImul h m d a b s
  | .imulh h m d a b => Sys2Proof.Machine.execImulh h m d a b s
  | .imad h m d a b c => Sys2Proof.Machine.execImad h m d a b c s
  | .imadw h m d a b c => Sys2Proof.Machine.execImadw h m d a b c s
  | .addc h m cy d a b => Sys2Proof.Machine.execAddc h m cy d a b s
  | .subb h m cy d a b => Sys2Proof.Machine.execSubb h m cy d a b s
  | .madc h m hi cy d a b c => Sys2Proof.Machine.execMadc h m hi cy d a b c s
  | .imin h m d a b => Sys2Proof.Machine.execImin h m d a b s
  | .imax h m d a b => Sys2Proof.Machine.execImax h m d a b s
  | .iabs h m d a => Sys2Proof.Machine.execIabs h m d a s
  | .shl h m wrap d a b => Sys2Proof.Machine.execShl h m wrap d a b s
  | .shr h m wrap d a b => Sys2Proof.Machine.execShr h m wrap d a b s
  | .shra h m wrap d a b => Sys2Proof.Machine.execShra h m wrap d a b s
  | .shf h m right wrap d a b c => Sys2Proof.Machine.execShf h m right wrap d a b c s
  | .bitfn h m fn d a b c => Sys2Proof.Machine.execBitfn h m fn d a b c s
  | .popc h m d a => Sys2Proof.Machine.execPopc h m d a s
  | .clz h m d a => Sys2Proof.Machine.execClz h m d a s
  | .brev h m d a => Sys2Proof.Machine.execBrev h m d a s
  | .bfe h m d a b => Sys2Proof.Machine.execBfe h m d a b s
  | .bfi h m d a b c => Sys2Proof.Machine.execBfi h m d a b c s
  | .bysel h m d a b c => Sys2Proof.Machine.execBysel h m d a b c s
  | .isetp h m cmp bop pd a b pc => Sys2Proof.Machine.execIsetp h m cmp bop pd a b pc s
  | .sel h m d a b pc => Sys2Proof.Machine.execSel h m d a b pc s
  | .mov h m d a => Sys2Proof.Machine.execMov h m d a s
  | .movi h m d lit => Sys2Proof.Machine.execMovi h m d lit s
  | .lea h m sh d a b => Sys2Proof.Machine.execLea h m sh d a b s
  | .rqnt h dst rm pos shift pack d a b c => Sys2Proof.Machine.execRqnt h dst rm pos shift pack d a b c s
  | .idp4 h m bsgn d a b c => Sys2Proof.Machine.execIdp4 h m bsgn d a b c s
  | .idp8 h m bsgn d a b c => Sys2Proof.Machine.execIdp8 h m bsgn d a b c s
  | .fadd h m d a b => Sys2Proof.Machine.execFadd h m d a b s
  | .fmul h m d a b => Sys2Proof.Machine.execFmul h m d a b s
  | .ffma h m d a b c => Sys2Proof.Machine.execFfma h m d a b c s
  | .fmin h m d a b => Sys2Proof.Machine.execFmin h m d a b s
  | .fmax h m d a b => Sys2Proof.Machine.execFmax h m d a b s
  | .fsetp h m pd a b pc => Sys2Proof.Machine.execFsetp h m pd a b pc s
  | .frnd h rnd f64 d a => Sys2Proof.Machine.execFrnd h rnd f64 d a s
  | .fclass h f64 d a => Sys2Proof.Machine.execFclass h f64 d a s
  | .dadd h m d a b => Sys2Proof.Machine.execDadd h m d a b s
  | .dmul h m d a b => Sys2Proof.Machine.execDmul h m d a b s
  | .dfma h m d a b c => Sys2Proof.Machine.execDfma h m d a b c s
  | .dsetp h m pd a b pc => Sys2Proof.Machine.execDsetp h m pd a b pc s
  | .hfma2 h m d a b c => Sys2Proof.Machine.execHfma2 h m d a b c s
  | .bfma2 h m d a b c => Sys2Proof.Machine.execBfma2 h m d a b c s
  | .frcp h rnd f64 d a => Sys2Proof.Machine.execFrcp h rnd f64 d a s
  | .frsq h d a => Sys2Proof.Machine.execFrsq h d a s
  | .fsqrt h rnd f64 d a => Sys2Proof.Machine.execFsqrt h rnd f64 d a s
  | .fex2 h d a => Sys2Proof.Machine.execFex2 h d a s
  | .flg2 h d a => Sys2Proof.Machine.execFlg2 h d a s
  | .fsin h d a => Sys2Proof.Machine.execFsin h d a s
  | .fcos h d a => Sys2Proof.Machine.execFcos h d a s
  | .fcvt h rnd cv d a => Sys2Proof.Machine.execFcvt h rnd cv d a s
  | .cvtn h rnd from_ std n4 pos d a k => Sys2Proof.Machine.execCvtn h rnd from_ std n4 pos d a k s
  | .qnt h rnd n4 d a k => Sys2Proof.Machine.execQnt h rnd n4 d a k s
  | .scacc h rnd nega d a b c => Sys2Proof.Machine.execScacc h rnd nega d a b c s
  | .fmtset h k a => Sys2Proof.Machine.execFmtset h k a s
  | .lnget h m wrap d a b c => Sys2Proof.Machine.execLnget h m wrap d a b c s
  | .lnxor h m wrap d a b c => Sys2Proof.Machine.execLnxor h m wrap d a b c s
  | .lnsub h m wrap d a b c => Sys2Proof.Machine.execLnsub h m wrap d a b c s
  | .lnadd h m wrap d a b c => Sys2Proof.Machine.execLnadd h m wrap d a b c s
  | .redx h m op d a => Sys2Proof.Machine.execRedx h m op d a s
  | .scan h m excl op d a c => Sys2Proof.Machine.execScan h m excl op d a c s
  | .pcons h sw dst pa => Sys2Proof.Machine.execPcons h sw dst pa s
  | .matchv h m d a => Sys2Proof.Machine.execMatchv h m d a s
  | .bcast h m first d a b c => Sys2Proof.Machine.execBcast h m first d a b c s
  | .ldg h sz pol d a b => Sys2Proof.Machine.execLdg h sz pol d a b s
  | .stg h sz pol a b c => Sys2Proof.Machine.execStg h sz pol a b c s
  | .ldsh h sz d a b => Sys2Proof.Machine.execLdsh h sz d a b s
  | .stsh h sz a b c => Sys2Proof.Machine.execStsh h sz a b c s
  | .ldts h sz d a b => Sys2Proof.Machine.execLdts h sz d a b s
  | .stts h sz a b c => Sys2Proof.Machine.execStts h sz a b c s
  | .ldl h sz d a b => Sys2Proof.Machine.execLdl h sz d a b s
  | .stl h sz a b c => Sys2Proof.Machine.execStl h sz a b c s
  | .atomg h m d a b c off => Sys2Proof.Machine.execAtomg h m d a b c off s
  | .atomsh h m d a b c off => Sys2Proof.Machine.execAtomsh h m d a b c off s
  | .pref h l2 a => Sys2Proof.Machine.execPref h l2 a s
  | .cctl h op a => Sys2Proof.Machine.execCctl h op a s
  | .fence h scope kind => Sys2Proof.Machine.execFence h scope kind s
  | .seal h d a b => Sys2Proof.Machine.execSeal h d a b s
  | .unseal h d a => Sys2Proof.Machine.execUnseal h d a s
  | .sealq h d a => Sys2Proof.Machine.execSealq h d a s
  | .ldsc h sz scope ord sh d a b => Sys2Proof.Machine.execLdsc h sz scope ord sh d a b s
  | .stsc h sz scope ord sh a b c => Sys2Proof.Machine.execStsc h sz scope ord sh a b c s
  | .pgq h d a => Sys2Proof.Machine.execPgq h d a s
  | .copy h m lens hd a b c lit => Sys2Proof.Machine.execCopy h m lens hd a b c lit s
  | .copy2d h m hd a b c lit => Sys2Proof.Machine.execCopy2d h m hd a b c lit s
  | .fwait h d hn => Sys2Proof.Machine.execFwait h d hn s
  | .ftest h d hn => Sys2Proof.Machine.execFtest h d hn s
  | .fcancel h hn => Sys2Proof.Machine.execFcancel h hn s
  | .fwp h d hn => Sys2Proof.Machine.execFwp h d hn s
  | .fmovOut h d hn => Sys2Proof.Machine.execFmovOut h d hn s
  | .fmovIn h hd a => Sys2Proof.Machine.execFmovIn h hd a s
  | .tsalloc h d a nb => Sys2Proof.Machine.execTsalloc h d a nb s
  | .tsfree h a => Sys2Proof.Machine.execTsfree h a s
  | .amset h am a w mem => Sys2Proof.Machine.execAmset h am a w mem s
  | .amget h d am w => Sys2Proof.Machine.execAmget h d am w s
  | .gang h a => Sys2Proof.Machine.execGang h a s
  | .azero h an f64 => Sys2Proof.Machine.execAzero h an f64 s
  | .ald h hd f64 an am b c => Sys2Proof.Machine.execAld h hd f64 an am b c s
  | .ast h hd f64 an am b c => Sys2Proof.Machine.execAst h hd f64 an am b c s
  | .ard h m d an => Sys2Proof.Machine.execArd h m d an s
  | .awr h m an a => Sys2Proof.Machine.execAwr h m an a s
  | .tld h hd tots dst am rows1 b c => Sys2Proof.Machine.execTld h hd tots dst am rows1 b c s
  | .mma h m ad ta tb => Sys2Proof.Machine.execMma h m ad ta tb s
  | .arel h f64 t n => Sys2Proof.Machine.execArel h f64 t n s
  | .asca h ad ap ts row => Sys2Proof.Machine.execAsca h ad ap ts row s
  | .kvtr h vhalf d a b => Sys2Proof.Machine.execKvtr h vhalf d a b s
  | .atts h m causal aset tq src c tp window => Sys2Proof.Machine.execAtts h m causal aset tq src c tp window s
  | .attv h m aset tp src c => Sys2Proof.Machine.execAttv h m aset tp src c s
  | .attmrg h nh ad asrc b => Sys2Proof.Machine.execAttmrg h nh ad asrc b s
  | .attfin h nh aset => Sys2Proof.Machine.execAttfin h nh aset s
  | .arset h nh aset => Sys2Proof.Machine.execArset h nh aset s
  | .rld h sz ns stream d a b off => Sys2Proof.Machine.execRld h sz ns stream d a b off s
  | .rst h sz stream a b c off => Sys2Proof.Machine.execRst h sz stream a b c off s
  | .ratom h op sgn x64 ns stream d a b c off => Sys2Proof.Machine.execRatom h op sgn x64 ns stream d a b c off s
  | .rcopy h ssp lens stream hd a b c lit => Sys2Proof.Machine.execRcopy h ssp lens stream hd a b c lit s
  | .srel h stream value a => Sys2Proof.Machine.execSrel h stream value a s
  | .rjoin h j => Sys2Proof.Machine.execRjoin h j s
  | .lnkq h str d a => Sys2Proof.Machine.execLnkq h str d a s
  | .vote core => Sys2Proof.Machine.execVote core s
  | .variableResultLands group ticket => Sys2Proof.Machine.execVariableResultLands group ticket s
  | .storePerformed ticket => Sys2Proof.Machine.execStorePerformed ticket s
  | .mwaitTimeout group lane => Sys2Proof.Machine.execMwaitTimeout group lane s
  | .yieldWake group lane => Sys2Proof.Machine.execYieldWake group lane s
  | .ktimeout queue => Sys2Proof.Machine.execKtimeout queue s
  | .rgrowGrant core => Sys2Proof.Machine.execRgrowGrant core s
  | .tsallocGrant core => Sys2Proof.Machine.execTsallocGrant core s
  | .tsfreeRelease team => Sys2Proof.Machine.execTsfreeRelease team s
  | .accumulatorTileGrant core => Sys2Proof.Machine.execAccumulatorTileGrant core s
  | .copyBeat core ch => Sys2Proof.Machine.execCopyBeat core ch s
  | .tileRowMove team op => Sys2Proof.Machine.execTileRowMove team op s
  | .attentionCommit team op => Sys2Proof.Machine.execAttentionCommit team op s
  | .hwFaultService die slot => Sys2Proof.Machine.execHwFaultService die slot s
  | .faultReplayWrite slot => Sys2Proof.Machine.execFaultReplayWrite slot s
  | .tlbInvalidate ctx range => Sys2Proof.Machine.execTlbInvalidate ctx range s
  | .tlbInvalidateComplete ctx => Sys2Proof.Machine.execTlbInvalidateComplete ctx s
  | .sealComplete ctx base => Sys2Proof.Machine.execSealComplete ctx base s
  | .unsealComplete ctx base => Sys2Proof.Machine.execUnsealComplete ctx base s
  | .absentUnitFill owner unit => Sys2Proof.Machine.execAbsentUnitFill owner unit s
  | .contextDescriptorWrite d => Sys2Proof.Machine.execContextDescriptorWrite d s
  | .contextActivate ctx => Sys2Proof.Machine.execContextActivate ctx s
  | .preemptRequest ctx => Sys2Proof.Machine.execPreemptRequest ctx s
  | .preemptHalt ctx => Sys2Proof.Machine.execPreemptHalt ctx s
  | .contextSaveComplete ctx => Sys2Proof.Machine.execContextSaveComplete ctx s
  | .resumeRequest ctx => Sys2Proof.Machine.execResumeRequest ctx s
  | .restoreEagerComplete ctx => Sys2Proof.Machine.execRestoreEagerComplete ctx s
  | .contextDestroy ctx => Sys2Proof.Machine.execContextDestroy ctx s
  | .trapAreaReset ctx => Sys2Proof.Machine.execTrapAreaReset ctx s
  | .erptrWrite ctx count => Sys2Proof.Machine.execErptrWrite ctx count s
  | .queueDescriptorWrite d => Sys2Proof.Machine.execQueueDescriptorWrite d s
  | .queueEnable queue => Sys2Proof.Machine.execQueueEnable queue s
  | .queueSuspend queue => Sys2Proof.Machine.execQueueSuspend queue s
  | .queueResume queue => Sys2Proof.Machine.execQueueResume queue s
  | .queueDrain queue => Sys2Proof.Machine.execQueueDrain queue s
  | .queueReset queue => Sys2Proof.Machine.execQueueReset queue s
  | .queueDestroy queue => Sys2Proof.Machine.execQueueDestroy queue s
  | .doorbellWrite queue wptr => Sys2Proof.Machine.execDoorbellWrite queue wptr s
  | .dispatchRegisterWrite queue pos => Sys2Proof.Machine.execDispatchRegisterWrite queue pos s
  | .recordTake queue => Sys2Proof.Machine.execRecordTake queue s
  | .recordStart queue => Sys2Proof.Machine.execRecordStart queue s
  | .queueBufferGrant die => Sys2Proof.Machine.execQueueBufferGrant die s
  | .teamDispatch grid => Sys2Proof.Machine.execTeamDispatch grid s
  | .teamRetire team => Sys2Proof.Machine.execTeamRetire team s
  | .recordComplete queue => Sys2Proof.Machine.execRecordComplete queue s
  | .squashRuleStep ctx => Sys2Proof.Machine.execSquashRuleStep ctx s
  | .versionRetag version => Sys2Proof.Machine.execVersionRetag version s
  | .versionNotice peer version ctx ancestors => Sys2Proof.Machine.execVersionNotice peer version ctx ancestors s
  | .commitNotice peer version target marks => Sys2Proof.Machine.execCommitNotice peer version target marks s
  | .deadNotice peer version marks => Sys2Proof.Machine.execDeadNotice peer version marks s
  | .noticeAck peer version => Sys2Proof.Machine.execNoticeAck peer version s
  | .flitReceive peer fseq ack nak got => Sys2Proof.Machine.execFlitReceive peer fseq ack nak got s
  | .lossOfLight peer channels => Sys2Proof.Machine.execLossOfLight peer channels s
  | .restripeComplete link => Sys2Proof.Machine.execRestripeComplete link s
  | .channelRetrained peer ch => Sys2Proof.Machine.execChannelRetrained peer ch s
  | .linkTrainingComplete link trained => Sys2Proof.Machine.execLinkTrainingComplete link trained s
  | .linkMaskWrite peer mask => Sys2Proof.Machine.execLinkMaskWrite peer mask s
  | .linkReset link => Sys2Proof.Machine.execLinkReset link s
  | .rekey peer => Sys2Proof.Machine.execRekey peer s
  | .remoteRequestPerform r => Sys2Proof.Machine.execRemoteRequestPerform r s
  | .remoteReply peer stream seq status data => Sys2Proof.Machine.execRemoteReply peer stream seq status data s
  | .rcopyPieceSend team fid => Sys2Proof.Machine.execRcopyPieceSend team fid s
  | .flitSend peer => Sys2Proof.Machine.execFlitSend peer s
  | .hostRead p own => Sys2Proof.Machine.execHostRead p own s
  | .hostWriteback p back => Sys2Proof.Machine.execHostWriteback p back s
  | .hostWrite p data poison => Sys2Proof.Machine.execHostWrite p data poison s
  | .recallResponse p back => Sys2Proof.Machine.execRecallResponse p back s
  | .hostSnoop p snoop => Sys2Proof.Machine.execHostSnoop p snoop s
  | .bar2Access p write => Sys2Proof.Machine.execBar2Access p write s
  | .portDown => Sys2Proof.Machine.execPortDown s
  | .moduleReset => Sys2Proof.Machine.execModuleReset s
  | .startTimeout => Sys2Proof.Machine.execStartTimeout s
  | .fullStartRequest => Sys2Proof.Machine.execFullStartRequest s
  | .recoveryImageWrite image => Sys2Proof.Machine.execRecoveryImageWrite image s
  | .attestationRequest nonce => Sys2Proof.Machine.execAttestationRequest nonce s
  | .fnmodeWrite value => Sys2Proof.Machine.execFnmodeWrite value s
  | .windowRegisterWrite r => Sys2Proof.Machine.execWindowRegisterWrite r s
  | .thermalStop r => Sys2Proof.Machine.execThermalStop r s
  | .clockThrottle r => Sys2Proof.Machine.execClockThrottle r s
  | .clockRaise r => Sys2Proof.Machine.execClockRaise r s
  | .telemetryUpdate r => Sys2Proof.Machine.execTelemetryUpdate r s
  | .powerOff => Sys2Proof.Machine.execPowerOff s

end Sys2Proof.Machine
end

