-- ==== Sys2Proof/Machine/Duties.lean ====
section
/-! DEFINITION. What the part does by itself (spec/95_what_each_step_holds.md): the events that its units have under way.
The step takes them in turns; the order and the distance of two of them are time only. What comes from outside the part (the
host, the peers, the lasers, the readings of the management controller) stands in the agenda and nowhere else. -/

namespace Sys2Proof.Machine

/-- R165, R167: waits of lanes that end before the next cycle of their core. -/
def State.wakes (s : State) : List Instr :=
  s.groups.flatMap fun g => (List.range 64).filterMap fun l =>
    if s.yieldDue g.1 l then some (.yieldWake g.1 l)
    else if s.mwaitDue g.1 l then some (.mwaitTimeout g.1 l) else none

/-- Results under way, of groups and of spans (R467). -/
def State.resultDuties (s : State) : List Instr :=
  (s.flights.filter fun f => f.2.due.isNone && !f.2.landed && !s.owedFlight f.1).map fun f => .variableResultLands f.2.group f.1
/-- Stores, atomics and loads under way (R471), where their order lets them be performed (R287). -/
def State.storeDuties (s : State) : List Instr := (s.stores.filter fun p => s.mayPerform p.1).map fun p => .storePerformed p.1
/-- Results and accesses under way. -/
def State.landings (s : State) : List Instr := s.resultDuties ++ s.storeDuties

/-- The event that moves an operation of the tensor load pipes or the attention path. -/
def TileOp.event (o : TileOp) (team op : Nat) : Instr :=
  match o.instr with
  | .atts .. | .attv .. => .attentionCommit team op
  | _ => .tileRowMove team op

/-- The engines of a core (R309, R416) and the resources that it grants (R169, R339, R346). -/
def Core.engines (n : Nat) (c : Core) : List Instr :=
  let copies : List Instr := (c.channels.filter fun ch => !ch.2.isEmpty).map fun ch => .copyBeat n ch.1
  let pieces : List Instr := c.fabric.map fun o => .rcopyPieceSend o.team o.fid
  let grow : List Instr := if c.rgrowq.isEmpty then [] else [.rgrowGrant n]
  let alloc : List Instr := if c.tsallocq.isEmpty then [] else [.tsallocGrant n]
  let acc : List Instr := if c.accq.isEmpty then [] else [.accumulatorTileGrant n]
  copies ++ pieces ++ grow ++ alloc ++ acc
/-- The tile work of a team (R339, R355, R367). -/
def Team.engines (n : Nat) (t : Team) : List Instr :=
  let moves : List Instr := (t.ops.filter fun o => !o.2.paused).map fun o => o.2.event n o.1
  let release : List Instr := if t.freeing.isEmpty then [] else [.tsfreeRelease n]
  if t.resident then moves ++ release else []

/-- The engines of the cores and of their teams. -/
def State.engines (s : State) : List Instr :=
  s.cores.flatMap (fun c => c.2.engines c.1) ++ s.teams.flatMap fun t => t.2.engines t.1

/-- Seals (R277, R280), faults (R331) and TLBs (R329). -/
def State.sealDuties (s : State) : List Instr :=
  s.seals.filterMap fun k =>
    if k.sealing.isSome then some (.sealComplete k.ctx k.base) else if k.unsealing then some (.unsealComplete k.ctx k.base) else none
def State.faultDuties (s : State) : List Instr :=
  (s.pfaults.filter fun p => !p.2.host && eST p.2.entry != 3).map fun p => .hwFaultService (p.1 / 256) (p.1 % 256)
def State.tlbDuties (s : State) : List Instr :=
  (s.contexts.filter fun c => c.2.invalidate.isSome).map fun c => .tlbInvalidateComplete c.1

/-- The memory system. -/
def State.memoryDuties (s : State) : List Instr := s.sealDuties ++ s.faultDuties ++ s.tlbDuties

/-- Contexts on their way out or back (R99 to R104), and those whose pre-emption or destruction waits (R98). -/
def State.contextDuties (s : State) : List Instr :=
  s.contexts.filterMap fun c => match c.2.state with
    | .preempting => some (if c.2.halted then .contextSaveComplete c.1 else .preemptHalt c.1)
    | .restoring => some (.restoreEagerComplete c.1)
    | .destroyed => none
    | k => if c.2.heldDestroy || (k == .ready && c.2.heldPreempt) then some (.preemptHalt c.1) else none
/-- Queues and records (R119 to R126). -/
def State.queueDuties (s : State) : List Instr :=
  s.queues.flatMap fun q => [.recordTake q.1, .recordStart q.1, .recordComplete q.1, .ktimeout q.1]
def State.bufferDuties (s : State) : List Instr :=
  if s.queues.isEmpty then [] else [.queueBufferGrant 0, .queueBufferGrant 1]
/-- Teams that a grid waits for and teams that have ended (R132, R135). -/
def State.dispatchDuties (s : State) : List Instr :=
  (s.grids.filter fun g => g.2.waits).map fun g => .teamDispatch g.1
def State.retireDuties (s : State) : List Instr :=
  (s.teams.filter fun t => t.2.resident && !s.teamBusy t.2).map fun t => .teamRetire t.1
/-- Versions squashed and committed (R388, R390). -/
def State.squashDuties (s : State) : List Instr := s.squashes.map fun q => .squashRuleStep q.ctx
def State.retagDuties (s : State) : List Instr :=
  (s.versions.filter fun v => (v.2.state == 1 || v.2.state == 2) && s.frames.any fun f => f.tag == v.1).map fun v => .versionRetag v.1

/-- What Orrery has under way. -/
def State.orreryDuties (s : State) : List Instr :=
  s.contextDuties ++ s.queueDuties ++ s.bufferDuties ++ s.dispatchDuties ++ s.retireDuties ++ s.squashDuties ++ s.retagDuties

/-- Flits to send (R402 to R404), and a new key where the old one has sealed all that it may (R411). -/
def State.flitDuties (s : State) : List Instr :=
  s.links.filterMap fun k =>
    let i := s.inLink k.1
    if !(k.2.state == .up || k.2.state == .degraded) then none
    else if k.2.enc && decide (2 ^ 32 - 1 ≤ k.2.sealedCount) then some (.rekey k.1)
    else if k.2.resendFrom.isSome || !k.2.outbox.isEmpty || !k.2.notes.isEmpty || i.nak || i.ackDue then some (.flitSend k.1)
    else none
/-- R405: a change of mask that this end makes by itself. Of the link from a peer the peer makes it. -/
def State.restripeDuties (s : State) : List Instr :=
  ((s.links.filter fun k => k.2.state == .retraining && !k.2.byHost).map fun k => .restripeComplete { peer := k.1, incoming := false })
  ++ (s.inLinks.filter fun k => k.1 == s.device && k.2.state == .retraining && (s.link k.1).state != .retraining).map fun k => .restripeComplete { peer := k.1, incoming := true }
/-- The event of a cargo that has come from a peer (R391, R393, R409). -/
def State.cargoDuty (s : State) (peer : Nat) (c : Cargo) : Option Instr :=
  if !s.arrived peer c then none
  else match c with
    | .request r => if s.reqTurn r then some (.remoteRequestPerform r) else none
    | .reply _ stream seq status data => some (.remoteReply peer stream seq status data)
    | .version v ctx above => some (.versionNotice peer v ctx above)
    | .commit v target marks => some (.commitNotice peer v target marks)
    | .dead v marks => some (.deadNotice peer v marks)
    | .ack v dead => some (.noticeAck peer { version := v, dead })
    | .control _ => none
def State.inboxDuties (s : State) : List Instr := s.inLinks.flatMap fun k => k.2.inbox.filterMap (s.cargoDuty k.1)
/-- Notices that wait for their marks (R393). -/
def State.noticeDuties (s : State) : List Instr :=
  s.foreign.filterMap fun f => match f.2.dead, f.2.commits with
    | some marks, _ => some (.deadNotice f.2.peer f.1 marks)
    | none, some (target, marks) => some (.commitNotice f.2.peer f.1 target marks)
    | none, none => none

/-- The links and what waits at the fabric unit for its turn. -/
def State.linkDuties (s : State) : List Instr := s.flitDuties ++ s.restripeDuties ++ s.inboxDuties ++ s.noticeDuties

/-- A cycle of every core and of both Orreries. -/
def allVotes : List Instr := (List.range 258).map fun c => .vote c
/-- What the management controller does about its readings (R434), and the end of a stop. -/
def State.stopDuties (s : State) : List Instr :=
  let m := s.manage
  let r := m.readings
  if m.stopping.isSome then [.powerOff]
  else if (stopReason r).isSome then [.thermalStop r]
  else if tooHot r then (if s.clockStill || m.clock ≤ 1000 then [] else [.clockThrottle r])
  else if allGood r && decide (10 ≤ m.goodMs) && !s.clockStill && decide (m.clock < 2000) then [.clockRaise r]
  else []

/-- The events that are under way: waits that end, before everything else; otherwise a cycle of every core and of both
Orreries, and every unit that has work. A module that is off does nothing. -/
def State.duties (s : State) : List Instr :=
  if !s.manage.powered then []
  else match s.wakes with
    | [] => allVotes ++ s.landings ++ s.engines ++ s.memoryDuties ++ s.orreryDuties ++ s.linkDuties ++ s.heldFirst ++ s.stopDuties
    | ws => ws

end Sys2Proof.Machine
end

