-- ==== Sys2Proof/Machine/Step.lean ====
section
/-! DEFINITION. One step of the machine: an issue that the last vote chose, else what the outside world has put into the
agenda, else an event of the part's own units. -/

namespace Sys2Proof.Machine

/-- R1, R153: one indivisible step. What a vote chose issues before anything else, so that two instructions of one vote issue
together; an outside event lands between votes; the part's units, and the requests of the host that wait, take turns. -/
def step (s : State) : Host.Outcome State Fault Refusal :=
  match s.issuing with
  | x :: rest =>
    match ({ s with issuing := rest }).fetchFor x with
    | (some i, s) => exec i s
    | (none, s) => .next s
  | [] =>
    match s.agenda with
    | i :: rest => exec i { s with agenda := rest }
    | [] =>
      let s' := { s with turn := s.turn + 1 }
      match s.duties[s.turn % s.duties.length]? with
      | some i => exec i (s'.takeHeld i)
      | none => .next s'

/-- The kernel of the scaffold: everything a kernel may declare, at its largest. -/
def scaffoldKernel : Kernel :=
  { code := 0x1000, handler := 0, vregs := 632, sregs := 256, divdepth := 16, tiles := 8, acc := 16, span := false, prog := true,
    shared := 65536, fairt := 64, tx := 64, ty := 1, tz := 1, clx := 1, cly := 1, codelen := 32 }

/-- The context of the scaffold: its tables lie at physical address 0x10000 and map one GiB from address 0 on. -/
def scaffoldContext (ctx : Nat) : Context :=
  { desc := { ctx := BitVec.ofNat 12 ctx, ptroot := 0x10000, savebase := 0, savelen := 0, evq := 0, evqsz := 0 }
    state := .running, toFaulted := false, halted := false, heldPreempt := false, heldDestroy := false, ewptr := 0, erptr := 0,
    evqHeld := [], ahist := 0, dmin := 0, dmax := 0, frames0 := [], frames1 := [], spillBase := 0, spillSize := 0, ovlDir := 0,
    drops := 0, trapLow := none, saveEnd := none, absent := [], msix := 0, invalidate := none, slots := [], savedSpans := [], reissue := [], loads := [] }

/-- A context, a grid of one team and its one group whose 64 lanes stand at address 0x1000, with `bs` there, and the issue of
that group next. -/
def State.scaffold (s : State) (bs : List Byte) : State :=
  let ctx := (Tab.lowestFree s.contexts 0 4096).getD 0
  let k := scaffoldKernel
  let (g, s) := s.fresh
  let (t, s) := s.fresh
  let (x, s) := s.fresh
  let gr : Grid := {
    uid := g, ctx, kernel := k, gx := 1, gy := 1, gz := 1, args := [], version := 0, queue := 4096, pos := 0, level := 0, parent := none,
    tag := none, home := 0, next := 1, spanning := false, cut := true, templates := [], coresident := 1, gbarwait := false,
    stopped := false, code := 0 }
  let y := Group.blank x t gr 0
  let y := { y with lanes := y.lanes.map fun _ => Lane.launch 0x1000 0 0 }
  let s := { s with
    contexts := Tab.set s.contexts ctx (scaffoldContext ctx), grids := Tab.set s.grids g gr
    teams := Tab.set s.teams t (Team.blank t g ctx 0 0 0 k), groups := Tab.set s.groups x y }
  let s := (s.setEntry 0x10000 (5 + 0x20000)).setEntry 0x20000 (1 + 8 + 16 + 2 ^ 30)
  { s.pokeN (physLoc 0 (2 ^ 30 + 0x1000)) bs with issuing := { who := .group x allLanes, pc := 0x1000, next := 0x1000, word := 0 } :: s.issuing }

/-- Where the next step fetches, when an issue has been chosen whose block is there, in the base view, and holds 16 bytes. -/
def State.fetchPlace (s : State) : Option Nat :=
  match s.issuing with
  | [] => none
  | x :: _ =>
    let at_ := fun (core ctx ver : Nat) =>
      match (s.checkPage core ctx ver (x.pc.toNat / 32 * 32) .fetch 2).1 with
      | .pass t => if s.eff ver == 0 && decide (x.pc.toNat % 32 ≤ 16) && !s.heldHalf t.loc 32 then some (t.loc + x.pc.toNat % 32) else none
      | _ => none
    match x.who with
    | .group uid _ => (s.env? uid).bind fun e => at_ e.t.core e.gr.ctx e.gr.version
    | .span uid => (Tab.get? s.spans uid).bind fun p => (Tab.get? s.grids p.grid).bind fun gr => at_ (s.spanCore p) gr.ctx gr.version

/-- The state with an instruction stored where the next step fetches; where the next step fetches nothing, a scaffold stands
for the launch that a program comes to run by (log entry 18 says how). -/
def State.withFetchWord (s : State) (_nbits w : Nat) : State :=
  match s.fetchPlace with
  | some loc => s.pokeN loc (leBytes 16 w)
  | none => s.scaffold (leBytes 16 w)

end Sys2Proof.Machine
end

