-- ==== Sys2Proof/Safety.lean ====
section
/-! DEFINITION. The terms in which the claims speak: the forms that every step keeps, what is read of a state, and what it
is for an instruction to issue to lanes of a group. -/

namespace Sys2Proof.Machine

/-- Device and host memory are in canonical form: addresses strictly rising, no entry that reads as an unlisted one. -/
def State.memWf (s : State) : Bool := Mem.wf s.mem && Mem.wf s.hostMem

/-- The byte at a place of device memory, base view. -/
def State.byteAt (s : State) (loc : Nat) : Byte := s.peek loc

/-- R81: the lanes of an issue whose guard is true; without the checks of R74 none of them is taken out. -/
def Env.act (e : Env) (h : Hdr) (lanes : Nat) : Nat := maskDiff (laneMask fun l => inMask lanes l && e.guard h l) 0

/-- R69, R74, R76: the state in which the effect of an issue takes place: the issue is taken, its lanes carry its marks, and
the results that its WAIT field covers are covered. -/
def State.atIssue (s : State) (e : Env) (h : Hdr) (lanes : Nat) : State :=
  (({ s with cur := none, free := s.free + 1 }).updGroup e.g.uid fun g =>
    g.mark lanes (e.c.now + e.c.passes + h.stall.toNat) (h.y && !h.never)).covered e.g.uid h.wait.toNat lanes

/-- R74: of a lane a register of the list has a result under way that is not due, and that no WAIT has covered. -/
def State.late (s : State) (uid now : Nat) (h : Hdr) (rs : List Reg) (l : Nat) : Prop :=
  ∃ f ∈ s.flights, f.2.group = uid ∧ inMask f.2.lanes l = true ∧ (∃ x ∈ f.2.regs, x.1 ∈ rs)
    ∧ ((∃ d, f.2.due = some d ∧ now < d) ∨ (f.2.due = none ∧ ∃ b, f.2.sb = some b ∧ bitOf h.wait.toNat b = false))

/-- R68, R81: `i` issues to `lanes` of the group of `e0` at `pc`, and reaches its effect: no never-guard, no register above
the allotment, no check of R74 (GCTL.CHK was 0 at the vote), nothing of a restored context absent, and some lane whose guard is true. `e0`
is what the group sees before the issue, `e` what its effect sees. -/
structure Issues (s : State) (i : Instr) (h : Hdr) (lanes : Nat) (pc next : BitVec 49) (e0 e : Env) : Prop where
  cur : ∃ w, s.cur = some { who := .group e0.g.uid lanes, pc, next, word := w, chk := false }
  hdr : i.hdr? = some h
  always : h.never = false
  before : ({ s with cur := none } : State).env? e0.g.uid = some e0
  after : (s.atIssue e0 h lanes).env? e0.g.uid = some e
  bounds : e0.g.outOfBounds (i.uses.rd ++ i.uses.wr) = false
  present : ∀ c ∈ s.contexts, c.2.absent = []
  some_lane : e0.act h lanes ≠ 0

/-- What follows the effect of an issue (R81, R106, R470): lanes that trap take their trap, lanes that wait at issue keep their
PC and try again, lanes that the effect has moved or put to sleep stay as it left them, and the others go on at `next`. -/
def Out.ends (o : Out) (e : Env) (lanes : Nat) (pc next : BitVec 49) : Host.Outcome State Fault Refusal :=
  .next (State.finish o e.g.uid lanes pc next)

/-- Wherever `i` issues to lanes of a group and its active lanes meet `ok`, `exec` answers the next state in which the effect
`out` has taken place on the active lanes and the lanes it leaves alone have gone on. -/
def Does (i : Instr) (h : Hdr) (ok : Env → Nat → Prop) (out : Env → Nat → Out) : Prop :=
  ∀ (s : State) (lanes : Nat) (pc next : BitVec 49) (e0 e : Env), Issues s i h lanes pc next e0 e → ok e (e0.act h lanes) →
    exec i s = (out e (e0.act h lanes)).ends e0 lanes pc next

/-- R139, R141: `i` issues to the span `p` of a grid, which it has marked as issued (`t` is the state after that): no never-guard, and
no register above the allotment. -/
structure SpanIssues (s : State) (i : Instr) (h : Hdr) (p : Span) (gr : Grid) (next : BitVec 49) (t : State) : Prop where
  cur : ∃ pc w chk, s.cur = some { who := .span p.uid, pc, next, word := w, chk }
  span : ∃ sp, Tab.get? s.spans p.uid = some sp ∧ p = { sp with readyAt := (s.core (s.spanCore sp)).now + 1, block := .free }
  grid : Tab.get? s.grids p.grid = some gr
  hdr : i.hdr? = some h
  always : h.never = false
  bounds : ∀ r ∈ i.uses.rd ++ i.uses.wr, match r with | .v n => n < p.vlim ∧ n < 640 | .s n => n < p.slim | _ => True
  taken : t = ({ s with cur := none } : State).setSpan p

/-! ### What an instruction of one lane, or of a sub-group, gives -/

/-- An instruction that gives each lane a value, a predicate bit, flags and an LFSR step: how long its result takes, the
registers and the predicate it names, and what it gives lane `l` when the lanes of a mask are active. `every` says that
all of them compute (R240); otherwise an S destination alone has the lowest active lane compute (R205). -/
structure LaneOp where
  lat : Lat
  dst : Option (Opnd × Nat) := none
  pd : Option (BitVec 3) := none
  every : Bool := false
  f : Env → Nat → Nat → Lres

/-- The lanes that compute. -/
def LaneOp.on (o : LaneOp) (act : Nat) : Nat := if o.every then act else computing o.dst o.pd act

/-- The registers that are written, with what each lane writes. -/
def resultsOf (d : Option (Opnd × Nat)) (pd : Option (BitVec 3)) (act : Nat) (f : Nat → Lres) : List Res :=
  (match d with | some (d, n) => resOf d n (lowLane act) fun l => (f l).val | none => [])
  ++ (match pd with | some p => [(Reg.p p.toNat, fun l => if (f l).pred then 1 else 0)] | none => [])
def LaneOp.results (o : LaneOp) (e : Env) (act : Nat) : List Res := resultsOf o.dst o.pd act (o.f e act)

/-- R198: the flags of all lanes together. -/
def LaneOp.flags (o : LaneOp) (e : Env) (act : Nat) : Nat := (lanesOf (o.on act)).foldl (fun x l => orN x (o.f e act l).flags) 0

/-- The effect: the results are written under the latency, and the LFSRs that were used step (R195). -/
def LaneOp.out (o : LaneOp) (h : Hdr) : Body := fun s e act =>
  { s := (s.result e.g.uid h act o.lat (o.results e act) (o.flags e act)).updGroup e.g.uid fun g =>
      g.updLanes (o.on act) fun l x => match (o.f e act l).lfsr with | some y => { x with lfsr := BitVec.ofNat 32 y } | none => x }

/-- An integer result of `n` registers. -/
def intLane (lat : Nat) (d : Opnd) (n : Nat) (f : Env → Nat → Nat) : LaneOp :=
  { lat := .fixed lat, dst := some (d, n), f := fun e _ l => { val := f e l } }
/-- A floating-point result of `n` registers with its flags. -/
def fpLane (lat : Lat) (d : Opnd) (n : Nat) (f : Env → Nat → Nat × Nat) : LaneOp :=
  { lat, dst := some (d, n), f := fun e _ l => { val := (f e l).1, flags := (f e l).2 } }
/-- A predicate result with its flags. -/
def predLane (lat : Nat) (p : BitVec 3) (f : Env → Nat → Bool) (fl : Env → Nat → Nat) : LaneOp :=
  { lat := .fixed lat, pd := some p, f := fun e _ l => { pred := f e l, flags := fl e l } }
/-- An exact sum written as a word, with its carry out (R209). -/
def carryLane (lat : Nat) (cy : Carry) (d : Opnd) (f : Env → Nat → Int) : LaneOp :=
  { lat := .fixed lat, dst := some (d, 1), pd := some cy.pco
    f := fun e _ l => { val := (f e l % 2 ^ 32).toNat, pred := decide (f e l < 0) || decide ((2 ^ 32 : Int) ≤ f e l) } }
/-- A cross-lane result (R240, R242). -/
def crossLane (d : Opnd) (n : Nat) (f : Env → Nat → Nat → Lres) : LaneOp :=
  { lat := .var, dst := some (d, n), every := true, f }
def crossPred (p : BitVec 3) (f : Env → Nat → Nat → Bool) : LaneOp :=
  { lat := .var, pd := some p, every := true, f := fun e act l => { pred := f e act l } }

end Sys2Proof.Machine

namespace Sys2Proof
open Sys2Proof.Machine

/-- spec/11_integer.md, R207 to R221, and MOV, SRD and CYC: the integer results. -/
def Instr.intOp? : Instr → Option LaneOp
  | .iadd _ m d a b => some (intLane 4 d m.n (elem2 m a b (· + ·)))
  | .isub _ m d a b => some (intLane 4 d m.n (elem2 m a b (· - ·)))
  | .imul _ m d a b => some (intLane 6 d m.n (elem2 m a b (· * ·)))
  | .imulh _ m d a b => some (intLane 6 d m.n fun e l => wrapZ m.wid.w (Int.fdiv (e.ielem m l a 0 * e.ielem m l b 0) (2 ^ m.wid.w : Int)))
  | .imad _ m d a b c => some (intLane 6 d m.n fun e l => satWrap m.sat m.sgn m.wid.w (e.ielem m l a 0 * e.ielem m l b 0 + e.ielem m l c 0))
  | .imadw _ m d a b c => some (intLane 6 d 2 fun e l =>
      satWrap m.sat m.sgn 64 (intOf m.sgn 32 (e.w32 l a) * intOf m.sgn 32 (e.w32 l b) + intOf m.sgn 64 (e.w64 l c)))
  | .imin _ m d a b => some (intLane 4 d m.n (elem2 m a b min))
  | .imax _ m d a b => some (intLane 4 d m.n (elem2 m a b max))
  | .iabs _ m d a => some (intLane 4 d m.n fun e l =>
      packElems m.wid fun k => satWrap m.sat true m.wid.w ((sext m.wid.w (e.elem m.wid l a k)).natAbs))
  | .shl _ m w d a b => some (intLane 4 d m.n fun e l =>
      packElems m.wid fun k => shlVal m.sat m.sgn m.wid.w (e.ielem m l a k) (e.shiftBy w m.wid.w l b))
  | .shr _ m w d a b => some (intLane 4 d m.n fun e l =>
      packElems m.wid fun k => e.elem m.wid l a k / 2 ^ (min (e.shiftBy w m.wid.w l b) 64))
  | .shra _ m w d a b => some (intLane 4 d m.n fun e l =>
      packElems m.wid fun k => wrapZ m.wid.w (Int.fdiv (sext m.wid.w (e.elem m.wid l a k)) (2 ^ (min (e.shiftBy w m.wid.w l b) 64) : Int)))
  | .shf _ m right w d a b c => some (intLane 4 d 1 fun e l =>
      let v := 2 ^ 32 * e.w32 l b + e.w32 l a
      let n := if w then e.w32 l c % 64 else min (e.w32 l c) 64
      if right then wrapZ 32 (Int.fdiv (if m.sgn then sext 64 v else (v : Int)) (2 ^ n : Int)) else v * 2 ^ n / 2 ^ 32 % 2 ^ 32)
  | .bitfn _ m fn d a b c => some (intLane 4 d m.n fun e l => maskOf m.wid.w fun i =>
      bitOf fn.toNat (b2n (bitOf (e.word m.w64 l a) i) + 2 * b2n (bitOf (e.word m.w64 l b) i) + 4 * b2n (bitOf (e.word m.w64 l c) i)))
  | .popc _ m d a => some (intLane 4 d 1 fun e l => popN m.wid.w (e.word m.w64 l a))
  | .clz _ m d a => some (intLane 4 d 1 fun e l => clzVal m.sgn m.wid.w (e.word m.w64 l a))
  | .brev _ m d a => some (intLane 4 d m.n fun e l => maskOf m.wid.w fun i => bitOf (e.word m.w64 l a) (m.wid.w - 1 - i))
  | .bfe _ m d a b => some (intLane 4 d m.n fun e l => bfeVal m.sgn m.wid.w (e.word m.w64 l a) (e.w32 l b % 256) (e.w32 l b / 256 % 256))
  | .bfi _ m d a b c => some (intLane 4 d m.n fun e l =>
      bfiVal m.wid.w (e.word m.w64 l a) (e.word m.w64 l b) (e.w32 l c % 256) (e.w32 l c / 256 % 256))
  | .bysel _ _ d a b c => some (intLane 4 d 1 fun e l =>
      sumN ((List.range 4).map fun k => 2 ^ (8 * k) * byselByte (2 ^ 32 * e.w32 l b + e.w32 l a) (fld (e.w32 l c) (8 * k) 8)))
  | .sel _ m d a b pc => some (intLane 4 d m.n fun e l => e.word m.w64 l (if e.pbit pc.toNat l then a else b))
  | .mov _ m d a => some (intLane 4 d m.n fun e l => e.word m.w64 l a)
  | .movi _ m d lit => some (intLane 4 d m.n fun _ _ => if m.w64 && m.sgn then wrapZ 64 lit.toInt else lit.toNat)
  | .lea _ m sh d a b => some (intLane 4 d m.n fun e l =>
      if m.w64 then wrapZ 64 (intOf m.sgn 32 (e.w32 l a) * 2 ^ sh.toNat + e.w64 l b) else (e.w32 l a * 2 ^ sh.toNat + e.w32 l b) % 2 ^ 32)
  | .rqnt _ dst rm pos sh pack d a b c => some (intLane 6 d 1 fun e l =>
      let q := rqRound rm (sext 32 (e.w32 l a) * sext 32 (e.w32 l b)) sh.toNat + sext 32 (e.w32 l c)
      if pack then putElem (e.w32 l d) (QDst.w dst) pos.toNat (wrapZ (QDst.w dst) (rqElem dst q)) else wrapZ 32 (rqElem dst q))
  | .idp4 _ m bs d a b c => some (intLane 6 d 1 (idpVal 8 m bs a b c))
  | .idp8 _ m bs d a b c => some (intLane 6 d 1 (idpVal 4 m bs a b c))
  | .srd _ d a => some (intLane 4 d (if d.isS then 2 else 1) fun e l => e.w64 l a)
  | .cyc _ d hi => some (intLane 4 d (if d.isS then 2 else 1) fun e _ => if hi then e.c.now / 2 ^ 32 % 2 ^ 32 else e.c.now % 2 ^ 64)
  | _ => none

/-- R209: the sums with a carry. -/
def Instr.carryOp? : Instr → Option LaneOp
  | .addc _ _ cy d a b => some (carryLane 4 cy d fun e l => (e.w32 l a : Int) + e.w32 l b + e.carryIn cy l)
  | .subb _ _ cy d a b => some (carryLane 4 cy d fun e l => (e.w32 l a : Int) - e.w32 l b - e.carryIn cy l)
  | .madc _ _ hi cy d a b c => some (carryLane 6 cy d fun e l =>
      ((if hi then e.w32 l a * e.w32 l b / 2 ^ 32 else e.w32 l a * e.w32 l b % 2 ^ 32 : Nat) : Int) + e.w32 l c + e.carryIn cy l)
  | _ => none

/-- R216, R227, R170: the instructions whose one result is a predicate. -/
def Instr.predOp? : Instr → Option LaneOp
  | .isetp _ m cmp bop pd a b pc => some (predLane 4 pd
      (fun e l => bopVal bop (icmp cmp (e.ielem m l a 0) (e.ielem m l b 0)) (e.pbit pc.toNat l)) fun _ _ => 0)
  | .fsetp _ m pd a b pc => some (predLane 6 pd
      (fun e l => bopVal m.bop (fcmp m.cmp (fp32.value (e.fin fp32 m.absa m.nega l a 0)) (fp32.value (e.fin fp32 false m.negb l b 0))) (e.pbit pc.toNat l))
      fun e l => orN (sigFlag (fp32.value (e.fin fp32 m.absa m.nega l a 0))) (sigFlag (fp32.value (e.fin fp32 false m.negb l b 0))))
  | .dsetp _ m pd a b pc => some (predLane 8 pd
      (fun e l => bopVal m.bop (fcmp m.cmp (fp64.value (e.fin fp64 m.absa m.nega l a 0)) (fp64.value (e.fin fp64 false m.negb l b 0))) (e.pbit pc.toNat l))
      fun e l => orN (sigFlag (fp64.value (e.fin fp64 m.absa m.nega l a 0))) (sigFlag (fp64.value (e.fin fp64 false m.negb l b 0))))
  | .plop _ pd pa pb lut => some (predLane 4 pd (fun e l => bitOf lut.toNat (b2n (e.pbit pa.toNat l) + 2 * b2n (e.pbit pb.toNat l))) fun _ _ => 0)
  | .pmov _ pd pa neg => some (predLane 4 pd (fun e l => e.pbit pa.toNat l != neg) fun _ _ => 0)
  | _ => none

/-- spec/12_float.md, R225 to R233 and R239: the floating-point results, with FCVT and SCACC. -/
def Instr.floatOp? : Instr → Option LaneOp
  | .fadd _ m d a b => some (fpLane (.fixed 6) d 1 (bin2 fp32 fp32.addOp m a b))
  | .fmul _ m d a b => some (fpLane (.fixed 6) d 1 (bin2 fp32 fp32.mulOp m a b))
  | .ffma _ m d a b c => some (fpLane (.fixed 6) d 1 (fma3 fp32 m a b c 0))
  | .fmin _ m d a b => some (fpLane (.fixed 6) d 1 (bin2 fp32 (fun _ _ => fp32.minMax false) m a b))
  | .fmax _ m d a b => some (fpLane (.fixed 6) d 1 (bin2 fp32 (fun _ _ => fp32.minMax true) m a b))
  | .dadd _ m d a b => some (fpLane (.fixed 8) d 2 (bin2 fp64 fp64.addOp m a b))
  | .dmul _ m d a b => some (fpLane (.fixed 8) d 2 (bin2 fp64 fp64.mulOp m a b))
  | .dfma _ m d a b c => some (fpLane (.fixed 8) d 2 (fma3 fp64 m a b c 0))
  | .hfma2 _ m d a b c => some (fpLane (.fixed 6) d 1 fun e l => pack2 (fma3 fp16 m a b c 0 e l) (fma3 fp16 m a b c 1 e l))
  | .bfma2 _ m d a b c => some (fpLane (.fixed 6) d 1 fun e l => pack2 (fma3 bf16 m a b c 0 e l) (fma3 bf16 m a b c 1 e l))
  | .frnd _ r f64 d a => some (fpLane (.fixed 6) d (b2w f64) fun e l =>
      (fpSel f64).roundIntegral (e.mode r false) (e.fin (fpSel f64) false false l a 0))
  | .fclass _ f64 d a => some (fpLane (.fixed 6) d 1 fun e l => (2 ^ (fpSel f64).classOf (e.fin (fpSel f64) false false l a 0), 0))
  | .frcp _ r f64 d a => some (fpLane .var d (b2w f64) fun e l =>
      (fpSel f64).rcp (e.mode r false) e.ftz (e.fin (fpSel f64) false false l a 0))
  | .fsqrt _ r f64 d a => some (fpLane .var d (b2w f64) fun e l =>
      (fpSel f64).sqrtOp (e.mode r false) e.ftz (e.fin (fpSel f64) false false l a 0))
  | .frsq _ d a => some (fpLane .var d 1 fun e l => fp32.flushResult e.ftz (frsqVal (e.fin fp32 false false l a 0)))
  | .fex2 _ d a => some (fpLane .var d 1 fun e l => fp32.flushResult e.ftz (fex2Val (e.fin fp32 false false l a 0)))
  | .flg2 _ d a => some (fpLane .var d 1 fun e l => fp32.flushResult e.ftz (flg2Val (e.fin fp32 false false l a 0)))
  | .fsin _ d a => some (fpLane .var d 1 fun e l => fp32.flushResult e.ftz (trigOp false (e.fin fp32 false false l a 0)))
  | .fcos _ d a => some (fpLane .var d 1 fun e l => fp32.flushResult e.ftz (trigOp true (e.fin fp32 false false l a 0)))
  | .fcvt _ r cv d a => some
      { lat := .fixed 6, dst := some (d, b2w cv.dstPair)
        f := fun e _ l =>
          let r' := convElems (cvTypes cv).2.2 (cvTypes cv).1.w fun k =>
            (cvTypes cv).1.put (e.mode r cv.narrowing) (e.lfsr l (k + 1)) e.ftz (e.numIn (cvTypes cv).2.1 cv.srcPair l a k)
          { val := r'.1, flags := r'.2, lfsr := if e.mode r cv.narrowing == .rs then some (e.lfsr l (cvTypes cv).2.2) else none } }
  | .scacc _ r nega d a b c => some (fpLane (.fixed 6) d 1 fun e l =>
      let ca := e.w32 l b % 256
      let cb := e.w32 l b / 256 % 256
      if ca == 0xFF || cb == 0xFF then (fp32.nanCode, flagInv)
      else
        let av := match fp32.value (e.fin fp32 false nega l a 0) with
          | .fin n m k => Fp.fin n m (k + ca + cb - 254)
          | v => v
        fp32.put (e.mode r false) 0 e.ftz (Fp.add (e.mode r false == .rd) av (fp32.value (e.fin fp32 false false l c 0))))
  | _ => none

/-- R244: lane `l` takes the value of position `j` of its sub-group, or the fill. -/
def shuffled (m : XMod) (wrap : Bool) (a b c : Opnd) (pos : Nat → Nat → Int) (e : Env) (act l : Nat) : Lres :=
  let w := m.sw.w
  let i := l % w
  let j := if wrap then pos i (e.w32 l b) % (w : Int) else pos i (e.w32 l b)
  { val := if decide (0 ≤ j) && decide (j < w) && inMask act (l - i + j.toNat) then e.word m.x64 (l - i + j.toNat) a else e.word m.x64 l c }

/-- spec/13_crosslane.md, R244 to R250. -/
def Instr.crossOp? : Instr → Option LaneOp
  | .lnget _ m w d a b c => some (crossLane d m.n (shuffled m w a b c fun _ x => (x : Int)))
  | .lnxor _ m w d a b c => some (crossLane d m.n (shuffled m w a b c fun i x => (Nat.xor i x : Int)))
  | .lnsub _ m w d a b c => some (crossLane d m.n (shuffled m w a b c fun i x => (i : Int) - x))
  | .lnadd _ m w d a b c => some (crossLane d m.n (shuffled m w a b c fun i x => ((i + x : Nat) : Int)))
  | .bcast _ m first d a b c => some (crossLane d m.n fun e act l =>
      let base := l - l % m.sw.w
      let j := if first then ((List.range m.sw.w).find? fun k => inMask act (base + k)).getD 0 else e.w32 (lowLane act) b
      { val := if decide (j < m.sw.w) && inMask act (base + j) then e.word m.x64 (base + j) a else e.word m.x64 l c })
  | .redx _ m op d a => some (crossLane d m.n fun e act l =>
      let r := redTree (slotStep op m.x64 e.ftz) (log2N m.sw.w) (slotsOf op m a e act (l - l % m.sw.w))
      { val := r.1.getD 0, flags := r.2 })
  | .scan _ m excl op d a c => some (crossLane d m.n fun e act l =>
      let i := l % m.sw.w
      let r := scanSteps (slotStep op m.x64 e.ftz) (log2N m.sw.w) 1 (slotsOf op m a e act (l - i))
      let fill := if op.isFp then e.fcode (fpSel m.x64) l c 0 else e.word m.x64 l c
      { val := if excl then (if i == 0 then fill else (r.1.getD (i - 1) none).getD fill) else (r.1.getD i none).getD 0, flags := r.2 })
  | .pcons _ sw dst pa =>
    let q := fun (e : Env) act l => (partners sw.w act l).map fun k => e.pbit pa.toNat k
    match dst with
    | .every pd => some (crossPred pd fun e act l => (q e act l).all (· == true))
    | .some pd => some (crossPred pd fun e act l => (q e act l).any (· == true))
    | .same pd => some (crossPred pd fun e act l => (q e act l).all (· == true) || (q e act l).all (· == false))
    | .mask d => some (crossLane d 2 fun e act l => { val := maskOf 64 fun k => (partners sw.w act l).contains k && e.pbit pa.toNat k })
  | .matchv _ m d a => some (crossLane d 2 fun e act l =>
      { val := maskOf 64 fun k => (partners m.sw.w act l).contains k && e.word m.x64 k a == e.word m.x64 l a })
  | _ => none

/-- Every instruction of these kinds. -/
def Instr.laneOp? (i : Instr) : Option LaneOp :=
  (((i.intOp?.orElse fun _ => i.carryOp?).orElse fun _ => i.predOp?).orElse fun _ => i.floatOp?).orElse fun _ => i.crossOp?

end Sys2Proof

namespace Sys2Proof.Machine

/-! ### Lanes in turn -/

/-- What the lanes of a list make in turn, when each of them completes: the last state and what each made. -/
def lanesMade {α : Type} (f : State → Nat → Made α) : State → List Nat → Option (State × List (Nat × α))
  | s, [] => some (s, [])
  | s, l :: ls => match f s l with
    | .done a s => (lanesMade f s ls).map fun r => (r.1, (l, a) :: r.2)
    | _ => none

/-- What a list of pairs gives a lane. -/
def ofLane {α : Type} (xs : List (Nat × α)) (d : α) (l : Nat) : α := ((xs.find? fun x => x.1 == l).map (·.2)).getD d

/-- The lanes of a mask move to PCs of their own. -/
def State.jump (s : State) (uid m : Nat) (target : Nat → BitVec 49) : State :=
  s.updGroup uid fun g => g.updLanes m fun l x => { x with pc := target l }

/-- R173: the lanes of a list arrive at a barrier in turn, each waiting for the phase it arrived in. -/
def State.arriveLanes (s : State) (uid team b : Nat) : List Nat → State
  | [] => s
  | l :: ls => ((s.hold uid (2 ^ l) (.bar b (s.barOf team b).phase)).arrive team b 1).arriveLanes uid team b ls

/-- What TRAPCODE holds of a trap of some lanes of a group (R106, R470). -/
def trapWord (code : TrapCode) (m : Nat) : Nat := code.num + 2 ^ 8 * lowLane m + 2 ^ 14 * b2n (decide (1 < popN 64 m))

/-- R106 to R108: lanes of a group take the same trap and go to the handler. -/
def State.entered (s : State) (e : Env) (m : Nat) (code : TrapCode) (addr : Nat) (ret : BitVec 49) : State :=
  s.updGroup e.g.uid fun g =>
    { g.updLanes m fun _ x => { x with rstack := x.rstack ++ [BitVec.ofNat 64 (2 ^ 63 + ret.toNat)], pc := BitVec.ofNat 49 e.gr.kernel.handler,
                                       handler := true, block := .free } with
      trapcode := BitVec.ofNat 32 (trapWord code m) ||| 0x8000, trapaddr := BitVec.ofNat 64 addr }

/-- R108, R159: the lanes of a mask may enter the handler: there is one, no trap is open, and their return stacks have room. -/
def Env.canEnter (e : Env) (m : Nat) : Prop :=
  e.gr.kernel.handler ≠ 0 ∧ e.g.trapValid = false ∧ e.g.lanes.length = 64 ∧ ∀ l, inMask m l = true → (e.g.lane l).rstack.length < 8

/-- The active lanes make no change of their own. -/
def always : Env → Nat → Prop := fun _ _ => True

/-- R264: the bytes that lanes load give their values; a lane that is not listed has none. -/
def loaded (sz : Sz) (xs : List (Nat × List Byte)) : Nat → Nat := ofLane (xs.map fun x => (x.1, extend sz x.2)) 0

/-- R265: what a load whose values are fixed as it issues does: the lanes in turn pass their checks and read, then their registers
are written. -/
def Env.loads (e : Env) (h : Hdr) (d : Opnd) (sp : Space) (sz : Sz) (pol : Pol) (addr : Env → Nat → Nat) (s : State) (act : Nat) : Option State :=
  (lanesMade (fun s l => s.loadLane e l sp sz.bytes pol (addr e l)) s (lanesOf act)).map fun r =>
    r.1.result e.g.uid h act .var (resOf d sz.regs (lowLane act) (loaded sz r.2)) 0

/-- R265, R471: what a load of a group does as it issues: the lanes in turn pass their checks, and their registers are owed what is
read at some later moment. -/
def Env.loadsLater (e : Env) (h : Hdr) (d : Opnd) (sp : Space) (sz : Sz) (pol : Pol) (scope : Scope) (addr : Env → Nat → Nat) (s : State) (act : Nat) :
    Option State :=
  (lanesMade (fun s l => s.loadPass e l sp sz.bytes pol (addr e l)) s (lanesOf act)).map fun r =>
    r.1.pendLoads e h d sp sz pol scope (r.2.map fun x => x.2)

/-- R265, R286: what one store of a space does: the lanes in turn pass their checks, and what they write is pending until it is
performed. -/
def Env.storesTo (e : Env) (sp : Space) (sz : Sz) (pol : Pol) (scope : Scope) (addr : Env → Nat → Nat) (c : Opnd) (s : State) (act : Nat) : Option State :=
  (lanesMade (fun s l => s.storeLane e l sp (addr e l) (e.stData sz c l)) s (lanesOf act)).map fun r =>
    r.1.pendStores e sp sz pol scope (r.2.map fun x => x.2)

/-- R288: a release before, when the order asks for one: the state in which it is over. -/
def Env.releases (e : Env) (ord : Order) (scope : Scope) : Option State :=
  if ord == .rel || ord == .ar then
    match e.st.release e.g.uid scope with
    | (s, true) => some s
    | (_, false) => none
  else some e.st
/-- R288: an acquire after, when the order asks for one. -/
def Env.acquires (e : Env) (ord : Order) (scope : Scope) (s : State) : State :=
  if ord == .acq || ord == .ar then s.acquire e.t.core scope else s

/-- R287: what was issued before an acquiring atomic is performed first: the state in which it is. -/
def Env.readies (e : Env) (ord : Order) (s : State) : Option State :=
  if ord == .acq || ord == .ar then
    match s.drain e.g.uid with
    | (s, true) => some s
    | (_, false) => none
  else some s

/-- R270, R271: the pieces that the lanes of an atomic of a space add to what is pending, each past its checks. -/
def Env.atomics (e : Env) (m : AMod) (sp : Space) (addr : Nat → Nat) (b c : Opnd) (s : State) (act : Nat) : Option (State × List Piece) :=
  (lanesMade (fun s l => s.atomLane e m l sp (addr l) (e.atomB m l b) (if m.op == .cas then e.word64 m.x64 l c else 0)) s (lanesOf act)).map fun r =>
    (r.1, r.2.map fun x => x.2)

/-- R288: an acquire, and before it what the instruction itself left pending. -/
def Env.acquiresAll (e : Env) (ord : Order) (scope : Scope) (s : State) : State :=
  if ord == .acq || ord == .ar then (s.performMine e.g.uid).1.acquire e.t.core scope else s

/-- R304, R307, R309, R312: an operation begins on a channel: its future, its range locks and its place in the queue. -/
def State.beginCopy (s : State) (e : Env) (o : CopyOp) (ch hd : Nat) : State :=
  let r := s.newFuture e hd 0 ch
  let o' := { o with team := e.t.uid, group := e.g.uid, fid := r.1, op := r.2.uids }
  (r.2.fresh.2.enterLocks e.t.core e.gr.ctx e.t.uid r.2.uids o'.ranges).updCore e.t.core fun c =>
    { c with channels := Tab.set c.channels ch (Tab.get c.channels ch [] ++ [o']) }

/-- R299, R307, R312, R316: an operation may begin: every check passes and nothing makes it wait; `t` is the state once the
group's stores are performed. -/
def Env.mayCopy (e : Env) (o : CopyOp) (two : Bool) (hd : Nat) (t : State) : Prop :=
  e.st.copyTrap e o two = none ∧ e.createWaits hd = false ∧ e.c.lockWaits e.gr.ctx e.t.uid o.ranges = false ∧ e.st.drain e.g.uid = (t, true)

/-! ### Instructions on tile state -/

/-- R339: the granules of the tile store that are left to a TSALLOC behind those that wait before it. -/
def Env.granulesFor (e : Env) (act : Nat) : Nat :=
  tsLeft (e.st.tsFree e.t.core) ((e.st.tsWaits e.t.core).takeWhile fun x => !(x.1 == e.g.uid && x.2.1 == (e.pc (lowLane act)).toNat))

/-- R335, R336, R347, R355: nothing makes an instruction on tile state wait: no operation under way touches what it reads and
writes, no register it reads has a writer that has not ended well, and none it renames is being read. -/
structure Env.TileFree (e : Env) (rd wr : List TReg) (ren : List Nat) : Prop where
  team : Tab.get? e.st.teams e.t.uid = some e.t
  renamed : e.t.readers ren = []
  idle : e.t.tileBusy rd wr = false
  ended : e.t.tileLive rd = false
  good : e.t.tileDead rd = false

/-- R346: the registers an instruction first writes are in use, or the core has tiles for them and no other waits. -/
def Env.hasTiles (e : Env) (act : Nat) (need : List Nat) : Prop :=
  (∀ n ∈ need, (e.t.acc n).inuse = true)
  ∨ (e.st.accHead e.t.core = none ∨ e.st.accHead e.t.core = some (e.g.uid, (e.pc (lowLane act)).toNat))
    ∧ (need.filter fun n => !(e.t.acc n).inuse).length ≤ e.st.accFree e.t.core

/-- R346: the instruction leaves the queue of those that wait for a tile. -/
def Env.tileState (e : Env) (act : Nat) (need : List Nat) : State :=
  if (need.all fun n => (e.t.acc n).inuse) && !(e.st.core e.t.core).accq.contains (e.g.uid, (e.pc (lowLane act)).toNat) then e.st
  else e.st.updCore e.t.core fun c => { c with accq := c.accq.filter fun x => x != (e.g.uid, (e.pc (lowLane act)).toNat) }

/-- An instruction on tile state performs on `f`. -/
def Env.Tiles (e : Env) (act : Nat) (rd wr : List TReg) (ren need : List Nat) (f : Env) : Prop :=
  e.TileFree rd wr ren ∧ e.hasTiles act need ∧ (e.tileState act need).env? e.g.uid = some f

/-- R354, R355: a tile move that may start: its map is valid, nothing makes it wait, and `f` is what it starts from once the
group's stores are performed. -/
structure Env.MayMove (e : Env) (act : Nat) (i : Instr) (hd : Option (BitVec 4)) (m : AMap) (d : Option AMap) (bv cv rows : Nat)
    (rd wr : List TReg) (need : List Nat) (f : Env) (t : State) : Prop where
  even : m.esz ≠ 0 ∨ bv % 2 = 0
  handle : ∀ n, hd = some n → e.createWaits n.toNat = false
  tiles : e.Tiles act rd wr [] need f
  room : (f.st.core f.t.core).lockWaits f.gr.ctx f.t.uid (moveRanges i m d bv cv rows) = false
  unsealed : f.st.moveSealed f.gr.ctx i m bv cv = none
  performed : f.st.drain f.g.uid = (t, true)

/-- R355: a tile move starts: its operation, its future where it is asynchronous, its range locks, and the registers it writes
are written by it from here on. -/
def State.beginMove (s : State) (f : Env) (act : Nat) (i : Instr) (hd : Option (BitVec 4)) (m : AMap) (d : Option AMap) (am : Nat) (am2 : List Byte)
    (bv cv rows : Nat) (rd wr : List TReg) : State :=
  let op := s.uids
  let r : Option Nat × State := match hd with
    | some n => let r := s.fresh.2.newFuture f n.toNat 2 0
                (some r.1, r.2)
    | none => (none, s.fresh.2)
  let o : TileOp := { instr := i, who := [(f.g.uid, act)], fid := r.1, amap := f.t.map am, amap2 := am2, b := bv, c := cv,
                      src := f.t.accWords (rd.map (·.2)), gone := [], limit := f.t.tileBytes, row := 0, paused := false, faulted := false }
  (r.2.enterLocks f.t.core f.gr.ctx f.t.uid op (moveRanges i m d bv cv rows)).updTeam f.t.uid fun t => t.startOp op o wr []

/-- R367: the operation that an attention instruction of one group starts, before its future is numbered. -/
def attOp (f : Env) (act : Nat) (i : Instr) (m : AttMod) (src : KvSrc) (e : Env) (pos : Nat) (bs : List Byte) : TileOp :=
  { instr := i, who := [(e.g.uid, act)], fid := m.hd.map fun _ => 0, amap := bs, amap2 := []
    b := match src with | .desc a => f.w64 (lowLane act) a | .map _ => 0
    c := pos, src := [], gone := [], limit := f.t.tileBytes, row := 0, paused := false, faulted := false }

/-- R312, R367: the ranges of that operation. -/
def attRangesOf (f : Env) (act : Nat) (i : Instr) (m : AttMod) (src : KvSrc) (e : Env) (pos : Nat) (bs : List Byte) : List OpRange :=
  f.st.attRanges f (attOp f act i m src e pos bs) (m.nh.toNat + 1) (match i with | .attv .. => true | _ => false)

/-- R367: an attention operation that may start for a group that is its own gang. -/
structure Env.MayAttend (e : Env) (act : Nat) (m : AttMod) (src : KvSrc) (c : Opnd) (rd wr : List TReg) (need : List Nat) (bs : List Byte)
    (t : State) (f : Env) : Prop where
  alone : e.g.gang = 2 ^ e.g.gid
  source : attSource e src (e.w64 (lowLane act) c / 2 ^ 32) = .ok bs
  handle : ∀ n, m.hd = some n → e.createWaits n.toNat = false
  performed : e.st.drain e.g.uid = (t, true)
  tiles : ({ e with st := t } : Env).Tiles act rd wr [] need f
  room : (f.st.core f.t.core).lockWaits f.gr.ctx f.t.uid (attRangesOf f act i m src e (e.w64 (lowLane act) c) bs) = false

/-- R350, R367: an attention operation of one group starts. -/
def beginAtt (f : Env) (act : Nat) (i : Instr) (m : AttMod) (src : KvSrc) (e : Env) (pos : Nat) (bs : List Byte) (wr : List TReg) (marks : List Nat) : State :=
  let op := f.st.uids
  let o := attOp f act i m src e pos bs
  let r : Option Nat × State := match m.hd with
    | some n => let r := f.st.fresh.2.newFuture f n.toNat 3 0
                (some r.1, r.2.shareHandle f.t.uid r.1 n.toNat [])
    | none => (none, f.st.fresh.2)
  (r.2.enterLocks f.t.core f.gr.ctx f.t.uid op (attRangesOf f act i m src e pos bs)).updTeam f.t.uid fun t => t.startOp op { o with fid := r.1 } wr marks

/-! ### What stays as it was -/

/-- A register that holds a word in each lane. -/
def Reg.isRow : Reg → Bool | .v _ | .o _ | .z _ => true | _ => false

/-- Two states of one group that agree but for the registers that `wr` names: vector, scalar, predicate and format registers,
rejoin masks and handles; the special and trap registers, the allotment and the gang are the same. -/
structure Group.Keeps (g g' : Group) (wr : Reg → Prop) : Prop where
  words : ∀ r, ¬ wr r → g'.words r = g.words r
  masks : ∀ n, ¬ wr (.j n) → g'.jmask n = g.jmask n
  handles : ∀ n, ¬ wr (.h n) → g'.hreg n = g.hreg n
  specials : g'.fpctl = g.fpctl ∧ g'.fpstat = g.fpstat ∧ g'.gctl = g.gctl ∧ g'.rowprog = g.rowprog
  traps : g'.trapcode = g.trapcode ∧ g'.trapaddr = g.trapaddr
  sizes : g'.vallot = g.vallot ∧ g'.slim = g.slim ∧ g'.divdepth = g.divdepth ∧ g'.gang = g.gang

/-- The frame of an instruction of a group that stores nothing: every byte of memory, every other group, the registers of its own
group that it does not write, and every other piece of the machine are as they were; results under way and the model's own numbering
may go on, and so may the lanes of `lanes`. -/
structure State.Keeps (s t : State) (uid lanes : Nat) (wr : Reg → Prop) : Prop where
  bytes : ∀ a, t.byteAt a = s.byteAt a
  others : ∀ u, u ≠ uid → Tab.get? t.groups u = Tab.get? s.groups u
  group : ∀ g, Tab.get? s.groups uid = some g → ∃ g', Tab.get? t.groups uid = some g' ∧ g.Keeps g' wr
    ∧ ∀ l, inMask lanes l = false → g'.lane l = g.lane l
  rest : t = { s with groups := t.groups, flights := t.flights, uids := t.uids, free := t.free, cur := t.cur }

/-- The registers that a control instruction writes (R158, R160 to R165); `none` for another instruction. -/
def instrControlWrites (g : Group) : Instr → Option (Reg → Prop)
  | .nop _ | .spmat _ | .bra .. | .join .. | .rjoin .. | .gsync _ | .yield .. => some fun _ => False
  | .jset _ j _ | .jpop _ j => some fun r => r = .j j.toNat
  | .jpush .. => some fun r => ∃ n, g.vlim ≤ n ∧ r = .v n
  | .brk _ _ j _ => some fun r => r = .j j.toNat ∨ ∃ n, g.vlim ≤ n ∧ r = .v n
  | _ => none

end Sys2Proof.Machine
end

