-- ==== Sys2Proof/Certificates/Slice0/Obligations.lean ====
section
/-! DEFINITION. The statements about the machine, each with the rule of spec/ that it formalises. -/

open Sys2Proof Sys2Proof.Machine

/-! ### Reset, decoding and the step -/

/-- R428 and the reset columns of the register maps: right after reset nothing runs, no context, queue, group or span exists, memory
lists nothing, every link is dark, FNMODE reads 0, and the first step is the start of the module. -/
def Obligations.ResetHolds : Prop :=
  let s := State.reset
  s.memWf = true ∧ s.mem = [] ∧ s.hostMem = [] ∧ s.contexts = [] ∧ s.queues = [] ∧ s.grids = [] ∧ s.teams = [] ∧ s.groups = [] ∧ s.spans = []
  ∧ s.versions = [] ∧ s.fnmode = 0 ∧ s.port.up = false ∧ s.port.mode = 0 ∧ s.manage.clock = 2000
  ∧ (∀ p, (s.link p).state = .dark) ∧ (∀ c, (s.core c).now = 0 ∧ (s.core c).l1 = [] ∧ (s.core c).tlb = [])
  ∧ step s = .next ({ s with agenda := [] } : State).powerOn.start

/-- R61, R81: what a vote chose issues first: when the fetch block of its PC is there, in no half that the host holds, with no store to it
half done (R62; log entry 61, DESIGN CHOICE), and the bytes at the PC decode to an instruction,
the step is `exec` of it, with the issue and the PC after it, past any pad words, as the issue under way. Where they do not decode, every
lane of the issue takes the trap of the step of R81 that fails. Without an issue the step is the oldest outside event, and without one the
event of the part whose turn it is. -/
def Obligations.StepRuns : Prop :=
  ∀ (s t : State) (x : Issue) (rest : List Issue) (uid lanes : Nat) (e : Env) (p : Tr) (i : Instr) (more : List Instr) (code : TrapCode),
    let pc := x.pc.toNat
    let s0 : State := { s with issuing := rest }
    let bytes := (t.viewBytes e.gr.version (p.add (pc % 32)) (min 16 (32 - pc % 32))).1
    let fetched := s.issuing = x :: rest ∧ x.who = .group uid lanes ∧ s0.env? uid = some e
      ∧ s0.checkPage e.t.core e.gr.ctx e.gr.version (pc / 32 * 32) .fetch 2 = (.pass p, t) ∧ t.torn p.loc = false
      ∧ t.viewHeld e.gr.version p 32 false = none
    let past := t.skipPads e.t.core e.gr.ctx e.gr.version (x.pc + BitVec.ofNat 49 i.bytes) padFuel
    (fetched → decodeBytes (pc % 32) bytes = .ok i →
      step s = exec i { past.2 with cur := some { x with word := leNat (bytes.take 16), next := past.1 } })
    ∧ (fetched → fetchedOf pc bytes = .bad code pc none →
      step s = .next ((t.updGroup uid fun g => g.mark lanes (e.c.now + e.c.passes) false).takeTrap uid x.pc x.pc 0
        ((lanesOf lanes).map fun l => { lane := l, code, addr := pc, absent := none })))
    ∧ (s.issuing = [] → s.agenda = i :: more → step s = exec i { s with agenda := more })
    ∧ (s.issuing = [] → s.agenda = [] → s.duties[s.turn % s.duties.length]? = some i →
      step s = exec i (({ s with turn := s.turn + 1 } : State).takeHeld i))

/-- R60: a word 0 with LEN = 0b11 is a pad word of 4 bytes: with its other bits zero it issues nothing and the PC passes over it; with
any of them set it raises ILLEGAL_ENC at its address. -/
def Obligations.PadWords : Prop :=
  ∀ (off w0 w1 w2 w3 pc core ctx ver n : Nat) (bs : List Byte) (s t : State) (at_ : BitVec 49) (x : Issue),
    (w0 % 4 = 3 → off + 4 ≤ 32 → decodeAt off w0 w1 w2 w3 = .error (if w0 = 3 then .padWord else .badPad))
    ∧ (decodeBytes (pc % 32) bs = .error .padWord → fetchedOf pc bs = .pad)
    ∧ (decodeBytes (pc % 32) bs = .error .badPad → fetchedOf pc bs = .bad .illegalEnc pc none)
    ∧ (s.fetch core ctx ver at_.toNat = (.pad, t) → s.skipPads core ctx ver at_ (n + 1) = t.skipPads core ctx ver (at_ + 4) n)
    ∧ ((s.fetch core ctx ver at_.toNat).1 ≠ .pad → s.skipPads core ctx ver at_ (n + 1) = (at_, s))
    ∧ (∀ (uid lanes : Nat) (e : Env), x.who = .group uid lanes → s.env? uid = some e → s.fetch e.t.core e.gr.ctx e.gr.version x.pc.toNat = (.pad, t) →
      s.fetchFor x = (none, t))

/-- R56 to R68, R79 and the examples of the chapters: words written out from the encoding tables decode to the instructions that they
stand for. -/
def Obligations.DecodeWords : Prop :=
  decodeTableWord 96 0x00000DFB0000300C01F42201
    = some (.iadd { stall := 2, y := false, gp := 2, gn := true, wsb := 7, wait := 1 } { wid := .w32, sgn := false, sat := false } (.v 12) (.v 3) (.imm 0xFB))
  ∧ decodeTableWord 96 0x00800C050100200A00EE4409
    = some (.ffma { stall := 4, y := false, gp := 7, gn := false, wsb := 7, wait := 0 }
        { rnd := .rz, nega := false, negb := false, negc := false, absa := false, sat := false } (.v 10) (.v 2) (.s 5) (.z 0))
  ∧ decodeTableWord 96 0x00000D100DC04008002E0701
    = some (.ldg { stall := 0, y := false, gp := 7, gn := false, wsb := 1, wait := 0 } .b64 .l2 (.v 8) (.s 4) (.imm 0x10))
  ∧ decodeTableWord 96 0x000000110000001800EE002D
    = some (.brk { stall := 0, y := false, gp := 7, gn := false, wsb := 7, wait := 0 } 0x18 1 1)
  ∧ decodeTableWord 96 0x00DFFD0103004006004E060D
    = some (.lnadd { stall := 0, y := false, gp := 7, gn := false, wsb := 2, wait := 0 } { sw := .sg8, x64 := false } false (.v 6) (.v 4) (.imm 1) (.imm 0xFF))
  ∧ decodeTableWord 64 0x0300A00000EE0108
    = some (.barw { stall := 0, y := false, gp := 7, gn := false, wsb := 7, wait := 0 } 3 (.v 10))

/-- R57, R67, R80: what decodes is a well-formed instruction, inside its fetch block, and its encoding is the words that were read: no bit
of them is dropped, and no reserved bit is set. -/
def Obligations.DecodeExact : Prop :=
  ∀ (off : Nat) (bs : List Byte) (i : Instr), decodeBytes off bs = .ok i →
    i.wf = true ∧ off + 4 * i.words ≤ 32 ∧ 2 ≤ i.words ∧ encode i = (List.range i.words).map fun k => wordAt bs (4 * k)

/-- R56 to R68, R79, R80: the words of a well-formed instruction, stored as R56 says, with anything behind them, decode to it. -/
def Obligations.EncodeDecode : Prop :=
  ∀ (i : Instr) (f : Fields) (off : Nat) (rest : List Byte), i.wf = true → i.fields = some f → off + 4 * i.words ≤ 32 →
    decodeBytes off ((encode i).flatMap (leBytes 4) ++ rest) = .ok i

/-! ### What every step keeps -/

/-- Every step keeps device and host memory in canonical form: addresses strictly rising, and no entry that reads as an unlisted
address does (the model's own form of memory, log entry 5). -/
def Obligations.StepKeepsMemory : Prop := ∀ s t : State, s.memWf = true → step s = .next t → t.memWf = true

/-! ### Issue -/

/-- R35, R68, R74, R81: an instruction that names a register above the allotment raises REG_BOUND in every lane of the issue, and one
whose guard is true in no lane only moves the lanes on, where the vote saw GCTL.CHK at 0. Where the vote saw it at 1, a lane that would
read or write a register with a result under way that is neither due nor covered raises STALL_SHORT and takes no part in the effect: the
guard counts as read in every lane of the issue, the other registers in those whose guard is true. Of an instruction that gives each lane
a value, the lanes that are not late have theirs; where every lane is late none has an effect; where no lane is late the instruction does
what it does without the check. -/
def Obligations.IssueEdges : Prop :=
  ∀ (s : State) (i : Instr) (h : Hdr) (lanes w : Nat) (pc next : BitVec 49) (chk : Bool) (e0 e : Env),
    s.cur = some { who := .group e0.g.uid lanes, pc, next, word := w, chk } → i.hdr? = some h → h.never = false →
    ({ s with cur := none } : State).env? e0.g.uid = some e0 →
    (e0.g.outOfBounds (i.uses.rd ++ i.uses.wr) = true →
      exec i s = .next ((s.atIssue e0 h lanes).takeTrap e0.g.uid pc next 0 ((lanesOf lanes).map fun l => { lane := l, code := .regBound, addr := pc.toNat, absent := none })))
    ∧ (e0.g.outOfBounds (i.uses.rd ++ i.uses.wr) = false → chk = false → e0.act h lanes = 0 →
      (s.atIssue e0 h lanes).env? e0.g.uid = some e →
      exec i s = ({ s := e.st } : Out).ends e0 lanes pc next)
    ∧ (let late := fun (rs : List Reg) (l : Nat) => e.st.late e0.g.uid e0.c.now h rs l
       let short := fun (m : Nat) => m < 2 ^ 64 ∧ ∀ l, l < 64 → (inMask m l = true ↔ inMask lanes l = true
         ∧ ((h.gp ≠ 7 ∧ late [.p h.gp.toNat] l) ∨ (e0.guard h l = true ∧ late (i.uses.rd ++ i.uses.wr) l)))
       let raised := fun (m : Nat) => (lanesOf m).map fun l => ({ lane := l, code := .stallShort, addr := pc.toNat, absent := none } : Raise)
       e0.g.outOfBounds (i.uses.rd ++ i.uses.wr) = false → chk = true → (∀ c ∈ s.contexts, c.2.absent = []) →
       (s.atIssue e0 h lanes).env? e0.g.uid = some e → ∀ m, short m →
         (∀ o : LaneOp, i.laneOp? = some o → maskDiff (e0.act h lanes) m ≠ 0 →
            exec i s = ({ o.out h e.st e (maskDiff (e0.act h lanes) m) with raises := raised m } : Out).ends e0 lanes pc next)
         ∧ (maskDiff (e0.act h lanes) m = 0 → exec i s = ({ s := e.st, raises := raised m } : Out).ends e0 lanes pc next)
         ∧ (m = 0 → exec i s = exec i { s with cur := some { who := .group e0.g.uid lanes, pc, next, word := w } }))

/-- R40: P0 to P6 hold a bit for each lane; P7 reads true in every lane and ignores every write, a carry or a borrow among them; J
registers hold masks of lanes; at launch every handle is EMPTY. -/
def Obligations.PredicateRegisters : Prop :=
  ∀ (g : Group) (e : Env) (now m l n : Nat) (f : Nat → Word) (b : Nat → Bool) (uid team gid k : Nat) (gr : Grid), l < 64 →
    g.pmask 7 = allLanes ∧ e.pbit 7 l = true ∧ g.putReg now m (.p 7) f = g
    ∧ (n < 7 → inMask ((g.setP n m b).pmask n) l = if inMask m l then b l else inMask (g.pmask n) l)
    ∧ (g.setJ n m).jmask n = m
    ∧ (Group.blank uid team gr gid).hreg k = 0

/-- The frame of the integer, floating-point, predicate and cross-lane instructions: memory, other groups, and every register but
their results (and, for a fixed-latency vector result, Z, R38) are as they were; so is every lane of a result that is not active. -/
def Obligations.LaneFrame : Prop :=
  ∀ (s : State) (i : Instr) (h : Hdr) (lanes : Nat) (pc next : BitVec 49) (e0 e : Env) (o : LaneOp),
    Issues s i h lanes pc next e0 e → i.laneOp? = some o →
    let act := e0.act h lanes
    let res := o.results e act
    ∃ t, exec i s = .next t
      ∧ s.Keeps t e0.g.uid lanes (fun r => r ∈ res.map (·.1) ∨ ((∃ n, r = .z n) ∧ (∃ n, o.lat = .fixed n) ∧ ∃ x ∈ res, x.isRow = true))
      ∧ ∀ g', Tab.get? t.groups e0.g.uid = some g' → ∀ l, l < 64 → inMask act l = false →
        (∀ r, r.isRow = true → (g'.words r).getD l 0 = (e0.g.words r).getD l 0) ∧ ∀ n, inMask (g'.pmask n) l = inMask (e0.g.pmask n) l

/-- The frame of the control instructions that neither trap nor end lanes: they write no register but the rejoin mask they name and,
where they act on the divergence stack, its place above VLIM; memory and other groups are as they were, for GSYNC where nothing of the group
waits to be performed at TEAM scope (log entry 23, DEDUCED). -/
def Obligations.ControlFrame : Prop :=
  ∀ (s : State) (i : Instr) (h : Hdr) (lanes : Nat) (pc next : BitVec 49) (e0 e : Env) (wr : Reg → Prop),
    Issues s i h lanes pc next e0 e → instrControlWrites e0.g i = some wr → (∀ j, i = .jpush h j → e0.g.depth ≠ e0.g.divdepth) →
    (i = .gsync h → e.st.drainTeam e.g.uid = (e.st, true)) →
    ∃ t, exec i s = .next t ∧ s.Keeps t e0.g.uid lanes wr

/-- The frame of a store of a group as it is performed, of global or local memory in the base view, or of shared memory or the tile
store: every byte outside its pieces reads as before, and a byte of a piece reads what the last piece that holds it stores. Contexts,
versions and, but for the memory that is stored to, teams are as they were; and, where no lane watches a line (R166), so are spans and
results under way. -/
def Obligations.StoreFrame : Prop :=
  ∀ (s : State) (n : Nat) (p : PStore), Tab.get? s.stores n = some p → s.mayPerform n = true → p.atomic = none → p.load = none →
    Tab.get? s.spans p.group = none →
    let after := fun (a : Nat) (old : Byte) =>
      p.pieces.foldl (fun b x => if x.loc ≤ a ∧ a < x.loc + x.bytes.length then x.bytes.getD (a - x.loc) b else b) old
    (s.memWf = true → p.inTeam = none → s.eff p.version = 0 → (∀ x ∈ p.pieces, s.heldHalf x.loc x.bytes.length = false) →
      ∃ t, exec (.storePerformed n) s = .next t
        ∧ (∀ a, t.byteAt a = after a (s.byteAt a))
        ∧ t.contexts = s.contexts ∧ t.teams = s.teams ∧ t.vlines = s.vlines ∧ t.frames = s.frames
        ∧ ((∀ x ∈ s.groups, ∀ l, (x.2.lane l).watch = none) → t.spans = s.spans ∧ t.flights = s.flights))
    ∧ ∀ (team : Nat) (ts : Bool) (k : Team), p.inTeam = some (team, ts) → Tab.get? s.teams team = some k →
      Mem.wf (if ts then k.store else k.sharedMem) = true →
      ∃ t m, exec (.storePerformed n) s = .next t
        ∧ Tab.get? t.teams team = some (if ts then { k with store := m } else { k with sharedMem := m })
        ∧ (∀ a, Mem.read m a = after a (Mem.read (if ts then k.store else k.sharedMem) a))
        ∧ (∀ u, u ≠ team → Tab.get? t.teams u = Tab.get? s.teams u)
        ∧ t.mem = s.mem ∧ t.hostMem = s.hostMem ∧ t.groups = s.groups ∧ t.spans = s.spans ∧ t.flights = s.flights ∧ t.contexts = s.contexts
        ∧ t.vlines = s.vlines ∧ t.frames = s.frames

/-! ### Lane results -/

/-- R203 to R221, R113, R114: the integer results, every width, sign, saturation and operand form. An immediate of IDP8 fills its eight elements
with its low 4 bits (log entry 29, DEDUCED), and SEL with an S destination takes the choice of the lowest active lane (log entry 26, DEDUCED). -/
def Obligations.IntegerResults : Prop :=
  ∀ (i : Instr) (h : Hdr) (o : LaneOp), i.intOp? = some o → Does i h always fun e act => o.out h e.st e act

/-- R170, R209, R216, R227: the sums with a carry, the word and the carry-out of the exact sum; and the predicate results. -/
def Obligations.CarryAndPredicateResults : Prop :=
  (∀ (i : Instr) (h : Hdr) (o : LaneOp), i.carryOp? = some o → Does i h always fun e act => o.out h e.st e act)
  ∧ ∀ (i : Instr) (h : Hdr) (o : LaneOp), i.predOp? = some o → Does i h always fun e act => o.out h e.st e act

/-- R222 to R233, R239: the floating-point results with their flags. That FCVT to an integer type out of range raises INV alone is log entry 79
(DESIGN CHOICE), and the values of the approximate functions are log entry 11 (DESIGN CHOICE). -/
def Obligations.FloatResults : Prop :=
  ∀ (i : Instr) (h : Hdr) (o : LaneOp), i.floatOp? = some o → Does i h always fun e act => o.out h e.st e act

/-- R240 to R250: the cross-lane results. -/
def Obligations.CrossLaneResults : Prop :=
  ∀ (i : Instr) (h : Hdr) (o : LaneOp), i.crossOp? = some o → Does i h always fun e act => o.out h e.st e act

/-! ### Control -/

/-- R147, R150, R158: NOP and SPMAT change nothing of a group but the PC; SPFORM reports the form that the active lanes' values fit.
R136 to R141, R143, R144: an instruction in a span: with U operands a lane instruction runs once and gives U with its own value; IADD,
ISUB, IMUL, SHL, LEA, MOV, SEL, PMOV and ISETP give the forms of the table; with other operands the span lowers; a T guard cuts the span,
and the part whose guard is true executes; what always lowers lowers; SPMAT cuts the spans at grid level, as soon as none of them waits for
what it has issued (log entry 23, DEDUCED). What a threshold, a lowering and
a unification give each item. A stride of 2^31 or more counts as a decrease in the threshold of an unsigned comparison (log entry 76,
DESIGN CHOICE). -/
def Obligations.SpansAndForms : Prop :=
  (∀ h : Hdr, Does (.nop h) h always (fun e _ => { s := e.st }) ∧ Does (.spmat h) h always fun e _ => { s := e.st })
  ∧ (∀ (h : Hdr) (d : Opnd) (src : FormSrc), Does (.spform h d src) h always fun e act =>
    { s := e.st.result e.g.uid h act (.fixed 4) (resOf d 1 (lowLane act) fun _ => e.formCode src act) 0 })
  ∧ (∀ (s t u : State) (i : Instr) (h : Hdr) (p part : Span) (gr : Grid) (next : BitVec 49) (o : LaneOp),
    SpanIssues s i h p gr next t → p.team ≠ none →
    -- the instructions whose form is decided by the table
    let listed := i.intOp? = some o ∨ i.carryOp? = some o ∨ i.predOp? = some o ∨ (i.floatOp? = some o ∧ ∀ r cv d a, i ≠ .fcvt h r cv d a)
    (listed → p.guard h = .u false → exec i s = .next (t.updSpan p.uid fun x => { x with pc := next }))
    ∧ (listed → p.guard h = .u true → p.allU i.uses = true → exec i s = .next ((t.runOnce i p next (o.out h)).getD (t.lower p)))
    ∧ (listed → t.cutGuard p (p.guard h) next = some (u, part) → p.guard h ≠ .u false → part.allU i.uses = true →
      exec i s = .next ((u.runOnce i part next (o.out h)).getD (t.lower p)))
    ∧ (listed → t.cutGuard p (p.guard h) next = none → (∀ d hi, i ≠ .cyc h d hi) → exec i s = .next (t.lower p))
    ∧ (i.carryOp? = some o ∨ (i.floatOp? = some o ∧ ∀ r cv d a, i ≠ .fcvt h r cv d a) → p.guard h = .u true → p.allU i.uses = false →
      exec i s = .next (t.lower p))
    ∧ ((∃ a, i = .brx h a) ∨ (∃ off, i = .call h off) ∨ (∃ a, i = .callx h a) ∨ i = .ret h ∨ (∃ j, i = .jpush h j) ∨ (∃ j, i = .jpop h j)
        ∨ (∃ off j n, i = .brk h off j n) ∨ i = .gsync h ∨ (∃ a, i = .monw h a) ∨ (∃ d a, i = .mwait h d a) ∨ (∃ a k, i = .rshrink h a k)
        ∨ (∃ a k, i = .rgrow h a k) ∨ (∃ tag, i = .trap h tag) ∨ (∃ tag, i = .bpt h tag) →
      exec i s = .next (t.lower p))
    ∧ (i = .nop h ∨ (∃ a, i = .yield h a) → exec i s = .next (t.updSpan p.uid fun x => { x with pc := next }))
    ∧ (∀ off, i = .bra h off → p.guard h = .u true → exec i s = .next (t.setSpan { p with pc := relTarget p.pc off, block := .free }))
    ∧ (i = .spmat h → p.guard h = .u true → exec i s = .next (t.lower p))
    ∧ (∀ j, i = .join h j → p.guard h = .u true → exec i s = .next (t.setSpan { p with block := .join j.toNat false }))
    ∧ (∀ j r, i = .jset h j false → (p.guard h).range p.first p.last = some r → exec i s = .next (t.setSpan { p.setJ j.toNat r with pc := next })))
  ∧ (∀ (s t : State) (h : Hdr) (p : Span) (gr : Grid) (next : BitVec 49), SpanIssues s (.spmat h) h p gr next t → p.team = none → p.guard h ≠ .u false →
    exec (.spmat h) s = .next (if t.cutReady p.grid then t.cutTeams p.grid else t.updSpan p.uid fun x => { x with block := .retry }))
  -- the forms of the table of R137, where some operand is not U
  ∧ (∀ (s t : State) (i : Instr) (h : Hdr) (p : Span) (gr : Grid) (next : BitVec 49) (m : IMod) (d a b : Opnd) (sh : BitVec 5) (r : Reg) (x y : Form)
      (pa pd pc : BitVec 3) (neg wrap c : Bool) (cmp : Cmp) (th : PForm),
    SpanIssues s i h p gr next t → p.team ≠ none → p.guard h = .u true → p.allU i.uses = false → m.plain = true → Opnd.vreg? d = some r →
    t.opForm gr p a = some x → t.opForm gr p b = some y →
    let gives := fun (f : Form) => exec i s = .next (t.setSpan { p.putAff { regs := [(r, f)] } with pc := next })
    (i = .iadd h m d a b → gives { base := x.base + y.base, stride := x.stride + y.stride })
    ∧ (i = .isub h m d a b → gives { base := x.base - y.base, stride := x.stride - y.stride })
    ∧ (i = .imul h m d a b → y.isU = true → gives { base := x.base * y.base, stride := x.stride * y.base })
    ∧ (i = .imul h m d a b → y.isU = false → x.isU = true → gives { base := y.base * x.base, stride := y.stride * x.base })
    ∧ (i = .shl h m wrap d a b → y.isU = true → ∀ n, n = (if wrap then y.base.toNat % 32 else y.base.toNat) →
      gives (if 32 ≤ n then Form.zero else { base := x.base <<< n, stride := x.stride <<< n }))
    ∧ (i = .lea h m sh d a b → gives { base := (x.base <<< sh.toNat) + y.base, stride := (x.stride <<< sh.toNat) + y.stride })
    ∧ (i = .mov h m d a → gives x)
    ∧ (i = .sel h m d a b pc → p.pform pc.toNat = .u c → gives (if c then x else y))
    ∧ (i = .pmov h pd pa neg → exec i s = .next (t.setSpan { p.setP pd.toNat (if neg then (p.pform pa.toNat).neg else p.pform pa.toNat) with pc := next }))
    ∧ (i = .isetp h m cmp .none pd a b pc → y.isU = true → thresholdOf m.sgn cmp x y.base p.first p.last = some th →
      exec i s = .next (t.setSpan { p.setP pd.toNat th with pc := next }))
    ∧ (i = .isetp h m cmp .none pd a b pc → y.isU = true → thresholdOf m.sgn cmp x y.base p.first p.last = none → exec i s = .next (t.lower p)))
  -- a cut by a T guard
  ∧ (∀ (s : State) (p : Span) (at_ : Nat) (next : BitVec 49), p.uid < s.uids → s.spanRoom p = true →
    (∃ u n, s.cutGuard p (.lt at_) next = some (u, p.below at_) ∧ Tab.get? u.spans p.uid = some (p.below at_)
      ∧ Tab.get? u.spans n = some { p.above at_ n with pc := next, block := .free })
    ∧ ∃ u n, s.cutGuard p (.ge at_) next = some (u, p.above at_ p.uid) ∧ Tab.get? u.spans p.uid = some (p.above at_ p.uid)
      ∧ Tab.get? u.spans n = some { p.below at_ with pc := next, block := .free, uid := n })
  -- what forms give each item
  ∧ (∀ (sgn : Bool) (c : Cmp) (x : Form) (u : Word) (first last item : Nat) (th : PForm), first ≤ item → item ≤ last →
    thresholdOf sgn c x u first last = some th → th.at_ item = icmp c (intOf sgn 32 (x.at_ item).toNat) (intOf sgn 32 u.toNat))
  ∧ (∀ (g : Group) (p : Span) (base m l n : Nat) (fresh : Bool), l < 64 → inMask m l = true → g.lanes.length = 64 →
    (n < p.vlim → ((g.takeItems p base m fresh).words (.v n)).getD l 0 = (p.formOf (.v n)).at_ (base + l))
    ∧ (n < 8 → ((g.takeItems p base m fresh).words (.o n)).getD l 0 = (p.formOf (.o n)).at_ (base + l))
    ∧ (n < 7 → inMask ((g.takeItems p base m fresh).pmask n) l = (p.pform n).at_ (base + l))
    ∧ ((g.takeItems p base m fresh).lane l).pc = p.pc)
  ∧ (∀ (x y f : Form) (a b c item : Nat), a ≤ b → b < c → unifyForm x y a b c = some f → a ≤ item → item ≤ c →
    f.at_ item = if item ≤ b then x.at_ item else y.at_ item)
  ∧ ∀ (x y f : PForm) (a b c item : Nat), a ≤ b → b < c → unifyP x y a b c = some f → a ≤ item → item ≤ c →
    f.at_ item = if item ≤ b then x.at_ item else y.at_ item

/-- R68: an instruction with the never guard only marks its lanes, or its span, and moves them on, whatever it is: it waits on no
scoreboard and covers no result, and it lowers no span. -/
def Obligations.NeverGuard : Prop :=
  ∀ (s : State) (i : Instr) (h : Hdr) (lanes : Nat) (pc next : BitVec 49) (w : Nat) (chk : Bool) (e : Env), i.hdr? = some h → h.never = true →
    (s.cur = some { who := .group e.g.uid lanes, pc, next, word := w, chk } → ({ s with cur := none } : State).env? e.g.uid = some e →
      exec i s = .next (({ s with cur := none, free := s.free + 1 } : State).updGroup e.g.uid fun g =>
        (g.mark lanes (e.c.now + e.c.passes + h.stall.toNat) false).advance lanes next))
    ∧ ∀ (p : Span) (gr : Grid), s.cur = some { who := .span p.uid, pc, next, word := w, chk } → Tab.get? s.spans p.uid = some p →
      Tab.get? s.grids p.grid = some gr →
      exec i s = .next ({ s with cur := none, spans := Tab.set s.spans p.uid { p with pc := next, readyAt := (s.core (s.spanCore p)).now + 1, block := .free } } : State)

/-- R108, R158, R159: where the transfers of control go, and what calls and returns do to the return stack; a lane whose return stack
is full spills it as it calls, one whose stack is empty fills it from the frame that was spilled last as it returns, one that returns from a
trap frame leaves the handler, and a target or a return PC that is no multiple of 4, or a target at 2^49 or above, raises MISALIGNED. That a
frame moves in accesses of 8 bytes is log entry 77 (DESIGN CHOICE). -/
def Obligations.Transfers : Prop :=
  (∀ (h : Hdr) (off : BitVec 32) (a : Opnd),
    Does (.bra h off) h always (fun e act =>
      { s := e.st.jump e.g.uid act fun l => e.pc l + BitVec.ofInt 49 (4 * off.toInt), stays := act })
    ∧ Does (.brx h a) h (fun e act => ∀ l, inMask act l = true → e.w64 l a < 2 ^ 49 ∧ e.w64 l a % 4 = 0) (fun e act =>
      { s := e.st.jump e.g.uid act fun l => BitVec.ofNat 49 (e.w64 l a), stays := act })
    ∧ Does (.call h off) h (fun e act => ∀ l, inMask act l = true → (e.g.lane l).rstack.length < 8) (fun e act =>
      { s := e.st.updGroup e.g.uid fun g => g.updLanes act fun l x =>
          { x with rstack := (e.g.lane l).rstack ++ [BitVec.ofNat 64 (e.nextPc l 12).toNat], pc := e.pc l + BitVec.ofInt 49 (4 * off.toInt) }
        stays := act })
    ∧ Does (.callx h a) h (fun e act => ∀ l, inMask act l = true →
        (e.g.lane l).rstack.length < 8 ∧ e.w64 l a < 2 ^ 49 ∧ e.w64 l a % 4 = 0) (fun e act =>
      { s := e.st.updGroup e.g.uid fun g => g.updLanes act fun l x =>
          { x with rstack := (e.g.lane l).rstack ++ [BitVec.ofNat 64 (e.nextPc l 8).toNat], pc := BitVec.ofNat 49 (e.w64 l a) }
        stays := act })
    ∧ ∀ top : Nat → DWord, Does (.ret h) h (fun e act => ∀ l, inMask act l = true →
        (e.g.lane l).rstack.getLast? = some (top l) ∧ (top l).getLsbD 63 = false ∧ (top l).toNat % 4 = 0) (fun e act =>
      { s := e.st.updGroup e.g.uid fun g => g.updLanes act fun l x =>
          { x with rstack := (e.g.lane l).rstack.dropLast, pc := BitVec.ofNat 49 (top l).toNat }
        stays := act }))
  -- a full stack goes to the frame above the last, an empty one is filled from the last; the count of frames lies at offset 0
  ∧ (∀ (s t u v : State) (e : Env) (l c : Nat) (x : DWord) (bs fr : List Byte),
    s.localLoad e l 0 8 = .done bs t → leNat bs = c →
    ((e.g.lane l).rstack.length = 8 → t.localStore e l (64 * (c + 1)) ((e.g.lane l).rstack.flatMap fun y => le 8 y.toNat) = .done () u →
      u.localStore e l 0 (le 8 (c + 1)) = .done () v →
      s.push e l x = .done () (v.updGroup e.g.uid fun g => g.updLanes (2 ^ l) fun _ k => { k with rstack := [x] }))
    ∧ ((e.g.lane l).rstack = [] → 0 < c → t.localLoad e l (64 * c) 64 = .done fr u → u.localStore e l 0 (le 8 (c - 1)) = .done () v →
      let es := (List.range 8).map fun k => BitVec.ofNat 64 (leNat ((fr.drop (8 * k)).take 8))
      s.pop e l = .done (some (es.getD 7 0)) (v.updGroup e.g.uid fun g => g.updLanes (2 ^ l) fun _ k => { k with rstack := es.take 7 })))
  ∧ ∀ (h : Hdr) (off : BitVec 32) (a : Opnd) (l : Nat) (top : DWord) (t : State),
    Does (.call h off) h (fun e act => act = 2 ^ l ∧ l < 64 ∧ e.st.push e l (BitVec.ofNat 64 (e.nextPc l 12).toNat) = .done () t) (fun e act =>
      { s := t.jump e.g.uid act fun l => e.pc l + BitVec.ofInt 49 (4 * off.toInt), stays := act })
    ∧ Does (.callx h a) h (fun e act => act = 2 ^ l ∧ l < 64 ∧ e.w64 l a < 2 ^ 49 ∧ e.w64 l a % 4 = 0
        ∧ e.st.push e l (BitVec.ofNat 64 (e.nextPc l 8).toNat) = .done () t) (fun e act =>
      { s := t.jump e.g.uid act fun l => BitVec.ofNat 49 (e.w64 l a), stays := act })
    ∧ (∀ i, i = .brx h a ∨ i = .callx h a → Does i h (fun e act => ∀ l, inMask act l = true → 2 ^ 49 ≤ e.w64 l a ∨ e.w64 l a % 4 ≠ 0) (fun e act =>
      { s := e.st, raises := (lanesOf act).map fun l => { lane := l, code := .misaligned, addr := e.w64 l a, absent := none } }))
    ∧ Does (.ret h) h (fun e act => act = 2 ^ l ∧ l < 64 ∧ (e.g.lane l).rstack = [] ∧ e.st.pop e l = .done (some top) t ∧ top.getLsbD 63 = false
        ∧ top.toNat % 4 = 0) (fun e act =>
      { s := t.jump e.g.uid act fun _ => BitVec.ofNat 49 top.toNat, stays := act })
    ∧ Does (.ret h) h (fun e act => act = 2 ^ l ∧ l < 64 ∧ (e.g.lane l).rstack.getLast? = some top ∧ top.getLsbD 63 = true ∧ top.toNat % 4 = 0) (fun e act =>
      { s := e.st.updGroup e.g.uid fun g =>
          ((g.updLanes act fun _ x => { x with rstack := (e.g.lane l).rstack.dropLast }).leaveHandler act).updLanes act fun _ x =>
            { x with pc := BitVec.ofNat 49 top.toNat }
        stays := act })
    ∧ Does (.ret h) h (fun e act => act = 2 ^ l ∧ l < 64 ∧ (e.g.lane l).rstack.getLast? = some top ∧ top.toNat % 4 ≠ 0) (fun e _ =>
      { s := e.st, raises := [{ lane := l, code := .misaligned, addr := top.toNat % 2 ^ 49, absent := none }] })
    ∧ Does (.ret h) h (fun e act => act = 2 ^ l ∧ l < 64 ∧ e.st.pop e l = .done none t) (fun e act =>
      { s := t, raises := e.raiseAll act .retUnderflow })

/-- R145, R160 to R164, R291: the rejoin masks, a new set of which has no arrivals, and the divergence stack. GSYNC, whose arrival releases
at GROUP scope, has the group's own accesses performed first, at TEAM scope (log entry 23, DEDUCED). -/
def Obligations.RejoinMasks : Prop :=
  ∀ (h : Hdr) (j n1 : BitVec 4) (off : BitVec 32) (add : Bool) (t : State),
    Does (.jset h j add) h always (fun e act =>
      { s := e.st.updGroup e.g.uid fun g =>
          if add then { g with j := Tab.set g.j j.toNat (maskOr (g.jmask j.toNat) act) }
          else { g with j := Tab.set g.j j.toNat act, came := g.came.filter fun c => c.1 != j.toNat } })
    ∧ Does (.join h j) h always (fun e act =>
      { s := e.st.updGroup e.g.uid fun g => g.updLanes act fun _ x => { x with block := .join j.toNat false }, stays := act })
    ∧ Does (.gsync h) h (fun e _ => e.st.drainTeam e.g.uid = (t, true)) (fun e act =>
      { s := t.updGroup e.g.uid fun g => g.updLanes act fun _ x => { x with block := .gsync }, stays := act })
    ∧ Does (.jpush h j) h (fun e _ => e.g.depth ≠ e.g.divdepth) (fun e _ =>
      { s := e.st.updGroup e.g.uid fun g =>
          { g.setV (g.vlim + g.depth / 2) ((2 ^ 32 - 1) * 2 ^ (32 * (g.depth % 2))) (fun l =>
              if l % 32 = 0 then BitVec.ofNat 32 (g.jmask j.toNat) else if l % 32 = 1 then BitVec.ofNat 32 (g.jmask j.toNat / 2 ^ 32)
              else if l % 32 = 2 then BitVec.ofNat 32 j.toNat else 0) with depth := g.depth + 1 } })
    ∧ Does (.jpush h j) h (fun e _ => e.g.depth = e.g.divdepth) (fun e act => { s := e.st, raises := e.raiseAll act .divOverflow })
    ∧ Does (.jpop h j) h always (fun e _ =>
      { s := e.st.updGroup e.g.uid fun g =>
          let k := { g with came := g.came.filter fun c => c.1 != j.toNat }
          if g.depth = 0 then { k with j := Tab.set g.j j.toNat 0 }
          else { k with j := Tab.set g.j j.toNat (g.divMask (g.depth - 1)), depth := g.depth - 1 } })
    ∧ Does (.brk h off j n1) h always (fun e act =>
      { s := (e.st.updGroup e.g.uid fun g => g.brk j.toNat n1.toNat act).jump e.g.uid act fun l => e.pc l + BitVec.ofInt 49 (4 * off.toInt)
        stays := act })

/-- R165 to R167: YIELD, MONW and MWAIT. -/
def Obligations.Waiting : Prop :=
  ∀ (h : Hdr) (d a : Opnd) (t : State) (xs : List (Nat × Unit)),
    Does (.yield h a) h always (fun e act =>
      { s := e.st.updGroup e.g.uid fun g => g.updLanes act fun l x =>
          { x with yielding := true, block := if e.w32 l a % 2 ^ 16 = 0 then .free else .yield (e.c.now + e.w32 l a % 2 ^ 16) } })
    ∧ Does (.monw h a) h (fun e act =>
        (∀ l, inMask act l = true → e.w64 l a < 2 ^ 49) ∧
        lanesMade (fun s l => match s.checkPage e.t.core e.gr.ctx e.gr.version (e.w64 l a) .load 0 with
          | (.pass p, s) => .done () (s.updGroup e.g.uid fun g => g.updLanes (2 ^ l) fun _ x => { x with watch := some { line := p.loc / 128, fired := false } })
          | (_, s) => .wait s) e.st (lanesOf act) = some (t, xs)) (fun _ _ => { s := t })
    ∧ ∀ r, (Opnd.regs d 1).head? = some r → Does (.mwait h d a) h always (fun e act =>
        let sleeps := laneMask fun l => inMask act l && e.w32 l a != 0 &&
          (match (e.g.lane l).watch with | some w => !w.fired | none => false)
        let now := maskDiff act sleeps
        { s := ((e.st.result e.g.uid h now .var (resOf d 1 (lowLane now) fun l =>
            match (e.g.lane l).watch with | none => 2 | some w => if w.fired then 0 else 1) 0).updGroup e.g.uid fun g =>
              g.updLanes now fun _ x => { x with watch := none }).sleepLanes e h d (fun l n =>
                .mwait (if e.w32 l a = 2 ^ 32 - 1 then none else some (e.c.now + e.w32 l a)) r n) (lanesOf sleeps)
          stays := sleeps })

/-- R168, R169: RGNLD, RSHRINK and RGROW. -/
def Obligations.Allotment : Prop :=
  ∀ (h : Hdr) (base : BitVec 10) (mask : BitVec 8) (offs : BitVec 32) (a : Opnd) (k : BitVec 4),
    Does (.rgnld h base mask offs) h always (fun e act =>
      { s := e.st.result e.g.uid h act .var (((List.range 8).filter fun k => mask.getLsbD k).map fun k =>
          (Reg.o k, fun l => e.vec (.v (base.toNat + fld offs.toNat (4 * k) 4)) l)) 0 })
    ∧ Does (.rshrink h a k) h (fun e act =>
        8 * e.w32 (lowLane act) a + 8 ≤ e.g.vlim ∧ 16 * k.toNat + 16 ≤ e.g.slim ∧
        ∀ f ∈ e.flights, ∀ r ∈ f.2.regs, (∀ n, r.1 = .v n → n < e.g.vlim - 8 * e.w32 (lowLane act) a) ∧ ∀ n, r.1 = .s n → n < e.g.slim - 16 * k.toNat)
      (fun e act => { s := e.st.updGroup e.g.uid fun g => g.shrink (e.w32 (lowLane act) a) k.toNat })
    ∧ Does (.rshrink h a k) h (fun e act => e.g.vlim < 8 * e.w32 (lowLane act) a + 8 ∨ e.g.slim < 16 * k.toNat + 16)
      (fun e act => { s := e.st, raises := e.raiseAll act .regBound })
    ∧ Does (.rgrow h a k) h (fun e act => e.g.vallot + 8 * e.w32 (lowLane act) a ≤ 640 ∧ e.g.slim + 16 * k.toNat ≤ 256) (fun e act =>
        let t := (e.st.updGroup e.g.uid fun g => g.updLanes act fun _ x => { x with block := .rgrow }).updCore e.t.core fun c =>
          { c with rgrowq := c.rgrowq ++ [(e.g.uid, act, e.w32 (lowLane act) a, k.toNat)] }
        { s := if (t.core e.t.core).rgrowq.length = 1 then t.rgrowTry e.t.core else t, stays := act })
    ∧ Does (.rgrow h a k) h (fun e act => 640 < e.g.vallot + 8 * e.w32 (lowLane act) a ∨ 256 < e.g.slim + 16 * k.toNat)
      (fun e act => { s := e.st, raises := e.raiseAll act .regBound })

/-- R106, R108, R112, R470: TRAP and BPT raise their trap in every active lane; lanes that raise one trap push their return PC as a trap
frame, TRAPCODE and TRAPADDR take the trap of the lowest of them, and they go to the handler; the return PC of TRAP and BPT is the next
instruction's. -/
def Obligations.SoftwareTraps : Prop :=
  (∀ (h : Hdr) (tag : BitVec 8),
    Does (.trap h tag) h always (fun e act => { s := e.st, raises := e.raiseAll act .software, tag := tag.toNat })
    ∧ Does (.bpt h tag) h always (fun e act => { s := e.st, raises := e.raiseAll act .breakpoint, tag := tag.toNat }))
  ∧ ∀ (s : State) (e : Env) (pc next : BitVec 49) (tag m addr : Nat) (code : TrapCode),
    s.env? e.g.uid = some e → e.canEnter m → m ≠ 0 → m < 2 ^ 64 → s.postFaults = s → s.unborn e.g.uid m = s →
    s.takeTrap e.g.uid pc next tag ((lanesOf m).map fun l => { lane := l, code, addr, absent := none })
      = s.entered e m code addr (if code = .software ∨ code = .breakpoint then next else pc)

/-- R113, R46 to R48: SWR writes FPCTL, FPSTAT and GCTL as their fields say; flags that enter FPSTAT in the cycle of a clearing SWR stay
set. -/
def Obligations.SpecialWrites : Prop :=
  ∀ (h : Hdr) (a : Opnd),
    Does (.swr h (.sr 0x18) a) h always (fun e act =>
      let x := e.w32 (lowLane act) a
      let v := BitVec.ofNat 32 ((if 4 < x % 8 then 0 else x % 8) + 8 * (x / 8 % 2) + 2 ^ 16 * (x / 2 ^ 16 % 2 ^ 16))
      { s := e.st.updGroup e.g.uid fun g => { g with
          fpctl := v, stamps := Tab.set g.stamps stampFpctl e.c.epoch
          lanes := mapFrom (fun l k => { k with lfsr := BitVec.ofNat 32 (2 ^ 16 * (v.toNat / 2 ^ 16 % 2 ^ 16) + (l + 1)) }) 0 g.lanes } })
    ∧ Does (.swr h (.sr 0x19) a) h always (fun e act =>
      { s := e.st.updGroup e.g.uid fun g => { g with
          fpstat := (g.fpstat &&& ~~~ BitVec.ofNat 32 (e.w32 (lowLane act) a % 32)) ||| g.fpnew } })
    ∧ Does (.swr h (.sr 0x1A) a) h always (fun e act =>
      let x := e.w32 (lowLane act) a
      let fairt := x / 2 ^ 16 % 2 ^ 16
      { s := e.st.updGroup e.g.uid fun g => { g with
          gctl := BitVec.ofNat 32 (x % 4 + 2 ^ 16 * (if fairt < 64 then 64 else fairt)), stamps := Tab.set g.stamps stampGctl e.c.epoch } })

/-- R147, R149: EXIT and GFOLD: the active lanes exit; a group that may not fold, or whose registers do not fit, or for whose span there
is no room, goes on, and one that may leaves, a span stands for it, and the spans beside it merge with it where they can. That both
instructions first have the group's own accesses performed, at TEAM scope, is the model's choice (log entry 23, DEDUCED): no rule says it.
At an EXIT of a team with a barrier in CLUSTER or GRID mode they are performed at the home, since the exit counts there (R175, R179).
What GFOLD looks at to know of spilled frames is log entry 48 (DEDUCED), that a group with an ABSENT page there does not fold log entry 62
(DESIGN CHOICE), and how the spans beside it merge log entry 75 (DESIGN CHOICE). -/
def Obligations.GroupEnds : Prop :=
  (∀ (h : Hdr) (sp : Span) (t : State) (f : Env),
    -- the host holds no half in which a lane's count of spilled return-stack frames lies (R424)
    let ours := fun (e : Env) (act : Nat) => ∀ l ∈ lanesOf act, e.st.spillHeld e l = none
    let may := fun (e : Env) (act : Nat) => ours e act ∧ e.mayFold act = true ∧ (e.looked act e.st).drainTeam e.g.uid = (t, true) ∧ (∀ c ∈ t.contexts, c.2.absent = [])
      ∧ t.env? e.g.uid = some f
    Does (.gfold h) h (fun e act => ours e act ∧ e.mayFold act = false) (fun e act => { s := e.looked act e.st })
    ∧ Does (.gfold h) h (fun e act => may e act ∧ (f.fold? act (f.nextPc (lowLane act) 8) t.uids = none
        ∨ f.fold? act (f.nextPc (lowLane act) 8) t.uids = some sp ∧ t.fresh.2.spanRoom sp = false)) (fun _ _ => { s := t })
    ∧ Does (.gfold h) h (fun e act => may e act ∧ f.fold? act (f.nextPc (lowLane act) 8) t.uids = some sp ∧ t.fresh.2.spanRoom sp = true) (fun e act =>
      { s := (((t.fresh.2.setSpan sp).shareFlags e.g.uid t.uids).dropGroup e.g.uid).mergeBeside sp
        stays := act }))
  ∧ ∀ (h : Hdr) (t : State),
    let wide := fun (e : Env) => ∃ b ∈ e.t.bars, 2 ≤ b.mode
    Does (.exit h) h (fun e _ => (wide e → e.st.drain e.g.uid = (t, true)) ∧ (¬ wide e → e.st.drainTeam e.g.uid = (t, true))) fun e act =>
      { s := t.exitLanes e.g.uid act, stays := act }

/-! ### Barriers -/

/-- R173 to R180: arrivals and waits at the barriers, and where they raise BARRIER_ERROR. An arrival, which is a release at the barrier's
scope (R179), has the group's accesses performed at that scope first: how is log entry 23 (DEDUCED); how many teams a grid may have for GBAR
is log entry 33 (DEDUCED). -/
def Obligations.Barriers : Prop :=
  ∀ (h : Hdr) (b : BitVec 4) (a : Opnd) (t : State),
    Does (.bar h b) h (fun e _ => (e.t.bar b.toNat).mode < 2 ∧ e.st.drainTeam e.g.uid = (t, true)) (fun e act =>
      { s := t.arriveLanes e.g.uid e.t.uid b.toNat (lanesOf act), stays := act })
    ∧ Does (.bar h b) h (fun e _ => 2 ≤ (e.t.bar b.toNat).mode) (fun e act => { s := e.st, raises := e.raiseAll act .barrierError })
    ∧ Does (.bara h a b) h (fun e _ => (e.t.bar b.toNat).mode = 1 ∧ e.st.drainTeam e.g.uid = (t, true)) (fun e act =>
      let r := t.arriveTokens e.t.uid b.toNat (lanesOf act)
      { s := r.1.result e.g.uid h act .var (resOf a 1 (lowLane act) (ofLane r.2 0)) 0 })
    ∧ Does (.bara h a b) h (fun e _ => (e.t.bar b.toNat).mode ≠ 1) (fun e act => { s := e.st, raises := e.raiseAll act .barrierError })
    ∧ Does (.barw h b a) h (fun e _ => (e.t.bar b.toNat).mode < 2) (fun e act =>
        let past := laneMask fun l => inMask act l && phasePast (e.t.bar b.toNat).phase (e.w32 l a % 2 ^ 15)
        { s := (if past = 0 then e.st else e.st.acquire e.t.core .team).updGroup e.g.uid fun g =>
            g.updLanes (maskDiff act past) fun l x => { x with block := .bar b.toNat (e.w32 l a % 2 ^ 15) }
          stays := maskDiff act past })
    ∧ Does (.barw h b a) h (fun e _ => 2 ≤ (e.t.bar b.toNat).mode) (fun e act => { s := e.st, raises := e.raiseAll act .barrierError })
    ∧ Does (.barinit h b a) h (fun e act => (e.t.bar b.toNat).arrived = 0 ∧ e.w32 (lowLane act) a ≤ 2048 ∧ (e.t.bar b.toNat).mode < 2) (fun e act =>
      let c := e.w32 (lowLane act) a
      { s := e.st.updTeam e.t.uid fun t => t.setBar b.toNat
          { e.t.bar b.toNat with mode := if c = 0 then 0 else 1, expect := if c = 0 then e.st.teamItems e.t.uid else c } })
    ∧ Does (.barinit h b a) h (fun e act => (e.t.bar b.toNat).arrived ≠ 0 ∨ 2048 < e.w32 (lowLane act) a ∨ 2 ≤ (e.t.bar b.toNat).mode) (fun e act =>
      { s := e.st, raises := e.raiseAll act .barrierError })
    ∧ Does (.cbar h) h (fun e _ => wideOk (e.t.bar 15) = true ∧ (e.st.turnWide e.t.uid 15 2).drain e.g.uid = (t, true)) (fun e act =>
      { s := t.arriveLanes e.g.uid e.t.uid 15 (lanesOf act), stays := act })
    ∧ Does (.cbar h) h (fun e _ => wideOk (e.t.bar 15) = false) (fun e act => { s := e.st, raises := e.raiseAll act .barrierError })
    ∧ Does (.gbar h) h (fun e _ => wideOk (e.t.bar 14) = true ∧ e.gr.nteams ≤ e.gr.coresident ∧
        ((e.st.updGrid e.gr.uid fun g => { g with gbarwait := true }).turnWide e.t.uid 14 3).drain e.g.uid = (t, true)) (fun e act =>
      { s := t.arriveLanes e.g.uid e.t.uid 14 (lanesOf act), stays := act })
    ∧ Does (.gbar h) h (fun e _ => wideOk (e.t.bar 14) = false ∨ e.gr.coresident < e.gr.nteams) (fun e act =>
      { s := e.st, raises := e.raiseAll act .barrierError })

/-! ### Memory -/

/-- R264, R265, R269, R287, R288, R469, R471: the loads of every space, size and policy: one by a group passes its checks as it issues and is
owed what it reads at some later moment, in every space. An LDSC that acquires reads as it issues, each lane once every access that must
come before its own is performed, those of other groups to the same shared memory among them (R469); that this is the moment of its
performance, which R471 leaves open, is log entry 92 (DEDUCED). One that does not acquire is owed what it reads as the other loads are. -/
def Obligations.Loads : Prop :=
  ∀ (h : Hdr) (sz : Sz) (pol : Pol) (scope : Scope) (ord : Order) (d a b : Opnd) (t u : State),
    let group := fun (e : Env) => Tab.get? e.st.spans e.g.uid = none
    let acq := ord = .acq ∨ ord = .ar
    Does (.ldg h sz pol d a b) h (fun e act => group e ∧ e.loadsLater h d .global sz pol (polScope pol) (Env.gAddr a b) e.st act = some t) (fun _ _ => { s := t })
    ∧ Does (.ldsh h sz d a b) h (fun e act => group e ∧ e.loadsLater h d .shared sz .l1 .team (Env.oAddr a b) e.st act = some t) (fun _ _ => { s := t })
    ∧ Does (.ldts h sz d a b) h (fun e act => group e ∧ e.loadsLater h d .tile sz .l1 .team (Env.oAddr a b) e.st act = some t) (fun _ _ => { s := t })
    ∧ Does (.ldl h sz d a b) h (fun e act => group e ∧ e.loadsLater h d .localMem sz .l1 .team (Env.oAddr a b) e.st act = some t) (fun _ _ => { s := t })
    ∧ (acq → Does (.ldsc h sz scope ord false d a b) h (fun e act => e.releases ord scope = some u ∧
        e.loads h d .global sz (scopePol scope) (Env.gAddr a b) u act = some t) (fun e _ => { s := e.acquires ord scope t }))
    ∧ (acq → Does (.ldsc h sz scope ord true d a b) h (fun e act => e.releases ord scope = some u ∧
        e.loads h d .shared sz .l1 (Env.oAddr a b) u act = some t) (fun e _ => { s := e.acquires ord scope t }))
    ∧ (¬ acq → Does (.ldsc h sz scope ord false d a b) h (fun e act => e.releases ord scope = some u ∧ Tab.get? u.spans e.g.uid = none ∧
        e.loadsLater h d .global sz (scopePol scope) scope (Env.gAddr a b) u act = some t) (fun _ _ => { s := t }))
    ∧ (¬ acq → Does (.ldsc h sz scope ord true d a b) h (fun e act => e.releases ord scope = some u ∧ Tab.get? u.spans e.g.uid = none ∧
        e.loadsLater h d .shared sz .l1 scope (Env.oAddr a b) u act = some t) (fun _ _ => { s := t }))

/-- R260, R265, R269, R284, R286, R288: the stores of every space, size and policy: what the lanes store is pending, in every space, until it is
performed (the order: log entry 23, DEDUCED; R469); a store that releases first has the group's accesses performed at its scope. -/
def Obligations.Stores : Prop :=
  ∀ (h : Hdr) (sz : Sz) (pol : Pol) (scope : Scope) (ord : Order) (a b c : Opnd) (t u : State),
    Does (.stg h sz pol a b c) h (fun e act => e.storesTo .global sz pol (polScope pol) (Env.gAddr a b) c e.st act = some t) (fun _ _ => { s := t })
    ∧ Does (.stsh h sz a b c) h (fun e act => e.storesTo .shared sz .l1 .team (Env.oAddr a b) c e.st act = some t) (fun _ _ => { s := t })
    ∧ Does (.stts h sz a b c) h (fun e act => e.storesTo .tile sz .l1 .team (Env.oAddr a b) c e.st act = some t) (fun _ _ => { s := t })
    ∧ Does (.stl h sz a b c) h (fun e act => e.storesTo .localMem sz .l1 .team (Env.oAddr a b) c e.st act = some t) (fun _ _ => { s := t })
    ∧ Does (.stsc h sz scope ord false a b c) h (fun e act => e.releases ord scope = some u ∧
        e.storesTo .global sz (scopePol scope) scope (Env.gAddr a b) c u act = some t) (fun e _ => { s := e.acquires ord scope t })
    ∧ Does (.stsc h sz scope ord true a b c) h (fun e act => e.releases ord scope = some u ∧
        e.storesTo .shared sz .l1 scope (Env.oAddr a b) c u act = some t) (fun e _ => { s := e.acquires ord scope t })

/-- R65, R270, R271, R272, R287, R288, R469, R471: the atomics, of global and of shared memory: each lane passes its checks as it issues, its
atomic is pending, and its result is owed. One that acquires is performed as it issues (log entry 92, DEDUCED), after every earlier access
of the group, and after those of other groups of its core to the same shared memory. -/
def Obligations.Atomics : Prop :=
  ∀ (h : Hdr) (m : AMod) (d a b c : Opnd) (off : BitVec 32) (t u v : State) (ps : List Piece) (r : Reg), (Opnd.regs d 1).head? = some r →
    let after := fun (sp : Space) (e : Env) =>
      let w := (t.owe e.g h (pieceLanes ps) d (b2w m.x64)).pend e sp .l1 m.scope (some (m, r, t.uids)) none none (pieceLanes ps) ps
      ({ s := e.acquiresAll m.ord m.scope w } : Out)
    Does (.atomg h m d a b c off) h (fun e act => e.releases m.ord m.scope = some u ∧ e.readies m.ord u = some v
        ∧ e.atomics m .global (Env.litAddr a off true e) b c v act = some (t, ps)) (fun e _ => after .global e)
    ∧ Does (.atomsh h m d a b c off) h (fun e act => e.releases m.ord m.scope = some u ∧ e.readies m.ord u = some v
        ∧ e.atomics m .shared (Env.litAddr a off false e) b c v act = some (t, ps)) (fun e _ => after .shared e)
    -- what comes before an access that is performed as it issues: of a core's shared memory or tile store, all that entered before it (R469)
    ∧ (∀ (s : State) (n k : Nat) (x y : PStore), Tab.get? s.stores n = some x → n < k → x.inTeam.isSome = true → x.core = y.core →
        x.inTeam.map (·.2) = y.inTeam.map (·.2) → PStore.halves n x k y = false → PStore.precedes n x k y = true)

/-- R273 to R275, R415: prefetches, cache control and fences; a fence that releases at POD scope or wider waits for the
requests that its lanes' items have sent, and reports the context's oldest error latch, which goes once the trap is delivered. That a fence
that waits looks at the latches again at every try is log entry 38 (DEDUCED); what is performed before it goes on is log entry 23 (DEDUCED). -/
def Obligations.CacheControl : Prop :=
  (∀ (h : Hdr) (l2 : Bool) (op : CctlOp) (a : Opnd) (scope : Scope) (kind : FenceKind) (t : State) (xs : List (Nat × Unit)),
    Does (.pref h l2 a) h (fun e act => (forLanes e.st act fun s l => s.prefLane e l2 a l) = { s := t }) (fun _ _ => { s := t })
    ∧ Does (.cctl h .ivall a) h always (fun e _ => { s := e.st.dropL1 e.t.core fun x => !x.isSeal })
    ∧ (op ≠ .ivall → Does (.cctl h op a) h (fun e act =>
        (∀ l, inMask act l = true → e.w64 l a < 2 ^ 49) ∧
        lanesMade (fun s l => match s.checkPage e.t.core e.gr.ctx e.gr.version (e.w64 l a) .load 0 with
          | (.pass p, s) => .done () (if op = .iv then s.dropL1 e.t.core fun x => x.line == p.loc / 128 else s)
          | (_, s) => .wait s) e.st (lanesOf act) = some (t, xs)) (fun _ _ => { s := t }))
    ∧ Does (.fence h scope kind) h (fun e act =>
        e.st.fenceFirst e.g.uid scope kind = (t, true)
        ∧ (scope.atLeastPod = true → kind ≠ .acq → e.st.owes e.gr.uid (e.itemRanges act) = false ∧ ∀ x ∈ e.st.latches, x.ctx ≠ e.gr.ctx)
        ∧ (scope.atLeastPod = true → kind = .acq → e.st.owesLoads e.gr.uid (e.itemRanges act) = false)) (fun e _ =>
      { s := e.acquires (fenceOrder kind) scope t }))
  ∧ ∀ (h : Hdr) (scope : Scope) (kind : FenceKind) (x : ErrLatch), scope.atLeastPod = true → kind ≠ .acq →
    Does (.fence h scope kind) h (fun e _ => (e.st.latches.find? fun x => x.ctx == e.gr.ctx) = some x) fun e act =>
      { s := e.st, raises := (lanesOf act).map fun l => { lane := l, code := .remoteError, addr := x.addr, absent := none, latch := some x } }

/-- R276 to R281, R334: sealing, unsealing and their queries, and PGQ. -/
def Obligations.Seals : Prop :=
  ∀ (h : Hdr) (d a b : Opnd) (n : BitVec 8) (hn : BitVec 4) (t u : State) (k : Seal),
    -- no walk of some addresses and of the ranges in the seal tables reads a half that the host holds (R321, R424)
    let ours := fun (e : Env) (vas : List Nat) => e.st.walksHeld e.gr.ctx (vas ++ e.st.sealPieces e.gr.ctx) = none
    Does (.seal h d a b) h (fun e act =>
        let base := e.w64 (lowLane act) a
        let lines := e.w32 (lowLane act) b
        base % 128 = 0 ∧ base < 2 ^ 49 ∧ 0 < lines ∧ lines ≤ 2 ^ 24
        ∧ (∃ p, e.st.checkRange e.t.core e.gr.ctx (pieces4k base lines) = (.pass p, t))
        ∧ t.walksHeld e.gr.ctx (pieces4k base lines ++ t.sealPieces e.gr.ctx) = none
        ∧ t.sealStatus e.gr.ctx e.gr.version base lines = 0 ∧ t.release e.g.uid .device = (u, true) ∧ Tab.get? u.spans e.g.uid = none) (fun e act =>
      let r := u.result e.g.uid h act .var (resOf d 2 (lowLane act) fun _ => 0) 0
      { s := { r with seals := r.seals ++ [{ ctx := e.gr.ctx, base := e.w64 (lowLane act) a, lines := e.w32 (lowLane act) b,
                                             sealing := some u.uids, unsealing := false, handles := [] }] } })
    ∧ (∀ x, x ≠ 0 → Does (.seal h d a b) h (fun e act =>
        let base := e.w64 (lowLane act) a
        let lines := e.w32 (lowLane act) b
        base % 128 = 0 ∧ base < 2 ^ 49 ∧ 0 < lines ∧ lines ≤ 2 ^ 24
        ∧ (∃ p, e.st.checkRange e.t.core e.gr.ctx (pieces4k base lines) = (.pass p, t))
        ∧ t.walksHeld e.gr.ctx (pieces4k base lines ++ t.sealPieces e.gr.ctx) = none
        ∧ t.sealStatus e.gr.ctx e.gr.version base lines = x) (fun e act =>
      { s := t.result e.g.uid h act .var (resOf d 2 (lowLane act) fun _ => x) 0 }))
    ∧ Does (.unseal h (.status d) a) h (fun e act => ours e [] ∧ (e.st.seals.find? fun k => k.ctx == e.gr.ctx && k.base == e.w64 (lowLane act) a) = none) (fun e act =>
      { s := e.st.result e.g.uid h act .var (resOf d 2 (lowLane act) fun _ => 1) 0 })
    ∧ Does (.unseal h (.status (.s n)) a) h (fun e act => ours e [] ∧ (e.st.seals.find? fun k => k.ctx == e.gr.ctx && k.base == e.w64 (lowLane act) a) = some k) (fun e act =>
      let s := e.st.dropEvery fun x => (e.st.sealLines k).contains x.line
      let s : State := { s with seals := s.seals.map fun x => if x == k then { k with unsealing := true } else x }
      { s := (s.owe e.g h act (.s n) 2).hold e.g.uid act (.unseal (e.w64 (lowLane act) a) n.toNat s.uids), stays := act })
    ∧ Does (.unseal h (.handle hn) a) h (fun e act => ours e [] ∧ e.createWaits hn.toNat = false
        ∧ (e.st.seals.find? fun k => k.ctx == e.gr.ctx && k.base == e.w64 (lowLane act) a) = some k) (fun e _ =>
      let r := e.st.newFuture e hn.toNat 4 0
      let s := r.2.dropEvery fun x => (r.2.sealLines k).contains x.line
      { s := { s with seals := s.seals.map fun x => if x == k then { k with unsealing := true, handles := k.handles ++ [(e.t.uid, r.1)] } else x } })
    ∧ (∀ f : Future, Does (.unseal h (.handle hn) a) h (fun e act => ours e [] ∧ e.createWaits hn.toNat = false
        ∧ (e.st.seals.find? fun k => k.ctx == e.gr.ctx && k.base == e.w64 (lowLane act) a) = none
        ∧ (e.st.newFuture e hn.toNat 4 0).2.futureOf e.t.uid (e.st.newFuture e hn.toNat 4 0).1 = some f) (fun e _ =>
      let r := e.st.newFuture e hn.toNat 4 0
      { s := r.2.setFuture e.t.uid r.1 { f with state := 3, code := 1 } }))
    ∧ Does (.sealq h d a) h (fun e act => e.w64 (lowLane act) a < 2 ^ 49 ∧ ours e [e.w64 (lowLane act) a]) (fun e act =>
      let va := e.w64 (lowLane act) a
      let die := match e.st.placeOf e.gr.ctx va with | some p => locDie p | none => 0
      let x := match e.st.sealAt e.gr.ctx va with
        | some k => 1 + 2 * b2n k.unsealing + 2 ^ 8 * min (e.st.sealCount k die) (2 ^ 24 - 1)
        | none => 0
      { s := e.st.result e.g.uid h act .var (resOf d 2 (lowLane act) fun _ => x + 2 ^ 32 * e.st.sealFree e.gr.ctx die) 0 })
    ∧ Does (.pgq h d a) h (fun e act => ∀ l, inMask act l = true → e.w64 l a < 2 ^ 49 ∧ e.st.pgqHeld e.t.core e.gr.ctx (e.w64 l a) = false) (fun e act =>
      { s := e.st.result e.g.uid h act .var (resOf d (if d.isS then 2 else 1) (lowLane act) fun l => e.st.pgq e.t.core e.gr.ctx (e.w64 l a)) 0 })

/-! ### Futures and copies -/

/-- R309, R312, R315, R316: COPY and COPY2D begin their operations. -/
def Obligations.CopiesBegin : Prop :=
  ∀ (h : Hdr) (m : CopyMod) (lens : Bool) (hd : BitVec 4) (a b c : Opnd) (lit : BitVec 32) (t : State),
    let one := fun (e : Env) (act : Nat) => CopyOp.make m (e.w64 (lowLane act) a) (e.w64 (lowLane act) b) (if lens then e.w64 (lowLane act) c else lit.toNat) 1 0 0
    let two := fun (e : Env) (act : Nat) => CopyOp.make m (e.w64 (lowLane act) a) (e.w64 (lowLane act) b) (lit.toNat % 2 ^ 20) (lit.toNat / 2 ^ 20 % 2 ^ 12 + 1)
      (sext 32 (e.w64 (lowLane act) c % 2 ^ 32)) (sext 32 (e.w64 (lowLane act) c / 2 ^ 32 % 2 ^ 32))
    Does (.copy h m lens hd a b c lit) h (fun e act => e.mayCopy (one e act) false hd.toNat t) (fun e act =>
      { s := t.beginCopy e (one e act) (if m.fix then m.ch.toNat else t.pickChannel e.t.core) hd.toNat })
    ∧ Does (.copy2d h m hd a b c lit) h (fun e act => e.mayCopy (two e act) true hd.toNat t) (fun e act =>
      { s := t.beginCopy e (two e act) (if m.fix then m.ch.toNat else t.pickChannel e.t.core) hd.toNat })

/-- R305, R308, R317 to R320, R455: what the future instructions read and change; an operation that FCANCEL cancels leaves the pending fault
that it waits at. That FWAIT gives
CODE 0 for a DONE future of KIND 4 as for any other is log entry 51 (DESIGN CHOICE); when its number is free again is the same entry. -/
def Obligations.Futures : Prop :=
  ∀ (h : Hdr) (d a : Opnd) (hn : BitVec 4) (f : Future),
    Does (.fwait h d hn) h (fun e _ => hLive (e.g.hreg hn.toNat) = false) (fun e act =>
      { s := e.st.result e.g.uid h act .var (resOf d 2 (lowLane act) fun _ => ((e.future hn.toNat).map Future.status).getD 0) 0 })
    ∧ Does (.fwait h d hn) h (fun e _ => hLive (e.g.hreg hn.toNat) = true) (fun e act =>
      { s := e.st.hold e.g.uid act (.fwait hn.toNat d.sNum), stays := act })
    ∧ Does (.ftest h d hn) h always (fun e act =>
      { s := e.st.result e.g.uid h act .var (resOf d 2 (lowLane act) fun _ => (e.g.hreg hn.toNat).toNat % 8) 0 })
    ∧ Does (.fwp h d hn) h always (fun e act =>
      { s := e.st.result e.g.uid h act .var (resOf d 2 (lowLane act) fun _ => ((e.future hn.toNat).map (·.wptr)).getD 0) 0 })
    ∧ Does (.fcancel h hn) h (fun e _ => e.future hn.toNat = some f ∧ f.state < 3 ∧ f.kind < 2) (fun e _ =>
      let fid := hFid (e.g.hreg hn.toNat)
      let mine := (e.st.cores.flatMap fun c => c.2.channels.flatMap (·.2) ++ c.2.fabric).filter fun o => o.team == e.t.uid && o.fid == fid
      { s := (mine.foldl (fun s o => s.unparkOp o.op) e.st).setFuture e.t.uid fid { f with cancel := true } })
    ∧ Does (.fcancel h hn) h (fun e _ => e.future hn.toNat = none ∨ ∃ f, e.future hn.toNat = some f ∧ (3 ≤ f.state ∨ 2 ≤ f.kind)) (fun e _ => { s := e.st })
    ∧ Does (.fmovOut h d hn) h (fun e _ => e.future hn.toNat = some f ∧ f.state < 4) (fun e act =>
      let fid := hFid (e.g.hreg hn.toNat)
      { s := ((e.st.setFuture e.t.uid fid { f with token := true }).putHandle e.g hn.toNat 0).result e.g.uid h act .var
          (resOf d 2 (lowLane act) fun _ => fid + 2 ^ 16 * (e.t.index % 2 ^ 16) + 2 ^ 63) 0 })
    ∧ Does (.fmovOut h d hn) h (fun e _ => e.future hn.toNat = none) (fun e act =>
      { s := e.st.result e.g.uid h act .var (resOf d 2 (lowLane act) fun _ => 0) 0 })
    ∧ Does (.fmovOut h d hn) h (fun e _ => e.future hn.toNat = some f ∧ 4 ≤ f.state) (fun e act => { s := e.st, raises := e.raiseAll act .futureDead })
    ∧ Does (.fmovIn h hn a) h (fun e act => hLive (e.g.hreg hn.toNat) = false ∧ e.w64 (lowLane act) a ≠ 0
        ∧ e.w64 (lowLane act) a = tokenOf (e.w64 (lowLane act) a % 2 ^ 10) e.t.index
        ∧ Tab.get? e.t.futures (e.w64 (lowLane act) a % 2 ^ 10) = some f ∧ f.token = true) (fun e act =>
      let fid := e.w64 (lowLane act) a % 2 ^ 10
      { s := (e.st.putHandle e.g hn.toNat (f.word fid)).setFuture e.t.uid fid { f with token := false } })
    ∧ Does (.fmovIn h hn a) h (fun e act => e.w64 (lowLane act) a = 0 ∧ hLive (e.g.hreg hn.toNat) = false) (fun e _ =>
      { s := e.st.putHandle e.g hn.toNat 0 })

/-! ### Tiles and attention -/

/-- R338 to R340, R343, R348: TSALLOC and TSFREE; AREL gives a tile register or accumulators back; the address maps. AREL with T = 1 releases the tile register
whatever F64 holds (log entry 50, DEDUCED), and a register that is not in use it leaves alone. The masks that ATTS left for a register go with
it (log entry 29, DEDUCED). -/
def Obligations.TileResources : Prop :=
  (∀ (h : Hdr) (d a : Opnd) (nb : Bool),
    let n := fun (e : Env) (act : Nat) => e.w32 (lowLane act) a
    let pc := fun (e : Env) (act : Nat) => (e.pc (lowLane act)).toNat
    Does (.tsalloc h d a nb) h (fun e act => e.t.freeing = [] ∧ (n e act = 0 ∨ 64 < e.t.granules + n e act)) (fun e act =>
      { s := e.st.result e.g.uid h act .var (resOf d 2 (lowLane act) fun _ => 2 ^ 57) 0 })
    ∧ Does (.tsalloc h d a true) h (fun e act => e.t.freeing = [] ∧ 0 < n e act ∧ e.t.granules + n e act ≤ 64 ∧ e.granulesFor act < n e act) (fun e act =>
      { s := e.st.result e.g.uid h act .var (resOf d 2 (lowLane act) fun _ => 2 ^ 56) 0 })
    ∧ Does (.tsalloc h d a nb) h (fun e act => e.t.freeing = [] ∧ 0 < n e act ∧ e.t.granules + n e act ≤ 64 ∧ n e act ≤ e.granulesFor act) (fun e act =>
      { s := ((e.st.updCore e.t.core fun c => { c with tsallocq := (e.st.tsWaits e.t.core).filter fun x => !(x.1 == e.g.uid && x.2.1 == pc e act) }).updTeam
            e.t.uid fun t => { t with granules := t.granules + n e act }).result e.g.uid h act .var (resOf d 2 (lowLane act) fun _ => 16384 * e.t.granules) 0 })
    ∧ Does (.tsalloc h d a false) h (fun e act => e.t.freeing = [] ∧ 0 < n e act ∧ e.t.granules + n e act ≤ 64 ∧ e.granulesFor act < n e act) (fun e act =>
      { s := (e.st.updCore e.t.core fun c => { c with tsallocq :=
          (if ((e.st.tsWaits e.t.core).any fun x => x.1 == e.g.uid && x.2.1 == pc e act) then e.st.tsWaits e.t.core
          else e.st.tsWaits e.t.core ++ [(e.g.uid, pc e act, n e act)]) }).hold e.g.uid act (.tsalloc d.sNum)
        stays := act })
    ∧ Does (.tsfree h a) h (fun e act => n e act = 0) (fun e _ => { s := e.st })
    ∧ Does (.tsfree h a) h (fun e act => 0 < n e act ∧ n e act ≤ e.t.granules) (fun e act =>
      { s := (e.st.updTeam e.t.uid fun t => { t with granules := t.granules - n e act, freeing := t.freeing ++ [(t.granules - n e act, n e act, e.g.uid, act)] }).updGroup e.g.uid fun g =>
          g.updLanes act fun _ x => { x with block := .tsfree }
        stays := act })
    ∧ Does (.tsfree h a) h (fun e act => e.t.granules < n e act) (fun e act =>
      { s := e.st, raises := (lanesOf act).map fun l => { lane := l, code := .pageProt, addr := 16384 * e.t.granules, absent := none } }))
  ∧ (∀ (h : Hdr) (n : BitVec 4) (f64 : Bool),
    let idle := fun (e : Env) => e.tileBound [n.toNat] [] = false ∧ e.t.tileBusy [] [(true, n.toNat)] = false
    Does (.arel h f64 true n) h (fun e _ => idle e ∧ (e.t.treg n.toNat).inuse = true) (fun e _ =>
      { s := e.st.updTeam e.t.uid fun t => { t with t := Tab.del t.t n.toNat, blockMask := t.blockMask.filter fun x => x.2.tp != n.toNat } })
    ∧ Does (.arel h f64 true n) h (fun e _ => idle e ∧ (e.t.treg n.toNat).inuse = false) (fun e _ => { s := e.st })
    ∧ Does (.arel h f64 false n) h (fun e _ => let rs := accRegs f64 n.toNat
        e.tileBound [] rs = false ∧ e.t.ops = []) (fun e _ =>
      let used := (accRegs f64 n.toNat).filter fun n => (e.t.acc n).inuse
      { s := (e.st.detach e.t.uid used).updTeam e.t.uid fun t =>
          { t with a := used.foldl (fun a n => Tab.del a n) t.a, blockMask := t.blockMask.filter fun x => !used.contains x.1 } }))
  ∧ (∀ (h : Hdr) (d a : Opnd) (am : BitVec 4) (w : BitVec 3) (bs : List Byte) (t : State),
    Does (.amset h am a w false) h always (fun e act =>
      let new := (e.t.map am.toNat).take (8 * w.toNat) ++ le 8 (e.w64 (lowLane act) a) ++ (e.t.map am.toNat).drop (8 * w.toNat + 8)
      { s := e.st.updTeam e.t.uid fun t => { t with am := Tab.set t.am am.toNat new } })
    ∧ Does (.amset h am a w true) h (fun e act => e.st.loadLane e (lowLane act) .global 64 .l1 (e.w64 (lowLane act) a) = .done bs t) (fun e _ =>
      { s := t.updTeam e.t.uid fun t => { t with am := Tab.set t.am am.toNat bs } })
    ∧ Does (.amget h d am w) h always (fun e act =>
      { s := e.st.result e.g.uid h act .var (resOf d 2 (lowLane act) fun _ => leNat (((e.t.map am.toNat).drop (8 * w.toNat)).take 8)) 0 }))

/-- R349: the gang mask names the group alone at launch; GANG sets it to a mask of 1 to 6 groups of the team, the group itself among
them; any other mask raises ILLEGAL_ENC. -/
def Obligations.GangMasks : Prop :=
  ∀ (h : Hdr) (a : Opnd) (uid team gid : Nat) (gr : Grid),
    let legal := fun (e : Env) (m : Nat) => 1 ≤ popN 32 m ∧ popN 32 m ≤ 6 ∧ bitOf m e.g.gid = true ∧ m < 2 ^ e.gr.kernel.ngroups
    (Group.blank uid team gr gid).gang = 2 ^ gid
    ∧ Does (.gang h a) h (fun e act => legal e (e.w32 (lowLane act) a)) (fun e act =>
      { s := e.st.updGroup e.g.uid fun g => { g with gang := e.w32 (lowLane act) a } })
    ∧ Does (.gang h a) h (fun e act => ¬ legal e (e.w32 (lowLane act) a)) (fun e act => { s := e.st, raises := e.raiseAll act .illegalEnc })

/-- R345 to R348, R351 to R353, R357: the instructions that compute on accumulators and tiles, in a group that is its own gang. The flags that MMA and ASCA raise are log
entry 28 (DEDUCED). -/
def Obligations.TileArithmetic : Prop :=
  ∀ (h : Hdr) (an ap : BitVec 4) (f64 : Bool) (m : MmaMod) (ta tb : BitVec 3) (row : BitVec 5) (fm : FragMod) (d a : Opnd) (f : Env),
    Does (.azero h an f64) h (fun e act => let rs := accRegs f64 an.toNat
        e.tileBound [] rs = false ∧ e.Tiles act [] (aRegs rs) rs rs f) (fun _ _ =>
      { s := f.st.putAcc f.t.uid false (accRegs f64 an.toNat) [] })
    ∧ Does (.mma h m an ta tb) h (fun e act =>
        let rs := accRegs (m.ty == .f64) an.toNat
        let fresh := m.new || m.nb
        e.tileBound [ta.toNat, tb.toNat] rs = false ∧ e.g.gang = 2 ^ e.g.gid
        ∧ (m.ty.narrow = true → fmtFits (m.ty == .n4) (e.g.fmtreg m.fmta.toNat) = true ∧ fmtFits (m.ty == .n4) (e.g.fmtreg m.fmtb.toNat) = true)
        ∧ e.Tiles act ([(true, ta.toNat), (true, tb.toNat)] ++ if fresh then [] else aRegs rs) (aRegs rs) (if fresh then rs else []) rs f) (fun e act =>
      let rs := accRegs (m.ty == .f64) an.toNat
      let old := if m.new || m.nb then List.replicate (1024 * rs.length) 0 else f.t.accWords rs
      let r := mmaWords m (fmtOf (e.g.fmtreg m.fmta.toNat)) (fmtOf (e.g.fmtreg m.fmtb.toNat)) (f.t.tRows ta.toNat) (f.t.tRows tb.toNat) old
      { s := (f.st.putAcc f.t.uid true rs r.1).tileFlags [(e.g.uid, act)] r.2 })
    ∧ Does (.asca h an ap ta row) h (fun e act => e.tileBound [ta.toNat] [an.toNat, ap.toNat] = false
        ∧ e.Tiles act [(true, ta.toNat), (false, ap.toNat), (false, an.toNat)] [(false, an.toNat)] [] [an.toNat] f) (fun _ act =>
      let sc := elemsOf 8 ((f.t.tRows ta.toNat).getD row.toNat [])
      let xs := ((sc.take 32).zip ((chunks 32 32 (f.t.accWords [an.toNat])).zip (chunks 32 32 (f.t.accWords [ap.toNat])))).flatMap
        fun (r : Nat × List Word × List Word) => ((sc.drop 32).zip (r.2.1.zip r.2.2)).map fun (x : Nat × Word × Word) => ascaElem r.1 x.1 x.2.1 x.2.2
      { s := (f.st.putAcc f.t.uid true [an.toNat] (xs.map (·.1))).tileFlags [(f.g.uid, act)] (xs.foldl (fun fl x => orN fl x.2) 0) })
    ∧ Does (.ard h fm d an) h (fun e act => let rs := accRegs fm.f64 an.toNat
        e.tileBound [] rs = false ∧ e.Tiles act (aRegs rs) [] [] [] f) (fun _ act =>
      { s := f.st.result f.g.uid h act .var (resOf d fm.count (lowLane act) fun l =>
          leNat ((fm.places l).flatMap fun i => le 4 ((f.t.accWords (accRegs fm.f64 an.toNat)).getD i 0).toNat)) 0 })
    ∧ Does (.awr h fm an a) h (fun e act => let rs := accRegs fm.f64 an.toNat
        e.tileBound [] rs = false ∧ e.Tiles act [] (aRegs rs) [] rs f) (fun _ act =>
      let rs := accRegs fm.f64 an.toNat
      let new := (lanesOf act).flatMap fun l => (fm.places l).zip ((Opnd.regs a fm.count).map fun r => f.vec r l)
      { s := f.st.putAcc f.t.uid true rs (new.foldl (fun w x => w.set x.1 x.2) (f.t.accWords rs)) })

/-- R354, R355: ALD, AST and TLD start; a synchronous one holds its lanes. -/
def Obligations.MovesBegin : Prop :=
  ∀ (h : Hdr) (hd : Option (BitVec 4)) (f64 : Bool) (an am : BitVec 4) (rows1 : BitVec 5) (b c : Opnd) (m md : AMap) (f : Env) (t : State),
    let cv := fun (e : Env) (act : Nat) => if c.isS then e.w64 (lowLane act) c else 0
    let after := fun (s : State) (f : Env) (act : Nat) => ({ s := if hd.isSome then s else s.hold f.g.uid act (.engine t.uids)
                                                             stays := if hd.isSome then 0 else act } : Out)
    let rs := accRegs f64 an.toNat
    Does (.ald h hd f64 an am b c) h (fun e act => e.tileBound [] rs = false ∧ amapOf (e.t.map am.toNat) = some m ∧ m.esz = (if f64 then 4 else 3)
        ∧ e.MayMove act (.ald h hd f64 an am b c) hd m none (e.w64 (lowLane act) b) (cv e act) 32 [] (aRegs rs) rs f t) (fun e act =>
      after (t.beginMove f act (.ald h hd f64 an am b c) hd m none am.toNat [] (e.w64 (lowLane act) b) (cv e act) 32 [] (aRegs rs)) f act)
    ∧ Does (.ast h hd f64 an am b c) h (fun e act => e.tileBound [] rs = false ∧ amapOf (e.t.map am.toNat) = some m ∧ m.esz = (if f64 then 4 else 3)
        ∧ e.MayMove act (.ast h hd f64 an am b c) hd m none (e.w64 (lowLane act) b) (cv e act) 32 (aRegs rs) [] [] f t) (fun e act =>
      after (t.beginMove f act (.ast h hd f64 an am b c) hd m none am.toNat [] (e.w64 (lowLane act) b) (cv e act) 32 (aRegs rs) []) f act)
    ∧ Does (.tld h hd false an am rows1 b c) h (fun e act => e.tileBound [an.toNat] [] = false ∧ amapOf (e.t.map am.toNat) = some m
        ∧ e.MayMove act (.tld h hd false an am rows1 b c) hd m none (e.w64 (lowLane act) b) (cv e act) (rows1.toNat + 1) [] [(true, an.toNat)] [] f t) (fun e act =>
      after (t.beginMove f act (.tld h hd false an am rows1 b c) hd m none am.toNat [] (e.w64 (lowLane act) b) (cv e act) (rows1.toNat + 1) [] [(true, an.toNat)]) f act)
    ∧ Does (.tld h hd true an am rows1 b c) h (fun e act => amapOf (e.t.map am.toNat) = some m ∧ amapOf (e.t.map an.toNat) = some md
        ∧ md.tile = true ∧ md.esz = m.esz
        ∧ e.MayMove act (.tld h hd true an am rows1 b c) hd m (some md) (e.w64 (lowLane act) b) (cv e act) (rows1.toNat + 1) [] [] [] f t) (fun e act =>
      after (t.beginMove f act (.tld h hd true an am rows1 b c) hd m (some md) am.toNat (e.t.map an.toNat) (e.w64 (lowLane act) b) (cv e act) (rows1.toNat + 1) [] []) f act)

/-- R350: the rendezvous of a gang: a group alone performs at once; an arrival waits for the others; the last one performs for all, or waits
with them (log entry 14, DEDUCED); what differs traps in all. -/
def Obligations.GangRendezvous : Prop :=
  ∀ (i : Instr) (run : State → Env → List (Nat × Nat) → GangEnd) (s : State) (e : Env) (act : Nat),
    let me : Latch := { group := e.g.uid, lanes := act, mask := e.g.gang, instr := i, pc := e.pc (lowLane act) }
    let t := { e.t with latches := e.t.latches ++ [me] }
    (e.g.gang = 2 ^ e.g.gid → ∀ u : State,
      (run s e [(e.g.uid, act)] = .done u → gangOp i run s e act = { s := u })
      ∧ (run s e [(e.g.uid, act)] = .held u → gangOp i run s e act = { s := u, stays := act })
      ∧ (run s e [(e.g.uid, act)] = .waits u → gangOp i run s e act = { s := u, waits := act })
      ∧ ∀ code addr, run s e [(e.g.uid, act)] = .trap u code addr → gangOp i run s e act = { s := u, raises := e.raiseAt act code addr })
    ∧ (e.g.gang ≠ 2 ^ e.g.gid → (∀ x ∈ e.t.latches, x.group ≠ e.g.uid) → (t.latches.findSome? fun x => s.gangSet t x.mask) = none →
      gangOp i run s e act = { s := (s.setTeam t).hold e.g.uid act .gang, stays := act })
    ∧ (∀ (xs : List Latch) (f : Env) (u : State), e.g.gang ≠ 2 ^ e.g.gid → (∀ x ∈ e.t.latches, x.group ≠ e.g.uid) →
      (t.latches.findSome? fun x => s.gangSet t x.mask) = some xs → (∀ x ∈ xs, s.gangAgree me x = true) →
      s.env? (s.gangLead e.t.core me xs) = some f →
      run (s.dropLatches e.t.uid (xs.filter fun x => x != me)) f (xs.map fun x => (x.group, x.lanes)) = .done u →
      gangOp i run s e act = { s := (xs.filter fun x => x != me).foldl (fun s x => s.gangGo x) u })
    -- one that waits keeps its members' arrivals, and its place in the order of issue (R346)
    ∧ (∀ (xs : List Latch) (f : Env) (u : State), e.g.gang ≠ 2 ^ e.g.gid → (∀ x ∈ e.t.latches, x.group ≠ e.g.uid) →
      (t.latches.findSome? fun x => s.gangSet t x.mask) = some xs → (∀ x ∈ xs, s.gangAgree me x = true) →
      s.env? (s.gangLead e.t.core me xs) = some f →
      run (s.dropLatches e.t.uid (xs.filter fun x => x != me)) f (xs.map fun x => (x.group, x.lanes)) = .waits u →
      gangOp i run s e act = { s := u.updTeam e.t.uid fun t => { t with latches := e.t.latches }, waits := act })
    ∧ ∀ xs : List Latch, e.g.gang ≠ 2 ^ e.g.gid → (∀ x ∈ e.t.latches, x.group ≠ e.g.uid) →
      (t.latches.findSome? fun x => s.gangSet t x.mask) = some xs → (∃ x ∈ xs, s.gangAgree me x = false) →
      gangOp i run s e act = { s := (xs.filter fun x => x != me).foldl (fun s x => s.gangTrap x .gangMismatch none)
                                 (s.dropLatches e.t.uid (xs.filter fun x => x != me))
                               raises := e.raiseAll act .gangMismatch }

/-- R363 to R367: ATTS and ATTV start, in a group that is its own gang; a synchronous one holds its lanes. Which ranges they lock and wait for
is log entry 64 (DEDUCED). -/
def Obligations.AttentionBegins : Prop :=
  ∀ (h : Hdr) (m : AttMod) (causal : Bool) (aset : BitVec 4) (tq tp : BitVec 3) (src : KvSrc) (c : Opnd) (window : BitVec 20) (bs : List Byte) (t : State) (f : Env),
    let n := m.nh.toNat + 1
    let rs := setRegs aset.toNat n
    let after := fun (s : State) (e : Env) (act : Nat) => ({ s := if m.hd.isSome then s else s.hold e.g.uid act (.engine f.st.uids)
                                                             stays := if m.hd.isSome then 0 else act } : Out)
    Does (.atts h m causal aset tq src c tp window) h (fun e act =>
        e.tileBound ((List.range n).map (tq.toNat + ·) ++ [tp.toNat]) rs = false
        ∧ e.MayAttend act m src c (tRegs tq.toNat n ++ [(false, aset.toNat)]) [(false, aset.toNat), (true, tp.toNat)] [aset.toNat] bs t f) (fun e act =>
      after (beginAtt f act (.atts h m causal aset tq src c tp window) m src e (e.w64 (lowLane act) c) bs
        [(false, aset.toNat), (true, tp.toNat)] rs) e act)
    ∧ Does (.attv h m aset tp src c) h (fun e act => e.tileBound [tp.toNat] rs = false
        ∧ e.MayAttend act m src c ((true, tp.toNat) :: aRegs rs) (aRegs rs) rs bs t f
        ∧ (f.t.accWords [aset.toNat]).getD 16 0 ≠ 0 ∧ ((f.t.accWords [aset.toNat]).getD 17 0).toNat = e.w64 (lowLane act) c / 2 ^ 32
        ∧ ((f.t.accWords [aset.toNat]).getD 18 0).toNat = m.nk.toNat) (fun e act =>
      after (beginAtt f act (.attv h m aset tp src c) m src e (e.w64 (lowLane act) c) bs (aRegs rs) []) e act)

/-- R368 to R370, R373: merging, finishing and resetting attention sets, and the lookup of sequence tables. The flags of ATTMRG and ATTFIN, and the sign
of a zero sum, are log entry 28 (DEDUCED); KVTR with an S destination and a vector position is log entry 26 (DEDUCED). -/
def Obligations.AttentionSets : Prop :=
  ∀ (h : Hdr) (nh : BitVec 2) (ad asrc : BitVec 4) (vhalf : Bool) (d a b : Opnd) (f : Env) (t u : State) (vs : List (Nat × Nat)),
    let n := nh.toNat + 1
    let rd := setRegs ad.toNat n
    let rs := setRegs asrc.toNat n
    Does (.attmrg h nh ad asrc b) h (fun e act =>
        let x := e.w64 (lowLane act) b
        let sr := x % 2 ^ 5
        let dr := x / 2 ^ 8 % 2 ^ 5
        let nr := x / 2 ^ 16 % 2 ^ 6
        e.tileBound [] (rd ++ rs) = false ∧ e.Tiles act (aRegs (rd ++ rs)) (aRegs rd) [] rd f
        ∧ 0 < nr ∧ sr + nr ≤ 32 ∧ dr + nr ≤ 32 ∧ x = sr + 2 ^ 8 * dr + 2 ^ 16 * nr
        ∧ (f.t.accWords rd).getD 16 0 ≠ 1 ∧ (f.t.accWords rs).getD 16 0 ≠ 1) (fun e act =>
      let x := e.w64 (lowLane act) b
      let rows := (List.range (x / 2 ^ 16 % 2 ^ 6)).map fun k =>
        mergeRowWords n (f.t.accWords rd) (f.t.accWords rs) (x % 2 ^ 5 + k) (x / 2 ^ 8 % 2 ^ 5 + k)
      { s := (f.st.putAcc f.t.uid true rd (setWords (f.t.accWords rd) (rows.flatMap (·.1)))).tileFlags [(f.g.uid, act)] (rows.foldl (fun f r => orN f r.2) 0) })
    ∧ Does (.attfin h nh ad) h (fun e act => e.tileBound [] rd = false ∧ e.Tiles act (aRegs rd) (aRegs (rd.drop 1)) [] (rd.drop 1) f
        ∧ (f.t.accWords rd).getD 16 0 ≠ 1) (fun _ act =>
      let ws := f.t.accWords rd
      let ls := (List.range 32).map fun i => (Fp.add false (val32 (ws.getD (32 * i + 2) 0)) (val32 (ws.getD (32 * i + 3) 0))).1
      let ys := ((chunks 32 (32 * n) (ws.drop 1024)).zip ((List.range n).flatMap fun _ => ls)).flatMap fun x => x.1.map fun w => attDiv (val32 w) x.2
      { s := (f.st.putAcc f.t.uid true (rd.drop 1) (ys.map fun y => BitVec.ofNat 32 y.1)).tileFlags [(f.g.uid, act)] (ys.foldl (fun f y => orN f y.2) 0) })
    ∧ Does (.arset h nh ad) h (fun e act => e.tileBound [] rd = false ∧ e.Tiles act [] (aRegs rd) rd rd f) (fun _ _ =>
      { s := (f.st.putAcc f.t.uid true [ad.toNat] ((List.range 32).flatMap fun _ => 0xFF800000 :: List.replicate 31 (0 : Word))).putAcc
          f.t.uid false (rd.drop 1) [] })
    ∧ Does (.kvtr h vhalf d a b) h (fun e act => e.st.drain e.g.uid = (t, true) ∧
        lanesMade (fun s l => match s.kvLookup e.t.core e.gr.ctx e.t.uid e.gr.version 0 (e.w64 l a) (e.w32 l b) vhalf with
          | ((x, .ok), s) => .done x s
          | (_, s) => .wait s) t (lanesOf act) = some (u, vs)) (fun e act =>
      { s := u.result e.g.uid h act .var (resOf d 2 (lowLane act) (ofLane vs 0)) 0 })

/-! ### Narrow formats -/

/-- R191, R234 to R238: conversions to and from narrow formats, format registers and block quantisation. The values of a format
with E = 0 are log entry 27 (DEDUCED), its ties with M = 0 log entry 78 (DESIGN CHOICE), and the code that an immediate of CVTN.FROM gives is
log entry 63 (DESIGN CHOICE). -/
def Obligations.NarrowFormats : Prop :=
  ∀ (h : Hdr) (rnd : Rnd) (std : Std) (n4 : Bool) (pos : BitVec 3) (d a : Opnd) (k : BitVec 3),
    let w := if n4 then 4 else 8
    let fits := fun (e : Env) (act : Nat) => ∀ l, inMask act l = true → fmtFits n4 (e.fmt k.toNat l) = true
    let misfits := fun (e : Env) (act : Nat) => ∀ l, inMask act l = true → fmtFits n4 (e.fmt k.toNat l) = false
    (∀ x, (fmtFits true x = true ↔ x % 16 = 4) ∧ (fmtFits false x = true ↔ 5 ≤ x % 16 ∧ x % 16 ≤ 8)) ∧
    Does (.cvtn h rnd true std n4 pos d a k) h fits (fun e act =>
      ({ lat := .var, dst := some (d, 1), f := fun e _ l =>
          let nf := fmtOf (e.fmt k.toNat l)
          let r := convElems (Std.n std) (Std.fmt std).w fun i =>
            (Std.fmt std).convert (e.mode rnd false) 0 e.ftz (nf.value (fld (e.w32 l a) (w * (pos.toNat + i)) nf.w))
          { val := r.1, flags := r.2 } } : LaneOp).out h e.st e act)
    ∧ Does (.cvtn h rnd false std n4 pos d a k) h fits (fun e act =>
      ({ lat := .var, dst := some (d, 1), f := fun e _ l =>
          let el := fun i => (fmtOf (e.fmt k.toNat l)).convert (e.mode rnd true) (e.lfsr l (i + 1)) false (e.numIn (.f (Std.fmt std)) false l a i)
          { val := (List.range (Std.n std)).foldl (fun x i =>
              x - 2 ^ (w * (pos.toNat + i)) * fld x (w * (pos.toNat + i)) w + 2 ^ (w * (pos.toNat + i)) * (el i).1) (e.w32 l d)
            flags := (List.range (Std.n std)).foldl (fun x i => orN x (el i).2) 0
            lfsr := if e.mode rnd true == .rs then some (e.lfsr l (Std.n std)) else none } } : LaneOp).out h e.st e act)
    ∧ Does (.qnt h rnd n4 d a k) h fits (fun e act =>
      let block := fun b => (lanesOf act).filter fun l => l / 32 == b
      let q := fun b => qntBlock (fmtOf (e.fmt k.toNat (lowLane act))) (e.mode rnd true)
        ((block b).map fun l => (fp32.value (e.fin fp32 false false l a 0), e.lfsr l 1))
      let s := e.st.result e.g.uid h act .var
        (resOf d 1 (lowLane act) (ofLane ((block 0).zip (q 0).1 ++ (block 1).zip (q 1).1) 0)) (orN (q 0).2 (q 1).2)
      { s := if e.mode rnd true == .rs then
          s.updGroup e.g.uid fun g => g.updLanes act fun l x => { x with lfsr := BitVec.ofNat 32 (e.lfsr l 1) }
        else s })
    ∧ (∀ from_, Does (.cvtn h rnd from_ std n4 pos d a k) h misfits (fun e act =>
      { s := e.st, raises := e.raiseAll act .illegalEnc }))
    ∧ Does (.qnt h rnd n4 d a k) h misfits (fun e act =>
      { s := e.st, raises := e.raiseAll act .illegalEnc })
    ∧ Does (.fmtset h k a) h (fun e act => fmtValid (e.w64 (lowLane act) a) = true) (fun e act =>
      { s := e.st.result e.g.uid h act (.fixed 4) [(.fmt k.toNat, fun _ => BitVec.ofNat 32 (e.w64 (lowLane act) a))] 0 })
    ∧ Does (.fmtset h k a) h (fun e act => fmtValid (e.w64 (lowLane act) a) = false) (fun e act =>
      { s := e.st, raises := e.raiseAll act .illegalEnc })

/-! ### Launching and speculation -/

/-- R127, R128: LAUNCH and ENQ take the record, answer its tag or position, or why not (status 1 to 4); QSTAT reads a queue or a child. The record is read in the version
of the caller's grid (log entry 32, DEDUCED). -/
def Obligations.Launches : Prop :=
  ∀ (h : Hdr) (d a b : Opnd) (nb child : Bool) (t u : State) (r : Record) (k : Queue) (fl : Nat),
    let takes := fun (e : Env) (va : Nat) (x : Taken) => va % 64 = 0 ∧ e.st.release e.g.uid .device = (t, true)
      ∧ t.takeRecord e.gr.home e.gr.ctx e.gr.version va = (x, u)
    let tells := fun (s : State) (e : Env) (act x : Nat) => ({ s := s.result e.g.uid h act .var (resOf d 2 (lowLane act) fun _ => x) 0 } : Out)
    let opened := fun (e : Env) (q : Nat) => Tab.get? u.queues q = some k ∧ k.closed = false ∧ k.desc.ctx.toNat = e.gr.ctx
    let rec_ := fun (e : Env) (act : Nat) => e.w64 (lowLane act) a
    let qn := fun (e : Env) (act : Nat) => e.w64 (lowLane act) a % 2 ^ 12
    Does (.launch h d a nb) h (fun e act => takes e (rec_ e act) (.ok r) ∧ opened e e.gr.queue ∧ e.gr.level < 4 ∧ u.canBuffer e.gr.queue = true) (fun e act =>
      tells (u.startChild e.gr r e.gr.version).2 e act (u.startChild e.gr r e.gr.version).1)
    ∧ Does (.launch h d a nb) h (fun e act => takes e (rec_ e act) (.bad fl)) (fun e act => tells u e act (2 ^ 56 * 2))
    ∧ Does (.launch h d a nb) h (fun e act => takes e (rec_ e act) (.ok r) ∧ Tab.get? u.queues e.gr.queue = some k ∧ k.closed = true) (fun e act =>
      tells u e act (2 ^ 56 * 3))
    ∧ Does (.launch h d a nb) h (fun e act => takes e (rec_ e act) (.ok r) ∧ opened e e.gr.queue ∧ 4 ≤ e.gr.level) (fun e act => tells u e act (2 ^ 56 * 4))
    ∧ Does (.launch h d a true) h (fun e act => takes e (rec_ e act) (.ok r) ∧ opened e e.gr.queue ∧ e.gr.level < 4 ∧ u.canBuffer e.gr.queue = false)
      (fun e act => tells u e act (2 ^ 56))
    ∧ Does (.launch h d a nb) h (fun e act => rec_ e act % 64 ≠ 0) (fun e act => { s := e.st, raises := e.raiseAt act .misaligned (some (rec_ e act)) })
    ∧ Does (.enq h d a b nb) h (fun e act => takes e (e.w64 (lowLane act) b) (.ok r) ∧ opened e (qn e act) ∧ k.desc.feed = true
        ∧ u.canBuffer (qn e act) = true) (fun e act =>
      let new := { r with pos := k.wptr, version := e.gr.version }
      tells ((u.updQueue (qn e act) fun y =>
        { y with records := Tab.set y.records k.wptr new, wptr := k.wptr + 1, rptr := k.wptr + 1 }).settle (qn e act)) e act k.wptr)
    ∧ Does (.enq h d a b nb) h (fun e act => takes e (e.w64 (lowLane act) b) (.ok r) ∧ Tab.get? u.queues (qn e act) = some k
        ∧ (k.closed = true ∨ k.desc.ctx.toNat ≠ e.gr.ctx ∨ k.desc.feed = false)) (fun e act => tells u e act (2 ^ 56 * 3))
    ∧ Does (.enq h d a b nb) h (fun e act => takes e (e.w64 (lowLane act) b) (.ok r) ∧ Tab.get? u.queues (qn e act) = none) (fun e act => tells u e act (2 ^ 56 * 3))
    ∧ Does (.enq h d a b nb) h (fun e act => takes e (e.w64 (lowLane act) b) (.bad fl)) (fun e act => tells u e act (2 ^ 56 * 2))
    ∧ Does (.enq h d a b true) h (fun e act => takes e (e.w64 (lowLane act) b) (.ok r) ∧ opened e (qn e act) ∧ k.desc.feed = true
        ∧ u.canBuffer (qn e act) = false) (fun e act => tells u e act (2 ^ 56))
    ∧ Does (.enq h d a b nb) h (fun e act => e.w64 (lowLane act) b % 64 ≠ 0) (fun e act =>
      { s := e.st, raises := e.raiseAt act .misaligned (some (e.w64 (lowLane act) b)) })
    ∧ Does (.qstat h d a child) h always (fun e act =>
      tells (e.st.acquire e.t.core .device) e act (if child then (e.st.acquire e.t.core .device).childWord e.gr.ctx (e.w64 (lowLane act) a % 2 ^ 40)
        else (e.st.acquire e.t.core .device).queueWord e.gr.ctx (e.w64 (lowLane act) a % 2 ^ 12)))

/-- R381, R384: SPLNCH checks its two addresses and the place of the prediction, takes the record, and opens a version that starts with
its prediction written; why not is its status (1 to 6). Where there is no room for the prediction it waits at issue, its version made,
and goes on with that version, and with the address and the prediction it took, as it is tried again, also where other lanes have come to it
meanwhile: this last is the model's choice (log entry 69, DEDUCED). A version that was squashed
while its SPLNCH waited starts no grid, and its child completes as a squashed one does (R390). That the record is read in the version of the
caller's grid is log entry 32 (DEDUCED). -/
def Obligations.SpeculativeLaunch : Prop :=
  ∀ (h : Hdr) (d a b c : Opnd) (slot : BitVec 4) (ps nb : Bool) (lit : BitVec 32) (t u v w : State) (pl : Tr) (r : Record) (born : Ver)
      (n tag fl : Nat),
    let rec_ := fun (e : Env) (act : Nat) => e.w64 (lowLane act) a
    let va := fun (e : Env) (act : Nat) => e.w64 (lowLane act) c
    let pred := fun (e : Env) (act : Nat) => if ps then e.w64 (lowLane act) b else lit.toNat
    let who := fun (e : Env) (act : Nat) => e.writer (lowLane act)
    let tells := fun (s : State) (e : Env) (act x : Nat) => ({ s := s.result e.g.uid h act .var (resOf d 2 (lowLane act) fun _ => x) 0 } : Out)
    let waiting := fun (e : Env) (act : Nat) => e.st.splaunching e.g.uid act (e.pc (lowLane act)).toNat
    let passes := fun (e : Env) (act : Nat) => rec_ e act % 64 = 0 ∧ va e act % 8 = 0 ∧ va e act < 2 ^ 49 ∧ e.st.predCheck e (va e act) = (.pass pl, t)
    let again := fun (e : Env) (act : Nat) => waiting e act = some (n, born, r) ∧ e.st.predCheck e born.launchVa = (.pass pl, t)
    let takes := fun (e : Env) (act : Nat) (x : Taken) => waiting e act = none ∧ passes e act ∧ t.release e.g.uid .device = (u, true)
      ∧ u.takeRecord e.gr.home e.gr.ctx e.gr.version (rec_ e act) = (x, v)
    let y := v.sweepVersions
    let parent := fun (e : Env) => y.eff e.gr.version
    let leaving := fun (e : Env) => ∃ x, Tab.get? y.versions (parent e) = some x ∧ (x.state = 3 ∨ x.state = 4)
    let closed := fun (e : Env) => ∀ k, Tab.get? y.queues e.gr.queue = some k → k.closed = true
    let full := fun (e : Env) => leaving e ∨ y.verRoom e.gr.ctx (parent e) = false ∨ y.freeNum = none
    let twin := fun (e : Env) (act : Nat) => ∃ x ∈ y.versions, x.2.ctx = e.gr.ctx ∧ y.eff x.2.parent = parent e ∧ x.2.slot = slot.toNat ∧ x.2.opened = true
      ∧ x.2.state = 0 ∧ x.2.pred = pred e act
    let made := fun (e : Env) (act : Nat) => ({ y with versions := (Tab.set y.versions n
      ({ ctx := e.gr.ctx, state := 0, parent := parent e, slot := slot.toNat, opened := true, pred := pred e act, target := 0, launchVa := va e act } : Ver)) } : State)
    let opens := fun (e : Env) (act : Nat) => takes e act (.ok r) ∧ e.gr.level < 4 ∧ ¬ closed e ∧ ¬ full e ∧ ¬ twin e act ∧ y.canBuffer e.gr.queue = true
      ∧ y.freeNum = some n
    Does (.splnch h d a b c slot ps nb lit) h (fun e act => opens e act ∧ (made e act).splaunch e (who e act) n (pred e act) pl r = (some tag, w)) (fun e act =>
      tells (w.unborn e.g.uid act) e act (2 ^ 40 * n + tag % 2 ^ 40))
    ∧ Does (.splnch h d a b c slot ps nb lit) h (fun e act => opens e act ∧ (made e act).splaunch e (who e act) n (pred e act) pl r = (none, w)) (fun _ act =>
      { s := w, waits := act })
    ∧ Does (.splnch h d a b c slot ps nb lit) h (fun e act => again e act
        ∧ t.splaunch e (who e act) n born.pred pl r = (some tag, w)) (fun e act => tells (w.unborn e.g.uid act) e act (2 ^ 40 * n + tag % 2 ^ 40))
    ∧ Does (.splnch h d a b c slot ps nb lit) h (fun e act => again e act
        ∧ t.splaunch e (who e act) n born.pred pl r = (none, w)) (fun _ act => { s := w, waits := act })
    ∧ (∀ (e : Env) (me : Writer) (x : Ver) (p : Nat), Tab.get? u.versions n = some x → x.state = 3 ∨ x.state = 4 →
        u.splaunch e me n p pl r = (some u.uids, { u.setLaunch n none with
          uids := u.uids + 1
          children := Tab.set u.children u.uids
            { ctx := e.gr.ctx, parent := e.gr.uid, queue := e.gr.queue, pos := e.gr.pos, home := e.gr.home, grid := none, marker := none
              done := if u.squashes.any fun q => q.vers.contains n then none else some 0xF4, ver := n } }))
    ∧ Does (.splnch h d a b c slot ps nb lit) h (fun e act => takes e act (.bad fl)) (fun e act => tells v e act (2 ^ 56 * 2))
    ∧ Does (.splnch h d a b c slot ps nb lit) h (fun e act => takes e act (.ok r) ∧ 4 ≤ e.gr.level) (fun e act => tells y e act (2 ^ 56 * 4))
    ∧ Does (.splnch h d a b c slot ps nb lit) h (fun e act => takes e act (.ok r) ∧ e.gr.level < 4 ∧ closed e) (fun e act => tells y e act (2 ^ 56 * 3))
    ∧ Does (.splnch h d a b c slot ps nb lit) h (fun e act => takes e act (.ok r) ∧ e.gr.level < 4 ∧ ¬ closed e ∧ full e) (fun e act => tells y e act (2 ^ 56 * 5))
    ∧ Does (.splnch h d a b c slot ps nb lit) h (fun e act => takes e act (.ok r) ∧ e.gr.level < 4 ∧ ¬ closed e ∧ ¬ full e ∧ twin e act) (fun e act =>
      tells y e act (2 ^ 56 * 6))
    ∧ Does (.splnch h d a b c slot ps true lit) h (fun e act => takes e act (.ok r) ∧ e.gr.level < 4 ∧ ¬ closed e ∧ ¬ full e ∧ ¬ twin e act
        ∧ y.canBuffer e.gr.queue = false) (fun e act => tells y e act (2 ^ 56))
    ∧ Does (.splnch h d a b c slot ps nb lit) h (fun e act => waiting e act = none ∧ rec_ e act % 64 ≠ 0) (fun e act =>
      { s := e.st, raises := e.raiseAt act .misaligned (some (rec_ e act)) })
    ∧ Does (.splnch h d a b c slot ps nb lit) h (fun e act => waiting e act = none ∧ rec_ e act % 64 = 0 ∧ (va e act % 8 ≠ 0 ∨ 2 ^ 49 ≤ va e act)) (fun e act =>
      { s := e.st, raises := e.raiseAt act .misaligned (some (va e act)) })

/-- R386 to R389, R395, R397, R398: RESOLVE commits the child whose prediction is right and squashes the others; VQRY reads a
version; VABORT squashes one. A commit waits for the halves that the host holds of what it joins (R424), and while what it would change is
sealed (R292; log entry 68, DEDUCED). Which children RESOLVE compares, and what it counts, are log
entry 35 (DEDUCED). -/
def Obligations.Resolution : Prop :=
  ∀ (h : Hdr) (d a b : Opnd) (slot : BitVec 4) (x : Ver),
    let tells := fun (s : State) (e : Env) (act x : Nat) => ({ s := s.result e.g.uid h act .var (resOf d 2 (lowLane act) fun _ => x) 0 } : Out)
    let st := fun (e : Env) => e.st.sweepVersions
    let parent := fun (e : Env) => (st e).eff e.gr.version
    let ours := fun (e : Env) (x : Ver) => x.ctx == e.gr.ctx && (st e).eff x.parent == parent e && x.slot == slot.toNat && x.opened
    let kids := fun (e : Env) => ((st e).versions : List (Nat × Ver)).filter fun x => ours e x.2 && x.2.state == 0
    let wins := fun (e : Env) (act : Nat) => ((kids e).find? fun (x : Nat × Ver) => x.2.pred == e.w64 (lowLane act) a).map fun x => x.1
    let leaving := fun (e : Env) => ∃ x, Tab.get? (st e).versions (parent e) = some x ∧ (x.state = 3 ∨ x.state = 4)
    Does (.resolve h d a b slot) h (fun e _ => leaving e) (fun e act => tells (st e) e act (2 ^ 57))
    ∧ Does (.resolve h d a b slot) h (fun e _ => ¬ leaving e ∧ kids e = []) (fun e act => tells (st e) e act (2 ^ 56))
    ∧ Does (.resolve h d a b slot) h (fun e act => ¬ leaving e ∧ kids e ≠ [] ∧ ∀ v, wins e act = some v → (st e).joinSealed v (parent e) = false ∧ (st e).joinHeld v (parent e) = none) (fun e act =>
      let win := wins e act
      let shut : State := { st e with versions := (st e).versions.map fun (x : Nat × Ver) => if ours e x.2 then (x.1, { x.2 with opened := false }) else x }
      let r := (match win with | some v => shut.commit v (parent e) | none => shut).squash e.gr.ctx (((kids e).map fun (x : Nat × Ver) => x.1).filter fun v => some v != win)
      let counts := match b with | .s _ => e.w64 (lowLane act) b | _ => 0
      let s := if fld counts 32 32 == 0 then r.2
        else r.2.updCtx e.gr.ctx fun k => { k with ahist := BitVec.ofNat 16 (ahistNext k.ahist.toNat (fld counts 0 32) (fld counts 32 32)) }
      tells (s.acquire e.t.core .device) e act (2 ^ 16 * min r.1.length 255 + win.getD 0))
    ∧ (∀ v loc, Does (.resolve h d a b slot) h (fun e act => ¬ leaving e ∧ kids e ≠ [] ∧ wins e act = some v ∧ (st e).joinSealed v (parent e) = false
        ∧ (st e).joinHeld v (parent e) = some loc) (fun e act => { s := (st e).recallAt loc 1, waits := act }))
    ∧ (∀ v, Does (.resolve h d a b slot) h (fun e act => ¬ leaving e ∧ kids e ≠ [] ∧ wins e act = some v ∧ (st e).joinSealed v (parent e) = true)
      (fun e act => { s := st e, waits := act }))
    ∧ Does (.vqry h d a true) h always (fun e act => tells e.st e act (((Tab.get? e.st.contexts e.gr.ctx).map (·.drops)).getD 0))
    ∧ Does (.vqry h d a false) h always (fun e act =>
      let s := st e
      let w := s.versionWord e.gr.ctx (e.w64 (lowLane act) a % 2 ^ 16)
      tells (if w % 8 == 2 then s.acquire e.t.core .device else s) e act w)
    ∧ Does (.vabort h d a) h (fun e act => e.w64 (lowLane act) a % 2 ^ 16 = 0) (fun e act => tells (st e) e act 2)
    ∧ Does (.vabort h d a) h (fun e act => let v := e.w64 (lowLane act) a % 2 ^ 16
        v ≠ 0 ∧ ∀ x, Tab.get? (st e).versions v = some x → x.state ≠ 0 ∨ x.ctx ≠ e.gr.ctx ∨ (parent e ≠ 0 ∧ (st e).under (parent e) 1100 v = false)) (fun e act =>
      tells (st e) e act 1)
    ∧ Does (.vabort h d a) h (fun e act => let v := e.w64 (lowLane act) a % 2 ^ 16
        v ≠ 0 ∧ Tab.get? (st e).versions v = some x ∧ x.state = 0 ∧ x.ctx = e.gr.ctx ∧ (parent e = 0 ∨ (st e).under (parent e) 1100 v = true)) (fun e act =>
      let r := (st e).squash e.gr.ctx [e.w64 (lowLane act) a % 2 ^ 16]
      tells (if r.1.contains e.gr.version then r.2.updGrid e.gr.uid fun g => { g with stopped := true } else r.2) e act 0)

/-! ### The fabric -/

/-- R413 to R415: RLD, RST and RATOM send their requests, numbered in one run, when every lane passes; where a lane waits for its link, or
for a request of its items on another stream to the same line, they all wait and none is sent; without NS the lanes of a load or an atomic
wait for the replies. -/
def Obligations.RemoteAccesses : Prop :=
  ∀ (h : Hdr) (sz : Sz) (m : AMod) (ns : Bool) (stream : BitVec 4) (d a b c : Opnd) (off : BitVec 32) (r : Reg),
    let lanes := fun (act : Nat) (addr : Nat → Nat) => (lanesOf act).map fun l => (l, addr l)
    -- each lane passes behind the lanes before it; `each` counts a request of its own for every lane (R410)
    let pass := fun (e : Env) (each : Bool) (act n : Nat) (addr : Nat → Nat) => ∀ l, inMask act l = true →
      e.st.rCheck e each ((lanes act addr).filter fun x => decide (x.1 < l)) l (addr l) n stream.toNat = .ok
    let after := fun (s : State) (e : Env) (act : Nat) => ({ s := if ns then s else s.hold e.g.uid act .remote, stays := if ns then 0 else act } : Out)
    let waits := fun (e : Env) (act n : Nat) (addr : Nat → Nat) =>
      (∀ l, inMask act l = true → fabBad (addr l) = false ∧ addr l % n = 0 ∧ (e.st.link (fabDevice (addr l))).refuses = false)
      ∧ ∃ l, l < 64 ∧ inMask act l = true ∧ ((e.st.link (fabDevice (addr l))).state = .training
        ∨ e.st.lineBusy e.gr.uid (e.itemRanges (2 ^ l)) (addr l) stream.toNat = true)
    Does (.rld h sz ns stream d a b off) h (fun e act => waits e act sz.bytes (Env.rAddr a b off e)) (fun e act => { s := e.st, waits := act })
    ∧ Does (.rst h sz stream a b c off) h (fun e act => waits e act sz.bytes (Env.rAddr a b off e)) (fun e act => { s := e.st, waits := act })
    ∧ (m.scope = .pod → m.ord = .rlx → Does (.ratom h m.op m.sgn m.x64 ns stream d a b c off) h
        (fun e act => waits e act (m.w / 8) (Env.litAddr a off true e)) (fun e act => { s := e.st, waits := act }))
    ∧ ((Opnd.regs d 1).head? = some r → Does (.rld h sz ns stream d a b off) h (fun e act => pass e false act sz.bytes (Env.rAddr a b off e)) (fun e act =>
      after ((blocksOf (lanes act (Env.rAddr a b off e))).foldl (fun s blk =>
        let x := blockLanes (lanes act (Env.rAddr a b off e)) blk sz.bytes
        (s.result e.g.uid h (laneMask fun l => x.1.any fun y => y.1 == l) .var (e.g.keep d sz.regs) 0).request (fabDevice x.2.1) stream.toNat e.gr.version
          e.gr.ctx (.read x.2.2) x.2.1 (Owed.make e (x.1.map (·.1)) (x.1.map fun y => y.2 - x.2.1) 0 sz.bytes sz r s.uids ns)) e.st) e act))
    ∧ Does (.rst h sz stream a b c off) h (fun e act => pass e false act sz.bytes (Env.rAddr a b off e)) (fun e act =>
      { s := (blocksOf (lanes act (Env.rAddr a b off e))).foldl (fun s blk =>
          let x := blockLanes (lanes act (Env.rAddr a b off e)) blk sz.bytes
          let w := blockBytes x.1 x.2.1 x.2.2 (e.stData sz c)
          s.request (fabDevice x.2.1) stream.toNat e.gr.version e.gr.ctx (.write w.1 w.2) x.2.1
            (Owed.make e (x.1.map (·.1)) (x.1.map fun y => y.2 - x.2.1) 1 sz.bytes sz (.v 0) 0 true)) e.st })
    ∧ (m.scope = .pod → m.ord = .rlx → (Opnd.regs d 1).head? = some r →
      Does (.ratom h m.op m.sgn m.x64 ns stream d a b c off) h (fun e act => pass e true act (m.w / 8) (Env.litAddr a off true e)) (fun e act =>
        after ((lanesOf act).foldl (fun s l =>
          (s.result e.g.uid h (2 ^ l) .var (e.g.keep d (b2w m.x64)) 0).request (fabDevice (Env.litAddr a off true e l)) stream.toNat e.gr.version e.gr.ctx
            (.atomic m (BitVec.ofNat 64 (e.atomB m l b)) (if m.op == .cas then e.word64 m.x64 l c else 0)) (Env.litAddr a off true e l)
            (Owed.make e [l] [0] 2 (m.w / 8) (if m.x64 then .b64 else .b32) r s.uids ns)) e.st) e act))

/-- R416 to R419: RCOPY begins on the fabric engine; SREL releases to a peer or reports the latch of its stream; RJOIN waits for
replies; LNKQ reads a link or a stream. -/
def Obligations.RemoteStreams : Prop :=
  ∀ (h : Hdr) (ssp : Spc) (lens str : Bool) (stream hd j : BitVec 4) (a b c d : Opnd) (lit : BitVec 32) (t : State) (x : ErrLatch),
    let op := fun (e : Env) (act : Nat) => ({
      team := e.t.uid, group := e.g.uid, fid := 0, op := 0, dsp := .g, ssp, dst := e.w64 (lowLane act) a
      src := if ssp == .g then e.w64 (lowLane act) b else e.w64 (lowLane act) b % 2 ^ 32
      rowlen := if lens then e.w64 (lowLane act) c else lit.toNat, rows := 1, dstr := 0, sstr := 0, stream := stream.toNat, sent := 0
      unacked := [], paused := false } : CopyOp)
    let va := fun (e : Env) (act : Nat) => e.w64 (lowLane act) a
    let peer := fun (e : Env) (act : Nat) => fabDevice (va e act)
    let can := fun (e : Env) (act : Nat) => va e act % 8 = 0 ∧ fabBad (va e act) = false ∧ (e.st.link (peer e act)).refuses = false
      ∧ (e.st.link (peer e act)).state ≠ .training ∧ e.st.drain e.g.uid = (t, true)
    let latch := fun (e : Env) (act : Nat) => t.latches.find? fun x => x.ctx == e.gr.ctx && x.peer == peer e act && x.stream == stream.toNat
    Does (.rcopy h ssp lens stream hd a b c lit) h (fun e act => e.st.rcopyTrap e (op e act) = none ∧ e.createWaits hd.toNat = false
        ∧ e.c.lockWaits e.gr.ctx e.t.uid ((op e act).ranges.drop 1) = false ∧ (e.st.link (fabDevice (op e act).dst)).state ≠ .training
        ∧ e.st.drain e.g.uid = (t, true)) (fun e act =>
      let r := t.newFuture e hd.toNat 1 0
      { s := (r.2.fresh.2.enterLocks e.t.core e.gr.ctx e.t.uid r.2.uids ((op e act).ranges.drop 1)).updCore e.t.core fun k =>
          { k with fabric := k.fabric ++ [{ op e act with fid := r.1, op := r.2.uids }] } })
    ∧ Does (.srel h stream b a) h (fun e act => can e act ∧ latch e act = none
        ∧ t.lineBusy e.gr.uid (e.itemRanges act) (va e act) stream.toNat = false ∧ t.windowRoom (peer e act) stream.toNat 1 = true) (fun e act =>
      { s := t.request (peer e act) stream.toNat e.gr.version e.gr.ctx (.release (BitVec.ofNat 64 (e.w64 (lowLane act) b))) (va e act)
          (Owed.make e (lanesOf act) ((lanesOf act).map fun _ => 0) 3 8 .b64 (.v 0) 0 true) })
    ∧ Does (.srel h stream b a) h (fun e act => can e act ∧ latch e act = some x) (fun e act =>
      { s := t, raises := (lanesOf act).map fun l => { lane := l, code := .remoteError, addr := x.addr, absent := none, latch := some x } })
    ∧ Does (.rjoin h j) h always (fun e act => { s := e.st.hold e.g.uid act (.join j.toNat true), stays := act })
    ∧ Does (.lnkq h str d a) h always (fun e act =>
      { s := e.st.result e.g.uid h act .var (resOf d 2 (lowLane act) fun _ =>
          if str then e.st.streamWord e.gr.ctx (va e act % 2 ^ 6) (va e act / 2 ^ 8 % 2 ^ 4) else e.st.linkWord e.gr.ctx (va e act % 2 ^ 6)) 0 })

/-! ### Events: results, waits, grants and engines -/

/-- R71, R72, R169, R287, R339, R346, R467, R469, R471: a result of variable latency lands; a store, an atomic or a load that the orders of
R287, and to a core's shared memory or tile store that of entry (R469), let be next is performed, piece by piece, and of a 16-byte store each half by itself (R286); a lane's MWAIT or YIELD ends at its limit (R165, R167); and what waits for V registers, for tile-store granules or for
an accumulator tile goes on as they are granted. That accesses are pending, and the order in which they are
performed, is log entry 23 (DEDUCED); that an event with nothing to release changes nothing is log entry 20 (DESIGN CHOICE). -/
def Obligations.ResultsLand : Prop :=
  (∀ (s : State) (n group lane : Nat) (f : Flight) (p : PStore) (e : Env) (at_ : Nat) (r : Reg) (b : Nat),
    let free := Tab.get? s.stores n = some p ∧ s.mayPerform n = true ∧ s.pieceHeld p = none
    -- to one memory of a core accesses are performed as they entered, whichever group issued them
    (∀ (k : Nat) (q : PStore), Tab.get? s.stores n = some p → Tab.get? s.stores k = some q → k < n → p.inTeam.isSome = true → q.core = p.core →
        q.inTeam.map (·.2) = p.inTeam.map (·.2) → q.inTeam.isSome = true → PStore.halves k q n p = false → exec (.storePerformed n) s = .next s)
    ∧ (Tab.get? s.flights n = some f → f.due = none → f.landed = false → s.owedFlight n = false →
      exec (.variableResultLands f.group n) s = .next (s.land n))
    ∧ (free → p.load = none → p.atomic = none →
      exec (.storePerformed n) s = .next (
        let t := p.pieces.foldl (fun s x => match p.inTeam with
            | some (team, ts) => s.writeTeam team (if ts then .tile else .shared) x.loc x.bytes
            | none => s.storeAt p.core p.version p.pol { loc := x.loc, ov := x.ov } x.bytes) ({ s with stores := Tab.del s.stores n } : State)
        let t := match p.twin with
          | some k => { t with stores := Tab.upd t.stores k fun q => { q with beside := piecePlaces p.pieces } }
          | none => t
        (if p.inTeam.isSome then t else t.clearWhole p.core p.version p.pol (p.beside ++ piecePlaces p.pieces)).spanOn p.group))
    ∧ (∀ sz d fl, free → p.load = some (sz, d, fl) → Tab.get? s.spans p.group = none →
      exec (.storePerformed n) s = .next (p.pieces.foldl (fun s x => s.loadPiece p sz d fl x) { s with stores := Tab.del s.stores n }))
    ∧ (∀ sz d fl x more, free → p.load = some (sz, d, fl) → (Tab.get? s.spans p.group).isSome = true → p.pieces = x :: more →
      exec (.storePerformed n) s = .next (s.spanHalf n p d x))
    ∧ (∀ m d fl, free → p.load = none → p.atomic = some (m, d, fl) →
      exec (.storePerformed n) s = .next (p.pieces.foldl (fun s x =>
        match s.atomicPiece p m x with
        | (some old, s) => s.deliverN p.group d x.lane fl old (b2w m.x64)
        | (none, s) => s.failLanes fl (2 ^ x.lane) .dataPoison fun _ => x.va) { s with stores := Tab.del s.stores n }))
    ∧ (s.env? group = some e → (e.g.lane lane).block = .mwait (some at_) r b → at_ ≤ e.c.now + 1 →
      exec (.mwaitTimeout group lane) s = .next (s.wakeMwait group lane 1))
    ∧ (s.env? group = some e → (e.g.lane lane).block = .yield at_ → at_ ≤ e.c.now + 1 →
      exec (.yieldWake group lane) s = .next (s.updGroup group fun g => g.updLanes (2 ^ lane) fun _ x => { x with block := .free })))
  ∧ ∀ (s : State) (core uid lanes v k pc team : Nat) (rest : List (Nat × Nat × Nat × Nat)) (more : List (Nat × Nat × Nat)) (t : Team),
    ((s.core core).rgrowq = (uid, lanes, v, k) :: rest → s.coreV core + 8 * v ≤ 2560 →
      exec (.rgrowGrant core) s = .next ((s.fresh.2.updCore core fun c => { c with rgrowq := rest }).updGroup uid fun g =>
        (g.grow v k s.uids).updLanes lanes fun _ x => if x.block == .rgrow then { x with block := .free, pc := x.pc + 8 } else x))
    ∧ (s.tsWaits core = (uid, pc, v) :: more → v ≤ s.tsFree core →
      exec (.tsallocGrant core) s = .next (s.updGroup uid fun g =>
        g.updLanes (laneMask fun l => (g.lane l).pc.toNat == pc && match (g.lane l).block with | .tsalloc _ => true | _ => false)
          fun _ x => { x with block := .free, due := match x.block with | .tsalloc d => some d | _ => none }))
    ∧ (Tab.get? s.teams team = some t → (t.freeing.filter fun x => s.slotsQuiet t x.1 x.2.1) = [] → exec (.tsfreeRelease team) s = .next s)
    ∧ (∀ first n, Tab.get? s.teams team = some t → (t.freeing.filter fun x => s.slotsQuiet t x.1 x.2.1) = [(first, n, uid, lanes)] →
      exec (.tsfreeRelease team) s = .next (((s.updTeam t.uid fun t => { t with
          freeing := t.freeing.erase (first, n, uid, lanes)
          store := t.store.filter fun c => decide (c.1 < 16384 * first) || decide (16384 * (first + n) ≤ c.1) }).updCtx t.ctx fun c => { c with
            absent := c.absent.filter fun a => !(a.owner == t.uid && a.kind == 3 && decide (first ≤ a.index) && decide (a.index < first + n)) }).updGroup
        uid fun g => g.updLanes lanes fun _ y => if y.block == .tsfree then { y with block := .free, pc := y.pc + 8 } else y))
    ∧ (s.accHead core = some (uid, pc) → s.accFree core ≠ 0 →
      exec (.accumulatorTileGrant core) s = .next (s.updGroup uid fun g =>
        g.updLanes (laneMask fun l => (g.lane l).live && (g.lane l).pc.toNat == pc && (g.lane l).block == .retry) fun _ x => { x with block := .free }))

/-- R61, R78, R114, R139, R152 to R154: a vote: time passes, waits are looked at, pads are passed, lanes that would issue raise the failures that they hold (R414), and the issue slot and a span's turn
are granted; no unit of another number votes. What it chooses is one set of ready lanes, or two that the ports admit together; the first
in the order of the PCs, and, with GCTL.PROG = 1, always an overdue set of the greatest count where any is overdue. That numbers 256 and 257 are the
span processors, and that 258 and above end in the fault noSuchUnit, is log entry 21 (DEDUCED); the order of what one vote admits is log entry 19
(DEDUCED). -/
def Obligations.Voting : Prop :=
  (∀ (s : State) (core : Nat),
    (core < 256 → exec (.vote core) s = .next (
      let s := (s.cycle core).syncTeams core
      let s := (s.voters core).foldl (fun s e => s.pastPads e) s
      let s := ((s.voters core).map (·.g.uid)).foldl (fun s g => s.raiseFailures g) s
      let s := (s.spanVoters core).foldl (fun s p => s.spanPads p) s
      (s.slotTurn core).spanTurn core))
    ∧ (∀ die, die < 2 → exec (.vote (256 + die)) s = .next (
      let s := (s.cycle (256 + die)).tickOrrery die
      let s := (s.grids.map (·.1)).foldl (fun s g => if (s.grids.any fun x => x.1 == g && x.2.home == die) then s.joinsOfGrid g else s) s
      let s := (s.spanVoters (256 + die)).foldl (fun s p => s.spanPads p) s
      s.spanTurn (256 + die)))
    ∧ (258 ≤ core → exec (.vote core) s = .fault .noSuchUnit))
  ∧ ∀ (prog : Bool) (fairt : Nat) (rs : List Ready), rs ≠ [] →
    ∃ r more, chosen prog fairt rs = r :: more ∧ r ∈ rs ∧ more.length ≤ 1 ∧ (∀ y ∈ more, y ∈ rs ∧ r.seen.admits y.seen = true)
      ∧ ((prog = false ∨ ∀ x ∈ rs, x.count < fairt) → (voteOrder prog rs).head? = some r)
      ∧ (prog = true → ∀ x ∈ rs, fairt ≤ x.count → ∃ y ∈ r :: more, fairt ≤ y.count ∧ x.count ≤ y.count)

/-- R306, R309, R319, R416: a beat of a copy channel: the oldest operation moves a beat and its write pointer, and at the end is done;
a cancelled one ends, at the head of its channel with the beat in progress. RCOPY sends its next piece. A word of the source that more
than one row takes is read once and kept (R299; log entry 104, DEDUCED). -/
def Obligations.EnginesCopy : Prop :=
  ∀ (s s1 s2 : State) (core ch : Nat) (o : CopyOp) (q : List CopyOp) (f : Future) (bs : List Byte) (ts : List Tr) (t : Team),
    let ctx := (s.teamView o.team).1
    let ver := (s.teamView o.team).2
    let n := o.beat f.wptr
    let live := fun (x : CopyOp) => ∃ f, s.futureOf x.team x.fid = some f ∧ f.cancel = false
    let x : CopyOp := { o with kept := o.keep f.wptr bs }
    let moved := s.engRead core ctx ver o.team o.ssp o.kept (o.srcAt f.wptr) (n / 4) = ((bs, .ok), s1)
      ∧ s1.engChecks core ctx ver o.team o.op o.dsp (o.dstAt f.wptr) (n / 4) = ((ts, .ok), s2)
    (Tab.get (s.core core).channels ch [] = o :: q → (∀ x ∈ o :: q, live x) → s.futureOf o.team o.fid = some f → o.paused = false → moved →
      f.wptr + n < o.total →
      exec (.copyBeat core ch) s = .next ((s2.engWrite core ver o.team o.dsp ts bs).copyOn core ctx x f (f.wptr + n)))
    ∧ (Tab.get (s.core core).channels ch [] = o :: q → (∀ x ∈ o :: q, live x) → s.futureOf o.team o.fid = some f → o.paused = false → moved →
      o.total ≤ f.wptr + n →
      exec (.copyBeat core ch) s = .next (((s2.engWrite core ver o.team o.dsp ts bs).setFuture o.team o.fid { f with wptr := f.wptr + n }).endCopy core ctx ver x 3 0 0))
    ∧ (Tab.get (s.core core).channels ch [] = q → (q.find? fun x => match s.futureOf x.team x.fid with | some f => f.cancel | none => true) = some o →
      s.futureOf o.team o.fid = some f → f.cancel = true → (o.paused = true ∨ (q.head?.any fun x => x.op == o.op) = false) →
      exec (.copyBeat core ch) s = .next (s.endCopy core ctx ver o 5 0 0))
    ∧ (Tab.get (s.core core).channels ch [] = o :: q → s.futureOf o.team o.fid = some f → f.cancel = true → o.paused = false → moved →
      exec (.copyBeat core ch) s = .next (((s2.engWrite core ver o.team o.dsp ts bs).copyOn core ctx x f (f.wptr + n)).endCopy core ctx ver x 5 0 0))
    ∧ (let a := o.dst + o.sent
       let m := min (o.total - o.sent) (256 - a % 256)
       Tab.get? s.teams o.team = some t →
       s.cores.findSome? (fun c => (c.2.fabric.find? fun x => x.team == o.team && x.fid == o.fid).map fun o => (c.1, o)) = some (core, o) →
       s.futureOf o.team o.fid = some f → f.cancel = false → (o.ssp ≠ .g → t.resident = true ∧ s.ctxHalted ctx = false) → o.paused = false → o.sent < o.total →
       (s.link (fabDevice o.dst)).refuses = false → (s.link (fabDevice o.dst)).state ≠ .training → s.windowRoom (fabDevice o.dst) o.stream 1 = true →
       s.engRead core ctx ver o.team o.ssp o.kept (o.srcAt o.sent) (m / 4) = ((bs, .ok), s1) →
       exec (.rcopyPieceSend o.team o.fid) s = .next (
         let r := s1.request (fabDevice o.dst) o.stream ver ctx (.write bs (List.replicate m true)) a
           { seq := 0, addr := a, version := 0, ctx, group := o.group, lanes := [], kind := 5, sz := .b32, reg := .v 0, size := m, offs := [o.sent]
             flight := 0, ns := true, copy := some (o.team, o.op), what := .read 0 }
         r.setFabricOp core
           { o with sent := o.sent + m, unacked := o.unacked ++ [(o.sent, m)], reading := r.readsOn ctx o.reading (o.between (o.sent + m)) }))

/-- R49, R306, R355, R367: a tensor load pipe moves a row, which a future counts, and ends its operation with the last; the attention path
reads the keys or the values of its block and its results commit in one step. An operation of a halted context does not go on (R356). The
future of an operation that no handle names is log entry 51 (DESIGN CHOICE); the flags that ATTS and ATTV raise are log entry 28 (DEDUCED), and
which keys ATTV leaves out log entry 29 (DEDUCED). A word of the source that more than one row takes is read once and kept (R299; log entry
104, DEDUCED). -/
def Obligations.EnginesMove : Prop :=
  ∀ (s s0 s1 u : State) (team op : Nat) (t : Team) (o : TileOp) (m : AMap) (d : Option AMap) (h : Hdr) (am : AttMod) (causal : Bool) (aset : BitVec 4)
      (tq tp : BitVec 3) (src : KvSrc) (c : Opnd) (w : BitVec 20) (keys : List (List Nat)) (kept : List Host.Cell),
    let ctx := (s.teamView team).1
    let ver := (s.teamView team).2
    let ready := Tab.get? s.teams team = some t ∧ Tab.get? t.ops op = some o ∧ o.paused = false ∧ t.resident = true ∧ s.ctxHalted ctx = false
    let tgt := if o.amap2.isEmpty then none else d
    let bytes := moveBytes o.instr m tgt (moveX o.b o.c o.row)
    let row := s1.updOp team op fun o => { o with kept, row := o.row + 1, reading := s1.readsOn ctx o.reading (moveBetween o m (o.row + 1)) }
    -- `u` is `x` with the future of the operation, where it has one, changed by `f`
    let counts := fun (x : State) (f : Future → Future) =>
      (o.fid = none → u = x) ∧ ∀ fid, o.fid = some fid → ∃ k, x.futureOf team fid = some k ∧ u = x.setFuture team fid (f k)
    let moved := ready ∧ o.maps = some (m, d) ∧ s.keepRow t ctx ver o m = (kept, s0) ∧ s0.moveRow t ctx ver op { o with kept } m tgt = (.ok, s1)
      ∧ counts row fun k => { k with state := if bytes = 0 then k.state else 2, wptr := k.wptr + bytes }
    (moved → o.row + 1 < o.rows → exec (.tileRowMove team op) s = .next u)
    ∧ (moved → o.rows ≤ o.row + 1 →
      exec (.tileRowMove team op) s = .next (
        let v := match o.instr with
          | .tld _ _ false dst _ _ _ _ => u.updTeam team fun t => { t with t := (Tab.set t.t dst.toNat
              { t.treg dst.toNat with data := (t.treg dst.toNat).data.filter fun x => decide (x.1 < 16 * o.rows) }) }
          | _ => u
        (if o.faulted then v.rowProg o fun x => x % 64 else v).endTile team op 3 .pageProt 0))
    ∧ (let r := attsWords t am causal aset.toNat tq.toNat w.toNat (o.c % 2 ^ 32) (o.c / 2 ^ 32) keys
       let rows := (List.range 32).map fun i => maskOf 32 fun j => masked causal w.toNat am.nk.toNat (o.c % 2 ^ 32) (o.c / 2 ^ 32) i j
       ready → o.instr = .atts h am causal aset tq src c tp w → s.attFetch t ctx ver o (am.nh.toNat + 1) false = ((keys, .ok), s1) →
       (∀ c ∈ s.contexts, c.2.absent = []) →
       counts ((s1.updTeam team fun t =>
         let t := t.putAcc true o.fid [aset.toNat] r.1
         { t with blockMask := Tab.set (t.blockMask.filter fun x => x.2.tp != tp.toNat) aset.toNat { kpos := o.c / 2 ^ 32, nk := am.nk.toNat, tp := tp.toNat, rows }
                  t := Tab.set t.t tp.toNat { inuse := true, dirty := true, data := tileData r.2.1, writer := o.fid } }).enterFlags o.who r.2.2)
         (fun k => { k with wptr := 2048 }) →
       exec (.attentionCommit team op) s = .next (u.endTile team op 3 .pageProt 0))
    ∧ (let r := attvWords t am aset.toNat tp.toNat keys
       ready → o.instr = .attv h am aset tp src c → s.attFetch t ctx ver o (am.nh.toNat + 1) true = ((keys, .ok), s1) →
       (∀ c ∈ s.contexts, c.2.absent = []) →
       counts ((s1.updTeam team fun t => t.putAcc true o.fid (setRegs aset.toNat (am.nh.toNat + 1)) r.1).enterFlags o.who r.2)
         (fun k => { k with wptr := 4096 * (am.nh.toNat + 1) }) →
       exec (.attentionCommit team op) s = .next (u.endTile team op 3 .pageProt 0))

/-! ### Events: memory -/

/-- R277, R280, R329 to R332: a range becomes sealed, and unsealed, as the last of what concerns it is done: the lanes and spans that wait
for the unsealing, those too that stand for teams to come, go on with status 0, and the futures of handles are done; the service of a page that has come to be there, of a host
page that the die maps where it stands or copies into a frame, and of a fault that goes to the host; its replay; and TLB invalidation,
after which the accesses that wait at a MIGRATING page of the range are made again, each by its own address.
That SEAL takes back what the host holds of the range, and waits for a peer's half-done write, is the model's reading (log entry 68), and that it drops the copies of the range as it completes is log entry 46 (DEDUCED). That the entries of the TLBs go
as the invalidation completes is log entry 39 (DEDUCED). What HW_FAULT_SERVICE does in one step is log entry 40 (DEDUCED). -/
def Obligations.MemoryEvents : Prop :=
  (∀ (s : State) (ctx base fl : Nat) (k : Seal),
    ((s.seals.find? fun k => k.ctx == ctx && k.base == base) = some k → k.sealing = some fl → s.walksHeld ctx (pieces4k k.base k.lines) = none →
      (∀ p ∈ s.stores, p.2.ctx = ctx → p.2.inTeam = none → ∀ x ∈ p.2.pieces, (s.sealLines k).contains (x.loc / 128) = false) →
      (∀ x ∈ s.streams, x.half = none) → (∀ x ∈ s.port.lines, (s.sealLines k).contains x.1 = true → x.2.lower = false ∧ x.2.upper = false) →
      exec (.sealComplete ctx base) s = .next (
        let s := s.dropEvery fun x => (s.sealLines k).contains x.line
        ({ s with
          seals := s.seals.map fun x => if x == k then { k with sealing := none } else x
          spans := s.spans.map fun (p : Nat × Span) => if p.2.block == Block.engine fl then (p.1, { p.2 with block := .free, pc := p.2.pc + 12 }) else p }
            : State).land fl))
    ∧ ((s.seals.find? fun k => k.ctx == ctx && k.base == base && k.unsealing) = some k → k.sealing = none →
      s.walksHeld ctx (pieces4k k.base k.lines) = none → s.sealCount k 0 + s.sealCount k 1 = 0 →
      exec (.unsealComplete ctx base) s = .next (
        let s : State := { s with seals := s.seals.filter fun x => x != k }
        let ours := fun (grid : Nat) => ((Tab.get? s.grids grid).map (·.ctx)) == some ctx
        let s := ((s.groups.filter fun g => ours g.2.grid).map (·.1)).foldl (fun s g => s.unsealed g base) s
        let go := fun (p : Span) => match p.block with
          | .unseal b d _ => if b == base then
              { p with block := .free, pc := p.pc + 12, s := Tab.set p.s d 0, stamps := Tab.set p.stamps (stampS d) (s.core (s.spanCore p)).epoch }
            else p
          | _ => p
        let s : State := { s with
          spans := s.spans.map fun (p : Nat × Span) => if ours p.2.grid then (p.1, go p.2) else p
          grids := s.grids.map fun (g : Nat × Grid) => if ours g.1 then (g.1, { g.2 with templates := g.2.templates.map go }) else g }
        k.handles.foldl (fun s h => match s.futureOf h.1 h.2 with
          | some f => s.setFuture h.1 h.2 { f with state := 3 }
          | none => s) s)))
  ∧ (∀ (s : State) (uid base l d n : Nat) (g : Group), Tab.get? s.groups uid = some g → l < 64 → (g.lane l).block = .unseal base d n →
      (∀ j, j ≠ l → ∀ d n, (g.lane j).block ≠ .unseal base d n) →
      s.unsealed uid base = ((((s.deliver uid (.s d) 0 l n 0).deliver uid (.s d) 1 l n 0).land n).updGroup uid fun g =>
        g.updLanes (2 ^ l) fun _ x => { x with block := .free, pc := x.pc + 12 }))
  ∧ ∀ (s : State) (die slot ctx : Nat) (n : BitVec 16) (p : PFault) (c : Context) (range : Option (Nat × Nat)),
    let key := 256 * die + slot
    let e := s.entryAt p.key
    let there := Tab.get? s.pfaults key = some p ∧ p.host = false ∧ eST p.entry ≠ 3 ∧ s.heldHalf (physLoc 0 p.key) 8 = false
    (there → eST e ≠ 2 → exec (.hwFaultService die slot) s = .next (s.replay key))
    ∧ (there → eST e = 2 → p.level = 1 → ePFN e ≠ 0 → eILV e = 2 → ePS64 e = false →
      exec (.hwFaultService die slot) s = .next ((s.setEntry p.key (1 + (8 * b2n (eW e) + 16 * b2n (eX e)) + 2 ^ 7 * 2 + 2 ^ 12 * ePFN e)).replay key))
    ∧ (∀ fr rest bs, there → eST e = 2 → p.level = 1 → ePFN e ≠ 0 → eILV e = 2 → ePS64 e = true → Tab.get? s.contexts p.ctx = some c →
      (if die = 0 then c.frames0 else c.frames1) = fr :: rest → s.hostPage (ePFN e * 4096) 65536 = some bs → s.frameHeld fr = none →
      exec (.hwFaultService die slot) s = .next (
        let s := s.updCtx p.ctx fun c => if die == 0 then { c with frames0 := rest } else { c with frames1 := rest }
        let s := (List.range 16).foldl (fun (s : State) k => s.pokeN (physLoc 0 (fr + 4096 * k)) ((bs.drop (4096 * k)).take 4096)) s
        let s := s.clearPoison ((List.range 65536).map fun k => physLoc 0 (fr + k))
        (s.setEntry p.key (1 + (8 * b2n (eW e) + 16 * b2n (eX e)) + 2 ^ 6 + 2 ^ 12 * (fr / 4096))).replay key))
    ∧ (there → eST e = 2 → (p.level ≠ 1 ∨ ePFN e = 0 ∨ eILV e ≠ 2) → exec (.hwFaultService die slot) s = .next (s.forward key))
    ∧ (let k := 256 * b2n (n.getLsbD 15) + n.toNat % 256
       let t : State := { s with port := { s.port with again := false } }
       let turn := s.port.again = true ∨ ∀ j ∈ s.port.held, hostTurn j ≠ some (2, n.toNat)
       turn → t.windowOpen = true → Tab.get? t.pfaults k = some p → p.host = true → eST p.entry ≠ 3 → (∀ m ∈ p.attached, (t.walk p.ctx m.va).kind ≠ .held) →
       exec (.faultReplayWrite n) s = .next (t.accept.walkAgain k p))
    ∧ (s.windowOpen = true → Tab.get? s.contexts ctx = some c → c.invalidate = none → c.state ≠ .destroyed →
      exec (.tlbInvalidate ctx range) s = .next (s.accept.updCtx ctx fun c => { c with invalidate := some range }))
    ∧ (Tab.get? s.contexts ctx = some c → c.invalidate = some range → (∀ x ∈ s.streams, x.half = none) →
      (∀ p ∈ s.stores, p.2.ctx = ctx → p.2.inTeam = none → ∀ x ∈ p.2.pieces, inRange range (x.va / 2 ^ 30 * 2 ^ 30) (2 ^ 30) = false) →
      exec (.tlbInvalidateComplete ctx) s = .next (
        let keep := fun (t : TlbEntry) => !(t.ctx == ctx && inRange range (t.page * 2 ^ t.size) (2 ^ t.size))
        let s := ({ s with dieTlb := s.dieTlb.map fun ts => ts.filter keep
                           cores := s.cores.map fun (c : Nat × Core) => (c.1, { c.2 with tlb := c.2.tlb.filter keep }) } : State).updCtx
          ctx fun c => { c with invalidate := none }
        (s.pfaults.filter fun p => p.2.ctx == ctx && eST p.2.entry == 3).foldl (fun s p =>
          let hit := fun (o l : Nat) => p.2.met.any fun m => m.owner == o && m.lane == l && coversPage range p.2.level p.2.entry m.va
          let rest := p.2.only fun o l => !hit o l
          if rest.bare then s.replay p.1 else ({ s with pfaults := Tab.set s.pfaults p.1 rest } : State).replayAll (p.2.only hit)) s))

/-! ### Events: contexts -/

/-- R97, R98, R110, R407, R468: what the host asks of a context, and of the link event queue. A descriptor of one that is CREATED replaces it (log
entry 52, DESIGN CHOICE); what a new context's fields hold is log entry 4 (DESIGN CHOICE); that a READY context goes to SAVED with its work
kept, and waits in READY while its empty save cannot be written, is log entry 53 (DEDUCED). -/
def Obligations.ContextRequests : Prop :=
  ∀ (s : State) (d : CtxDesc) (ctx count : Nat) (c : Context),
    s.windowOpen = true →
    (d.ctx ≠ 0 → d.savebase.toNat % 128 = 0 → d.evq.toNat % 32 = 0 → 4 ≤ d.evqsz.toNat →
      d.evqsz.toNat ≤ 20 → (∀ c, Tab.get? s.contexts d.ctx.toNat = some c → c.state = .created ∨ c.state = .destroyed) →
      exec (.contextDescriptorWrite d) s = .next { s.accept with contexts := Tab.set s.contexts d.ctx.toNat (Context.new d) })
    ∧ (Tab.get? s.contexts ctx = some c → c.state = .created → c.desc.ptroot ≠ 0 → c.desc.ptroot.toNat % 8192 = 0 → c.desc.ptroot.toNat < 2 ^ 39 →
      c.desc.savebase ≠ 0 →
      (s.contexts.filter fun x => x.2.state.counts).length < 64 →
      exec (.contextActivate ctx) s = .next (s.accept.updCtx ctx fun c => { c with state := .ready }))
    ∧ (Tab.get? s.contexts ctx = some c → c.state = .running →
      exec (.preemptRequest ctx) s = .next (s.accept.updCtx ctx fun c => { c with state := .preempting, halted := false }))
    ∧ (∀ t u, Tab.get? s.contexts ctx = some c → c.state = .ready → s.accept.partReady 0 ctx c.desc.savebase.toNat 16 true = (.ok, t) →
      t.partStore ctx c.desc.savebase.toNat (zeros 16) = some u →
      exec (.preemptRequest ctx) s = .next (u.updCtx ctx fun c =>
        { c with state := .saved, slots := [], savedSpans := [], saveEnd := some (c.firstRecord 0), heldPreempt := false }))
    ∧ (∀ x t, Tab.get? s.contexts ctx = some c → c.state = .ready → s.accept.partReady 0 ctx c.desc.savebase.toNat 16 true = (x, t) → x ≠ .ok →
      exec (.preemptRequest ctx) s = .next (t.updCtx ctx fun c => { c with heldPreempt := true }))
    ∧ (Tab.get? s.contexts ctx = some c → c.state = .ready → c.heldPreempt = true → c.heldDestroy = false →
      exec (.preemptHalt ctx) s = .next (s.preempt ctx))
    ∧ (Tab.get? s.contexts ctx = some c → c.state = .restoring →
      exec (.preemptRequest ctx) s = .next (s.accept.updCtx ctx fun c => { c with heldPreempt := true }))
    ∧ (Tab.get? s.contexts ctx = some c → c.state ≠ .preempting → c.state ≠ .restoring →
      exec (.trapAreaReset ctx) s = .next (s.accept.updCtx ctx fun c => { c with trapLow := none }))
    ∧ (Tab.get? s.contexts ctx = some c → (c.state = .saved ∨ c.state = .faulted) →
      exec (.resumeRequest ctx) s = .next (s.accept.updCtx ctx fun c => { c with state := .restoring }))
    ∧ (Tab.get? s.contexts ctx = some c → c.erptr ≤ count → count ≤ c.ewptr →
      exec (.erptrWrite (some ctx) count) s = .next ((s.accept.updCtx ctx fun c => { c with erptr := count }).evqFlush ctx c.evqHeld))
    ∧ (s.linkQueue.rptr ≤ count → count ≤ s.linkQueue.wptr →
      exec (.erptrWrite none count) s = .next (({ s.accept with linkQueue := { s.linkQueue with rptr := count } } : State).linkFlush s.linkQueue.held))
    ∧ (let t := s.accept.updCtx ctx fun c => { c with heldDestroy := true }
       Tab.get? s.contexts ctx = some c → c.state ≠ .preempting → c.state ≠ .restoring → t.slotsHeld (t.frames.filter fun f => f.ctx == ctx) = none →
       exec (.contextDestroy ctx) s = .next (t.destroyCtx ctx))
    ∧ (Tab.get? s.contexts ctx = some c → (c.state = .preempting ∨ c.state = .restoring) →
      exec (.contextDestroy ctx) s = .next (s.accept.updCtx ctx fun c => { c with heldDestroy := true }))

/-- R53, R54, R98 to R105, R139: the halt of a pre-empted context; its save, of whatever spans, teams and groups it has: the directory at
SAVEBASE and each record behind it, or FAULTED where they do not fit; where a group record holds its fields; the restore, which puts the
teams on cores, loads every entry, wakes the sleepers and lowers the spans that have no room; what a group and a team take back; and the
fill of a unit. What a halt does with loads, and the implementation
words, are log entry 41 (DEDUCED and DESIGN CHOICE); the bytes of engine records are free (log entry 13); that reserved bits of a changed
record read 0 is log entry 81 (DEDUCED). -/
def Obligations.ContextMoves : Prop :=
  (∀ (s t u v s1 : State) (ctx owner unit : Nat) (c c' : Context) (es : List DirEntry),
    let abandoned := s.abandonLoads ctx
    let owners := abandoned.ctxGroups ctx ++ abandoned.spansOf ctx
    (Tab.get? s.contexts ctx = some c → c.state = .preempting → c.halted = false → (∀ t ∈ s.ctxTeams ctx, ∀ o ∈ t.ops, o.2.paused = true) →
      owners.foldl (fun (r : State × Bool) g => ((r.1.drain g).1, r.2 && (r.1.drain g).2)) (abandoned, true) = (t, true) →
      t.allReady ((t.spans.filter fun p => owners.contains p.1 && (p.2.haltWaits || !p.2.j.isEmpty)).map (·.2)) = (true, u) →
      u.sealingFor owners = false →
      exec (.preemptHalt ctx) s = .next (u.halt ctx))
    ∧ (let slots := (s.grids.filter fun g => g.2.ctx == ctx).map (·.1)
       let n := s.draw.1
       let rs := s.draw.2.saveRecords slots n
       let base := c.desc.savebase.toNat
       let laid := layRecords (c.firstRecord rs.length) rs
       let last := match laid.getLast? with | some x => x.2 + x.1.bytes.length | none => c.firstRecord 0
       let saves := Tab.get? s.contexts ctx = some c ∧ c.state = .preempting ∧ c.halted = true ∧ (c.toFaulted = false ∨ c.evqHeld = []) ∧ c.absent = []
         ∧ base + 16 * (rs.length + 1) ≤ c.saveTop
       (saves → last ≤ c.saveTop → s.draw.2.partStores ctx ((base, directory base laid) :: laid.map fun x => (x.2, x.1.bytes)) = some t →
         exec (.contextSaveComplete ctx) s = .next (((t.clearCtx ctx slots).updCtx ctx fun k =>
           { k with state := if k.toFaulted then .faulted else .saved, toFaulted := false, saveEnd := some last }).heldRequests ctx))
       ∧ (saves → c.saveTop < last → (∀ x ∈ laid, c.saveTop < x.2 + x.1.bytes.length) → s.draw.2.partStores ctx [(base, directory base laid)] = some t →
         exec (.contextSaveComplete ctx) s = .next (((t.clearCtx ctx slots).updCtx ctx fun k =>
           { k with state := .faulted, toFaulted := false, saveEnd := some c.saveTop }).heldRequests ctx)))
    ∧ (let pairs := pairSpans es c.savedSpans
       Tab.get? s.contexts ctx = some c → c.state = .restoring → c.reissue = [] → c.loads = [] → s.copiesRun ctx = false → c.heldPreempt = false →
       s.readDirectory ctx c.desc.savebase.toNat 262144 c.desc.savebase.toNat = some es → (∀ e ∈ es, s.implOk ctx c.slots e = some true) →
       s.placeSaved (s.savedClusters c.slots) = some s1 →
       (s1.partTouch ctx c.desc.savebase.toNat (16 * (es.length + 1))).restoreEntries ctx c.slots pairs = some t →
       t.wakeEntries ctx c.slots es = .done u → u.lowerExtra ctx = (v, true) → Tab.get? v.contexts ctx = some c' → c'.heldDestroy = false →
       exec (.restoreEagerComplete ctx) s = .next (v.updCtx ctx fun c =>
         { c with state := .running, slots := [], savedSpans := [], reissue := [], loads := [], heldPreempt := false }))
    ∧ (∀ n, (s.contexts.find? fun c => c.2.absent.any fun a => a.owner == owner && a.kind == unit / 4096 && a.index == unit % 4096) = some (n, c) →
      s.present n owner (unit / 4096) (unit % 4096) = .done t → exec (.absentUnitFill owner unit) s = .next t))
  ∧ (∀ (g : Group) (l : Nat), l < 64 → g.lanes.length = 64 →
    let at_ := fun (o n : Nat) => (g.record.drop o).take n
    at_ 0 4 = le 4 g.gctl.toNat ∧ at_ 4 4 = le 4 g.fpctl.toNat ∧ at_ 8 4 = le 4 g.fpstat.toNat ∧ at_ 0xC 4 = le 4 g.rowprog.toNat
    ∧ at_ 0x10 4 = le 4 g.trapcode.toNat ∧ at_ 0x14 4 = le 4 (g.vlim + 2 ^ 16 * g.slim) ∧ at_ 0x18 8 = le 8 g.trapaddr.toNat
    ∧ at_ (0x80 + 8 * l) 8 = le 8 (g.lane l).pcEntry ∧ at_ (0x280 + l) 1 = le 1 (g.lane l).status)
  ∧ ∀ (s : State) (ctx va l b : Nat) (t : Team) (g : Group) (bs : List Byte),
    let f := bytesAt bs
    (l < 64 → g.lanes.length = 64 → ∃ k, Tab.get? (s.restoreGroup ctx t g va bs).groups g.uid = some k
      ∧ k.gctl = gctlValue (f 0 4) ∧ k.fpctl = fpctlValue (f 4 4) ∧ k.fpstat = BitVec.ofNat 32 (f 8 4 % 32) ∧ k.trapcode = BitVec.ofNat 32 (f 0x10 2)
      ∧ k.trapaddr = BitVec.ofNat 64 (f 0x18 8) ∧ k.divdepth = f 0x20 1 % 128 ∧ k.slim = f 0x16 2
      ∧ (k.lane l).pc = BitVec.ofNat 49 (f (0x80 + 8 * l) 8) ∧ (k.lane l).exited = bitOf (f (0x280 + l) 1) 0
      ∧ (k.lane l).inRange = bitOf (f (0x280 + l) 1) 1 ∧ (k.lane l).held = bitOf (f 0x540 8) l
      ∧ (k.lane l).lfsr = BitVec.ofNat 32 (f (0x440 + 4 * l) 4))
    ∧ (b < 16 → ∃ k, Tab.get? (s.restoreTeam ctx t va bs).teams t.uid = some k
      ∧ k.shared = f 8 4 ∧ k.granules = f 12 4 ∧ k.bar b = Barrier.ofWord (f (0x100 + 8 * b) 8) ∧ k.map b = (bs.drop (0x200 + 64 * b)).take 64)

/-! ### Events: queues, records and teams -/

/-- R115 to R117, R122: what the host asks of a queue. The number of a destroyed one may be used again (log entry 52, DEDUCED), but not
while it still owes an entry (log entry 65, DESIGN CHOICE); the entry of a bad doorbell raises no interrupt (log entry 31, DEDUCED). -/
def Obligations.QueueRequests : Prop :=
  ∀ (s : State) (d : QueueDesc) (queue wptr : Nat) (k : Queue) (c : Context),
    let done := fun (f : Queue → Queue) => (.next ((s.accept.updQueue queue f).settle queue) : Host.Outcome State Fault Refusal)
    s.windowOpen = true →
    (Tab.get? s.contexts d.ctx.toNat = some c → c.state ≠ .destroyed → (∀ k, Tab.get? s.queues d.qnum.toNat = some k → k.state = .destroyed ∧ k.records = [] ∧ k.owing = []) →
      (d.feed = false → d.base.toNat % 64 = 0) → d.cbase.toNat % 32 = 0 → 4 ≤ d.size.toNat → d.size.toNat ≤ 20 → d.cls ≠ 3 → d.qmin.toNat ≤ d.qcap.toNat →
      sumN ((s.queues.filter fun k => k.2.desc.home == d.home && k.2.state != .destroyed).map fun k => k.2.desc.qmin.toNat) + d.qmin.toNat ≤ 8192 →
      exec (.queueDescriptorWrite d) s = .next { s.accept with queues := Tab.set s.queues d.qnum.toNat {
        desc := d, state := .idle, left := .idle, draining := false, wptr := 0, rptr := 0, cptr := 0, records := [], codes := [], faultAddr := 0,
        faultPos := none, owing := [], served := 0 } })
    ∧ (Tab.get? s.queues queue = some k → k.state = .idle → exec (.queueEnable queue) s = done fun k => { k with state := .armed })
    ∧ (Tab.get? s.queues queue = some k → (k.state = .armed ∨ k.state = .running ∨ k.state = .blocked) →
      exec (.queueSuspend queue) s = done fun k => { k with state := .suspended, left := k.state })
    ∧ (Tab.get? s.queues queue = some k → k.state = .suspended → exec (.queueResume queue) s = done fun k => { k with state := if k.state == .suspended then k.left else .armed })
    ∧ (Tab.get? s.queues queue = some k → k.state = .drained → exec (.queueResume queue) s = done fun k => { k with state := if k.state == .suspended then k.left else .armed })
    ∧ (Tab.get? s.queues queue = some k → (k.state = .armed ∨ k.state = .running ∨ k.state = .blocked ∨ k.state = .suspended) →
      exec (.queueDrain queue) s = done fun k => { k with draining := true })
    ∧ (Tab.get? s.queues queue = some k → k.state = .faulted →
      exec (.queueReset queue) s = done fun k =>
        let p := (k.faultPos.getD k.cptr) + 1
        let k := { k with state := .armed, faultPos := none, rptr := max k.rptr p, wptr := max k.wptr p, cptr := max k.cptr p, faultAddr := 0 }
        k.advance (k.codes.length + 1))
    ∧ (Tab.get? s.queues queue = some k → k.state ≠ .destroyed → exec (.queueDestroy queue) s = .next ((s.accept.destroyQueue queue).ctxIdle k.desc.ctx.toNat))
    ∧ (Tab.get? s.queues queue = some k → k.state = .destroyed → exec (.queueDestroy queue) s = .next s.accept)
    ∧ (Tab.get? s.queues queue = some k → k.state ≠ .faulted → k.state ≠ .destroyed → k.desc.feed = false → k.rptr ≤ wptr → wptr ≤ k.cptr + 2 ^ k.desc.size.toNat →
      exec (.doorbellWrite queue wptr) s = done fun k => { k with wptr })
    ∧ (Tab.get? s.queues queue = some k → k.state ≠ .faulted → k.state ≠ .destroyed → k.desc.feed = false →
      (wptr < k.rptr ∨ k.cptr + 2 ^ k.desc.size.toNat < wptr) →
      exec (.doorbellWrite queue wptr) s = .next (s.refuse.faultQueue queue k.rptr 0xF1 (completionBytes k.desc.ctx.toNat 0xF1 queue k.rptr 0 0) false))

/-- R118 to R126, R132 to R135, R177: a queue takes a record, starts it when its order and dependences allow and, with QSCHED = 1, the
host has dispatched it (the write of the dispatch register stands until the order allows: log entry 65, DESIGN CHOICE), and completes it
when it is done, an entry that waited first; a queue that drains, or whose context is neither READY nor RUNNING, starts none of its records
and reports none, while its head still blocks it and unblocks it (log entries 72, 74 and 91, DESIGN CHOICE); a record that has run too long
times out (R106, R109, R124: with TRAPDLV = 1 the address of its record is 0 and its context goes to FAULTED, log entry 34, DEDUCED); the
next cluster of a grid comes to free cores, its lanes' counts of spilled frames stored as 0 (log entry 66, DESIGN CHOICE); a team with
nothing left retires, once what its core has performed in L1 alone is at its home (log entry 23, DEDUCED). -/
def Obligations.RecordsAndTeams : Prop :=
  (∀ (s t : State) (queue die pos code fl : Nat) (k : Queue) (r : Record),
    let va := k.desc.base.toNat + 64 * (k.rptr % 2 ^ k.desc.size.toNat)
    let takes := k.desc.feed = false ∧ k.draining = false ∧ (k.state = .running ∨ k.state = .blocked ∨ k.state = .suspended) ∧ k.rptr < k.wptr ∧ s.canBuffer queue = true
    let looks := Tab.get? s.queues queue = some k ∧ (k.state = .running ∨ k.state = .blocked)
    let goes := k.draining = false ∧ s.ctxStarts k.desc.ctx.toNat = true
    let starts := looks ∧ goes
    (Tab.get? s.queues queue = some k → takes → s.takeRecord (b2n k.desc.home) k.desc.ctx.toNat 0 va = (.ok r, t) →
      exec (.recordTake queue) s = .next (t.updQueue queue fun k => { k with records := Tab.set k.records k.rptr { r with pos := k.rptr }, rptr := k.rptr + 1 }))
    ∧ (Tab.get? s.queues queue = some k → takes → s.takeRecord (b2n k.desc.home) k.desc.ctx.toNat 0 va = (.bad fl, t) →
      exec (.recordTake queue) s = .next (t.faultQueue queue k.rptr 0xF1 (completionBytes k.desc.ctx.toNat 0xF1 queue k.rptr 0 0) (bitOf fl 0)))
    ∧ ((s.queues.find? fun k => b2n k.2.desc.home == die && !k.2.desc.feed && !k.2.draining
        && (k.2.state == .running || k.2.state == .blocked || k.2.state == .suspended) && decide (k.2.rptr < k.2.wptr) && s.canBuffer k.1) = some (queue, k) →
      exec (.queueBufferGrant die) s = .next (s.takeNext queue))
    ∧ (starts → s.postReady queue k = t → k.head = some r → t.orderMet queue k r = false →
      exec (.recordStart queue) s = .next (t.blockQueue queue false))
    ∧ (starts → s.postReady queue k = t → k.head = some r → t.orderMet queue k r = true → t.deps r = none →
      exec (.recordStart queue) s = .next (t.blockQueue queue true))
    ∧ (starts → s.postReady queue k = t → k.head = some r → t.orderMet queue k r = true → t.deps r = some code →
      exec (.recordStart queue) s = .next (if t.dying r.version || (t.schedOf r && !r.go) then t.blockQueue queue false else t.startRecord queue k r code))
    ∧ (looks → ¬goes → k.head = some r →
      exec (.recordStart queue) s = .next (s.blockQueue queue (s.orderMet queue k r && (s.deps r).isNone)))
    ∧ (s.windowOpen = true → starts → Tab.get? k.records pos = some r → s.deps r = some code → r.started = false → r.ready = true → s.dying r.version = false →
      exec (.dispatchRegisterWrite queue pos) s = .next (if s.orderMet queue k r && k.head == some r then s.accept.startRecord queue k r code
        else s.accept.updQueue queue fun k => { k with records := Tab.upd k.records pos fun r => { r with go := true } }))
    ∧ ((s.markerDone queue).childrenDone = t → Tab.get? t.queues queue = some k → k.owing = [] → (k.records.find? fun r => t.recordDone queue r.2) = some (pos, r) →
      exec (.recordComplete queue) s = .next (
        if r.posted then (t.updQueue queue fun k => { k with records := Tab.del k.records pos }).settle queue else t.completeRecord queue r r.code))
    ∧ (∀ e irq rest, (s.markerDone queue).childrenDone = t → Tab.get? t.queues queue = some k → k.owing = (pos, e, irq) :: rest →
      exec (.recordComplete queue) s = .next ((t.updQueue queue fun k => { k with owing := rest }).writeEntry queue pos e irq))
    ∧ (Tab.get? s.queues queue = some k → (k.records.find? fun r => r.2.started && !r.2.posted && !r.2.timed && k.desc.tlimit.toNat != 0
        && decide (k.desc.tlimit.toNat ≤ r.2.ranUs)) = some (pos, r) → bitOf s.fnmode.toNat 2 = true →
      t = s.updQueue queue (fun k => { k with records := Tab.upd k.records pos fun r => { r with timed := true } }) →
      exec (.ktimeout queue) s = .next (
        let ctx := k.desc.ctx.toNat
        let x := s.timeItem queue pos
        let u := match x.group with
          | some g => t.updGroup g.uid fun g => g.setTrap .ktimeout x.lane x.multi g.trapValid x.pc
          | none => t
        let info : TrapInfo := { ctx, code := 0x13, tag := 0, queue, core := x.core, teamid := x.team, gid := x.gid, lane := x.lane
                                 multi := x.multi, double := true, version := r.ranIn, addr := x.pc, recordVa := 0 }
        let u := ((u.grids.filter fun x => x.2.queue == queue && x.2.pos == pos).map (·.1)).foldl (fun s x => (s.endGrid x 0x13).childDone x 0x13) u
        let u : State := { u with children := u.children.map fun (c : Nat × Child) =>
          if c.2.queue == queue && c.2.pos == pos && c.2.done.isNone && c.2.marker.isSome then (c.1, { c.2 with done := some 0x13 }) else c }
        let u := (u.updQueue queue fun k => { k with records := Tab.upd k.records pos fun r => { r with posted := true, code := 0x13 } }).faultQueue
          queue pos 0x13 info.bytes (bitOf r.flags 0)
        (u.updCtx ctx fun c => if c.state == .running || c.state == .ready then { c with state := .preempting, toFaulted := true }
          else { c with toFaulted := true }).evqPost ctx info.bytes)))
  ∧ ∀ (s u : State) (grid team : Nat) (g : Grid) (t : Team),
    (let cores := (s.gridPlaces g).getD (Config.place s.free % (s.gridPlaces g).length) []
     let goes := (g.cluster.zip cores).filter fun x => g.hasItems x.1
     let r := s.draw.2.pickSlots goes.length (s.draw.2.freeSlots g.ctx)
     Tab.get? s.grids grid = some g → s.gridPlaces g ≠ [] → (∀ x ∈ s.grids, x.1 ≠ grid → s.goesBefore x.2 g = true → s.gridPlaces x.2 = []) →
     r.1.findSome? (r.2.countHeld g) = none →
     exec (.teamDispatch grid) s = .next (
        let s' := (goes.zip r.1).foldl (fun s x => s.placeTeam g x.1.1 x.1.2 x.2) (r.2.firstTeam g)
        let s' := s'.updGrid grid fun g => { g with next := g.next + g.cluster.length }
        let s' := ((s'.teams.filter fun x => x.2.grid == grid).foldl (fun s x => s.wideCheck x.1 14) s').updQueue g.queue fun k => { k with served := s.free + 1 }
        (s'.updCtx g.ctx fun c => if c.state == .ready && !cores.isEmpty then { c with state := .running } else c).gridEnd grid))
    ∧ (Tab.get? s.teams team = some t → t.resident = true → s.teamBusy t = false → Tab.get? s.grids t.grid = some g →
      s.performAll (s.before fun _ x => x.inL1 && x.core == t.core) = (u, true) →
      exec (.teamRetire team) s = .next (((u.removeTeam t).ctxIdle t.ctx).settle g.queue))

/-! ### Events: versions, links and peers -/

/-- R388, R390, R391, R393, R424: the rules of a squash one by one, the retagging of a committed version, and the notices; a commit whose
bytes the host holds waits for its recall, and one into bytes that are sealed waits for the unseal (R292: log entry 68, DEDUCED). When slots and records are rewritten is log entry 35 (DEDUCED); that the entries of a squash
are freed after its last rule is log entry 67 (DESIGN CHOICE). -/
def Obligations.VersionEvents : Prop :=
  ∀ (s : State) (ctx version peer target : Nat) (marks ancestors : List Nat) (q : Squash) (x : Ver) (f : Foreign),
    let on := fun (s : State) => ({ s with squashes := s.squashes.map fun y => if y == q then { q with rule := q.rule + 1 } else y } : State)
    let squash := (s.squashes.find? fun q => q.ctx == ctx) = some q
    (squash → q.rule = 0 → exec (.squashRuleStep ctx) s = .next (
      let gs := (s.grids.filter fun g => q.vers.contains g.2.version).map (·.1)
      let t := gs.foldl (fun s g => s.updGrid g fun g => { g with stopped := true }) s
      { t with squashes := t.squashes.map fun y => if y == q then { q with rule := 1, grids := gs } else y }))
    ∧ (let gs := (s.groups.filter fun g => q.grids.contains g.2.grid).map (·.1) ++ (s.spans.filter fun p => q.grids.contains p.2.grid).map (·.1)
       let r := gs.foldl (fun (r : State × Bool) g => ((r.1.drain g).1, r.2 && (r.1.drain g).2)) (s, true)
       squash → q.rule = 1 → exec (.squashRuleStep ctx) s = .next (if r.2 then on r.1 else r.1))
    ∧ (squash → q.rule = 2 → exec (.squashRuleStep ctx) s = .next (on (q.grids.foldl (fun s g => s.cancelGrid g) s)))
    ∧ (squash → q.rule = 3 → exec (.squashRuleStep ctx) s = .next ((on (q.grids.foldl (fun s g => s.freeGrid g) s)).ctxIdle ctx))
    ∧ (squash → q.rule = 4 → exec (.squashRuleStep ctx) s = .next (on (s.killVersions q.vers)))
    ∧ (squash → q.rule = 5 → exec (.squashRuleStep ctx) s = .next (on { s with vlines := s.vlines.filter fun y => !q.vers.contains y.ver }))
    ∧ (squash → q.rule = 6 → s.slotsHeld (s.frames.filter fun f => q.vers.contains f.ver) = none →
      exec (.squashRuleStep ctx) s = .next (on ((s.frames.filter fun f => q.vers.contains f.ver).foldl (fun s f => s.freeFrame f) s)))
    ∧ (squash → 7 ≤ q.rule → exec (.squashRuleStep ctx) s = .next (s.postSquash q).sweepVersions)
    ∧ (Tab.get? s.versions version = some x → (x.state = 1 ∨ x.state = 2) →
      exec (.versionRetag version) s = .next (s.retagAll version (s.eff version)).sweepVersions)
    ∧ (let all := version :: ancestors
       let need := all.filter fun v => (Tab.get? s.foreign v).isNone && v != 0
       s.arrived peer (.version version ctx ancestors) = true → s.foreign.length + need.length ≤ 255 →
       exec (.versionNotice peer version ctx ancestors) s = .next { s.takeIn peer (.version version ctx ancestors) with foreign := (need.foldl (fun f v =>
         Tab.set f v { peer, ctx := (Tab.get? s.fabricCtx ctx).getD 0, ancestors := (all.dropWhile (· != v)).drop 1 }) s.foreign) })
    ∧ (∀ t : State, s.arrived peer (.commit version target marks) = true → s.takeIn peer (.commit version target marks) = t →
      -- it waits for the requests that the marks name; then the writes join the target's view, or that which the target's have joined, and
      -- the entry goes with its last frame
      let c := t.effForeign 16 target
      let hold := fun (t : State) (joined : Bool) =>
        ({ t with foreign := Tab.upd t.foreign version fun f => { f with commits := some (target, marks), joined := f.joined || joined } } : State)
      let goes := c ≠ 0 ∧ (t.deadHere c = true ∨ Tab.get? t.foreign c = none)
      let comes := Tab.get? s.foreign version = some f ∧ f.commits = none
      let ends := fun (u : State) => if u.noFrame version then (u.dropForeign version c).sendCargo peer (.ack version false) else hold u true
      (comes → t.marksPassed peer marks = false → exec (.commitNotice peer version target marks) s = .next (hold t false))
      ∧ (comes → t.marksPassed peer marks = true → goes → exec (.commitNotice peer version target marks) s = .next (ends (t.dropView version)))
      ∧ (comes → t.marksPassed peer marks = true → ¬goes → t.joinSealed version c = true →
        exec (.commitNotice peer version target marks) s = .next (hold t false))
      ∧ (∀ loc, comes → t.marksPassed peer marks = true → ¬goes → t.joinSealed version c = false → t.joinHeld version c = some loc →
        exec (.commitNotice peer version target marks) s = .next (hold (t.recallAt loc 1) false))
      ∧ (comes → t.marksPassed peer marks = true → ¬goes → t.joinSealed version c = false → t.joinHeld version c = none →
        exec (.commitNotice peer version target marks) s = .next (ends ((t.join version c).retagAll version c)))
      -- the target stands for that which its own writes have joined
      ∧ (∀ y : Foreign, Tab.get? t.foreign target = some y → y.joined = false → c = target)
      ∧ (∀ (x : Nat) (ms : List Nat) (y : Foreign), Tab.get? t.foreign target = some y → y.commits = some (x, ms) → y.joined = true → Tab.get? t.foreign x = none → c = x)
      -- requests that came before a reset of the link go before, whatever the marks say
      ∧ (∀ k, k < 16 → (t.stream peer k).old ≠ 0 → t.marksPassed peer marks = false)
      ∧ (Tab.get? s.foreign version = none → exec (.commitNotice peer version target marks) s = .next (t.sendCargo peer (.ack version false))))
    ∧ (∀ t u : State, s.arrived peer (.dead version marks) = true → s.takeIn peer (.dead version marks) = t →
      State.dropView { t with foreign := Tab.upd t.foreign version fun f => { f with dead := some marks } } version = u →
      (Tab.get? s.foreign version = some f → f.dead = none →
        exec (.deadNotice peer version marks) s = .next (if u.marksPassed peer marks && u.noFrame version then
          (u.dropForeign version version).sendCargo peer (.ack version true) else u))
      ∧ (Tab.get? s.foreign version = none → exec (.deadNotice peer version marks) s = .next (t.sendCargo peer (.ack version true))))
    ∧ (∀ t : State, s.arrived peer (.ack version false) = true → s.takeIn peer (.ack version false) = t → Tab.get? t.versions version = some x → x.state = 1 →
      exec (.noticeAck peer { version, dead := false }) s = .next (
        let owed := x.owed.filter (· != peer)
        State.sweepVersions { t with versions := Tab.set t.versions version { x with owed, state := if owed.isEmpty then 2 else 1 } }))
    ∧ (∀ t : State, s.arrived peer (.ack version true) = true → s.takeIn peer (.ack version true) = t → Tab.get? t.versions version = some x → x.state = 4 →
      exec (.noticeAck peer { version, dead := true }) s = .next (State.sweepVersions { t with
        versions := Tab.set t.versions version { x with owed := x.owed.filter (· != peer), state := 4 }
        streams := t.streams.map fun (y : Stream) => if y.peer == peer then { y with owed := y.owed.filter fun o => o.version != version } else y }))

/-- R401 to R407, R411: training of either direction of a link, the loss and the return of channels at the end that receives and at the
one that sends, new masks, reset, keys, and flits in and out: what a flit in order brings, one already taken, one that is out of order,
broken or not authentic, and a flit that is resent, packed, or carries a notice or an ACK alone. What a reply and an atomic take of a
payload is the model's (log entry 37, DEDUCED), and so are a failed authentication and a failed CRC as two outcomes, with the run of
failures that the control flit reports (log entry 36, DEDUCED), which beats of the loopback link are broken, that its sending end knows of
its channels at once (log entry 83, DESIGN CHOICE), that replies which wait go as it is reset (log entry 83, DEDUCED) and that a flit on a direction that does not carry changes nothing (log entry 20, DESIGN CHOICE). -/
def Obligations.LinkEvents : Prop :=
  ∀ (s : State) (peer ch : Nat) (m : BitVec 16) (c : Cargo) (rest : List Cargo) (k : Link) (i : InLink) (f : Flit) (x : Kept) (kept : List Kept),
    s.link peer = k → s.inLink peer = i →
    -- the end that receives sees the loss, and the return, and tells the end that sends
    (chanAnd m.toNat i.mask ≠ 0 → i.state.carries = true →
      exec (.lossOfLight peer m) s = .next ((s.updInLink peer fun k => { k with
        state := .retraining, lost := chanOr k.lost (chanAnd m.toNat i.mask), retrained := chanDiff k.retrained (chanAnd m.toNat i.mask) }).tellSender
          peer (.lost (chanAnd m.toNat i.mask))))
    ∧ (ch < 16 → (bitOf i.mask ch = false ∨ bitOf i.lost ch = true) → (i.state = .degraded ∨ i.state = .retraining) →
      exec (.channelRetrained peer ch) s = .next ((s.updInLink peer fun k => { k with
        state := .retraining, lost := chanDiff k.lost (2 ^ ch), retrained := chanOr k.retrained (2 ^ ch) }).tellSender peer (.back (2 ^ ch))))
    ∧ (∀ w, (peer ≠ s.device → s.tellSender peer w = s.sendCargo peer (.control w)) ∧ (peer = s.device → s.tellSender peer w = s.controlled peer w))
    ∧ (∀ l, chanAnd l k.mask ≠ 0 → k.state.carries = true → s.controlled peer (.lost l) = s.retrain peer (chanAnd l k.mask) 0)
    ∧ (∀ l b, k.state ≠ .retraining → bitOf s.fnmode.toNat 4 = false →
      s.retrain peer l b = s.updLink peer fun k =>
        { k with state := .retraining, lost := chanOr k.lost l, retrained := chanDiff (chanOr k.retrained b) l, byHost := false })
    -- a mask that changes is reported: 2 with the channels that it leaves out, else 3 with those that it takes in
    ∧ (let new := chanOr (chanDiff k.mask k.lost) k.retrained
       let t := s.updLink peer fun k =>
         { k with state := stateOfMask new .quarantined, mask := new, lost := 0, retrained := 0, restripes := min 65535 (k.restripes + 1)
                  resendFrom := k.firstUnacked }
       let ev := fun (code moved : Nat) => t.linkEvent peer code moved k.replay.length ((k.firstUnacked).getD 0)
       let changes := fun (t : State) => exec (.restripeComplete { peer, incoming := false }) s = .next t
       k.state = .retraining → k.byHost = false →
       (4 ≤ popN 16 new → chanDiff k.mask new ≠ 0 → changes (ev 2 (chanDiff k.mask new)))
       ∧ (4 ≤ popN 16 new → chanDiff k.mask new = 0 → chanDiff new k.mask ≠ 0 → changes (ev 3 (chanDiff new k.mask)))
       ∧ (4 ≤ popN 16 new → chanDiff k.mask new = 0 → chanDiff new k.mask = 0 → changes t)
       ∧ (popN 16 new < 4 → changes (s.quarantine peer k.lost)))
    -- the end that receives changes to the mask that both agree: on the loopback link, that which its other end has
    ∧ (∀ new, i.state = .retraining → s.agreedMask { peer, incoming := true, mask := m } = some new →
       exec (.restripeComplete { peer, incoming := true, mask := m }) s = .next (s.updInLink peer fun k =>
         if popN 16 new < 4 then { k with state := .quarantined, mask := 0, lost := 0, retrained := 0, part := none }
         else { k with state := stateOfMask new .quarantined, mask := new, lost := 0, retrained := 0 }))
    ∧ (peer ≠ s.device → s.agreedMask { peer, incoming := true, mask := m } = some m.toNat)
    ∧ (peer = s.device → k.state ≠ .retraining → s.agreedMask { peer, incoming := true, mask := m } = some k.mask)
    ∧ (k.state = .training → 4 ≤ popN 16 m.toNat →
      exec (.linkTrainingComplete { peer, incoming := false } m) s = .next (((s.updLink peer fun k =>
        { k with state := stateOfMask m.toNat .dark, mask := m.toNat, fseq := 0, acked := 65535 }).linkEvent peer 5 0 0 0).resendNotices peer))
    ∧ (k.state = .training → popN 16 m.toNat < 4 →
      exec (.linkTrainingComplete { peer, incoming := false } m) s = .next (s.updLink peer fun k => { k with state := .dark, mask := 0 }))
    ∧ (i.state = .training → exec (.linkTrainingComplete { peer, incoming := true } m) s = .next (s.updInLink peer fun k =>
        if popN 16 m.toNat < 4 then { k with state := .dark, mask := 0 }
        else { k with state := stateOfMask m.toNat .dark, mask := m.toNat, rx := 65535, nak := false, ackDue := false, part := none }))
    ∧ (s.windowOpen = true → k.state = .retraining → k.byHost = true →
      exec (.linkMaskWrite peer m) s = .next (s.accept.updLink peer fun k =>
        { k with byHost := false, lost := chanDiff k.mask m.toNat, retrained := chanDiff m.toNat k.mask }))
    ∧ (s.windowOpen = true → k.state = .quarantined →
      exec (.linkReset { peer, incoming := false }) s = .next (
        let t := s.accept.updLink peer fun k =>
          { Link.dark with state := .training, notes := k.notes, enc := k.enc, epoch := k.epoch, sealedCount := k.sealedCount
                           resentTotal := k.resentTotal, restripes := k.restripes }
        ((if peer = s.device then t.updInLink peer fun k => { InLink.dark with state := .training, inbox := k.inbox } else t).dropReplies peer).restartStreams peer))
    -- replies that wait belong to requests that have failed: they go, and what else has come stays
    ∧ (∀ y, y ∈ ((s.dropReplies peer).inLink peer).inbox ↔ y ∈ i.inbox ∧ ∀ a b d e g, y ≠ .reply a b d e g)
    ∧ (s.manage.perigee = true → exec (.linkReset { peer, incoming := true }) s = .next s)
    ∧ (s.manage.perigee = false → bitOf s.pod.toNat peer = true → peer ≠ s.device → exec (.linkReset { peer, incoming := true }) s = .next ((s.updInLink peer fun k =>
        { InLink.dark with state := .training, inbox := k.inbox }).restartStreams peer))
    ∧ (∀ y ∈ (s.restartStreams peer).streams, y.peer = peer → y.stream < 16 → y.next = 0 ∧ y.expect = 0)
    -- the requests that have come on a stream are performed before it goes on from 0, also where it was not used yet
    ∧ (∀ n, n < 16 → ((s.restartStreams peer).stream peer n).old = (i.inbox.filter fun c => match c with | .request r => r.stream == n | _ => false).length)
    ∧ (k.enc = true → (k.state = .up ∨ k.state = .degraded) →
      exec (.rekey peer) s = .next (((s.updLink peer fun k => { k with epoch := (k.epoch + 1) % 2 ^ 32, sealedCount := 0 }).linkEvent peer 7 0 0 0).sendCargo
        peer (.control (.rekey ((k.epoch + 1) % 2 ^ 32)))))
    -- flits in: `t` is the state with the flit counted and its ACK heard
    ∧ (let t := s.updInLink peer fun k => (k.count 0).1
       let t := t.updInLink peer fun k => { k with authRun := 0 }
       let t := if (t.link peer).state.carries then t.updLink peer fun k => k.heard f.ack f.nak else t
       i.state.carries = true →
       (f.ty ≠ 1 → f.ty ≠ 3 → f.fseq = (i.rx + 1) % 65536 →
         exec (.flitReceive peer f.fseq f.ack f.nak { ty := f.ty, chunks := f.chunks, check := .good }) s = .next ((t.updInLink peer fun k => { k with rx := f.fseq, nak := false, ackDue := true }).takeFlit peer f.chunks))
       ∧ (f.ty ≠ 1 → f.ty ≠ 3 → f.fseq ≠ (i.rx + 1) % 65536 → (i.rx + 65536 - f.fseq) % 65536 < 32768 →
         exec (.flitReceive peer f.fseq f.ack f.nak { ty := f.ty, chunks := f.chunks, check := .good }) s = .next (t.updInLink peer fun k => { k with ackDue := true }))
       ∧ (f.ty ≠ 1 → f.ty ≠ 3 → f.fseq ≠ (i.rx + 1) % 65536 → 32768 ≤ (i.rx + 65536 - f.fseq) % 65536 →
         exec (.flitReceive peer f.fseq f.ack f.nak { ty := f.ty, chunks := f.chunks, check := .good }) s = .next (t.updInLink peer fun k => { k with nak := true }))
       ∧ (f.ty = 1 ∨ f.ty = 3 → exec (.flitReceive peer f.fseq f.ack f.nak { ty := f.ty, chunks := f.chunks, check := .good }) s = .next t)
       ∧ exec (.flitReceive peer f.fseq f.ack f.nak { ty := f.ty, chunks := f.chunks, check := .auth }) s = .next (
           ((s.updInLink peer fun k => (k.count 0).1).updInLink peer fun k => { k with nak := true, authRun := i.authRun + 1 }).sendCargo peer
             (.control (.authFail (i.authRun + 1))))
       ∧ exec (.flitReceive peer f.fseq f.ack f.nak { ty := f.ty, chunks := f.chunks, check := .crc m }) s = .next (((s.updInLink peer fun k => (k.count m.toNat).1).updInLink peer fun k => { k with nak := true }).loseChannels
           peer (i.count m.toNat).2))
    ∧ (i.state.carries = false → ∀ got, exec (.flitReceive peer f.fseq f.ack f.nak got) s = .next s)
    -- flits out
    ∧ (let ready := (k.state = .up ∨ k.state = .degraded) ∧ k.resendFrom = none ∧ (k.enc = true → k.sealedCount < 2 ^ 32 - 1)
       let head : Flit := { fseq := k.fseq, ack := i.rx, ty := 0, nak := i.nak, chunks := [] }
       (ready → k.replay.length < 4096 → k.notes = c :: rest →
         exec (.flitSend peer) s = .next (s.emitNew peer { head with ty := 2, chunks := [{ cargo := c, start := 0, len := 0 }] } fun k => { k with notes := rest }))
       ∧ (ready → k.replay.length < 4096 → k.notes = [] → k.outbox = c :: rest →
         exec (.flitSend peer) s = .next (s.emitNew peer { head with chunks := (pack k.payload k.begun (c :: rest)).1 } fun y =>
           { y with outbox := (pack k.payload k.begun (c :: rest)).2.1, begun := (pack k.payload k.begun (c :: rest)).2.2 }))
       ∧ (ready → k.notes = [] → k.outbox = [] → i.nak = true ∨ i.ackDue = true →
         exec (.flitSend peer) s = .next (((s.updLink peer fun k => { k with sealedCount := if k.enc then k.sealedCount + 1 else k.sealedCount }).told
           peer).emit peer { head with ty := 1 })))
    -- the sender hears of a failed authentication: it records it, and after 16 on end the link is quarantined
    ∧ (∀ n, k.state.carries = true → s.controlled peer (.authFail n) =
        if 16 ≤ n then (s.linkEvent peer 6 0 0 0).quarantine peer 0 else s.linkEvent peer 6 0 0 0)
    -- a notice between the flits of a request leaves what has come of the request
    ∧ (∀ n : Chunk, cargoSize n.cargo = 0 → (i.takeChunk n 0).part = i.part ∧ (i.takeChunk n 0).inbox = i.inbox ++ [n.cargo])
    ∧ (∀ n, (k.state = .up ∨ k.state = .degraded) → k.resendFrom = some n → (k.replay.dropWhile fun x => x.flit.fseq != n) = x :: kept → x.times + 1 < 16 →
      exec (.flitSend peer) s = .next ((s.updLink peer fun k => { k with
        replay := k.replay.map fun (y : Kept) => if y.flit.fseq == n then { y with times := y.times + 1 } else y
        resendFrom := (kept.head?).map (·.flit.fseq), resentTotal := min 65535 (k.resentTotal + 1) }).emit peer x.flit))
    -- R402: a payload takes what fits, and a cargo that does not fit whole is begun in it
    ∧ (∀ cap, 0 < cap → cargoSize c ≤ cap → pack cap 0 (c :: rest) = (
        { cargo := c, start := 0, len := cargoSize c } :: (pack (cap - cargoSize c) 0 rest).1, (pack (cap - cargoSize c) 0 rest).2))
    ∧ (∀ cap, 0 < cap → cap < cargoSize c → pack cap 0 (c :: rest) = ([{ cargo := c, start := 0, len := cap }], c :: rest, cap))

/-- R286, R294, R295, R393, R406, R408 to R410, R414, R415: a peer's request is performed in its turn, a long one in two parts, and
answered; one of an unmapped context number is answered with status 4, and one of a dead version is dropped and counted (from the module
itself it leaves its window too: log entry 83, DESIGN CHOICE); one from before a reset of the link is not answered, since its number has
failed (R406); the second part of one in host memory whose port is lost ends with status 2 (R427); a reply brings a load's bytes to its lanes, or their failure, and a failed store sets its latch. That a request out of its turn
changes nothing is log entry 20 (DESIGN CHOICE). -/
def Obligations.RemoteEvents : Prop :=
  ∀ (s t u : State) (r : Req) (ctx st : Nat) (data : List Byte) (peer n seq status : Nat) (o : Owed) (x : Tr),
    let turn := s.reqTurn r = true ∧ s.deadHere r.version = false
    let reply := Cargo.reply peer n seq status data
    let comes := s.arrived peer reply = true ∧ s.takeIn peer reply = u ∧ ((u.stream peer n).owed.find? fun o => o.seq == seq) = some o
    let off := u.setStream { u.stream peer n with owed := (u.stream peer n).owed.erase o }
    let late := (s.stream r.peer r.stream).old ≠ 0
    (turn → ¬late → s.fctxCtx r.fctx = some ctx → s.remoteDo r ctx = (.answer st data, t) →
      exec (.remoteRequestPerform r) s = .next ((t.seqOn r).sendCargo r.peer (.reply t.device r.stream r.seq st data)))
    ∧ (∀ bs, turn → s.fctxCtx r.fctx = some ctx → (s.remoteDo r ctx = (.part bs, t) ∨ s.remoteDo r ctx = (.stop, t)) →
      exec (.remoteRequestPerform r) s = .next t)
    ∧ (turn → late → s.fctxCtx r.fctx = some ctx → s.remoteDo r ctx = (.answer st data, t) → exec (.remoteRequestPerform r) s = .next (t.seqOn r))
    ∧ (turn → late → s.fctxCtx r.fctx = none → exec (.remoteRequestPerform r) s = .next (s.seqOn r))
    ∧ (turn → ¬late → s.fctxCtx r.fctx = none →
      exec (.remoteRequestPerform r) s = .next ((s.seqOn r).sendCargo r.peer (.reply s.device r.stream r.seq 4 [])))
    ∧ (s.reqTurn r = true → s.deadHere r.version = true → s.fctxCtx r.fctx = some ctx →
      exec (.remoteRequestPerform r) s = .next ((s.updCtx ctx fun k => { k with drops := (k.drops + 1) % 2 ^ 64 }).dropReq r))
    ∧ (let w := (s.seqOn r).fed r.version (.request r.peer r.stream)
       let y := w.stream r.peer r.stream
       (r.peer ≠ s.device ∨ late → s.dropReq r = w)
       ∧ (r.peer = s.device → ¬late → (y.owed.find? fun o => o.seq == r.seq) = some o → s.dropReq r = w.setStream { y with owed := y.owed.erase o }))
    ∧ (s.reqTurn r = false → exec (.remoteRequestPerform r) s = .next s)
    ∧ ((s.stream r.peer r.stream).half = none → s.remoteCheck r ctx = (.inl x, t) → reqParts r = false →
      s.remoteDo r ctx = t.remoteAct r x (List.range (reqSize r)) (zeros (reqSize r)) true)
    ∧ (∀ h, (s.stream r.peer r.stream).half = some h → s.hostErrors h.loc h.size = true → s.remoteDo r ctx = (.answer 2 [], s))
    ∧ (∀ h, (s.stream r.peer r.stream).half = some h → s.hostErrors h.loc h.size = false → s.heldAll r { loc := h.loc, ov := h.ov } = none →
      s.remoteDo r ctx = s.remoteAct r { loc := h.loc, ov := h.ov } (reqPart r h.loc !h.odd) h.bytes true)
    ∧ (comes → status = 0 → o.kind % 2 = 0 → o.copy = none →
      exec (.remoteReply peer n seq status data) s = .next (
        (State.land ((o.lanes.zip o.offs).foldl (fun s p => s.deliverN o.group o.reg p.1 o.flight (o.value data p.2) o.regs) off) o.flight).remoteGo o true))
    ∧ (comes → status ≠ 0 → o.kind % 2 = 0 → o.copy = none →
      exec (.remoteReply peer n seq status data) s = .next ((off.failLanes o.flight (laneMask fun l => o.lanes.contains l)
        (if status = 1 then .dataPoison else .remoteError) (fun l => o.addr + (((o.lanes.zip o.offs).find? fun p => p.1 == l).map (·.2)).getD 0)).remoteGo o false))
    ∧ (comes → status ≠ 0 → o.kind % 2 = 1 → o.copy = none →
      exec (.remoteReply peer n seq status data) s = .next (off.setLatch o.ctx peer n o.addr))

/-! ### Events: the host, start, trust and power -/

/-- R276, R301, R423 to R427: what the host reads and writes of device memory (a half is read when the loads under way of it have been
performed: log entry 23, DEDUCED; the order of held writebacks, and BAR2's 8 bytes: log entry 42), what waits while a recall has yielded
4 times, its answers to recalls and snoops, and the loss of the port. Host addresses are offsets with HDMBASE 0 (log entry 7, DESIGN
CHOICE), and CXL's messages are events that carry their data (log entry 54, PRESUMED). -/
def Obligations.HostAccesses : Prop :=
  ∀ (s0 u : State) (p : Nat) (own poison up' : Bool) (data bs : List Byte) (i : Instr),
    let s : State := { s0 with port := { s0.port with again := false } }
    let line := (halfOf p).1
    let up := (halfOf p).2.1
    let loc := (halfOf p).2.2
    let b := s.bridge line
    let turn := fun (i : Instr) => s0.port.again = true ∨ ∀ j ∈ s0.port.held, hostTurn j ≠ hostTurn i
    let waits := (.next { s with port := { s.port with held := if s0.port.again then i :: s.port.held else s.port.held ++ [i] } } :
      Host.Outcome State Fault Refusal)
    let mine := s.hasMem = true ∧ p < 2 ^ 39 ∧ b.closed = false
    let t := u.answer (p / 64 * 64) ((List.range 64).map fun k => u.peek (loc + k)) (b2n (u.poisoned loc || u.poisoned (loc + 32)))
    let ps := placesFrom (loc + p % 64) (min data.length (64 - p % 64))
    (turn (.hostRead p own) → mine → s.loadsFirst loc 64 = (true, u) → t.lineSealed line = true → exec (.hostRead p own) s0 = .next t)
    ∧ (turn (.hostRead p own) → mine → s.loadsFirst loc 64 = (true, u) → t.lineSealed line = false →
      exec (.hostRead p own) s0 = .next ((t.dropEvery fun x => x.line == line).setBridge line (b.yielded.hold up true)))
    ∧ (turn (.hostWriteback p { data, poison }) → mine → b.holds up = true →
      exec (.hostWriteback p { data, poison }) s0 = .next ((s.hostBack loc { data, poison }).setBridge line (b.yielded.hold up false)))
    ∧ (turn (.hostWrite p data poison) → mine → s.lineSealed line = false → (if poison then s.loadsFirstAll ps else (true, s)) = (true, u) →
      exec (.hostWrite p data poison) s0 = .next (
        let v := (u.hostPut ps data poison).answer p [] 0
        if (Tab.get? v.port.lines line).isSome then v.setBridge line b.yielded else v))
    ∧ (turn (.hostWrite p data poison) → mine → s.lineSealed line = true → exec (.hostWrite p data poison) s0 = .next (s.answer p [] 2))
    ∧ (turn i → s.hasMem = true → p < 2 ^ 39 → b.closed = true →
      (i = .hostRead p own ∨ i = .hostWrite p data poison ∨ (i = .hostWriteback p { data, poison } ∧ b.holds up = true)) → exec i s0 = waits)
    ∧ (s0.hasMem = true → bitOf (s0.bridge line).recalled (b2n up) = true →
      exec (.recallResponse p { data, poison }) s0 = .next (
        let v := (s0.hostBack loc { data, poison }).setBridge line ((s0.bridge line).answered up)
        if bitOf ((s0.bridge line).answered up).recalled (b2n up) then v else v.backsFirst line up))
    -- a recall is complete with its response, unless the device has yielded since the snoop and the host holds the half; the other half's stands
    ∧ (∀ c : Bridge, c.recalled < 4 → c.stale < 4 → bitOf c.recalled (b2n up') = true →
      bitOf (c.answered up').recalled (b2n up') = (bitOf c.stale (b2n up') && c.holds up') ∧ (c.answered up').holds up' = (bitOf c.stale (b2n up') && c.holds up')
      ∧ (c.answered up').holds (!up') = c.holds (!up') ∧ bitOf (c.answered up').recalled (b2n !up') = bitOf c.recalled (b2n !up'))
    ∧ (s0.port.up = true → s0.port.mode < 3 → s0.port.l2host.contains (p / 64) = true →
      exec (.hostSnoop p { inval := false, data := [] }) s0 = .next (s0.answer (p / 64 * 64) ((List.range 64).map fun k => s0.peek (hostBase + p / 64 * 64 + k)) 0))
    ∧ (s0.port.up = true → s0.port.l2host.contains (p / 64) = false → data ≠ [] →
      exec (.hostSnoop p { inval := own, data }) s0 = .next (s0.hostPut (placesFrom (hostBase + p / 64 * 64) 64) (data.take 64) false))
    ∧ (let at_ := fun (n : Nat) => (List.range n).map fun k => physLoc 0 (p + k)
       let reached := fun (n : Nat) => s.port.up = true ∧ p + n ≤ 2 ^ 39 ∧ s.manage.recovery = false ∧ (s.manage.perigee = true → ∀ x ∈ at_ n, locStack x < 4)
       let free := fun (n : Nat) => ∀ x ∈ at_ n, s.heldHalf x 1 = false
       (turn (.bar2Access p none) → reached 8 → free 8 →
         exec (.bar2Access p none) s0 = .next (s.answer p ((at_ 8).map s.peek) (b2n ((at_ 8).any s.poisoned))))
       ∧ (turn (.bar2Access p (some bs)) → reached bs.length → free bs.length → (∀ x ∈ at_ bs.length, s.lineSealed (x / 128) = false) →
         exec (.bar2Access p (some bs)) s0 = .next (s.hostPut (at_ bs.length) bs false)))
    ∧ exec .portDown s0 = .next (State.failEngines ((s0.stores.map (·.1)).foldl (fun s n => s.failHost n) (
        let held := s0.port.lines.flatMap fun x =>
          (if x.2.lower then [128 * x.1, 128 * x.1 + 32] else []) ++ (if x.2.upper then [128 * x.1 + 64, 128 * x.1 + 96] else [])
        let v := held.foldl (fun s loc => s.markPoison loc) ({ s0 with port := { s0.port with up := false, l2host := [] } } : State)
        { v with port := { v.port with lines := [], held := [], again := false } })))

/-- R21, R428 to R435: the start step by step, with the check of the images' signatures, and the code, the slot, the count and the port of
each way that it fails; the links of a start; the fields of the window one by one; attestation (its signature, and how an image, its key
and its signature are held: log entry 82, PRESUMED); and the power and cooling of the module. That reset runs the steps in one event is
log entry 43 (DEDUCED); that a write while the window is closed, and a change of the clock in the same millisecond, change nothing is log
entry 20 (DESIGN CHOICE). -/
def Obligations.StartTrustPower : Prop :=
  (∀ (s : State) (k mode d : Nat) (x : Image),
    let m := s.manage
    let a := imageCheck m.rootKey m.slotA m.floor
    let b := imageCheck m.rootKey m.slotB m.floor
    let img := if a = 0 then m.slotA else m.slotB
    let runs := m.hang = none ∧ (a = 0 ∨ b = 0)
    let found := m.badStacks.find? fun k => decide (k < (if m.perigee then 4 else 8))
    let r := s.start
    exec .moduleReset s = .next s.powerOn.start
    ∧ s.powerOn.manage.perigee = decide (3 ≤ m.startCount) ∧ s.powerOn.manage.ready = false ∧ s.powerOn.port.up = State.reset.port.up
    -- step 1: a slot whose signature by the root key fails gives 1, one below the floor 2; slot B runs where slot A does not
    ∧ (let verifies := ecVerify m.rootKey (sha512 x.code) x.sigR x.sigS
       let gives := imageCheck m.rootKey x k
       (verifies = false → gives = 1) ∧ (verifies = true → x.version < k → gives = 2) ∧ (verifies = true → k ≤ x.version → gives = 0))
    ∧ (m.hang = none → a ≠ 0 → b ≠ 0 → r = s.failStart b 0)
    ∧ (runs → r.manage.measured = BitVec.ofNat 512 (sha512 img.code) ∧ r.manage.measuredCfg = BitVec.ofNat 512 (sha512 img.config))
    -- step 3: a stack that does not train; in Perigee stacks 4 to 7 are not asked
    ∧ (runs → found = some k → r.manage.failed = true ∧ r.manage.ready = false ∧ r.manage.reason = 3 ∧ r.manage.lastReason = 3 ∧ r.manage.badStack = k
        ∧ r.manage.startCount = min 255 (m.startCount + 1))
    -- step 4: no mode that the host accepts
    ∧ (runs → found = none → portMode m.hostAccepts m.perigee = none → r.manage.failed = true ∧ r.manage.ready = false ∧ r.manage.reason = 4
        ∧ r.manage.startCount = min 255 (m.startCount + 1) ∧ (m.perigee = true → r.port.up = false) ∧ (m.perigee = false → r.port = s.port))
    -- step 6: the window opens; a full start clears the count
    ∧ (runs → found = none → portMode m.hostAccepts m.perigee = some mode → r.manage.ready = true ∧ r.manage.failed = m.failed ∧ r.manage.step = 6
        ∧ r.port.up = true ∧ r.port.mode = mode ∧ r.port.width = portWidth m.hostAccepts ∧ r.manage.startCount = (if m.perigee then m.startCount else 0)
        ∧ r.links = s.startLinks.links)
    -- a failed start in Perigee leaves the recovery function, where the port can train to it; a full start leaves the port as it has trained
    ∧ ((s.failStart k 0).manage.recovery = (m.perigee && k != 4) ∧ (m.perigee = false → (s.failStart k 0).port = s.port)
        ∧ (m.perigee = true → ((s.failStart k 0).port.up = true ↔ k ≠ 4 ∧ bitOf m.hostAccepts 4 = true)))
    ∧ (d < 64 → (s.startLinks.link d).state = (if m.perigee = false ∧ bitOf s.pod.toNat d = true then .training else .dark)
        ∧ (d / 8 = s.device / 8 → (s.startLinks.link d).enc = false) ∧ (s.startLinks.inLink d).state = (s.startLinks.link d).state)
    -- a step that does not end: nothing is reported until the time is over
    ∧ (∀ n, m.hang = some n → 1 ≤ n → n ≤ 6 → m.ready = false → m.failed = false → (n = 1 ∨ a = 0 ∨ b = 0) → (n ≤ 3 ∨ found = none) →
        (n ≤ 4 ∨ portMode m.hostAccepts m.perigee ≠ none) → r.manage.ready = false ∧ r.manage.failed = false)
    ∧ (m.ready = false → m.failed = false → m.stopping = none → m.powered = true → exec .startTimeout s = .next (s.failStart 8 0))
    ∧ (m.stopping ≠ none → exec .startTimeout s = .next s)
    ∧ (s.windowOpen = true → m.perigee = true →
      exec .fullStartRequest s = .next (State.start (State.powerOn { s with manage := { m with startCount := 0 } })))
    ∧ (m.recovery = true → s.port.up = true → exec (.recoveryImageWrite x) s = .next { s with manage := { m with slotB := x } }))
  ∧ (∀ (s : State) (ctx die base size va n vector : Nat) (fs : List Nat) (avg : BitVec 16) (dmin dmax : BitVec 8),
    let writes := fun (w : WinReg) (t : State) => s.windowOpen = true → exec (.windowRegisterWrite w) s = .next t
    let live := s.ctxLive ctx = true
    (live → die < 2 → (∀ f ∈ fs, frameOk die f = true) → writes (.freeFrames ctx die fs)
      (s.accept.updCtx ctx fun c => if die = 0 then { c with frames0 := fs } else { c with frames1 := fs }))
    ∧ (live → base % 128 = 0 → base + size ≤ 2 ^ 39 → writes (.spillPool ctx base size) (s.accept.updCtx ctx fun c => { c with spillBase := base, spillSize := size }))
    ∧ (live → va % 64 = 0 → va < 2 ^ 49 → writes (.overlayDir ctx va) (s.accept.updCtx ctx fun c => { c with ovlDir := va }))
    ∧ (die < 2 → n ≤ 12 → writes (.vways die n) { s.accept with vways := s.vways.set die n })
    ∧ (n < 4096 → ctx ≠ 0 → live → writes (.fabricCtx n ctx) { s.accept with fabricCtx := Tab.set s.fabricCtx n ctx })
    ∧ (n < 4096 → writes (.fabricCtx n 0) { s.accept with fabricCtx := Tab.del s.fabricCtx n })
    ∧ (base % 32 = 0 → 4 ≤ size → size ≤ 20 → writes (.linkQueue base size)
      { s.accept with linkQueue := { LinkQueue.reset with base, size, msix := s.linkQueue.msix } })
    ∧ (live → writes (.ahist ctx avg) (s.accept.updCtx ctx fun c => { c with ahist := avg }))
    ∧ (live → writes (.draftCap ctx dmin dmax) (s.accept.updCtx ctx fun c => { c with dmin, dmax }))
    ∧ (live → vector < 64 → writes (.msix (some ctx) vector) (s.accept.updCtx ctx fun c => { c with msix := vector }))
    ∧ (vector < 64 → writes (.msix none vector) { s.accept with linkQueue := { s.linkQueue with msix := vector } })
    ∧ (∀ w, s.windowOpen = false → exec (.windowRegisterWrite w) s = .next s))
  ∧ ∀ (s : State) (nonce : BitVec 512) (v : BitVec 32) (r : Readings) (reason at_ : Nat),
    let still := s.manage.stepMs = some s.manage.ms
    (s.windowOpen = true → exec (.attestationRequest nonce) s = .next { s with
        free := s.free + 1
        port := { s.port with report := s.reportBytes nonce ++ signature s.free (s.reportBytes nonce), nonce := nonce.toNat } })
    ∧ (s.windowOpen = true → exec (.fnmodeWrite v) s = .next { s.keepModes.accept with fnmode := BitVec.ofNat 32 (v.toNat % 32) })
    ∧ (stopReason r = some reason → s.manage.stopping = none → s.manage.powered = true →
      exec (.thermalStop r) s = .next { s.stopRunning with manage := { s.stopRunning.manage with
        readings := r, stopping := some s.stopRunning.manage.ms, reason, lastReason := reason
        -- a start that has failed is counted once
        startCount := if s.stopRunning.manage.failed then s.stopRunning.manage.startCount else min 255 (s.stopRunning.manage.startCount + 1) } })
    ∧ (stopReason r = none → tooHot r = true → ¬still →
      exec (.clockThrottle r) s = .next { s with manage := { s.manage with
        readings := r, clock := max 1000 (s.manage.clock - 100), stepMs := some s.manage.ms, goodMs := 0 } })
    ∧ (allGood r = true → 10 ≤ s.manage.goodMs → ¬still →
      exec (.clockRaise r) s = .next { s with manage := { s.manage with readings := r, clock := min 2000 (s.manage.clock + 100), stepMs := some s.manage.ms } })
    ∧ (still → exec (.clockThrottle r) s = .next s ∧ exec (.clockRaise r) s = .next s)
    ∧ exec (.telemetryUpdate r) s = .next { s with manage := { s.manage with
        readings := r, ms := s.manage.ms + 1, goodMs := if allGood r then s.manage.goodMs + 1 else 0
        reported := (stopReason r).isNone && !tooHot r && tooCold r } }
    ∧ (s.manage.stopping = some at_ →
      ((∀ c ∈ s.stopRunning.contexts, c.2.state ≠ .preempting) ∨ at_ + 100 ≤ s.stopRunning.manage.ms) →
      exec .powerOff s = .next { s.stopRunning.powerOn with agenda := [], manage := { s.stopRunning.powerOn.manage with powered := false, perigee := false } })
end

