-- ==== Sys2Proof/Laws/Encode.lean ====
section
/-! SUPPORT. Reading back what the encoder writes, field by field. -/

namespace Sys2Proof
open Sys2Proof.Machine

theorem Opnd.bits_lt (o : Opnd) : o.bits < 4096 := by
  cases o <;> rename_i n <;> have := n.isLt <;> simp only [Opnd.bits] <;> omega

theorem opnd_of {x : Nat} {o : Opnd} (hx : x = o.bits) : opnd x = o := by
  unfold opnd
  cases o <;> rename_i n <;> have h := n.isLt <;> simp only [Opnd.bits] at hx
  · rw [if_pos (by omega)]
    exact congrArg Opnd.v (BitVec.eq_of_toNat_eq (by rw [BitVec.toNat_ofNat]; omega))
  · rw [if_neg (by omega), if_pos (by omega)]
    exact congrArg Opnd.o (BitVec.eq_of_toNat_eq (by rw [BitVec.toNat_ofNat]; omega))
  · rw [if_neg (by omega), if_neg (by omega), if_pos (by omega)]
    exact congrArg Opnd.z (BitVec.eq_of_toNat_eq (by rw [BitVec.toNat_ofNat]; omega))
  · rw [if_neg (by omega), if_neg (by omega), if_neg (by omega), if_pos (by omega)]
    exact congrArg Opnd.s (BitVec.eq_of_toNat_eq (by rw [BitVec.toNat_ofNat]; omega))
  · rw [if_neg (by omega), if_neg (by omega), if_neg (by omega), if_neg (by omega), if_pos (by omega)]
    exact congrArg Opnd.imm (BitVec.eq_of_toNat_eq (by rw [BitVec.toNat_ofNat]; omega))
  · rw [if_neg (by omega), if_neg (by omega), if_neg (by omega), if_neg (by omega), if_neg (by omega)]
    exact congrArg Opnd.sr (BitVec.eq_of_toNat_eq (by rw [BitVec.toNat_ofNat]; omega))
theorem opnd_bits (o : Opnd) : opnd o.bits = o := opnd_of rfl

/-- A field read as a bit vector. -/
theorem ofNat_of {w x : Nat} {y : BitVec w} (h : x % 2 ^ w = y.toNat) : BitVec.ofNat w x = y := BitVec.eq_of_toNat_eq (by rw [BitVec.toNat_ofNat, h])
theorem p3_of {x : Nat} {y : BitVec 3} (h : x % 8 = y.toNat) : p3 x = y := ofNat_of h
theorem n4_of {x : Nat} {y : BitVec 4} (h : x % 16 = y.toNat) : n4 x = y := ofNat_of h
theorem b2n_le (b : Bool) : b2n b ≤ 1 := by cases b <;> decide
theorem bitOf_of {x i : Nat} {b : Bool} (h : x / 2 ^ i % 2 = b2n b) : bitOf x i = b := by
  cases b <;> simp [bitOf, h, b2n]

theorem Wid.code_lt (x : Wid) : x.ctorIdx < 4 := by cases x <;> decide
theorem Wid.of_code {n : Nat} {x : Wid} (h : n = x.ctorIdx) : Wid.ofNat n = x := by subst h; cases x <;> rfl
theorem Cmp.code_lt (x : Cmp) : x.ctorIdx < 6 := by cases x <;> decide
theorem Cmp.of_code {n : Nat} {x : Cmp} (h : n = x.ctorIdx) : Cmp.ofNat n = x := by subst h; cases x <;> rfl
theorem Bop.code_lt (x : Bop) : x.ctorIdx < 4 := by cases x <;> decide
theorem Bop.of_code {n : Nat} {x : Bop} (h : n = x.ctorIdx) : Bop.ofNat n = x := by subst h; cases x <;> rfl
theorem Rnd.code_lt (x : Rnd) : x.ctorIdx < 6 := by cases x <;> decide
theorem Rnd.of_code {n : Nat} {x : Rnd} (h : n = x.ctorIdx) : Rnd.ofNat n = x := by subst h; cases x <;> rfl
theorem FCmp.code_lt (x : FCmp) : x.ctorIdx < 14 := by cases x <;> decide
theorem FCmp.of_code {n : Nat} {x : FCmp} (h : n = x.ctorIdx) : FCmp.ofNat n = x := by subst h; cases x <;> rfl
theorem Cv.code_lt (x : Cv) : x.ctorIdx < 30 := by cases x <;> decide
theorem Cv.of_code {n : Nat} {x : Cv} (h : n = x.ctorIdx) : Cv.ofNat n = x := by subst h; cases x <;> rfl
theorem Std.code_lt (x : Std) : x.ctorIdx < 3 := by cases x <;> decide
theorem Std.of_code {n : Nat} {x : Std} (h : n = x.ctorIdx) : Std.ofNat n = x := by subst h; cases x <;> rfl
theorem QDst.code_lt (x : QDst) : x.ctorIdx < 4 := by cases x <;> decide
theorem QDst.of_code {n : Nat} {x : QDst} (h : n = x.ctorIdx) : QDst.ofNat n = x := by subst h; cases x <;> rfl
theorem QRm.code_lt (x : QRm) : x.ctorIdx < 4 := by cases x <;> decide
theorem QRm.of_code {n : Nat} {x : QRm} (h : n = x.ctorIdx) : QRm.ofNat n = x := by subst h; cases x <;> rfl
theorem Sw.code_lt (x : Sw) : x.ctorIdx < 7 := by cases x <;> decide
theorem Sw.of_code {n : Nat} {x : Sw} (h : n = x.ctorIdx) : Sw.ofNat n = x := by subst h; cases x <;> rfl
theorem RedOp.code_lt (x : RedOp) : x.ctorIdx < 11 := by cases x <;> decide
theorem RedOp.of_code {n : Nat} {x : RedOp} (h : n = x.ctorIdx) : RedOp.ofNat n = x := by subst h; cases x <;> rfl
theorem Sz.code_lt (x : Sz) : x.ctorIdx < 7 := by cases x <;> decide
theorem Sz.of_code {n : Nat} {x : Sz} (h : n = x.ctorIdx) : Sz.ofNat n = x := by subst h; cases x <;> rfl
theorem Pol.code_lt (x : Pol) : x.ctorIdx < 4 := by cases x <;> decide
theorem Pol.of_code {n : Nat} {x : Pol} (h : n = x.ctorIdx) : Pol.ofNat n = x := by subst h; cases x <;> rfl
theorem Scope.code_lt (x : Scope) : x.ctorIdx < 6 := by cases x <;> decide
theorem Scope.of_code {n : Nat} {x : Scope} (h : n = x.ctorIdx) : Scope.ofNat n = x := by subst h; cases x <;> rfl
theorem Order.code_lt (x : Order) : x.ctorIdx < 4 := by cases x <;> decide
theorem Order.of_code {n : Nat} {x : Order} (h : n = x.ctorIdx) : Order.ofNat n = x := by subst h; cases x <;> rfl
theorem FenceKind.code_lt (x : FenceKind) : x.ctorIdx < 3 := by cases x <;> decide
theorem FenceKind.of_code {n : Nat} {x : FenceKind} (h : n = x.ctorIdx) : FenceKind.ofNat n = x := by subst h; cases x <;> rfl
theorem AtomOp.code_lt (x : AtomOp) : x.ctorIdx < 12 := by cases x <;> decide
theorem AtomOp.of_code {n : Nat} {x : AtomOp} (h : n = x.ctorIdx) : AtomOp.ofNat n = x := by subst h; cases x <;> rfl
theorem CctlOp.code_lt (x : CctlOp) : x.ctorIdx < 3 := by cases x <;> decide
theorem CctlOp.of_code {n : Nat} {x : CctlOp} (h : n = x.ctorIdx) : CctlOp.ofNat n = x := by subst h; cases x <;> rfl
theorem Spc.code_lt (x : Spc) : x.ctorIdx < 3 := by cases x <;> decide
theorem Spc.of_code {n : Nat} {x : Spc} (h : n = x.ctorIdx) : Spc.ofNat n = x := by subst h; cases x <;> rfl
theorem MmaTy.code_lt (x : MmaTy) : x.ctorIdx < 7 := by cases x <;> decide
theorem MmaTy.of_code {n : Nat} {x : MmaTy} (h : n = x.ctorIdx) : MmaTy.ofNat n = x := by subst h; cases x <;> rfl

theorem IMod.bits_lt (m : IMod) : m.bits < 16 := by
  have := m.wid.code_lt; have := b2n_le m.sgn; have := b2n_le m.sat; simp only [IMod.bits]; omega
theorem imod_of {x : Nat} {m : IMod} (h : x % 16 = m.bits) : imodOf x = m := by
  obtain ⟨w, s, t⟩ := m
  simp only [IMod.bits] at h
  have := w.code_lt; have := b2n_le s; have := b2n_le t
  simp only [imodOf, IMod.mk.injEq]
  exact ⟨Wid.of_code (by omega), bitOf_of (by omega), bitOf_of (by omega)⟩
theorem Carry.bits_lt (m : Carry) : m.bits < 128 := by
  have := m.pci.isLt; have := m.pco.isLt; have := b2n_le m.nci; simp only [Carry.bits]; omega
theorem carry_of {x : Nat} {m : Carry} (h : x = m.bits) : carryOf x = m := by
  obtain ⟨i, o, n⟩ := m
  simp only [Carry.bits] at h
  have := i.isLt; have := o.isLt; have := b2n_le n
  simp only [carryOf, fld, Carry.mk.injEq]
  exact ⟨p3_of (by omega), p3_of (by omega), bitOf_of (by omega)⟩
theorem FMod.bits_lt (m : FMod) : m.bits < 256 := by
  have := m.rnd.code_lt; have := b2n_le m.nega; have := b2n_le m.negb; have := b2n_le m.negc; have := b2n_le m.absa; have := b2n_le m.sat
  simp only [FMod.bits]; omega
theorem fmod_of {x : Nat} {m : FMod} (h : x = m.bits) : fmodOf x = m := by
  obtain ⟨r, a, b, c, d, e⟩ := m
  simp only [FMod.bits] at h
  have := r.code_lt; have := b2n_le a; have := b2n_le b; have := b2n_le c; have := b2n_le d; have := b2n_le e
  simp only [fmodOf, FMod.mk.injEq]
  exact ⟨Rnd.of_code (by omega), bitOf_of (by omega), bitOf_of (by omega), bitOf_of (by omega), bitOf_of (by omega), bitOf_of (by omega)⟩
theorem FSetMod.bits_lt (m : FSetMod) : m.bits < 128 := by
  have := m.cmp.code_lt; have := b2n_le m.nega; have := b2n_le m.negb; have := b2n_le m.absa; simp only [FSetMod.bits]; omega
theorem fset_of {x y : Nat} {m : FSetMod} (h : x = m.bits) (hy : y = m.bop.ctorIdx) : fsetOf x y = m := by
  obtain ⟨r, a, b, c, d⟩ := m
  simp only [FSetMod.bits] at h
  simp only at hy
  have := r.code_lt; have := b2n_le a; have := b2n_le b; have := b2n_le c; have := d.code_lt
  simp only [fsetOf, fld, FSetMod.mk.injEq]
  exact ⟨FCmp.of_code (by omega), bitOf_of (by omega), bitOf_of (by omega), bitOf_of (by omega), Bop.of_code (by omega)⟩
theorem XMod.bits_lt (m : XMod) : m.bits < 16 := by
  have := m.sw.code_lt; have := b2n_le m.x64; simp only [XMod.bits]; omega
theorem xmod_of {x : Nat} {m : XMod} (h : x % 16 = m.bits) : xmodOf x = m := by
  obtain ⟨w, s⟩ := m
  simp only [XMod.bits] at h
  have := w.code_lt; have := b2n_le s
  simp only [xmodOf, XMod.mk.injEq]
  exact ⟨Sw.of_code (by omega), bitOf_of (by omega)⟩
theorem AMod.bitsA_lt (m : AMod) : m.bitsA < 64 := by
  have := m.op.code_lt; have := b2n_le m.sgn; have := b2n_le m.x64; simp only [AMod.bitsA]; omega
theorem AMod.bitsB_lt (m : AMod) : m.bitsB < 32 := by
  have := m.scope.code_lt; have := m.ord.code_lt; simp only [AMod.bitsB]; omega
theorem amod_of {x y : Nat} {m : AMod} (h : x = m.bitsA) (hy : y = m.bitsB) : amodOf x y = m := by
  obtain ⟨o, s, t, p, q⟩ := m
  simp only [AMod.bitsA] at h
  simp only [AMod.bitsB] at hy
  have := o.code_lt; have := b2n_le s; have := b2n_le t; have := p.code_lt; have := q.code_lt
  simp only [amodOf, fld, AMod.mk.injEq]
  exact ⟨AtomOp.of_code (by omega), bitOf_of (by omega), bitOf_of (by omega), Scope.of_code (by omega), Order.of_code (by omega)⟩
theorem CopyMod.bitsA_lt (m : CopyMod) : m.bitsA < 16 := by
  have := m.dsp.code_lt; have := m.ssp.code_lt; simp only [CopyMod.bitsA]; omega
theorem CopyMod.bitsB_lt (m : CopyMod) : m.bitsB < 16 := by
  have := m.ch.isLt; have := b2n_le m.fix; simp only [CopyMod.bitsB]; omega
theorem copymod_of {x y : Nat} {m : CopyMod} (h : x % 16 = m.bitsA) (hy : y = m.bitsB) : copyModOf x y = m := by
  obtain ⟨o, s, t, p⟩ := m
  simp only [CopyMod.bitsA] at h
  simp only [CopyMod.bitsB] at hy
  have := o.code_lt; have := s.code_lt; have := b2n_le t; have := p.isLt
  simp only [copyModOf, fld, CopyMod.mk.injEq]
  exact ⟨Spc.of_code (by omega), Spc.of_code (by omega), bitOf_of (by omega), p3_of (by omega)⟩
theorem MmaMod.bitsA_lt (m : MmaMod) : m.bitsA < 256 := by
  have := m.ty.code_lt; have := b2n_le m.new; have := b2n_le m.nb; have := m.blk.isLt; simp only [MmaMod.bitsA]; omega
theorem MmaMod.bitsL_lt (m : MmaMod) : m.bitsL < 256 := by
  have := m.fmta.isLt; have := m.fmtb.isLt; have := b2n_le m.sgna; have := b2n_le m.sgnb; simp only [MmaMod.bitsL]; omega
theorem mmamod_of {x y : Nat} {m : MmaMod} (h : x = m.bitsA) (hy : y = m.bitsL) : mmaModOf x y = m := by
  obtain ⟨o, s, t, p, q, r, u, v⟩ := m
  simp only [MmaMod.bitsA] at h
  simp only [MmaMod.bitsL] at hy
  have := o.code_lt; have := b2n_le s; have := b2n_le t; have := p.isLt; have := q.isLt; have := r.isLt; have := b2n_le u; have := b2n_le v
  simp only [mmaModOf, fld, MmaMod.mk.injEq]
  exact ⟨MmaTy.of_code (by omega), bitOf_of (by omega), bitOf_of (by omega), ofNat_of (by omega), p3_of (by omega), p3_of (by omega),
    bitOf_of (by omega), bitOf_of (by omega)⟩
theorem FragMod.bits_lt (m : FragMod) : m.bits < 16 := by
  have := m.q.isLt; have := b2n_le m.qsel; have := b2n_le m.f64; simp only [FragMod.bits]; omega
theorem frag_of {x : Nat} {m : FragMod} (h : x = m.bits) : fragOf x = m := by
  obtain ⟨o, s, t⟩ := m
  simp only [FragMod.bits] at h
  have := o.isLt; have := b2n_le s; have := b2n_le t
  simp only [fragOf, fld, FragMod.mk.injEq]
  exact ⟨ofNat_of (by omega), bitOf_of (by omega), bitOf_of (by omega)⟩
theorem hdBits_lt (m : Option (BitVec 4)) : hdBits m < 16 := by
  cases m with
  | none => decide
  | some x => exact x.isLt
theorem hd_of {x y : Nat} {m : Option (BitVec 4)} (h : x / 2 ^ y % 2 = b2n m.isSome) {z : Nat} (hz : z % 16 = hdBits m) : hdOf (bitOf x y) z = m := by
  rw [bitOf_of h]
  cases m with
  | none => rfl
  | some v => exact congrArg some (n4_of hz)
theorem AttMod.bitsA_lt (m : AttMod) : m.bitsA < 64 := by
  have := m.nh.isLt; have := b2n_le m.f16; have := b2n_le m.hd.isSome; simp only [AttMod.bitsA]; omega
theorem att_of {x y z : Nat} {m : AttMod} (h : x % 4 = m.bitsA % 4) (h4 : x / 16 = m.bitsA / 16) (hy : y / 16 = hdBits m.hd)
    (hz : z / 2 ^ 20 % 2 ^ 6 = m.nk.toNat) : attOf x y z = m := by
  obtain ⟨n, f, d, k⟩ := m
  simp only [AttMod.bitsA] at h h4
  have := n.isLt; have := b2n_le f; have := b2n_le d.isSome; have := hdBits_lt d
  simp only [attOf, fld, AttMod.mk.injEq]
  exact ⟨ofNat_of (by omega), bitOf_of (by omega), hd_of (by omega) (by simp only at hy; omega), ofNat_of (by simp only at hz; omega)⟩
theorem KvSrc.bits_lt (m : KvSrc) : m.bits < 4096 := by
  cases m with
  | map a => have := a.isLt; simp only [KvSrc.bits]; omega
  | desc a => exact a.bits_lt
theorem kv_of {x i y : Nat} {m : KvSrc} (h : x / 2 ^ i % 2 = b2n m.isKv) (hy : y = m.bits) : kvOf (bitOf x i) y = m := by
  rw [bitOf_of h, hy]
  cases m with
  | map a => exact congrArg KvSrc.map (n4_of (Nat.mod_eq_of_lt a.isLt))
  | desc a => exact congrArg KvSrc.desc (opnd_bits a)

/-- The fields stay in their places, and a field of a word that the instruction does not have is zero (R57, R58, R67). -/
def Fields.inPlace (f : Fields) (len : Nat) : Prop :=
  f.opc < 1024 ∧ f.d < 4096 ∧ f.a < 4096 ∧ f.moda < 256 ∧ f.b < 4096 ∧ f.c < 4096 ∧ f.modb < 256 ∧ f.lit < 2 ^ 32
  ∧ 2 ≤ len ∧ len ≤ 4 ∧ (3 ≤ len ∨ f.b < 1 ∧ f.c < 1 ∧ f.modb < 1) ∧ (4 ≤ len ∨ f.lit < 1)

/-- The words of fields in their places give the fields back, a word that the instruction does not have reading zero. -/
theorem fieldsOf_words {f : Fields} {len : Nat} (h : f.inPlace len) :
    fieldsOf (f.w0 len) f.w1 (if 3 ≤ len then f.w2 else 0) (if 4 ≤ len then f.lit else 0) = f := by
  obtain ⟨opc, ⟨st, y, gp, gn, wsb, wt⟩, d, a, ma, b, c, mb, lit⟩ := f
  simp only [Fields.inPlace] at h
  obtain ⟨ho, hd, ha, hma, hb, hc, hmb, -, hl2, hl4, h3, h4⟩ := h
  have := st.isLt; have := b2n_le y; have := gp.isLt; have := b2n_le gn; have := wsb.isLt; have := wt.isLt
  have e2 : (if 3 ≤ len then Fields.w2 ⟨opc, ⟨st, y, gp, gn, wsb, wt⟩, d, a, ma, b, c, mb, lit⟩ else 0) = b + 2 ^ 12 * c + 2 ^ 24 * mb := by
    split
    · rfl
    · omega
  have e3 : (if 4 ≤ len then lit else 0) = lit := by split <;> omega
  simp only [e2, e3, fieldsOf, hdrOf, fld, Fields.w0, Fields.w1, Fields.mk.injEq, Hdr.mk.injEq]
  exact ⟨by omega, ⟨ofNat_of (by omega), bitOf_of (by omega), ofNat_of (by omega), bitOf_of (by omega), ofNat_of (by omega), ofNat_of (by omega)⟩,
    by omega, by omega, by omega, by omega, by omega, by omega, trivial⟩

/-- LEN of word 0 (R57). -/
theorem w0_len {f : Fields} {len : Nat} (h : f.inPlace len) : f.w0 len % 4 = len - 2 := by
  simp only [Fields.inPlace] at h
  have := b2n_le f.hdr.y; have := b2n_le f.hdr.gn
  simp only [Fields.w0]; omega

/-- The opcode of word 0 (R57). -/
theorem w0_opc {f : Fields} {len : Nat} (h : f.inPlace len) : fld (f.w0 len) 2 10 = f.opc := by
  simpa [fieldsOf] using congrArg Fields.opc (fieldsOf_words h)

end Sys2Proof
end

