-- ==== Sys2Proof/Laws/Group.lean ====
section
/-! SUPPORT. What the named updates of a group leave as it was, field by field, and what they set. -/

namespace Sys2Proof.Machine

section setV
variable (g : Group) (n m : Nat) (f : Nat → Word)
@[simp] theorem Group.setV_team : (g.setV n m f).team = g.team := rfl
@[simp] theorem Group.setV_grid : (g.setV n m f).grid = g.grid := rfl
@[simp] theorem Group.setV_gid : (g.setV n m f).gid = g.gid := rfl
@[simp] theorem Group.setV_v : (g.setV n m f).v = Tab.set g.v n (mergeRow m f (g.rowV n)) := rfl
@[simp] theorem Group.setV_o : (g.setV n m f).o = g.o := rfl
@[simp] theorem Group.setV_z : (g.setV n m f).z = g.z := rfl
@[simp] theorem Group.setV_s : (g.setV n m f).s = g.s := rfl
@[simp] theorem Group.setV_p : (g.setV n m f).p = g.p := rfl
@[simp] theorem Group.setV_j : (g.setV n m f).j = g.j := rfl
@[simp] theorem Group.setV_h : (g.setV n m f).h = g.h := rfl
@[simp] theorem Group.setV_fmt : (g.setV n m f).fmt = g.fmt := rfl
@[simp] theorem Group.setV_vallot : (g.setV n m f).vallot = g.vallot := rfl
@[simp] theorem Group.setV_reserve : (g.setV n m f).reserve = g.reserve := rfl
@[simp] theorem Group.setV_slim : (g.setV n m f).slim = g.slim := rfl
@[simp] theorem Group.setV_divdepth : (g.setV n m f).divdepth = g.divdepth := rfl
@[simp] theorem Group.setV_depth : (g.setV n m f).depth = g.depth := rfl
@[simp] theorem Group.setV_fpctl : (g.setV n m f).fpctl = g.fpctl := rfl
@[simp] theorem Group.setV_fpstat : (g.setV n m f).fpstat = g.fpstat := rfl
@[simp] theorem Group.setV_gctl : (g.setV n m f).gctl = g.gctl := rfl
@[simp] theorem Group.setV_rowprog : (g.setV n m f).rowprog = g.rowprog := rfl
@[simp] theorem Group.setV_trapcode : (g.setV n m f).trapcode = g.trapcode := rfl
@[simp] theorem Group.setV_trapaddr : (g.setV n m f).trapaddr = g.trapaddr := rfl
@[simp] theorem Group.setV_lanes : (g.setV n m f).lanes = g.lanes := rfl
@[simp] theorem Group.setV_gang : (g.setV n m f).gang = g.gang := rfl
@[simp] theorem Group.setV_stamps : (g.setV n m f).stamps = g.stamps := rfl
@[simp] theorem Group.setV_uid : (g.setV n m f).uid = g.uid := rfl
@[simp] theorem Group.setV_came : (g.setV n m f).came = g.came := rfl
end setV

section setO
variable (g : Group) (n m : Nat) (f : Nat → Word)
@[simp] theorem Group.setO_team : (g.setO n m f).team = g.team := rfl
@[simp] theorem Group.setO_grid : (g.setO n m f).grid = g.grid := rfl
@[simp] theorem Group.setO_gid : (g.setO n m f).gid = g.gid := rfl
@[simp] theorem Group.setO_v : (g.setO n m f).v = g.v := rfl
@[simp] theorem Group.setO_o : (g.setO n m f).o = Tab.set g.o n (mergeRow m f (g.rowO n)) := rfl
@[simp] theorem Group.setO_z : (g.setO n m f).z = g.z := rfl
@[simp] theorem Group.setO_s : (g.setO n m f).s = g.s := rfl
@[simp] theorem Group.setO_p : (g.setO n m f).p = g.p := rfl
@[simp] theorem Group.setO_j : (g.setO n m f).j = g.j := rfl
@[simp] theorem Group.setO_h : (g.setO n m f).h = g.h := rfl
@[simp] theorem Group.setO_fmt : (g.setO n m f).fmt = g.fmt := rfl
@[simp] theorem Group.setO_vallot : (g.setO n m f).vallot = g.vallot := rfl
@[simp] theorem Group.setO_reserve : (g.setO n m f).reserve = g.reserve := rfl
@[simp] theorem Group.setO_slim : (g.setO n m f).slim = g.slim := rfl
@[simp] theorem Group.setO_divdepth : (g.setO n m f).divdepth = g.divdepth := rfl
@[simp] theorem Group.setO_depth : (g.setO n m f).depth = g.depth := rfl
@[simp] theorem Group.setO_fpctl : (g.setO n m f).fpctl = g.fpctl := rfl
@[simp] theorem Group.setO_fpstat : (g.setO n m f).fpstat = g.fpstat := rfl
@[simp] theorem Group.setO_gctl : (g.setO n m f).gctl = g.gctl := rfl
@[simp] theorem Group.setO_rowprog : (g.setO n m f).rowprog = g.rowprog := rfl
@[simp] theorem Group.setO_trapcode : (g.setO n m f).trapcode = g.trapcode := rfl
@[simp] theorem Group.setO_trapaddr : (g.setO n m f).trapaddr = g.trapaddr := rfl
@[simp] theorem Group.setO_lanes : (g.setO n m f).lanes = g.lanes := rfl
@[simp] theorem Group.setO_gang : (g.setO n m f).gang = g.gang := rfl
@[simp] theorem Group.setO_stamps : (g.setO n m f).stamps = g.stamps := rfl
@[simp] theorem Group.setO_uid : (g.setO n m f).uid = g.uid := rfl
@[simp] theorem Group.setO_came : (g.setO n m f).came = g.came := rfl
end setO

section pushZ
variable (g : Group) (m : Nat) (f : Nat → Word)
@[simp] theorem Group.pushZ_team : (g.pushZ m f).team = g.team := rfl
@[simp] theorem Group.pushZ_grid : (g.pushZ m f).grid = g.grid := rfl
@[simp] theorem Group.pushZ_gid : (g.pushZ m f).gid = g.gid := rfl
@[simp] theorem Group.pushZ_v : (g.pushZ m f).v = g.v := rfl
@[simp] theorem Group.pushZ_o : (g.pushZ m f).o = g.o := rfl
@[simp] theorem Group.pushZ_s : (g.pushZ m f).s = g.s := rfl
@[simp] theorem Group.pushZ_p : (g.pushZ m f).p = g.p := rfl
@[simp] theorem Group.pushZ_j : (g.pushZ m f).j = g.j := rfl
@[simp] theorem Group.pushZ_h : (g.pushZ m f).h = g.h := rfl
@[simp] theorem Group.pushZ_fmt : (g.pushZ m f).fmt = g.fmt := rfl
@[simp] theorem Group.pushZ_vallot : (g.pushZ m f).vallot = g.vallot := rfl
@[simp] theorem Group.pushZ_reserve : (g.pushZ m f).reserve = g.reserve := rfl
@[simp] theorem Group.pushZ_slim : (g.pushZ m f).slim = g.slim := rfl
@[simp] theorem Group.pushZ_divdepth : (g.pushZ m f).divdepth = g.divdepth := rfl
@[simp] theorem Group.pushZ_depth : (g.pushZ m f).depth = g.depth := rfl
@[simp] theorem Group.pushZ_fpctl : (g.pushZ m f).fpctl = g.fpctl := rfl
@[simp] theorem Group.pushZ_fpstat : (g.pushZ m f).fpstat = g.fpstat := rfl
@[simp] theorem Group.pushZ_gctl : (g.pushZ m f).gctl = g.gctl := rfl
@[simp] theorem Group.pushZ_rowprog : (g.pushZ m f).rowprog = g.rowprog := rfl
@[simp] theorem Group.pushZ_trapcode : (g.pushZ m f).trapcode = g.trapcode := rfl
@[simp] theorem Group.pushZ_trapaddr : (g.pushZ m f).trapaddr = g.trapaddr := rfl
@[simp] theorem Group.pushZ_lanes : (g.pushZ m f).lanes = g.lanes := rfl
@[simp] theorem Group.pushZ_gang : (g.pushZ m f).gang = g.gang := rfl
@[simp] theorem Group.pushZ_stamps : (g.pushZ m f).stamps = g.stamps := rfl
@[simp] theorem Group.pushZ_uid : (g.pushZ m f).uid = g.uid := rfl
@[simp] theorem Group.pushZ_came : (g.pushZ m f).came = g.came := rfl
end pushZ

section setS
variable (g : Group) (t n : Nat) (w : DWord)
@[simp] theorem Group.setS_team : (g.setS t n w).team = g.team := rfl
@[simp] theorem Group.setS_grid : (g.setS t n w).grid = g.grid := rfl
@[simp] theorem Group.setS_gid : (g.setS t n w).gid = g.gid := rfl
@[simp] theorem Group.setS_v : (g.setS t n w).v = g.v := rfl
@[simp] theorem Group.setS_o : (g.setS t n w).o = g.o := rfl
@[simp] theorem Group.setS_z : (g.setS t n w).z = g.z := rfl
@[simp] theorem Group.setS_s : (g.setS t n w).s = Tab.set g.s n w := rfl
@[simp] theorem Group.setS_p : (g.setS t n w).p = g.p := rfl
@[simp] theorem Group.setS_j : (g.setS t n w).j = g.j := rfl
@[simp] theorem Group.setS_h : (g.setS t n w).h = g.h := rfl
@[simp] theorem Group.setS_fmt : (g.setS t n w).fmt = g.fmt := rfl
@[simp] theorem Group.setS_vallot : (g.setS t n w).vallot = g.vallot := rfl
@[simp] theorem Group.setS_reserve : (g.setS t n w).reserve = g.reserve := rfl
@[simp] theorem Group.setS_slim : (g.setS t n w).slim = g.slim := rfl
@[simp] theorem Group.setS_divdepth : (g.setS t n w).divdepth = g.divdepth := rfl
@[simp] theorem Group.setS_depth : (g.setS t n w).depth = g.depth := rfl
@[simp] theorem Group.setS_fpctl : (g.setS t n w).fpctl = g.fpctl := rfl
@[simp] theorem Group.setS_fpstat : (g.setS t n w).fpstat = g.fpstat := rfl
@[simp] theorem Group.setS_gctl : (g.setS t n w).gctl = g.gctl := rfl
@[simp] theorem Group.setS_rowprog : (g.setS t n w).rowprog = g.rowprog := rfl
@[simp] theorem Group.setS_trapcode : (g.setS t n w).trapcode = g.trapcode := rfl
@[simp] theorem Group.setS_trapaddr : (g.setS t n w).trapaddr = g.trapaddr := rfl
@[simp] theorem Group.setS_lanes : (g.setS t n w).lanes = g.lanes := rfl
@[simp] theorem Group.setS_gang : (g.setS t n w).gang = g.gang := rfl
@[simp] theorem Group.setS_stamps : (g.setS t n w).stamps = Tab.set g.stamps (stampS n) t := rfl
@[simp] theorem Group.setS_uid : (g.setS t n w).uid = g.uid := rfl
@[simp] theorem Group.setS_came : (g.setS t n w).came = g.came := rfl
end setS

section setJ
variable (g : Group) (n m : Nat)
@[simp] theorem Group.setJ_team : (g.setJ n m).team = g.team := rfl
@[simp] theorem Group.setJ_grid : (g.setJ n m).grid = g.grid := rfl
@[simp] theorem Group.setJ_gid : (g.setJ n m).gid = g.gid := rfl
@[simp] theorem Group.setJ_v : (g.setJ n m).v = g.v := rfl
@[simp] theorem Group.setJ_o : (g.setJ n m).o = g.o := rfl
@[simp] theorem Group.setJ_z : (g.setJ n m).z = g.z := rfl
@[simp] theorem Group.setJ_s : (g.setJ n m).s = g.s := rfl
@[simp] theorem Group.setJ_p : (g.setJ n m).p = g.p := rfl
@[simp] theorem Group.setJ_j : (g.setJ n m).j = Tab.set g.j n m := rfl
@[simp] theorem Group.setJ_h : (g.setJ n m).h = g.h := rfl
@[simp] theorem Group.setJ_fmt : (g.setJ n m).fmt = g.fmt := rfl
@[simp] theorem Group.setJ_vallot : (g.setJ n m).vallot = g.vallot := rfl
@[simp] theorem Group.setJ_reserve : (g.setJ n m).reserve = g.reserve := rfl
@[simp] theorem Group.setJ_slim : (g.setJ n m).slim = g.slim := rfl
@[simp] theorem Group.setJ_divdepth : (g.setJ n m).divdepth = g.divdepth := rfl
@[simp] theorem Group.setJ_depth : (g.setJ n m).depth = g.depth := rfl
@[simp] theorem Group.setJ_fpctl : (g.setJ n m).fpctl = g.fpctl := rfl
@[simp] theorem Group.setJ_fpstat : (g.setJ n m).fpstat = g.fpstat := rfl
@[simp] theorem Group.setJ_gctl : (g.setJ n m).gctl = g.gctl := rfl
@[simp] theorem Group.setJ_rowprog : (g.setJ n m).rowprog = g.rowprog := rfl
@[simp] theorem Group.setJ_trapcode : (g.setJ n m).trapcode = g.trapcode := rfl
@[simp] theorem Group.setJ_trapaddr : (g.setJ n m).trapaddr = g.trapaddr := rfl
@[simp] theorem Group.setJ_lanes : (g.setJ n m).lanes = g.lanes := rfl
@[simp] theorem Group.setJ_gang : (g.setJ n m).gang = g.gang := rfl
@[simp] theorem Group.setJ_stamps : (g.setJ n m).stamps = g.stamps := rfl
@[simp] theorem Group.setJ_uid : (g.setJ n m).uid = g.uid := rfl
@[simp] theorem Group.setJ_came : (g.setJ n m).came = g.came := rfl
end setJ

section newJ
variable (g : Group) (n m : Nat)
@[simp] theorem Group.newJ_team : (g.newJ n m).team = g.team := rfl
@[simp] theorem Group.newJ_grid : (g.newJ n m).grid = g.grid := rfl
@[simp] theorem Group.newJ_gid : (g.newJ n m).gid = g.gid := rfl
@[simp] theorem Group.newJ_v : (g.newJ n m).v = g.v := rfl
@[simp] theorem Group.newJ_o : (g.newJ n m).o = g.o := rfl
@[simp] theorem Group.newJ_z : (g.newJ n m).z = g.z := rfl
@[simp] theorem Group.newJ_s : (g.newJ n m).s = g.s := rfl
@[simp] theorem Group.newJ_p : (g.newJ n m).p = g.p := rfl
@[simp] theorem Group.newJ_j : (g.newJ n m).j = Tab.set g.j n m := rfl
@[simp] theorem Group.newJ_h : (g.newJ n m).h = g.h := rfl
@[simp] theorem Group.newJ_fmt : (g.newJ n m).fmt = g.fmt := rfl
@[simp] theorem Group.newJ_vallot : (g.newJ n m).vallot = g.vallot := rfl
@[simp] theorem Group.newJ_reserve : (g.newJ n m).reserve = g.reserve := rfl
@[simp] theorem Group.newJ_slim : (g.newJ n m).slim = g.slim := rfl
@[simp] theorem Group.newJ_divdepth : (g.newJ n m).divdepth = g.divdepth := rfl
@[simp] theorem Group.newJ_depth : (g.newJ n m).depth = g.depth := rfl
@[simp] theorem Group.newJ_fpctl : (g.newJ n m).fpctl = g.fpctl := rfl
@[simp] theorem Group.newJ_fpstat : (g.newJ n m).fpstat = g.fpstat := rfl
@[simp] theorem Group.newJ_gctl : (g.newJ n m).gctl = g.gctl := rfl
@[simp] theorem Group.newJ_rowprog : (g.newJ n m).rowprog = g.rowprog := rfl
@[simp] theorem Group.newJ_trapcode : (g.newJ n m).trapcode = g.trapcode := rfl
@[simp] theorem Group.newJ_trapaddr : (g.newJ n m).trapaddr = g.trapaddr := rfl
@[simp] theorem Group.newJ_lanes : (g.newJ n m).lanes = g.lanes := rfl
@[simp] theorem Group.newJ_gang : (g.newJ n m).gang = g.gang := rfl
@[simp] theorem Group.newJ_stamps : (g.newJ n m).stamps = g.stamps := rfl
@[simp] theorem Group.newJ_uid : (g.newJ n m).uid = g.uid := rfl
@[simp] theorem Group.newJ_came : (g.newJ n m).came = g.came.filter (fun c => c.1 != n) := rfl
end newJ

section setH
variable (g : Group) (n : Nat) (w : DWord)
@[simp] theorem Group.setH_team : (g.setH n w).team = g.team := rfl
@[simp] theorem Group.setH_grid : (g.setH n w).grid = g.grid := rfl
@[simp] theorem Group.setH_gid : (g.setH n w).gid = g.gid := rfl
@[simp] theorem Group.setH_v : (g.setH n w).v = g.v := rfl
@[simp] theorem Group.setH_o : (g.setH n w).o = g.o := rfl
@[simp] theorem Group.setH_z : (g.setH n w).z = g.z := rfl
@[simp] theorem Group.setH_s : (g.setH n w).s = g.s := rfl
@[simp] theorem Group.setH_p : (g.setH n w).p = g.p := rfl
@[simp] theorem Group.setH_j : (g.setH n w).j = g.j := rfl
@[simp] theorem Group.setH_h : (g.setH n w).h = Tab.set g.h n w := rfl
@[simp] theorem Group.setH_fmt : (g.setH n w).fmt = g.fmt := rfl
@[simp] theorem Group.setH_vallot : (g.setH n w).vallot = g.vallot := rfl
@[simp] theorem Group.setH_reserve : (g.setH n w).reserve = g.reserve := rfl
@[simp] theorem Group.setH_slim : (g.setH n w).slim = g.slim := rfl
@[simp] theorem Group.setH_divdepth : (g.setH n w).divdepth = g.divdepth := rfl
@[simp] theorem Group.setH_depth : (g.setH n w).depth = g.depth := rfl
@[simp] theorem Group.setH_fpctl : (g.setH n w).fpctl = g.fpctl := rfl
@[simp] theorem Group.setH_fpstat : (g.setH n w).fpstat = g.fpstat := rfl
@[simp] theorem Group.setH_gctl : (g.setH n w).gctl = g.gctl := rfl
@[simp] theorem Group.setH_rowprog : (g.setH n w).rowprog = g.rowprog := rfl
@[simp] theorem Group.setH_trapcode : (g.setH n w).trapcode = g.trapcode := rfl
@[simp] theorem Group.setH_trapaddr : (g.setH n w).trapaddr = g.trapaddr := rfl
@[simp] theorem Group.setH_lanes : (g.setH n w).lanes = g.lanes := rfl
@[simp] theorem Group.setH_gang : (g.setH n w).gang = g.gang := rfl
@[simp] theorem Group.setH_stamps : (g.setH n w).stamps = g.stamps := rfl
@[simp] theorem Group.setH_uid : (g.setH n w).uid = g.uid := rfl
@[simp] theorem Group.setH_came : (g.setH n w).came = g.came := rfl
end setH

section setFmt
variable (g : Group) (t n w : Nat)
@[simp] theorem Group.setFmt_team : (g.setFmt t n w).team = g.team := rfl
@[simp] theorem Group.setFmt_grid : (g.setFmt t n w).grid = g.grid := rfl
@[simp] theorem Group.setFmt_gid : (g.setFmt t n w).gid = g.gid := rfl
@[simp] theorem Group.setFmt_v : (g.setFmt t n w).v = g.v := rfl
@[simp] theorem Group.setFmt_o : (g.setFmt t n w).o = g.o := rfl
@[simp] theorem Group.setFmt_z : (g.setFmt t n w).z = g.z := rfl
@[simp] theorem Group.setFmt_s : (g.setFmt t n w).s = g.s := rfl
@[simp] theorem Group.setFmt_p : (g.setFmt t n w).p = g.p := rfl
@[simp] theorem Group.setFmt_j : (g.setFmt t n w).j = g.j := rfl
@[simp] theorem Group.setFmt_h : (g.setFmt t n w).h = g.h := rfl
@[simp] theorem Group.setFmt_fmt : (g.setFmt t n w).fmt = Tab.set g.fmt n w := rfl
@[simp] theorem Group.setFmt_vallot : (g.setFmt t n w).vallot = g.vallot := rfl
@[simp] theorem Group.setFmt_reserve : (g.setFmt t n w).reserve = g.reserve := rfl
@[simp] theorem Group.setFmt_slim : (g.setFmt t n w).slim = g.slim := rfl
@[simp] theorem Group.setFmt_divdepth : (g.setFmt t n w).divdepth = g.divdepth := rfl
@[simp] theorem Group.setFmt_depth : (g.setFmt t n w).depth = g.depth := rfl
@[simp] theorem Group.setFmt_fpctl : (g.setFmt t n w).fpctl = g.fpctl := rfl
@[simp] theorem Group.setFmt_fpstat : (g.setFmt t n w).fpstat = g.fpstat := rfl
@[simp] theorem Group.setFmt_gctl : (g.setFmt t n w).gctl = g.gctl := rfl
@[simp] theorem Group.setFmt_rowprog : (g.setFmt t n w).rowprog = g.rowprog := rfl
@[simp] theorem Group.setFmt_trapcode : (g.setFmt t n w).trapcode = g.trapcode := rfl
@[simp] theorem Group.setFmt_trapaddr : (g.setFmt t n w).trapaddr = g.trapaddr := rfl
@[simp] theorem Group.setFmt_lanes : (g.setFmt t n w).lanes = g.lanes := rfl
@[simp] theorem Group.setFmt_gang : (g.setFmt t n w).gang = g.gang := rfl
@[simp] theorem Group.setFmt_stamps : (g.setFmt t n w).stamps = Tab.set g.stamps (stampFmt n) t := rfl
@[simp] theorem Group.setFmt_uid : (g.setFmt t n w).uid = g.uid := rfl
@[simp] theorem Group.setFmt_came : (g.setFmt t n w).came = g.came := rfl
end setFmt

section updLanes
variable (g : Group) (m : Nat) (f : Nat → Lane → Lane)
@[simp] theorem Group.updLanes_team : (g.updLanes m f).team = g.team := rfl
@[simp] theorem Group.updLanes_grid : (g.updLanes m f).grid = g.grid := rfl
@[simp] theorem Group.updLanes_gid : (g.updLanes m f).gid = g.gid := rfl
@[simp] theorem Group.updLanes_v : (g.updLanes m f).v = g.v := rfl
@[simp] theorem Group.updLanes_o : (g.updLanes m f).o = g.o := rfl
@[simp] theorem Group.updLanes_z : (g.updLanes m f).z = g.z := rfl
@[simp] theorem Group.updLanes_s : (g.updLanes m f).s = g.s := rfl
@[simp] theorem Group.updLanes_p : (g.updLanes m f).p = g.p := rfl
@[simp] theorem Group.updLanes_j : (g.updLanes m f).j = g.j := rfl
@[simp] theorem Group.updLanes_h : (g.updLanes m f).h = g.h := rfl
@[simp] theorem Group.updLanes_fmt : (g.updLanes m f).fmt = g.fmt := rfl
@[simp] theorem Group.updLanes_vallot : (g.updLanes m f).vallot = g.vallot := rfl
@[simp] theorem Group.updLanes_reserve : (g.updLanes m f).reserve = g.reserve := rfl
@[simp] theorem Group.updLanes_slim : (g.updLanes m f).slim = g.slim := rfl
@[simp] theorem Group.updLanes_divdepth : (g.updLanes m f).divdepth = g.divdepth := rfl
@[simp] theorem Group.updLanes_depth : (g.updLanes m f).depth = g.depth := rfl
@[simp] theorem Group.updLanes_fpctl : (g.updLanes m f).fpctl = g.fpctl := rfl
@[simp] theorem Group.updLanes_fpstat : (g.updLanes m f).fpstat = g.fpstat := rfl
@[simp] theorem Group.updLanes_gctl : (g.updLanes m f).gctl = g.gctl := rfl
@[simp] theorem Group.updLanes_rowprog : (g.updLanes m f).rowprog = g.rowprog := rfl
@[simp] theorem Group.updLanes_trapcode : (g.updLanes m f).trapcode = g.trapcode := rfl
@[simp] theorem Group.updLanes_trapaddr : (g.updLanes m f).trapaddr = g.trapaddr := rfl
@[simp] theorem Group.updLanes_gang : (g.updLanes m f).gang = g.gang := rfl
@[simp] theorem Group.updLanes_stamps : (g.updLanes m f).stamps = g.stamps := rfl
@[simp] theorem Group.updLanes_uid : (g.updLanes m f).uid = g.uid := rfl
@[simp] theorem Group.updLanes_came : (g.updLanes m f).came = g.came := rfl
end updLanes

section orFlags
variable (g : Group) (x : Nat)
@[simp] theorem Group.orFlags_team : (g.orFlags x).team = g.team := rfl
@[simp] theorem Group.orFlags_grid : (g.orFlags x).grid = g.grid := rfl
@[simp] theorem Group.orFlags_gid : (g.orFlags x).gid = g.gid := rfl
@[simp] theorem Group.orFlags_v : (g.orFlags x).v = g.v := rfl
@[simp] theorem Group.orFlags_o : (g.orFlags x).o = g.o := rfl
@[simp] theorem Group.orFlags_z : (g.orFlags x).z = g.z := rfl
@[simp] theorem Group.orFlags_s : (g.orFlags x).s = g.s := rfl
@[simp] theorem Group.orFlags_p : (g.orFlags x).p = g.p := rfl
@[simp] theorem Group.orFlags_j : (g.orFlags x).j = g.j := rfl
@[simp] theorem Group.orFlags_h : (g.orFlags x).h = g.h := rfl
@[simp] theorem Group.orFlags_fmt : (g.orFlags x).fmt = g.fmt := rfl
@[simp] theorem Group.orFlags_vallot : (g.orFlags x).vallot = g.vallot := rfl
@[simp] theorem Group.orFlags_reserve : (g.orFlags x).reserve = g.reserve := rfl
@[simp] theorem Group.orFlags_slim : (g.orFlags x).slim = g.slim := rfl
@[simp] theorem Group.orFlags_divdepth : (g.orFlags x).divdepth = g.divdepth := rfl
@[simp] theorem Group.orFlags_depth : (g.orFlags x).depth = g.depth := rfl
@[simp] theorem Group.orFlags_fpctl : (g.orFlags x).fpctl = g.fpctl := rfl
@[simp] theorem Group.orFlags_fpstat : (g.orFlags x).fpstat = g.fpstat ||| BitVec.ofNat 32 (x % 32) := rfl
@[simp] theorem Group.orFlags_gctl : (g.orFlags x).gctl = g.gctl := rfl
@[simp] theorem Group.orFlags_rowprog : (g.orFlags x).rowprog = g.rowprog := rfl
@[simp] theorem Group.orFlags_trapcode : (g.orFlags x).trapcode = g.trapcode := rfl
@[simp] theorem Group.orFlags_trapaddr : (g.orFlags x).trapaddr = g.trapaddr := rfl
@[simp] theorem Group.orFlags_lanes : (g.orFlags x).lanes = g.lanes := rfl
@[simp] theorem Group.orFlags_gang : (g.orFlags x).gang = g.gang := rfl
@[simp] theorem Group.orFlags_stamps : (g.orFlags x).stamps = g.stamps := rfl
@[simp] theorem Group.orFlags_uid : (g.orFlags x).uid = g.uid := rfl
@[simp] theorem Group.orFlags_came : (g.orFlags x).came = g.came := rfl
end orFlags

section advance
variable (g : Group) (m : Nat) (pc : BitVec 49)
@[simp] theorem Group.advance_team : (g.advance m pc).team = g.team := rfl
@[simp] theorem Group.advance_grid : (g.advance m pc).grid = g.grid := rfl
@[simp] theorem Group.advance_gid : (g.advance m pc).gid = g.gid := rfl
@[simp] theorem Group.advance_v : (g.advance m pc).v = g.v := rfl
@[simp] theorem Group.advance_o : (g.advance m pc).o = g.o := rfl
@[simp] theorem Group.advance_z : (g.advance m pc).z = g.z := rfl
@[simp] theorem Group.advance_s : (g.advance m pc).s = g.s := rfl
@[simp] theorem Group.advance_p : (g.advance m pc).p = g.p := rfl
@[simp] theorem Group.advance_j : (g.advance m pc).j = g.j := rfl
@[simp] theorem Group.advance_h : (g.advance m pc).h = g.h := rfl
@[simp] theorem Group.advance_fmt : (g.advance m pc).fmt = g.fmt := rfl
@[simp] theorem Group.advance_vallot : (g.advance m pc).vallot = g.vallot := rfl
@[simp] theorem Group.advance_reserve : (g.advance m pc).reserve = g.reserve := rfl
@[simp] theorem Group.advance_slim : (g.advance m pc).slim = g.slim := rfl
@[simp] theorem Group.advance_divdepth : (g.advance m pc).divdepth = g.divdepth := rfl
@[simp] theorem Group.advance_depth : (g.advance m pc).depth = g.depth := rfl
@[simp] theorem Group.advance_fpctl : (g.advance m pc).fpctl = g.fpctl := rfl
@[simp] theorem Group.advance_fpstat : (g.advance m pc).fpstat = g.fpstat := rfl
@[simp] theorem Group.advance_gctl : (g.advance m pc).gctl = g.gctl := rfl
@[simp] theorem Group.advance_rowprog : (g.advance m pc).rowprog = g.rowprog := rfl
@[simp] theorem Group.advance_trapcode : (g.advance m pc).trapcode = g.trapcode := rfl
@[simp] theorem Group.advance_trapaddr : (g.advance m pc).trapaddr = g.trapaddr := rfl
@[simp] theorem Group.advance_gang : (g.advance m pc).gang = g.gang := rfl
@[simp] theorem Group.advance_stamps : (g.advance m pc).stamps = g.stamps := rfl
@[simp] theorem Group.advance_uid : (g.advance m pc).uid = g.uid := rfl
@[simp] theorem Group.advance_came : (g.advance m pc).came = g.came := rfl
end advance

section mark
variable (g : Group) (m t : Nat) (y : Bool)
@[simp] theorem Group.mark_team : (g.mark m t y).team = g.team := rfl
@[simp] theorem Group.mark_grid : (g.mark m t y).grid = g.grid := rfl
@[simp] theorem Group.mark_gid : (g.mark m t y).gid = g.gid := rfl
@[simp] theorem Group.mark_v : (g.mark m t y).v = g.v := rfl
@[simp] theorem Group.mark_o : (g.mark m t y).o = g.o := rfl
@[simp] theorem Group.mark_z : (g.mark m t y).z = g.z := rfl
@[simp] theorem Group.mark_s : (g.mark m t y).s = g.s := rfl
@[simp] theorem Group.mark_p : (g.mark m t y).p = g.p := rfl
@[simp] theorem Group.mark_j : (g.mark m t y).j = g.j := rfl
@[simp] theorem Group.mark_h : (g.mark m t y).h = g.h := rfl
@[simp] theorem Group.mark_fmt : (g.mark m t y).fmt = g.fmt := rfl
@[simp] theorem Group.mark_vallot : (g.mark m t y).vallot = g.vallot := rfl
@[simp] theorem Group.mark_reserve : (g.mark m t y).reserve = g.reserve := rfl
@[simp] theorem Group.mark_slim : (g.mark m t y).slim = g.slim := rfl
@[simp] theorem Group.mark_divdepth : (g.mark m t y).divdepth = g.divdepth := rfl
@[simp] theorem Group.mark_depth : (g.mark m t y).depth = g.depth := rfl
@[simp] theorem Group.mark_fpctl : (g.mark m t y).fpctl = g.fpctl := rfl
@[simp] theorem Group.mark_fpstat : (g.mark m t y).fpstat = g.fpstat := rfl
@[simp] theorem Group.mark_gctl : (g.mark m t y).gctl = g.gctl := rfl
@[simp] theorem Group.mark_rowprog : (g.mark m t y).rowprog = g.rowprog := rfl
@[simp] theorem Group.mark_trapcode : (g.mark m t y).trapcode = g.trapcode := rfl
@[simp] theorem Group.mark_trapaddr : (g.mark m t y).trapaddr = g.trapaddr := rfl
@[simp] theorem Group.mark_gang : (g.mark m t y).gang = g.gang := rfl
@[simp] theorem Group.mark_stamps : (g.mark m t y).stamps = g.stamps := rfl
@[simp] theorem Group.mark_uid : (g.mark m t y).uid = g.uid := rfl
@[simp] theorem Group.mark_came : (g.mark m t y).came = g.came := rfl
end mark

section setP
variable (g : Group) (n m : Nat) (f : Nat → Bool)
@[simp] theorem Group.setP_team : (g.setP n m f).team = g.team := by unfold Group.setP; split <;> rfl
@[simp] theorem Group.setP_grid : (g.setP n m f).grid = g.grid := by unfold Group.setP; split <;> rfl
@[simp] theorem Group.setP_gid : (g.setP n m f).gid = g.gid := by unfold Group.setP; split <;> rfl
@[simp] theorem Group.setP_v : (g.setP n m f).v = g.v := by unfold Group.setP; split <;> rfl
@[simp] theorem Group.setP_o : (g.setP n m f).o = g.o := by unfold Group.setP; split <;> rfl
@[simp] theorem Group.setP_z : (g.setP n m f).z = g.z := by unfold Group.setP; split <;> rfl
@[simp] theorem Group.setP_s : (g.setP n m f).s = g.s := by unfold Group.setP; split <;> rfl
@[simp] theorem Group.setP_j : (g.setP n m f).j = g.j := by unfold Group.setP; split <;> rfl
@[simp] theorem Group.setP_h : (g.setP n m f).h = g.h := by unfold Group.setP; split <;> rfl
@[simp] theorem Group.setP_fmt : (g.setP n m f).fmt = g.fmt := by unfold Group.setP; split <;> rfl
@[simp] theorem Group.setP_vallot : (g.setP n m f).vallot = g.vallot := by unfold Group.setP; split <;> rfl
@[simp] theorem Group.setP_reserve : (g.setP n m f).reserve = g.reserve := by unfold Group.setP; split <;> rfl
@[simp] theorem Group.setP_slim : (g.setP n m f).slim = g.slim := by unfold Group.setP; split <;> rfl
@[simp] theorem Group.setP_divdepth : (g.setP n m f).divdepth = g.divdepth := by unfold Group.setP; split <;> rfl
@[simp] theorem Group.setP_depth : (g.setP n m f).depth = g.depth := by unfold Group.setP; split <;> rfl
@[simp] theorem Group.setP_fpctl : (g.setP n m f).fpctl = g.fpctl := by unfold Group.setP; split <;> rfl
@[simp] theorem Group.setP_fpstat : (g.setP n m f).fpstat = g.fpstat := by unfold Group.setP; split <;> rfl
@[simp] theorem Group.setP_gctl : (g.setP n m f).gctl = g.gctl := by unfold Group.setP; split <;> rfl
@[simp] theorem Group.setP_rowprog : (g.setP n m f).rowprog = g.rowprog := by unfold Group.setP; split <;> rfl
@[simp] theorem Group.setP_trapcode : (g.setP n m f).trapcode = g.trapcode := by unfold Group.setP; split <;> rfl
@[simp] theorem Group.setP_trapaddr : (g.setP n m f).trapaddr = g.trapaddr := by unfold Group.setP; split <;> rfl
@[simp] theorem Group.setP_lanes : (g.setP n m f).lanes = g.lanes := by unfold Group.setP; split <;> rfl
@[simp] theorem Group.setP_gang : (g.setP n m f).gang = g.gang := by unfold Group.setP; split <;> rfl
@[simp] theorem Group.setP_stamps : (g.setP n m f).stamps = g.stamps := by unfold Group.setP; split <;> rfl
@[simp] theorem Group.setP_uid : (g.setP n m f).uid = g.uid := by unfold Group.setP; split <;> rfl
end setP

end Sys2Proof.Machine
end

