-- ==== Sys2Proof/Laws/Issue.lean ====
section
/-! SUPPORT. What an issue to lanes of a group comes to. -/

namespace Sys2Proof.Machine

theorem absentOf_none {s : State} (h : ∀ c ∈ s.contexts, c.2.absent = []) (ctx o k i : Nat) : s.absentOf ctx o k i = none := by
  unfold State.absentOf
  cases hc : Tab.get? s.contexts ctx with
  | none => rfl
  | some c =>
    have : ∀ (l : Tab Context), (∀ c ∈ l, c.2.absent = []) → ∀ c, Tab.get? l ctx = some c → c.absent = [] := by
      intro l
      induction l with
      | nil => intro _ c h; simp [Tab.get?] at h
      | cons x t ih =>
        intro hl c h
        obtain ⟨k, a⟩ := x
        simp only [Tab.get?] at h
        split at h
        · cases h; exact hl _ (List.mem_cons_self ..)
        · split at h
          · cases h
          · exact ih (fun c hc => hl c (List.mem_cons_of_mem _ hc)) c h
    simp [this s.contexts h c hc]

theorem presentAll_none {s : State} (h : ∀ c ∈ s.contexts, c.2.absent = []) (ctx : Nat) (us : List (Nat × Nat × Nat)) :
    s.presentAll ctx us = .done s := by
  induction us with
  | nil => rfl
  | cons u us ih =>
    obtain ⟨o, k, i⟩ := u
    simp [State.presentAll, State.present, absentOf_none h, ih]

theorem atIssue_contexts (s : State) (e : Env) (h : Hdr) (lanes : Nat) : (s.atIssue e h lanes).contexts = s.contexts := rfl

/-- An issue to lanes of a group is the effect of the instruction on its active lanes, and what follows it. -/
theorem issue_group {s : State} {i : Instr} {h : Hdr} {lanes : Nat} {pc next : BitVec 49} {e0 e : Env}
    (H : Issues s i h lanes pc next e0 e) (rule : SpanRule) (body : Body) :
    issue i rule body s = (body e.st e (e0.act h lanes)).ends e0 lanes pc next := by
  obtain ⟨⟨w, hc⟩, hh, hn, hb, ha, ho, hp, hl⟩ := H
  have hst : e.st = s.atIssue e0 h lanes := by
    unfold State.env? at ha
    split at ha
    · cases ha
    · split at ha
      · cases ha; rfl
      · cases ha
  unfold Env.act at hl ⊢
  rw [hst]
  simp only [issue, hc, State.groupIssue, hb, hh, hn, ho, Bool.false_eq_true, if_false, Out.ends]
  generalize hg : State.covered _ _ _ _ = s3
  have h3 : s3 = s.atIssue e0 h lanes := by rw [← hg]; simp [State.atIssue, hn]
  subst h3
  rw [presentAll_none (s := s.atIssue e0 h lanes) hp]
  have hz : pcRaises 0 .stallShort pc = [] := by
    have : lanesOf 0 = [] := by decide
    simp [pcRaises, this]
  generalize maskDiff (laneMask _) 0 = act at hl ⊢
  have hl' : (act == 0) = false := by simpa using hl
  simp only [ha, hz, hl', List.append_nil, if_false, Bool.false_eq_true]

end Sys2Proof.Machine
end

