-- ==== Sys2Proof/Laws/Masks.lean ====
section
/-! SUPPORT. Laws of lane masks, rows and the lanes of a group. -/

namespace Sys2Proof.Machine

theorem bitOf_testBit (x i : Nat) : bitOf x i = Nat.testBit x i := by
  simp [bitOf, Nat.testBit, Nat.shiftRight_eq_div_pow, Nat.one_and_eq_mod_two, bne, beq_eq_decide]
  by_cases h : x / 2 ^ i % 2 = 1 <;> simp [h]
  omega

theorem maskOf_succ (n : Nat) (p : Nat → Bool) : maskOf (n + 1) p = maskOf n p + if p n then 2 ^ n else 0 := by
  simp only [maskOf, List.range_succ, List.foldl_append, List.foldl_cons, List.foldl_nil]
  split <;> rfl

theorem maskOf_lt (n : Nat) (p : Nat → Bool) : maskOf n p < 2 ^ n := by
  induction n with
  | zero => simp [maskOf]
  | succ n ih => rw [maskOf_succ, pow_succ]; split <;> omega

theorem bitOf_maskOf (n : Nat) (p : Nat → Bool) (i : Nat) : bitOf (maskOf n p) i = (decide (i < n) && p i) := by
  induction n with
  | zero => simp [maskOf, bitOf]
  | succ n ih =>
    rw [maskOf_succ, bitOf_testBit]
    rw [bitOf_testBit] at ih
    by_cases hp : p n
    · simp only [hp, if_true]
      by_cases hi : i = n
      · subst hi
        rw [Nat.add_comm, Nat.testBit_two_pow_add_eq, ih]
        simp [hp]
      · by_cases hlt : i < n
        · rw [Nat.add_comm, Nat.testBit_two_pow_add_gt hlt, ih]
          simp [hlt, Nat.lt_succ_of_lt hlt]
        · have h1 : maskOf n p + 2 ^ n < 2 ^ i := by
            calc maskOf n p + 2 ^ n < 2 ^ n + 2 ^ n := by have := maskOf_lt n p; omega
              _ = 2 ^ (n + 1) := by rw [pow_succ]; omega
              _ ≤ 2 ^ i := Nat.pow_le_pow_right (by norm_num) (by omega)
          rw [Nat.testBit_lt_two_pow h1]
          have : ¬ i < n + 1 := by omega
          simp [this]
    · simp only [hp, Bool.false_eq_true, if_false, Nat.add_zero, ih]
      by_cases hi : i = n
      · subst hi; simp [hp]
      · have : (i < n + 1) ↔ i < n := by omega
        simp [this]

theorem inMask_laneMask (p : Nat → Bool) (l : Nat) : inMask (laneMask p) l = (decide (l < 64) && p l) := bitOf_maskOf 64 p l

theorem inMask_maskDiff (a b l : Nat) : inMask (maskDiff a b) l = (decide (l < 64) && (inMask a l && !inMask b l)) :=
  inMask_laneMask _ l

theorem inMask_maskOr (a b l : Nat) : inMask (maskOr a b) l = (inMask a l || inMask b l) := by
  simp [inMask, maskOr, bitOf_testBit]

theorem inMask_maskAnd (a b l : Nat) : inMask (maskAnd a b) l = (inMask a l && inMask b l) := by
  simp [inMask, maskAnd, bitOf_testBit]

@[simp] theorem inMask_zero (l : Nat) : inMask 0 l = false := by simp [inMask, bitOf]

theorem inMask_pow (k l : Nat) : inMask (2 ^ k) l = decide (k = l) := by
  simp [inMask, bitOf_testBit, Nat.testBit_two_pow]

theorem mem_lanesOf (m l : Nat) : l ∈ lanesOf m ↔ l < 64 ∧ inMask m l = true := by simp [lanesOf]

@[simp] theorem lanesOf_zero : lanesOf 0 = [] := by simp [lanesOf]

/-- Two masks of lanes are equal when they hold the same lanes. -/
theorem laneMask_congr {p q : Nat → Bool} (h : ∀ l, l < 64 → p l = q l) : laneMask p = laneMask q := by
  have : ∀ n, n ≤ 64 → maskOf n p = maskOf n q := by
    intro n
    induction n with
    | zero => intro _; rfl
    | succ n ih => intro hn; rw [maskOf_succ, maskOf_succ, ih (by omega), h n (by omega)]
  exact this 64 le_rfl

/-! ### Lists by place -/

variable {α : Type}

@[simp] theorem length_mapFrom (f : Nat → α → α) (k : Nat) (l : List α) : (mapFrom f k l).length = l.length := by
  induction l generalizing k with
  | nil => rfl
  | cons a t ih => simp [mapFrom, ih]

theorem getElem?_mapFrom (f : Nat → α → α) (k : Nat) (l : List α) (i : Nat) : (mapFrom f k l)[i]? = (l[i]?).map (f (k + i)) := by
  induction l generalizing k i with
  | nil => simp [mapFrom]
  | cons a t ih =>
    cases i with
    | zero => simp [mapFrom]
    | succ i => simp only [mapFrom, List.getElem?_cons_succ, ih]; rw [show k + 1 + i = k + (i + 1) by omega]

theorem getD_mapFrom {f : Nat → α → α} {l : List α} {i : Nat} {d : α} (h : i < l.length) : (mapFrom f 0 l).getD i d = f i (l.getD i d) := by
  rw [List.getD_eq_getElem?_getD, List.getD_eq_getElem?_getD, getElem?_mapFrom]
  simp [h]

theorem mapFrom_congr {f g : Nat → α → α} {l : List α} (k : Nat) (h : ∀ i a, k ≤ i → i < k + l.length → f i a = g i a) :
    mapFrom f k l = mapFrom g k l := by
  induction l generalizing k with
  | nil => rfl
  | cons a t ih =>
    simp only [mapFrom]
    rw [h k a le_rfl (by simp), ih (k + 1) fun i b h1 h2 => h i b (by omega) (by simp only [List.length_cons]; omega)]

theorem mapFrom_id {f : Nat → α → α} {l : List α} (k : Nat) (h : ∀ i a, f i a = a) : mapFrom f k l = l := by
  induction l generalizing k with
  | nil => rfl
  | cons a t ih => simp [mapFrom, h, ih]

/-! ### Rows and lanes -/

@[simp] theorem length_mergeRow (m : Nat) (f : Nat → Word) (r : List Word) : (mergeRow m f r).length = r.length := by simp [mergeRow]

/-- A row after a write of some lanes. -/
theorem getD_mergeRow {m : Nat} {f : Nat → Word} {r : List Word} {l : Nat} (h : l < r.length) :
    (mergeRow m f r).getD l 0 = if inMask m l then f l else r.getD l 0 := by
  rw [mergeRow, getD_mapFrom h]

/-- Only the words for lanes of the mask matter. -/
theorem mergeRow_congr {m : Nat} {f g : Nat → Word} (r : List Word) (h : ∀ l, inMask m l = true → f l = g l) : mergeRow m f r = mergeRow m g r := by
  unfold mergeRow
  refine mapFrom_congr 0 fun i a _ _ => ?_
  split
  · exact h i ‹_›
  · rfl

theorem Group.lane_updLanes (g : Group) (m : Nat) (f : Nat → Lane → Lane) (l : Nat) (h : l < g.lanes.length) :
    (g.updLanes m f).lane l = if inMask m l then f l (g.lane l) else g.lane l := by
  simp only [Group.lane, Group.updLanes]
  rw [getD_mapFrom h]

@[simp] theorem Group.length_updLanes (g : Group) (m : Nat) (f : Nat → Lane → Lane) : (g.updLanes m f).lanes.length = g.lanes.length := by
  simp [Group.updLanes]

end Sys2Proof.Machine
end

