-- ==== Sys2Proof/Laws/State.lean ====
section
/-! SUPPORT. What the named updates of the state leave as it was, field by field, and what they set. -/

namespace Sys2Proof.Machine

section setCore
variable (s : State) (c : Nat) (k : Core)
@[simp] theorem State.setCore_cores : (s.setCore c k).cores = Tab.set s.cores c k := rfl
@[simp] theorem State.setCore_dieTlb : (s.setCore c k).dieTlb = s.dieTlb := rfl
@[simp] theorem State.setCore_mem : (s.setCore c k).mem = s.mem := rfl
@[simp] theorem State.setCore_hostMem : (s.setCore c k).hostMem = s.hostMem := rfl
@[simp] theorem State.setCore_poison : (s.setCore c k).poison = s.poison := rfl
@[simp] theorem State.setCore_contexts : (s.setCore c k).contexts = s.contexts := rfl
@[simp] theorem State.setCore_queues : (s.setCore c k).queues = s.queues := rfl
@[simp] theorem State.setCore_orreryUs : (s.setCore c k).orreryUs = s.orreryUs := rfl
@[simp] theorem State.setCore_grids : (s.setCore c k).grids = s.grids := rfl
@[simp] theorem State.setCore_teams : (s.setCore c k).teams = s.teams := rfl
@[simp] theorem State.setCore_groups : (s.setCore c k).groups = s.groups := rfl
@[simp] theorem State.setCore_spans : (s.setCore c k).spans = s.spans := rfl
@[simp] theorem State.setCore_children : (s.setCore c k).children = s.children := rfl
@[simp] theorem State.setCore_flights : (s.setCore c k).flights = s.flights := rfl
@[simp] theorem State.setCore_stores : (s.setCore c k).stores = s.stores := rfl
@[simp] theorem State.setCore_seals : (s.setCore c k).seals = s.seals := rfl
@[simp] theorem State.setCore_pfaults : (s.setCore c k).pfaults = s.pfaults := rfl
@[simp] theorem State.setCore_versions : (s.setCore c k).versions = s.versions := rfl
@[simp] theorem State.setCore_foreign : (s.setCore c k).foreign = s.foreign := rfl
@[simp] theorem State.setCore_vlines : (s.setCore c k).vlines = s.vlines := rfl
@[simp] theorem State.setCore_frames : (s.setCore c k).frames = s.frames := rfl
@[simp] theorem State.setCore_squashes : (s.setCore c k).squashes = s.squashes := rfl
@[simp] theorem State.setCore_vways : (s.setCore c k).vways = s.vways := rfl
@[simp] theorem State.setCore_links : (s.setCore c k).links = s.links := rfl
@[simp] theorem State.setCore_inLinks : (s.setCore c k).inLinks = s.inLinks := rfl
@[simp] theorem State.setCore_pod : (s.setCore c k).pod = s.pod := rfl
@[simp] theorem State.setCore_streams : (s.setCore c k).streams = s.streams := rfl
@[simp] theorem State.setCore_latches : (s.setCore c k).latches = s.latches := rfl
@[simp] theorem State.setCore_fabricCtx : (s.setCore c k).fabricCtx = s.fabricCtx := rfl
@[simp] theorem State.setCore_fabricCycles : (s.setCore c k).fabricCycles = s.fabricCycles := rfl
@[simp] theorem State.setCore_linkQueue : (s.setCore c k).linkQueue = s.linkQueue := rfl
@[simp] theorem State.setCore_port : (s.setCore c k).port = s.port := rfl
@[simp] theorem State.setCore_manage : (s.setCore c k).manage = s.manage := rfl
@[simp] theorem State.setCore_fnmode : (s.setCore c k).fnmode = s.fnmode := rfl
@[simp] theorem State.setCore_device : (s.setCore c k).device = s.device := rfl
@[simp] theorem State.setCore_uids : (s.setCore c k).uids = s.uids := rfl
@[simp] theorem State.setCore_agenda : (s.setCore c k).agenda = s.agenda := rfl
@[simp] theorem State.setCore_issuing : (s.setCore c k).issuing = s.issuing := rfl
@[simp] theorem State.setCore_cur : (s.setCore c k).cur = s.cur := rfl
@[simp] theorem State.setCore_free : (s.setCore c k).free = s.free := rfl
@[simp] theorem State.setCore_turn : (s.setCore c k).turn = s.turn := rfl
end setCore

section updCore
variable (s : State) (c : Nat) (f : Core → Core)
@[simp] theorem State.updCore_cores : (s.updCore c f).cores = Tab.set s.cores c (f (s.core c)) := rfl
@[simp] theorem State.updCore_dieTlb : (s.updCore c f).dieTlb = s.dieTlb := rfl
@[simp] theorem State.updCore_mem : (s.updCore c f).mem = s.mem := rfl
@[simp] theorem State.updCore_hostMem : (s.updCore c f).hostMem = s.hostMem := rfl
@[simp] theorem State.updCore_poison : (s.updCore c f).poison = s.poison := rfl
@[simp] theorem State.updCore_contexts : (s.updCore c f).contexts = s.contexts := rfl
@[simp] theorem State.updCore_queues : (s.updCore c f).queues = s.queues := rfl
@[simp] theorem State.updCore_orreryUs : (s.updCore c f).orreryUs = s.orreryUs := rfl
@[simp] theorem State.updCore_grids : (s.updCore c f).grids = s.grids := rfl
@[simp] theorem State.updCore_teams : (s.updCore c f).teams = s.teams := rfl
@[simp] theorem State.updCore_groups : (s.updCore c f).groups = s.groups := rfl
@[simp] theorem State.updCore_spans : (s.updCore c f).spans = s.spans := rfl
@[simp] theorem State.updCore_children : (s.updCore c f).children = s.children := rfl
@[simp] theorem State.updCore_flights : (s.updCore c f).flights = s.flights := rfl
@[simp] theorem State.updCore_stores : (s.updCore c f).stores = s.stores := rfl
@[simp] theorem State.updCore_seals : (s.updCore c f).seals = s.seals := rfl
@[simp] theorem State.updCore_pfaults : (s.updCore c f).pfaults = s.pfaults := rfl
@[simp] theorem State.updCore_versions : (s.updCore c f).versions = s.versions := rfl
@[simp] theorem State.updCore_foreign : (s.updCore c f).foreign = s.foreign := rfl
@[simp] theorem State.updCore_vlines : (s.updCore c f).vlines = s.vlines := rfl
@[simp] theorem State.updCore_frames : (s.updCore c f).frames = s.frames := rfl
@[simp] theorem State.updCore_squashes : (s.updCore c f).squashes = s.squashes := rfl
@[simp] theorem State.updCore_vways : (s.updCore c f).vways = s.vways := rfl
@[simp] theorem State.updCore_links : (s.updCore c f).links = s.links := rfl
@[simp] theorem State.updCore_inLinks : (s.updCore c f).inLinks = s.inLinks := rfl
@[simp] theorem State.updCore_pod : (s.updCore c f).pod = s.pod := rfl
@[simp] theorem State.updCore_streams : (s.updCore c f).streams = s.streams := rfl
@[simp] theorem State.updCore_latches : (s.updCore c f).latches = s.latches := rfl
@[simp] theorem State.updCore_fabricCtx : (s.updCore c f).fabricCtx = s.fabricCtx := rfl
@[simp] theorem State.updCore_fabricCycles : (s.updCore c f).fabricCycles = s.fabricCycles := rfl
@[simp] theorem State.updCore_linkQueue : (s.updCore c f).linkQueue = s.linkQueue := rfl
@[simp] theorem State.updCore_port : (s.updCore c f).port = s.port := rfl
@[simp] theorem State.updCore_manage : (s.updCore c f).manage = s.manage := rfl
@[simp] theorem State.updCore_fnmode : (s.updCore c f).fnmode = s.fnmode := rfl
@[simp] theorem State.updCore_device : (s.updCore c f).device = s.device := rfl
@[simp] theorem State.updCore_uids : (s.updCore c f).uids = s.uids := rfl
@[simp] theorem State.updCore_agenda : (s.updCore c f).agenda = s.agenda := rfl
@[simp] theorem State.updCore_issuing : (s.updCore c f).issuing = s.issuing := rfl
@[simp] theorem State.updCore_cur : (s.updCore c f).cur = s.cur := rfl
@[simp] theorem State.updCore_free : (s.updCore c f).free = s.free := rfl
@[simp] theorem State.updCore_turn : (s.updCore c f).turn = s.turn := rfl
end updCore

section setGroup
variable (s : State) (g : Group)
@[simp] theorem State.setGroup_cores : (s.setGroup g).cores = s.cores := rfl
@[simp] theorem State.setGroup_dieTlb : (s.setGroup g).dieTlb = s.dieTlb := rfl
@[simp] theorem State.setGroup_mem : (s.setGroup g).mem = s.mem := rfl
@[simp] theorem State.setGroup_hostMem : (s.setGroup g).hostMem = s.hostMem := rfl
@[simp] theorem State.setGroup_poison : (s.setGroup g).poison = s.poison := rfl
@[simp] theorem State.setGroup_contexts : (s.setGroup g).contexts = s.contexts := rfl
@[simp] theorem State.setGroup_queues : (s.setGroup g).queues = s.queues := rfl
@[simp] theorem State.setGroup_orreryUs : (s.setGroup g).orreryUs = s.orreryUs := rfl
@[simp] theorem State.setGroup_grids : (s.setGroup g).grids = s.grids := rfl
@[simp] theorem State.setGroup_teams : (s.setGroup g).teams = s.teams := rfl
@[simp] theorem State.setGroup_groups : (s.setGroup g).groups = Tab.set s.groups g.uid g := rfl
@[simp] theorem State.setGroup_spans : (s.setGroup g).spans = s.spans := rfl
@[simp] theorem State.setGroup_children : (s.setGroup g).children = s.children := rfl
@[simp] theorem State.setGroup_flights : (s.setGroup g).flights = s.flights := rfl
@[simp] theorem State.setGroup_stores : (s.setGroup g).stores = s.stores := rfl
@[simp] theorem State.setGroup_seals : (s.setGroup g).seals = s.seals := rfl
@[simp] theorem State.setGroup_pfaults : (s.setGroup g).pfaults = s.pfaults := rfl
@[simp] theorem State.setGroup_versions : (s.setGroup g).versions = s.versions := rfl
@[simp] theorem State.setGroup_foreign : (s.setGroup g).foreign = s.foreign := rfl
@[simp] theorem State.setGroup_vlines : (s.setGroup g).vlines = s.vlines := rfl
@[simp] theorem State.setGroup_frames : (s.setGroup g).frames = s.frames := rfl
@[simp] theorem State.setGroup_squashes : (s.setGroup g).squashes = s.squashes := rfl
@[simp] theorem State.setGroup_vways : (s.setGroup g).vways = s.vways := rfl
@[simp] theorem State.setGroup_links : (s.setGroup g).links = s.links := rfl
@[simp] theorem State.setGroup_inLinks : (s.setGroup g).inLinks = s.inLinks := rfl
@[simp] theorem State.setGroup_pod : (s.setGroup g).pod = s.pod := rfl
@[simp] theorem State.setGroup_streams : (s.setGroup g).streams = s.streams := rfl
@[simp] theorem State.setGroup_latches : (s.setGroup g).latches = s.latches := rfl
@[simp] theorem State.setGroup_fabricCtx : (s.setGroup g).fabricCtx = s.fabricCtx := rfl
@[simp] theorem State.setGroup_fabricCycles : (s.setGroup g).fabricCycles = s.fabricCycles := rfl
@[simp] theorem State.setGroup_linkQueue : (s.setGroup g).linkQueue = s.linkQueue := rfl
@[simp] theorem State.setGroup_port : (s.setGroup g).port = s.port := rfl
@[simp] theorem State.setGroup_manage : (s.setGroup g).manage = s.manage := rfl
@[simp] theorem State.setGroup_fnmode : (s.setGroup g).fnmode = s.fnmode := rfl
@[simp] theorem State.setGroup_device : (s.setGroup g).device = s.device := rfl
@[simp] theorem State.setGroup_uids : (s.setGroup g).uids = s.uids := rfl
@[simp] theorem State.setGroup_agenda : (s.setGroup g).agenda = s.agenda := rfl
@[simp] theorem State.setGroup_issuing : (s.setGroup g).issuing = s.issuing := rfl
@[simp] theorem State.setGroup_cur : (s.setGroup g).cur = s.cur := rfl
@[simp] theorem State.setGroup_free : (s.setGroup g).free = s.free := rfl
@[simp] theorem State.setGroup_turn : (s.setGroup g).turn = s.turn := rfl
end setGroup

section updGroup
variable (s : State) (u : Nat) (f : Group → Group)
@[simp] theorem State.updGroup_cores : (s.updGroup u f).cores = s.cores := rfl
@[simp] theorem State.updGroup_dieTlb : (s.updGroup u f).dieTlb = s.dieTlb := rfl
@[simp] theorem State.updGroup_mem : (s.updGroup u f).mem = s.mem := rfl
@[simp] theorem State.updGroup_hostMem : (s.updGroup u f).hostMem = s.hostMem := rfl
@[simp] theorem State.updGroup_poison : (s.updGroup u f).poison = s.poison := rfl
@[simp] theorem State.updGroup_contexts : (s.updGroup u f).contexts = s.contexts := rfl
@[simp] theorem State.updGroup_queues : (s.updGroup u f).queues = s.queues := rfl
@[simp] theorem State.updGroup_orreryUs : (s.updGroup u f).orreryUs = s.orreryUs := rfl
@[simp] theorem State.updGroup_grids : (s.updGroup u f).grids = s.grids := rfl
@[simp] theorem State.updGroup_teams : (s.updGroup u f).teams = s.teams := rfl
@[simp] theorem State.updGroup_groups : (s.updGroup u f).groups = Tab.upd s.groups u f := rfl
@[simp] theorem State.updGroup_spans : (s.updGroup u f).spans = s.spans := rfl
@[simp] theorem State.updGroup_children : (s.updGroup u f).children = s.children := rfl
@[simp] theorem State.updGroup_flights : (s.updGroup u f).flights = s.flights := rfl
@[simp] theorem State.updGroup_stores : (s.updGroup u f).stores = s.stores := rfl
@[simp] theorem State.updGroup_seals : (s.updGroup u f).seals = s.seals := rfl
@[simp] theorem State.updGroup_pfaults : (s.updGroup u f).pfaults = s.pfaults := rfl
@[simp] theorem State.updGroup_versions : (s.updGroup u f).versions = s.versions := rfl
@[simp] theorem State.updGroup_foreign : (s.updGroup u f).foreign = s.foreign := rfl
@[simp] theorem State.updGroup_vlines : (s.updGroup u f).vlines = s.vlines := rfl
@[simp] theorem State.updGroup_frames : (s.updGroup u f).frames = s.frames := rfl
@[simp] theorem State.updGroup_squashes : (s.updGroup u f).squashes = s.squashes := rfl
@[simp] theorem State.updGroup_vways : (s.updGroup u f).vways = s.vways := rfl
@[simp] theorem State.updGroup_links : (s.updGroup u f).links = s.links := rfl
@[simp] theorem State.updGroup_inLinks : (s.updGroup u f).inLinks = s.inLinks := rfl
@[simp] theorem State.updGroup_pod : (s.updGroup u f).pod = s.pod := rfl
@[simp] theorem State.updGroup_streams : (s.updGroup u f).streams = s.streams := rfl
@[simp] theorem State.updGroup_latches : (s.updGroup u f).latches = s.latches := rfl
@[simp] theorem State.updGroup_fabricCtx : (s.updGroup u f).fabricCtx = s.fabricCtx := rfl
@[simp] theorem State.updGroup_fabricCycles : (s.updGroup u f).fabricCycles = s.fabricCycles := rfl
@[simp] theorem State.updGroup_linkQueue : (s.updGroup u f).linkQueue = s.linkQueue := rfl
@[simp] theorem State.updGroup_port : (s.updGroup u f).port = s.port := rfl
@[simp] theorem State.updGroup_manage : (s.updGroup u f).manage = s.manage := rfl
@[simp] theorem State.updGroup_fnmode : (s.updGroup u f).fnmode = s.fnmode := rfl
@[simp] theorem State.updGroup_device : (s.updGroup u f).device = s.device := rfl
@[simp] theorem State.updGroup_uids : (s.updGroup u f).uids = s.uids := rfl
@[simp] theorem State.updGroup_agenda : (s.updGroup u f).agenda = s.agenda := rfl
@[simp] theorem State.updGroup_issuing : (s.updGroup u f).issuing = s.issuing := rfl
@[simp] theorem State.updGroup_cur : (s.updGroup u f).cur = s.cur := rfl
@[simp] theorem State.updGroup_free : (s.updGroup u f).free = s.free := rfl
@[simp] theorem State.updGroup_turn : (s.updGroup u f).turn = s.turn := rfl
end updGroup

section setTeam
variable (s : State) (t : Team)
@[simp] theorem State.setTeam_cores : (s.setTeam t).cores = s.cores := rfl
@[simp] theorem State.setTeam_dieTlb : (s.setTeam t).dieTlb = s.dieTlb := rfl
@[simp] theorem State.setTeam_mem : (s.setTeam t).mem = s.mem := rfl
@[simp] theorem State.setTeam_hostMem : (s.setTeam t).hostMem = s.hostMem := rfl
@[simp] theorem State.setTeam_poison : (s.setTeam t).poison = s.poison := rfl
@[simp] theorem State.setTeam_contexts : (s.setTeam t).contexts = s.contexts := rfl
@[simp] theorem State.setTeam_queues : (s.setTeam t).queues = s.queues := rfl
@[simp] theorem State.setTeam_orreryUs : (s.setTeam t).orreryUs = s.orreryUs := rfl
@[simp] theorem State.setTeam_grids : (s.setTeam t).grids = s.grids := rfl
@[simp] theorem State.setTeam_teams : (s.setTeam t).teams = Tab.set s.teams t.uid t := rfl
@[simp] theorem State.setTeam_groups : (s.setTeam t).groups = s.groups := rfl
@[simp] theorem State.setTeam_spans : (s.setTeam t).spans = s.spans := rfl
@[simp] theorem State.setTeam_children : (s.setTeam t).children = s.children := rfl
@[simp] theorem State.setTeam_flights : (s.setTeam t).flights = s.flights := rfl
@[simp] theorem State.setTeam_stores : (s.setTeam t).stores = s.stores := rfl
@[simp] theorem State.setTeam_seals : (s.setTeam t).seals = s.seals := rfl
@[simp] theorem State.setTeam_pfaults : (s.setTeam t).pfaults = s.pfaults := rfl
@[simp] theorem State.setTeam_versions : (s.setTeam t).versions = s.versions := rfl
@[simp] theorem State.setTeam_foreign : (s.setTeam t).foreign = s.foreign := rfl
@[simp] theorem State.setTeam_vlines : (s.setTeam t).vlines = s.vlines := rfl
@[simp] theorem State.setTeam_frames : (s.setTeam t).frames = s.frames := rfl
@[simp] theorem State.setTeam_squashes : (s.setTeam t).squashes = s.squashes := rfl
@[simp] theorem State.setTeam_vways : (s.setTeam t).vways = s.vways := rfl
@[simp] theorem State.setTeam_links : (s.setTeam t).links = s.links := rfl
@[simp] theorem State.setTeam_inLinks : (s.setTeam t).inLinks = s.inLinks := rfl
@[simp] theorem State.setTeam_pod : (s.setTeam t).pod = s.pod := rfl
@[simp] theorem State.setTeam_streams : (s.setTeam t).streams = s.streams := rfl
@[simp] theorem State.setTeam_latches : (s.setTeam t).latches = s.latches := rfl
@[simp] theorem State.setTeam_fabricCtx : (s.setTeam t).fabricCtx = s.fabricCtx := rfl
@[simp] theorem State.setTeam_fabricCycles : (s.setTeam t).fabricCycles = s.fabricCycles := rfl
@[simp] theorem State.setTeam_linkQueue : (s.setTeam t).linkQueue = s.linkQueue := rfl
@[simp] theorem State.setTeam_port : (s.setTeam t).port = s.port := rfl
@[simp] theorem State.setTeam_manage : (s.setTeam t).manage = s.manage := rfl
@[simp] theorem State.setTeam_fnmode : (s.setTeam t).fnmode = s.fnmode := rfl
@[simp] theorem State.setTeam_device : (s.setTeam t).device = s.device := rfl
@[simp] theorem State.setTeam_uids : (s.setTeam t).uids = s.uids := rfl
@[simp] theorem State.setTeam_agenda : (s.setTeam t).agenda = s.agenda := rfl
@[simp] theorem State.setTeam_issuing : (s.setTeam t).issuing = s.issuing := rfl
@[simp] theorem State.setTeam_cur : (s.setTeam t).cur = s.cur := rfl
@[simp] theorem State.setTeam_free : (s.setTeam t).free = s.free := rfl
@[simp] theorem State.setTeam_turn : (s.setTeam t).turn = s.turn := rfl
end setTeam

section updTeam
variable (s : State) (u : Nat) (f : Team → Team)
@[simp] theorem State.updTeam_cores : (s.updTeam u f).cores = s.cores := rfl
@[simp] theorem State.updTeam_dieTlb : (s.updTeam u f).dieTlb = s.dieTlb := rfl
@[simp] theorem State.updTeam_mem : (s.updTeam u f).mem = s.mem := rfl
@[simp] theorem State.updTeam_hostMem : (s.updTeam u f).hostMem = s.hostMem := rfl
@[simp] theorem State.updTeam_poison : (s.updTeam u f).poison = s.poison := rfl
@[simp] theorem State.updTeam_contexts : (s.updTeam u f).contexts = s.contexts := rfl
@[simp] theorem State.updTeam_queues : (s.updTeam u f).queues = s.queues := rfl
@[simp] theorem State.updTeam_orreryUs : (s.updTeam u f).orreryUs = s.orreryUs := rfl
@[simp] theorem State.updTeam_grids : (s.updTeam u f).grids = s.grids := rfl
@[simp] theorem State.updTeam_teams : (s.updTeam u f).teams = Tab.upd s.teams u f := rfl
@[simp] theorem State.updTeam_groups : (s.updTeam u f).groups = s.groups := rfl
@[simp] theorem State.updTeam_spans : (s.updTeam u f).spans = s.spans := rfl
@[simp] theorem State.updTeam_children : (s.updTeam u f).children = s.children := rfl
@[simp] theorem State.updTeam_flights : (s.updTeam u f).flights = s.flights := rfl
@[simp] theorem State.updTeam_stores : (s.updTeam u f).stores = s.stores := rfl
@[simp] theorem State.updTeam_seals : (s.updTeam u f).seals = s.seals := rfl
@[simp] theorem State.updTeam_pfaults : (s.updTeam u f).pfaults = s.pfaults := rfl
@[simp] theorem State.updTeam_versions : (s.updTeam u f).versions = s.versions := rfl
@[simp] theorem State.updTeam_foreign : (s.updTeam u f).foreign = s.foreign := rfl
@[simp] theorem State.updTeam_vlines : (s.updTeam u f).vlines = s.vlines := rfl
@[simp] theorem State.updTeam_frames : (s.updTeam u f).frames = s.frames := rfl
@[simp] theorem State.updTeam_squashes : (s.updTeam u f).squashes = s.squashes := rfl
@[simp] theorem State.updTeam_vways : (s.updTeam u f).vways = s.vways := rfl
@[simp] theorem State.updTeam_links : (s.updTeam u f).links = s.links := rfl
@[simp] theorem State.updTeam_inLinks : (s.updTeam u f).inLinks = s.inLinks := rfl
@[simp] theorem State.updTeam_pod : (s.updTeam u f).pod = s.pod := rfl
@[simp] theorem State.updTeam_streams : (s.updTeam u f).streams = s.streams := rfl
@[simp] theorem State.updTeam_latches : (s.updTeam u f).latches = s.latches := rfl
@[simp] theorem State.updTeam_fabricCtx : (s.updTeam u f).fabricCtx = s.fabricCtx := rfl
@[simp] theorem State.updTeam_fabricCycles : (s.updTeam u f).fabricCycles = s.fabricCycles := rfl
@[simp] theorem State.updTeam_linkQueue : (s.updTeam u f).linkQueue = s.linkQueue := rfl
@[simp] theorem State.updTeam_port : (s.updTeam u f).port = s.port := rfl
@[simp] theorem State.updTeam_manage : (s.updTeam u f).manage = s.manage := rfl
@[simp] theorem State.updTeam_fnmode : (s.updTeam u f).fnmode = s.fnmode := rfl
@[simp] theorem State.updTeam_device : (s.updTeam u f).device = s.device := rfl
@[simp] theorem State.updTeam_uids : (s.updTeam u f).uids = s.uids := rfl
@[simp] theorem State.updTeam_agenda : (s.updTeam u f).agenda = s.agenda := rfl
@[simp] theorem State.updTeam_issuing : (s.updTeam u f).issuing = s.issuing := rfl
@[simp] theorem State.updTeam_cur : (s.updTeam u f).cur = s.cur := rfl
@[simp] theorem State.updTeam_free : (s.updTeam u f).free = s.free := rfl
@[simp] theorem State.updTeam_turn : (s.updTeam u f).turn = s.turn := rfl
end updTeam

section updGrid
variable (s : State) (u : Nat) (f : Grid → Grid)
@[simp] theorem State.updGrid_cores : (s.updGrid u f).cores = s.cores := rfl
@[simp] theorem State.updGrid_dieTlb : (s.updGrid u f).dieTlb = s.dieTlb := rfl
@[simp] theorem State.updGrid_mem : (s.updGrid u f).mem = s.mem := rfl
@[simp] theorem State.updGrid_hostMem : (s.updGrid u f).hostMem = s.hostMem := rfl
@[simp] theorem State.updGrid_poison : (s.updGrid u f).poison = s.poison := rfl
@[simp] theorem State.updGrid_contexts : (s.updGrid u f).contexts = s.contexts := rfl
@[simp] theorem State.updGrid_queues : (s.updGrid u f).queues = s.queues := rfl
@[simp] theorem State.updGrid_orreryUs : (s.updGrid u f).orreryUs = s.orreryUs := rfl
@[simp] theorem State.updGrid_grids : (s.updGrid u f).grids = Tab.upd s.grids u f := rfl
@[simp] theorem State.updGrid_teams : (s.updGrid u f).teams = s.teams := rfl
@[simp] theorem State.updGrid_groups : (s.updGrid u f).groups = s.groups := rfl
@[simp] theorem State.updGrid_spans : (s.updGrid u f).spans = s.spans := rfl
@[simp] theorem State.updGrid_children : (s.updGrid u f).children = s.children := rfl
@[simp] theorem State.updGrid_flights : (s.updGrid u f).flights = s.flights := rfl
@[simp] theorem State.updGrid_stores : (s.updGrid u f).stores = s.stores := rfl
@[simp] theorem State.updGrid_seals : (s.updGrid u f).seals = s.seals := rfl
@[simp] theorem State.updGrid_pfaults : (s.updGrid u f).pfaults = s.pfaults := rfl
@[simp] theorem State.updGrid_versions : (s.updGrid u f).versions = s.versions := rfl
@[simp] theorem State.updGrid_foreign : (s.updGrid u f).foreign = s.foreign := rfl
@[simp] theorem State.updGrid_vlines : (s.updGrid u f).vlines = s.vlines := rfl
@[simp] theorem State.updGrid_frames : (s.updGrid u f).frames = s.frames := rfl
@[simp] theorem State.updGrid_squashes : (s.updGrid u f).squashes = s.squashes := rfl
@[simp] theorem State.updGrid_vways : (s.updGrid u f).vways = s.vways := rfl
@[simp] theorem State.updGrid_links : (s.updGrid u f).links = s.links := rfl
@[simp] theorem State.updGrid_inLinks : (s.updGrid u f).inLinks = s.inLinks := rfl
@[simp] theorem State.updGrid_pod : (s.updGrid u f).pod = s.pod := rfl
@[simp] theorem State.updGrid_streams : (s.updGrid u f).streams = s.streams := rfl
@[simp] theorem State.updGrid_latches : (s.updGrid u f).latches = s.latches := rfl
@[simp] theorem State.updGrid_fabricCtx : (s.updGrid u f).fabricCtx = s.fabricCtx := rfl
@[simp] theorem State.updGrid_fabricCycles : (s.updGrid u f).fabricCycles = s.fabricCycles := rfl
@[simp] theorem State.updGrid_linkQueue : (s.updGrid u f).linkQueue = s.linkQueue := rfl
@[simp] theorem State.updGrid_port : (s.updGrid u f).port = s.port := rfl
@[simp] theorem State.updGrid_manage : (s.updGrid u f).manage = s.manage := rfl
@[simp] theorem State.updGrid_fnmode : (s.updGrid u f).fnmode = s.fnmode := rfl
@[simp] theorem State.updGrid_device : (s.updGrid u f).device = s.device := rfl
@[simp] theorem State.updGrid_uids : (s.updGrid u f).uids = s.uids := rfl
@[simp] theorem State.updGrid_agenda : (s.updGrid u f).agenda = s.agenda := rfl
@[simp] theorem State.updGrid_issuing : (s.updGrid u f).issuing = s.issuing := rfl
@[simp] theorem State.updGrid_cur : (s.updGrid u f).cur = s.cur := rfl
@[simp] theorem State.updGrid_free : (s.updGrid u f).free = s.free := rfl
@[simp] theorem State.updGrid_turn : (s.updGrid u f).turn = s.turn := rfl
end updGrid

section setSpan
variable (s : State) (p : Span)
@[simp] theorem State.setSpan_cores : (s.setSpan p).cores = s.cores := rfl
@[simp] theorem State.setSpan_dieTlb : (s.setSpan p).dieTlb = s.dieTlb := rfl
@[simp] theorem State.setSpan_mem : (s.setSpan p).mem = s.mem := rfl
@[simp] theorem State.setSpan_hostMem : (s.setSpan p).hostMem = s.hostMem := rfl
@[simp] theorem State.setSpan_poison : (s.setSpan p).poison = s.poison := rfl
@[simp] theorem State.setSpan_contexts : (s.setSpan p).contexts = s.contexts := rfl
@[simp] theorem State.setSpan_queues : (s.setSpan p).queues = s.queues := rfl
@[simp] theorem State.setSpan_orreryUs : (s.setSpan p).orreryUs = s.orreryUs := rfl
@[simp] theorem State.setSpan_grids : (s.setSpan p).grids = s.grids := rfl
@[simp] theorem State.setSpan_teams : (s.setSpan p).teams = s.teams := rfl
@[simp] theorem State.setSpan_groups : (s.setSpan p).groups = s.groups := rfl
@[simp] theorem State.setSpan_spans : (s.setSpan p).spans = Tab.set s.spans p.uid p := rfl
@[simp] theorem State.setSpan_children : (s.setSpan p).children = s.children := rfl
@[simp] theorem State.setSpan_flights : (s.setSpan p).flights = s.flights := rfl
@[simp] theorem State.setSpan_stores : (s.setSpan p).stores = s.stores := rfl
@[simp] theorem State.setSpan_seals : (s.setSpan p).seals = s.seals := rfl
@[simp] theorem State.setSpan_pfaults : (s.setSpan p).pfaults = s.pfaults := rfl
@[simp] theorem State.setSpan_versions : (s.setSpan p).versions = s.versions := rfl
@[simp] theorem State.setSpan_foreign : (s.setSpan p).foreign = s.foreign := rfl
@[simp] theorem State.setSpan_vlines : (s.setSpan p).vlines = s.vlines := rfl
@[simp] theorem State.setSpan_frames : (s.setSpan p).frames = s.frames := rfl
@[simp] theorem State.setSpan_squashes : (s.setSpan p).squashes = s.squashes := rfl
@[simp] theorem State.setSpan_vways : (s.setSpan p).vways = s.vways := rfl
@[simp] theorem State.setSpan_links : (s.setSpan p).links = s.links := rfl
@[simp] theorem State.setSpan_inLinks : (s.setSpan p).inLinks = s.inLinks := rfl
@[simp] theorem State.setSpan_pod : (s.setSpan p).pod = s.pod := rfl
@[simp] theorem State.setSpan_streams : (s.setSpan p).streams = s.streams := rfl
@[simp] theorem State.setSpan_latches : (s.setSpan p).latches = s.latches := rfl
@[simp] theorem State.setSpan_fabricCtx : (s.setSpan p).fabricCtx = s.fabricCtx := rfl
@[simp] theorem State.setSpan_fabricCycles : (s.setSpan p).fabricCycles = s.fabricCycles := rfl
@[simp] theorem State.setSpan_linkQueue : (s.setSpan p).linkQueue = s.linkQueue := rfl
@[simp] theorem State.setSpan_port : (s.setSpan p).port = s.port := rfl
@[simp] theorem State.setSpan_manage : (s.setSpan p).manage = s.manage := rfl
@[simp] theorem State.setSpan_fnmode : (s.setSpan p).fnmode = s.fnmode := rfl
@[simp] theorem State.setSpan_device : (s.setSpan p).device = s.device := rfl
@[simp] theorem State.setSpan_uids : (s.setSpan p).uids = s.uids := rfl
@[simp] theorem State.setSpan_agenda : (s.setSpan p).agenda = s.agenda := rfl
@[simp] theorem State.setSpan_issuing : (s.setSpan p).issuing = s.issuing := rfl
@[simp] theorem State.setSpan_cur : (s.setSpan p).cur = s.cur := rfl
@[simp] theorem State.setSpan_free : (s.setSpan p).free = s.free := rfl
@[simp] theorem State.setSpan_turn : (s.setSpan p).turn = s.turn := rfl
end setSpan

section updSpan
variable (s : State) (u : Nat) (f : Span → Span)
@[simp] theorem State.updSpan_cores : (s.updSpan u f).cores = s.cores := rfl
@[simp] theorem State.updSpan_dieTlb : (s.updSpan u f).dieTlb = s.dieTlb := rfl
@[simp] theorem State.updSpan_mem : (s.updSpan u f).mem = s.mem := rfl
@[simp] theorem State.updSpan_hostMem : (s.updSpan u f).hostMem = s.hostMem := rfl
@[simp] theorem State.updSpan_poison : (s.updSpan u f).poison = s.poison := rfl
@[simp] theorem State.updSpan_contexts : (s.updSpan u f).contexts = s.contexts := rfl
@[simp] theorem State.updSpan_queues : (s.updSpan u f).queues = s.queues := rfl
@[simp] theorem State.updSpan_orreryUs : (s.updSpan u f).orreryUs = s.orreryUs := rfl
@[simp] theorem State.updSpan_grids : (s.updSpan u f).grids = s.grids := rfl
@[simp] theorem State.updSpan_teams : (s.updSpan u f).teams = s.teams := rfl
@[simp] theorem State.updSpan_groups : (s.updSpan u f).groups = s.groups := rfl
@[simp] theorem State.updSpan_spans : (s.updSpan u f).spans = Tab.upd s.spans u f := rfl
@[simp] theorem State.updSpan_children : (s.updSpan u f).children = s.children := rfl
@[simp] theorem State.updSpan_flights : (s.updSpan u f).flights = s.flights := rfl
@[simp] theorem State.updSpan_stores : (s.updSpan u f).stores = s.stores := rfl
@[simp] theorem State.updSpan_seals : (s.updSpan u f).seals = s.seals := rfl
@[simp] theorem State.updSpan_pfaults : (s.updSpan u f).pfaults = s.pfaults := rfl
@[simp] theorem State.updSpan_versions : (s.updSpan u f).versions = s.versions := rfl
@[simp] theorem State.updSpan_foreign : (s.updSpan u f).foreign = s.foreign := rfl
@[simp] theorem State.updSpan_vlines : (s.updSpan u f).vlines = s.vlines := rfl
@[simp] theorem State.updSpan_frames : (s.updSpan u f).frames = s.frames := rfl
@[simp] theorem State.updSpan_squashes : (s.updSpan u f).squashes = s.squashes := rfl
@[simp] theorem State.updSpan_vways : (s.updSpan u f).vways = s.vways := rfl
@[simp] theorem State.updSpan_links : (s.updSpan u f).links = s.links := rfl
@[simp] theorem State.updSpan_inLinks : (s.updSpan u f).inLinks = s.inLinks := rfl
@[simp] theorem State.updSpan_pod : (s.updSpan u f).pod = s.pod := rfl
@[simp] theorem State.updSpan_streams : (s.updSpan u f).streams = s.streams := rfl
@[simp] theorem State.updSpan_latches : (s.updSpan u f).latches = s.latches := rfl
@[simp] theorem State.updSpan_fabricCtx : (s.updSpan u f).fabricCtx = s.fabricCtx := rfl
@[simp] theorem State.updSpan_fabricCycles : (s.updSpan u f).fabricCycles = s.fabricCycles := rfl
@[simp] theorem State.updSpan_linkQueue : (s.updSpan u f).linkQueue = s.linkQueue := rfl
@[simp] theorem State.updSpan_port : (s.updSpan u f).port = s.port := rfl
@[simp] theorem State.updSpan_manage : (s.updSpan u f).manage = s.manage := rfl
@[simp] theorem State.updSpan_fnmode : (s.updSpan u f).fnmode = s.fnmode := rfl
@[simp] theorem State.updSpan_device : (s.updSpan u f).device = s.device := rfl
@[simp] theorem State.updSpan_uids : (s.updSpan u f).uids = s.uids := rfl
@[simp] theorem State.updSpan_agenda : (s.updSpan u f).agenda = s.agenda := rfl
@[simp] theorem State.updSpan_issuing : (s.updSpan u f).issuing = s.issuing := rfl
@[simp] theorem State.updSpan_cur : (s.updSpan u f).cur = s.cur := rfl
@[simp] theorem State.updSpan_free : (s.updSpan u f).free = s.free := rfl
@[simp] theorem State.updSpan_turn : (s.updSpan u f).turn = s.turn := rfl
end updSpan

section updCtx
variable (s : State) (c : Nat) (f : Context → Context)
@[simp] theorem State.updCtx_cores : (s.updCtx c f).cores = s.cores := rfl
@[simp] theorem State.updCtx_dieTlb : (s.updCtx c f).dieTlb = s.dieTlb := rfl
@[simp] theorem State.updCtx_mem : (s.updCtx c f).mem = s.mem := rfl
@[simp] theorem State.updCtx_hostMem : (s.updCtx c f).hostMem = s.hostMem := rfl
@[simp] theorem State.updCtx_poison : (s.updCtx c f).poison = s.poison := rfl
@[simp] theorem State.updCtx_contexts : (s.updCtx c f).contexts = Tab.upd s.contexts c f := rfl
@[simp] theorem State.updCtx_queues : (s.updCtx c f).queues = s.queues := rfl
@[simp] theorem State.updCtx_orreryUs : (s.updCtx c f).orreryUs = s.orreryUs := rfl
@[simp] theorem State.updCtx_grids : (s.updCtx c f).grids = s.grids := rfl
@[simp] theorem State.updCtx_teams : (s.updCtx c f).teams = s.teams := rfl
@[simp] theorem State.updCtx_groups : (s.updCtx c f).groups = s.groups := rfl
@[simp] theorem State.updCtx_spans : (s.updCtx c f).spans = s.spans := rfl
@[simp] theorem State.updCtx_children : (s.updCtx c f).children = s.children := rfl
@[simp] theorem State.updCtx_flights : (s.updCtx c f).flights = s.flights := rfl
@[simp] theorem State.updCtx_stores : (s.updCtx c f).stores = s.stores := rfl
@[simp] theorem State.updCtx_seals : (s.updCtx c f).seals = s.seals := rfl
@[simp] theorem State.updCtx_pfaults : (s.updCtx c f).pfaults = s.pfaults := rfl
@[simp] theorem State.updCtx_versions : (s.updCtx c f).versions = s.versions := rfl
@[simp] theorem State.updCtx_foreign : (s.updCtx c f).foreign = s.foreign := rfl
@[simp] theorem State.updCtx_vlines : (s.updCtx c f).vlines = s.vlines := rfl
@[simp] theorem State.updCtx_frames : (s.updCtx c f).frames = s.frames := rfl
@[simp] theorem State.updCtx_squashes : (s.updCtx c f).squashes = s.squashes := rfl
@[simp] theorem State.updCtx_vways : (s.updCtx c f).vways = s.vways := rfl
@[simp] theorem State.updCtx_links : (s.updCtx c f).links = s.links := rfl
@[simp] theorem State.updCtx_inLinks : (s.updCtx c f).inLinks = s.inLinks := rfl
@[simp] theorem State.updCtx_pod : (s.updCtx c f).pod = s.pod := rfl
@[simp] theorem State.updCtx_streams : (s.updCtx c f).streams = s.streams := rfl
@[simp] theorem State.updCtx_latches : (s.updCtx c f).latches = s.latches := rfl
@[simp] theorem State.updCtx_fabricCtx : (s.updCtx c f).fabricCtx = s.fabricCtx := rfl
@[simp] theorem State.updCtx_fabricCycles : (s.updCtx c f).fabricCycles = s.fabricCycles := rfl
@[simp] theorem State.updCtx_linkQueue : (s.updCtx c f).linkQueue = s.linkQueue := rfl
@[simp] theorem State.updCtx_port : (s.updCtx c f).port = s.port := rfl
@[simp] theorem State.updCtx_manage : (s.updCtx c f).manage = s.manage := rfl
@[simp] theorem State.updCtx_fnmode : (s.updCtx c f).fnmode = s.fnmode := rfl
@[simp] theorem State.updCtx_device : (s.updCtx c f).device = s.device := rfl
@[simp] theorem State.updCtx_uids : (s.updCtx c f).uids = s.uids := rfl
@[simp] theorem State.updCtx_agenda : (s.updCtx c f).agenda = s.agenda := rfl
@[simp] theorem State.updCtx_issuing : (s.updCtx c f).issuing = s.issuing := rfl
@[simp] theorem State.updCtx_cur : (s.updCtx c f).cur = s.cur := rfl
@[simp] theorem State.updCtx_free : (s.updCtx c f).free = s.free := rfl
@[simp] theorem State.updCtx_turn : (s.updCtx c f).turn = s.turn := rfl
end updCtx

section updQueue
variable (s : State) (q : Nat) (f : Queue → Queue)
@[simp] theorem State.updQueue_cores : (s.updQueue q f).cores = s.cores := rfl
@[simp] theorem State.updQueue_dieTlb : (s.updQueue q f).dieTlb = s.dieTlb := rfl
@[simp] theorem State.updQueue_mem : (s.updQueue q f).mem = s.mem := rfl
@[simp] theorem State.updQueue_hostMem : (s.updQueue q f).hostMem = s.hostMem := rfl
@[simp] theorem State.updQueue_poison : (s.updQueue q f).poison = s.poison := rfl
@[simp] theorem State.updQueue_contexts : (s.updQueue q f).contexts = s.contexts := rfl
@[simp] theorem State.updQueue_queues : (s.updQueue q f).queues = Tab.upd s.queues q f := rfl
@[simp] theorem State.updQueue_orreryUs : (s.updQueue q f).orreryUs = s.orreryUs := rfl
@[simp] theorem State.updQueue_grids : (s.updQueue q f).grids = s.grids := rfl
@[simp] theorem State.updQueue_teams : (s.updQueue q f).teams = s.teams := rfl
@[simp] theorem State.updQueue_groups : (s.updQueue q f).groups = s.groups := rfl
@[simp] theorem State.updQueue_spans : (s.updQueue q f).spans = s.spans := rfl
@[simp] theorem State.updQueue_children : (s.updQueue q f).children = s.children := rfl
@[simp] theorem State.updQueue_flights : (s.updQueue q f).flights = s.flights := rfl
@[simp] theorem State.updQueue_stores : (s.updQueue q f).stores = s.stores := rfl
@[simp] theorem State.updQueue_seals : (s.updQueue q f).seals = s.seals := rfl
@[simp] theorem State.updQueue_pfaults : (s.updQueue q f).pfaults = s.pfaults := rfl
@[simp] theorem State.updQueue_versions : (s.updQueue q f).versions = s.versions := rfl
@[simp] theorem State.updQueue_foreign : (s.updQueue q f).foreign = s.foreign := rfl
@[simp] theorem State.updQueue_vlines : (s.updQueue q f).vlines = s.vlines := rfl
@[simp] theorem State.updQueue_frames : (s.updQueue q f).frames = s.frames := rfl
@[simp] theorem State.updQueue_squashes : (s.updQueue q f).squashes = s.squashes := rfl
@[simp] theorem State.updQueue_vways : (s.updQueue q f).vways = s.vways := rfl
@[simp] theorem State.updQueue_links : (s.updQueue q f).links = s.links := rfl
@[simp] theorem State.updQueue_inLinks : (s.updQueue q f).inLinks = s.inLinks := rfl
@[simp] theorem State.updQueue_pod : (s.updQueue q f).pod = s.pod := rfl
@[simp] theorem State.updQueue_streams : (s.updQueue q f).streams = s.streams := rfl
@[simp] theorem State.updQueue_latches : (s.updQueue q f).latches = s.latches := rfl
@[simp] theorem State.updQueue_fabricCtx : (s.updQueue q f).fabricCtx = s.fabricCtx := rfl
@[simp] theorem State.updQueue_fabricCycles : (s.updQueue q f).fabricCycles = s.fabricCycles := rfl
@[simp] theorem State.updQueue_linkQueue : (s.updQueue q f).linkQueue = s.linkQueue := rfl
@[simp] theorem State.updQueue_port : (s.updQueue q f).port = s.port := rfl
@[simp] theorem State.updQueue_manage : (s.updQueue q f).manage = s.manage := rfl
@[simp] theorem State.updQueue_fnmode : (s.updQueue q f).fnmode = s.fnmode := rfl
@[simp] theorem State.updQueue_device : (s.updQueue q f).device = s.device := rfl
@[simp] theorem State.updQueue_uids : (s.updQueue q f).uids = s.uids := rfl
@[simp] theorem State.updQueue_agenda : (s.updQueue q f).agenda = s.agenda := rfl
@[simp] theorem State.updQueue_issuing : (s.updQueue q f).issuing = s.issuing := rfl
@[simp] theorem State.updQueue_cur : (s.updQueue q f).cur = s.cur := rfl
@[simp] theorem State.updQueue_free : (s.updQueue q f).free = s.free := rfl
@[simp] theorem State.updQueue_turn : (s.updQueue q f).turn = s.turn := rfl
end updQueue

section fresh
variable (s : State)
@[simp] theorem State.fresh_fst : s.fresh.1 = s.uids := rfl
@[simp] theorem State.fresh_cores : s.fresh.2.cores = s.cores := rfl
@[simp] theorem State.fresh_dieTlb : s.fresh.2.dieTlb = s.dieTlb := rfl
@[simp] theorem State.fresh_mem : s.fresh.2.mem = s.mem := rfl
@[simp] theorem State.fresh_hostMem : s.fresh.2.hostMem = s.hostMem := rfl
@[simp] theorem State.fresh_poison : s.fresh.2.poison = s.poison := rfl
@[simp] theorem State.fresh_contexts : s.fresh.2.contexts = s.contexts := rfl
@[simp] theorem State.fresh_queues : s.fresh.2.queues = s.queues := rfl
@[simp] theorem State.fresh_orreryUs : s.fresh.2.orreryUs = s.orreryUs := rfl
@[simp] theorem State.fresh_grids : s.fresh.2.grids = s.grids := rfl
@[simp] theorem State.fresh_teams : s.fresh.2.teams = s.teams := rfl
@[simp] theorem State.fresh_groups : s.fresh.2.groups = s.groups := rfl
@[simp] theorem State.fresh_spans : s.fresh.2.spans = s.spans := rfl
@[simp] theorem State.fresh_children : s.fresh.2.children = s.children := rfl
@[simp] theorem State.fresh_flights : s.fresh.2.flights = s.flights := rfl
@[simp] theorem State.fresh_stores : s.fresh.2.stores = s.stores := rfl
@[simp] theorem State.fresh_seals : s.fresh.2.seals = s.seals := rfl
@[simp] theorem State.fresh_pfaults : s.fresh.2.pfaults = s.pfaults := rfl
@[simp] theorem State.fresh_versions : s.fresh.2.versions = s.versions := rfl
@[simp] theorem State.fresh_foreign : s.fresh.2.foreign = s.foreign := rfl
@[simp] theorem State.fresh_vlines : s.fresh.2.vlines = s.vlines := rfl
@[simp] theorem State.fresh_frames : s.fresh.2.frames = s.frames := rfl
@[simp] theorem State.fresh_squashes : s.fresh.2.squashes = s.squashes := rfl
@[simp] theorem State.fresh_vways : s.fresh.2.vways = s.vways := rfl
@[simp] theorem State.fresh_links : s.fresh.2.links = s.links := rfl
@[simp] theorem State.fresh_inLinks : s.fresh.2.inLinks = s.inLinks := rfl
@[simp] theorem State.fresh_pod : s.fresh.2.pod = s.pod := rfl
@[simp] theorem State.fresh_streams : s.fresh.2.streams = s.streams := rfl
@[simp] theorem State.fresh_latches : s.fresh.2.latches = s.latches := rfl
@[simp] theorem State.fresh_fabricCtx : s.fresh.2.fabricCtx = s.fabricCtx := rfl
@[simp] theorem State.fresh_fabricCycles : s.fresh.2.fabricCycles = s.fabricCycles := rfl
@[simp] theorem State.fresh_linkQueue : s.fresh.2.linkQueue = s.linkQueue := rfl
@[simp] theorem State.fresh_port : s.fresh.2.port = s.port := rfl
@[simp] theorem State.fresh_manage : s.fresh.2.manage = s.manage := rfl
@[simp] theorem State.fresh_fnmode : s.fresh.2.fnmode = s.fnmode := rfl
@[simp] theorem State.fresh_device : s.fresh.2.device = s.device := rfl
@[simp] theorem State.fresh_uids : s.fresh.2.uids = s.uids + 1 := rfl
@[simp] theorem State.fresh_agenda : s.fresh.2.agenda = s.agenda := rfl
@[simp] theorem State.fresh_issuing : s.fresh.2.issuing = s.issuing := rfl
@[simp] theorem State.fresh_cur : s.fresh.2.cur = s.cur := rfl
@[simp] theorem State.fresh_free : s.fresh.2.free = s.free := rfl
@[simp] theorem State.fresh_turn : s.fresh.2.turn = s.turn := rfl
end fresh

section draw
variable (s : State)
@[simp] theorem State.draw_fst : s.draw.1 = s.free := rfl
@[simp] theorem State.draw_cores : s.draw.2.cores = s.cores := rfl
@[simp] theorem State.draw_dieTlb : s.draw.2.dieTlb = s.dieTlb := rfl
@[simp] theorem State.draw_mem : s.draw.2.mem = s.mem := rfl
@[simp] theorem State.draw_hostMem : s.draw.2.hostMem = s.hostMem := rfl
@[simp] theorem State.draw_poison : s.draw.2.poison = s.poison := rfl
@[simp] theorem State.draw_contexts : s.draw.2.contexts = s.contexts := rfl
@[simp] theorem State.draw_queues : s.draw.2.queues = s.queues := rfl
@[simp] theorem State.draw_orreryUs : s.draw.2.orreryUs = s.orreryUs := rfl
@[simp] theorem State.draw_grids : s.draw.2.grids = s.grids := rfl
@[simp] theorem State.draw_teams : s.draw.2.teams = s.teams := rfl
@[simp] theorem State.draw_groups : s.draw.2.groups = s.groups := rfl
@[simp] theorem State.draw_spans : s.draw.2.spans = s.spans := rfl
@[simp] theorem State.draw_children : s.draw.2.children = s.children := rfl
@[simp] theorem State.draw_flights : s.draw.2.flights = s.flights := rfl
@[simp] theorem State.draw_stores : s.draw.2.stores = s.stores := rfl
@[simp] theorem State.draw_seals : s.draw.2.seals = s.seals := rfl
@[simp] theorem State.draw_pfaults : s.draw.2.pfaults = s.pfaults := rfl
@[simp] theorem State.draw_versions : s.draw.2.versions = s.versions := rfl
@[simp] theorem State.draw_foreign : s.draw.2.foreign = s.foreign := rfl
@[simp] theorem State.draw_vlines : s.draw.2.vlines = s.vlines := rfl
@[simp] theorem State.draw_frames : s.draw.2.frames = s.frames := rfl
@[simp] theorem State.draw_squashes : s.draw.2.squashes = s.squashes := rfl
@[simp] theorem State.draw_vways : s.draw.2.vways = s.vways := rfl
@[simp] theorem State.draw_links : s.draw.2.links = s.links := rfl
@[simp] theorem State.draw_inLinks : s.draw.2.inLinks = s.inLinks := rfl
@[simp] theorem State.draw_pod : s.draw.2.pod = s.pod := rfl
@[simp] theorem State.draw_streams : s.draw.2.streams = s.streams := rfl
@[simp] theorem State.draw_latches : s.draw.2.latches = s.latches := rfl
@[simp] theorem State.draw_fabricCtx : s.draw.2.fabricCtx = s.fabricCtx := rfl
@[simp] theorem State.draw_fabricCycles : s.draw.2.fabricCycles = s.fabricCycles := rfl
@[simp] theorem State.draw_linkQueue : s.draw.2.linkQueue = s.linkQueue := rfl
@[simp] theorem State.draw_port : s.draw.2.port = s.port := rfl
@[simp] theorem State.draw_manage : s.draw.2.manage = s.manage := rfl
@[simp] theorem State.draw_fnmode : s.draw.2.fnmode = s.fnmode := rfl
@[simp] theorem State.draw_device : s.draw.2.device = s.device := rfl
@[simp] theorem State.draw_uids : s.draw.2.uids = s.uids := rfl
@[simp] theorem State.draw_agenda : s.draw.2.agenda = s.agenda := rfl
@[simp] theorem State.draw_issuing : s.draw.2.issuing = s.issuing := rfl
@[simp] theorem State.draw_cur : s.draw.2.cur = s.cur := rfl
@[simp] theorem State.draw_free : s.draw.2.free = s.free + 1 := rfl
@[simp] theorem State.draw_turn : s.draw.2.turn = s.turn := rfl
end draw

end Sys2Proof.Machine
end

