-- ==== Sys2Proof/Laws/Tab.lean ====
section
/-! SUPPORT. Laws of the sparse tables and byte memories: what a read gives after an update, and that every operation keeps
the canonical form. -/

namespace Sys2Proof.Machine

variable {α : Type}

@[simp] theorem Tab.get?_nil (n : Nat) : Tab.get? ([] : Tab α) n = none := rfl

theorem Tab.get?_cons (k : Nat) (a : α) (t : Tab α) (n : Nat) :
    Tab.get? ((k, a) :: t) n = if k = n then some a else if n < k then none else Tab.get? t n := by
  simp [Tab.get?]

theorem Tab.get?_set (t : Tab α) (n m : Nat) (a : α) : Tab.get? (Tab.set t n a) m = if m = n then some a else Tab.get? t m := by
  induction t with
  | nil => simp only [Tab.set, Tab.get?_cons, Tab.get?_nil]; split_ifs <;> first | rfl | omega
  | cons x t ih =>
    obtain ⟨k, b⟩ := x
    simp only [Tab.set, beq_iff_eq]
    by_cases h1 : k = n
    · subst h1; simp only [if_true, Tab.get?_cons]; split_ifs <;> first | rfl | omega
    · by_cases h2 : n < k
      · simp only [h1, h2, if_true, if_false, Tab.get?_cons]; split_ifs <;> first | rfl | omega
      · simp only [h1, h2, if_false, Tab.get?_cons, ih]; split_ifs <;> first | rfl | omega

@[simp] theorem Tab.get?_set_same (t : Tab α) (n : Nat) (a : α) : Tab.get? (Tab.set t n a) n = some a := by simp [Tab.get?_set]
theorem Tab.get?_set_ne (t : Tab α) {n m : Nat} (a : α) (h : m ≠ n) : Tab.get? (Tab.set t n a) m = Tab.get? t m := by
  simp [Tab.get?_set, h]
@[simp] theorem Tab.get_set_same (t : Tab α) (n : Nat) (a d : α) : Tab.get (Tab.set t n a) n d = a := by simp [Tab.get]
theorem Tab.get_set_ne (t : Tab α) {n m : Nat} (a d : α) (h : m ≠ n) : Tab.get (Tab.set t n a) m d = Tab.get t m d := by
  simp [Tab.get, Tab.get?_set, h]

theorem Tab.get?_upd (t : Tab α) (n m : Nat) (f : α → α) :
    Tab.get? (Tab.upd t n f) m = if m = n then (Tab.get? t n).map f else Tab.get? t m := by
  unfold Tab.upd
  cases h : Tab.get? t n with
  | none => by_cases hm : m = n <;> simp [hm, h]
  | some a => simp [Tab.get?_set]
theorem Tab.get?_upd_same (t : Tab α) (n : Nat) (f : α → α) : Tab.get? (Tab.upd t n f) n = (Tab.get? t n).map f := by
  simp [Tab.get?_upd]
theorem Tab.get?_upd_ne (t : Tab α) {n m : Nat} (f : α → α) (h : m ≠ n) : Tab.get? (Tab.upd t n f) m = Tab.get? t m := by
  simp [Tab.get?_upd, h]

/-- Every key of the table is above a bound. -/
def Tab.above (t : Tab α) (n : Nat) : Prop := ∀ x ∈ t, n < x.1

theorem Tab.wf_cons (k : Nat) (a : α) (t : Tab α) : Tab.wf ((k, a) :: t) = true ↔ Tab.above t k ∧ Tab.wf t = true := by
  induction t generalizing k a with
  | nil => simp [Tab.wf, Tab.above]
  | cons x t ih =>
    obtain ⟨k', b⟩ := x
    simp only [Tab.wf, Bool.and_eq_true, decide_eq_true_eq, Tab.above, List.mem_cons, forall_eq_or_imp]
    constructor
    · rintro ⟨h, hw⟩
      have := (ih k' b).1 hw
      exact ⟨⟨h, fun x hx => lt_trans h (this.1 x hx)⟩, hw⟩
    · rintro ⟨⟨h, -⟩, hw⟩; exact ⟨h, hw⟩

theorem Tab.get?_above {t : Tab α} {n m : Nat} (h : Tab.above t n) (hm : m ≤ n) : Tab.get? t m = none := by
  cases t with
  | nil => rfl
  | cons x t =>
    obtain ⟨k, a⟩ := x
    have : n < k := h (k, a) (List.mem_cons_self ..)
    simp only [Tab.get?_cons]; split_ifs <;> first | rfl | omega

theorem Tab.mem_set {t : Tab α} {n : Nat} {a : α} {x : Nat × α} (h : x ∈ Tab.set t n a) : x = (n, a) ∨ x ∈ t := by
  induction t with
  | nil => simpa [Tab.set] using h
  | cons y t ih =>
    obtain ⟨k, b⟩ := y
    simp only [Tab.set] at h
    split at h
    · rcases List.mem_cons.1 h with h | h
      · exact .inl h
      · exact .inr (List.mem_cons_of_mem _ h)
    · split at h
      · rcases List.mem_cons.1 h with h | h
        · exact .inl h
        · exact .inr h
      · rcases List.mem_cons.1 h with h | h
        · exact .inr (h ▸ List.mem_cons_self ..)
        · exact (ih h).imp id (List.mem_cons_of_mem _)

theorem Tab.wf_set {t : Tab α} (n : Nat) (a : α) (h : Tab.wf t = true) : Tab.wf (Tab.set t n a) = true := by
  induction t with
  | nil => rfl
  | cons y t ih =>
    obtain ⟨k, b⟩ := y
    have hw := (Tab.wf_cons k b t).1 h
    simp only [Tab.set, beq_iff_eq]
    split_ifs with h1 h2
    · subst h1; exact (Tab.wf_cons _ a t).2 hw
    · refine (Tab.wf_cons n a _).2 ⟨fun x hx => ?_, h⟩
      rcases List.mem_cons.1 hx with rfl | hx
      · exact h2
      · exact lt_trans h2 (hw.1 x hx)
    · refine (Tab.wf_cons k b _).2 ⟨fun x hx => ?_, ih hw.2⟩
      rcases Tab.mem_set hx with rfl | hx
      · show k < n; omega
      · exact hw.1 x hx

theorem Tab.mem_del {t : Tab α} {n : Nat} {x : Nat × α} (h : x ∈ Tab.del t n) : x ∈ t := by
  induction t with
  | nil => simp [Tab.del] at h
  | cons y t ih =>
    obtain ⟨k, b⟩ := y
    simp only [Tab.del] at h
    split at h
    · exact List.mem_cons_of_mem _ h
    · split at h
      · exact h
      · rcases List.mem_cons.1 h with h | h
        · exact h ▸ List.mem_cons_self ..
        · exact List.mem_cons_of_mem _ (ih h)

theorem Tab.wf_del {t : Tab α} (n : Nat) (h : Tab.wf t = true) : Tab.wf (Tab.del t n) = true := by
  induction t with
  | nil => rfl
  | cons y t ih =>
    obtain ⟨k, b⟩ := y
    have hw := (Tab.wf_cons k b t).1 h
    simp only [Tab.del]
    split_ifs
    · exact hw.2
    · exact h
    · exact (Tab.wf_cons k b _).2 ⟨fun x hx => hw.1 x (Tab.mem_del hx), ih hw.2⟩

theorem Tab.wf_upd {t : Tab α} (n : Nat) (f : α → α) (h : Tab.wf t = true) : Tab.wf (Tab.upd t n f) = true := by
  unfold Tab.upd
  split
  · exact Tab.wf_set n _ h
  · exact h

theorem Tab.get?_del_ne (t : Tab α) {n m : Nat} (h : m ≠ n) : Tab.wf t = true → Tab.get? (Tab.del t n) m = Tab.get? t m := by
  induction t with
  | nil => intro _; rfl
  | cons y t ih =>
    obtain ⟨k, b⟩ := y
    intro hw
    have hw := (Tab.wf_cons k b t).1 hw
    simp only [Tab.del, beq_iff_eq]
    by_cases h1 : k = n
    · subst h1
      simp only [if_true, Tab.get?_cons]
      split_ifs with h2 h3
      · omega
      · exact Tab.get?_above hw.1 (by omega)
      · rfl
    · by_cases h2 : n < k
      · simp [h1, h2]
      · simp only [h1, h2, if_false, Tab.get?_cons, ih hw.2]

theorem Tab.get?_del_same (t : Tab α) (n : Nat) : Tab.wf t = true → Tab.get? (Tab.del t n) n = none := by
  induction t with
  | nil => intro _; rfl
  | cons y t ih =>
    obtain ⟨k, b⟩ := y
    intro hw
    have hw := (Tab.wf_cons k b t).1 hw
    simp only [Tab.del, beq_iff_eq]
    by_cases h1 : k = n
    · subst h1; simpa using Tab.get?_above hw.1 le_rfl
    · by_cases h2 : n < k
      · simp [h1, h2, Tab.get?_cons]
      · simp [h1, h2, Tab.get?_cons, ih hw.2]

/-! ### Byte memories -/

theorem Mem.wf_write {m : List Host.Cell} (a : Nat) (b : Byte) (h : Mem.wf m = true) : Mem.wf (Mem.write m a b) = true := by
  simp only [Mem.wf, Bool.and_eq_true, List.all_eq_true] at h ⊢
  unfold Mem.write
  split
  · exact ⟨Tab.wf_del a h.1, fun x hx => h.2 x (Tab.mem_del hx)⟩
  · rename_i hb
    refine ⟨Tab.wf_set a b h.1, fun x hx => ?_⟩
    rcases Tab.mem_set hx with rfl | hx
    · simpa using hb
    · exact h.2 x hx

theorem Mem.wf_writeN {m : List Host.Cell} (a : Nat) (bs : List Byte) (h : Mem.wf m = true) : Mem.wf (Mem.writeN m a bs) = true := by
  induction bs generalizing m a with
  | nil => exact h
  | cons b bs ih => exact ih (a + 1) (Mem.wf_write a b h)

/-- A read after a write of one byte. -/
theorem Mem.read_write {m : List Host.Cell} (a x : Nat) (b : Byte) (h : Mem.wf m = true) :
    Mem.read (Mem.write m a b) x = if x = a then b else Mem.read m x := by
  have hw : Tab.wf m = true := by simp only [Mem.wf, Bool.and_eq_true] at h; exact h.1
  unfold Mem.read Mem.write
  split
  · rename_i hb
    have hb : b = 0 := by simpa using hb
    by_cases hx : x = a
    · subst hx; simp [Tab.get, Tab.get?_del_same m x hw, hb]
    · simp [Tab.get, Tab.get?_del_ne m hx hw, hx]
  · by_cases hx : x = a
    · subst hx; simp
    · rw [if_neg hx]; exact Tab.get_set_ne m b 0 hx

/-- A write of bytes leaves every address outside them as it was. -/
theorem Mem.read_writeN_out {m : List Host.Cell} (a x : Nat) (bs : List Byte) (h : Mem.wf m = true) (hx : x < a ∨ a + bs.length ≤ x) :
    Mem.read (Mem.writeN m a bs) x = Mem.read m x := by
  induction bs generalizing m a with
  | nil => rfl
  | cons b bs ih =>
    simp only [List.length_cons] at hx
    rw [Mem.writeN, ih (a + 1) (Mem.wf_write a b h) (by omega), Mem.read_write a x b h, if_neg (by omega)]

/-- A read inside the bytes written gives the byte written there. -/
theorem Mem.read_writeN_in {m : List Host.Cell} (a k : Nat) (bs : List Byte) (h : Mem.wf m = true) (hk : k < bs.length) :
    Mem.read (Mem.writeN m a bs) (a + k) = bs[k] := by
  induction bs generalizing m a k with
  | nil => simp at hk
  | cons b bs ih =>
    rw [Mem.writeN]
    cases k with
    | zero => rw [Mem.read_writeN_out (a + 1) (a + 0) bs (Mem.wf_write a b h) (by omega), Mem.read_write a _ b h]; simp
    | succ k =>
      have := ih (m := Mem.write m a b) (a + 1) k (Mem.wf_write a b h) (by simpa using hk)
      rw [show a + (k + 1) = a + 1 + k by omega, this]; simp

end Sys2Proof.Machine
end

