-- ==== Sys2Proof/Laws/Result.lean ====
section
/-! SUPPORT. What writing a result does: only the words of lanes of the mask matter, and what stays as it was. -/

namespace Sys2Proof.Machine

theorem Tab.set_get? {α : Type} (t : Tab α) (n : Nat) (a : α) (h : Tab.get? t n = some a) : Tab.set t n a = t := by
  induction t with
  | nil => simp at h
  | cons x t ih =>
    obtain ⟨k, b⟩ := x
    simp only [Tab.get?_cons] at h
    simp only [Tab.set, beq_iff_eq]
    split_ifs at h ⊢ with h1 h2
    · simp_all
    · rw [ih h]

theorem Tab.upd_id {α : Type} (t : Tab α) (n : Nat) (f : α → α) (h : ∀ a, f a = a) : Tab.upd t n f = t := by
  unfold Tab.upd
  split
  · rename_i a ha; rw [h]; exact Tab.set_get? t n a ha
  · rfl

/-- Two results agree where the write looks. -/
def Res.agree (m : Nat) (x y : Res) : Prop :=
  x.1 = y.1 ∧ match x.1 with
    | .s _ => x.2 0 = y.2 0 ∧ x.2 1 = y.2 1
    | .fmt _ => x.2 0 = y.2 0
    | _ => ∀ l, inMask m l = true → x.2 l = y.2 l

theorem Group.putReg_agree (g : Group) (now m : Nat) {x y : Res} (h : Res.agree m x y) :
    g.putReg now m x.1 x.2 = g.putReg now m y.1 y.2 := by
  obtain ⟨r, f⟩ := x
  obtain ⟨r', f'⟩ := y
  obtain ⟨h1, h2⟩ := h
  simp only at h1 h2
  subst h1
  cases r <;> simp only [Group.putReg] at h2 ⊢
  · simp only [Group.setV, mergeRow_congr _ h2]
  · simp only [Group.setO, mergeRow_congr _ h2]
  · rw [h2.1, h2.2]
  · unfold Group.setP
    split
    · rfl
    · rw [show (laneMask fun l => if inMask m l = true then f l != 0 else inMask (g.pmask _) l)
          = laneMask fun l => if inMask m l = true then f' l != 0 else inMask (g.pmask _) l from
        laneMask_congr fun l _ => by split <;> [rw [h2 l ‹_›]; rfl]]
  · rw [h2]

theorem Group.pushZ_congr (g : Group) (m : Nat) {f f' : Nat → Word} (h : ∀ l, inMask m l = true → f l = f' l) : g.pushZ m f = g.pushZ m f' := by
  simp only [Group.pushZ, mergeRow_congr _ h]

/-- Results that agree still do without those that P7 discards. -/
theorem Res.agree_filter {m : Nat} {rs rs' : List Res} (H : List.Forall₂ (Res.agree m) rs rs') :
    List.Forall₂ (Res.agree m) (rs.filter fun r => r.1 != .p 7) (rs'.filter fun r => r.1 != .p 7) := by
  induction H with
  | nil => exact .nil
  | @cons x y _ _ a _ ih =>
    simp only [List.filter_cons, ← a.1]
    split
    · exact .cons a ih
    · exact ih

/-- Only what the lanes of the mask write matters. -/
theorem State.result_congr (s : State) (uid : Nat) (h : Hdr) (m : Nat) (lat : Lat) {rs rs' : List Res} (flags : Nat)
    (H : List.Forall₂ (Res.agree m) rs rs') : s.result uid h m lat rs flags = s.result uid h m lat rs' flags := by
  unfold State.result
  replace H := Res.agree_filter H
  revert H
  generalize (rs.filter fun r => r.1 != .p 7) = rs
  generalize (rs'.filter fun r => r.1 != .p 7) = rs'
  intro H
  have hmap : ∀ g : Group, (rs.map fun r => (r.1, g.words r.1)) = rs'.map fun r => (r.1, g.words r.1) := by
    intro g
    induction H with
    | nil => rfl
    | cons a _ ih => simp [ih, a.1]
  have hemp : rs.isEmpty = rs'.isEmpty := by cases H <;> rfl
  have hfold : ∀ (now : Nat) (g : Group), rs.foldl (fun g r => g.putReg now m r.1 r.2) g = rs'.foldl (fun g r => g.putReg now m r.1 r.2) g := by
    clear hmap hemp
    intro now
    induction H with
    | nil => intro _; rfl
    | cons a _ ih => intro g; simp only [List.foldl_cons, Group.putReg_agree g now m a, ih]
  have hfind : (rs.find? Res.isRow) = none ∧
      (rs'.find? Res.isRow) = none ∨
      ∃ x y, (rs.find? Res.isRow) = some x ∧
        (rs'.find? Res.isRow) = some y ∧ ∀ l, inMask m l = true → x.2 l = y.2 l := by
    clear hmap hemp hfold
    induction H with
    | nil => exact .inl ⟨rfl, rfl⟩
    | @cons x y xs ys a _ ih =>
      obtain ⟨r, f⟩ := x
      obtain ⟨r', f'⟩ := y
      obtain ⟨h1, h2⟩ := a
      simp only at h1 h2
      subst h1
      cases r
      case v n => exact .inr ⟨_, _, rfl, rfl, h2⟩
      case o n => exact .inr ⟨_, _, rfl, rfl, h2⟩
      all_goals exact ih
  cases hg : Tab.get? s.groups uid with
  | none => rfl
  | some g =>
    simp only [hemp, hmap, hfold]
    rcases hfind with ⟨h1, h2⟩ | ⟨x, y, h1, h2, h3⟩
    · simp only [h1, h2]
    · simp only [h1, h2]
      cases lat <;> simp only [if_true, if_false, Bool.false_eq_true, Group.pushZ_congr _ m h3]

end Sys2Proof.Machine
end

