-- ==== Sys2Proof/Laws/Lane.lean ====
section
/-! SUPPORT. The two ways in which lanes' results are written come to `LaneOp.out`. -/

namespace Sys2Proof.Machine

/-- A mask of lanes of a group. -/
def LaneSet (m : Nat) : Prop := ∀ l, inMask m l = true → l < 64

theorem laneSet_act (e : Env) (h : Hdr) (lanes : Nat) : LaneSet (e.act h lanes) := by
  intro l hl
  simp only [Env.act, inMask_maskDiff, Bool.and_eq_true, decide_eq_true_eq] at hl
  exact hl.1

theorem lowLane_lt {m : Nat} : lowLane m < 64 := by
  unfold lowLane
  cases h : (lanesOf m).head? with
  | none => simp
  | some l =>
    have : l ∈ lanesOf m := List.mem_of_mem_head? h
    simpa using ((mem_lanesOf m l).1 this).1

theorem lowLane_mem {m : Nat} (hs : LaneSet m) (hm : m ≠ 0) : inMask m (lowLane m) = true := by
  unfold lowLane
  cases h : (lanesOf m).head? with
  | none =>
    exfalso
    have hnil : lanesOf m = [] := List.head?_eq_none_iff.1 h
    apply hm
    apply Nat.eq_of_testBit_eq
    intro i
    rw [Nat.zero_testBit]
    by_contra hc
    have hi : inMask m i = true := by simpa [inMask, bitOf_testBit] using hc
    have : i ∈ lanesOf m := (mem_lanesOf m i).2 ⟨hs i hi, hi⟩
    rw [hnil] at this
    cases this
  | some l =>
    have : l ∈ lanesOf m := List.mem_of_mem_head? h
    simpa using ((mem_lanesOf m l).1 this).2

/-- The list in which a body forms all lanes' results. -/
theorem getD_lanes (on l : Nat) (f : Nat → Lres) (h : l < 64) :
    ((List.range 64).map fun l => if inMask on l then f l else {}).getD l {} = if inMask on l then f l else {} := by
  simp [List.getD_eq_getElem?_getD, h]

theorem foldl_flags (on : Nat) (f : Nat → Lres) :
    ((List.range 64).map fun l => if inMask on l then f l else ({} : Lres)).foldl (fun x r => orN x r.flags) 0
      = (lanesOf on).foldl (fun x l => orN x (f l).flags) 0 := by
  have key : ∀ (ls : List Nat) (z : Nat), (ls.map fun l => if inMask on l then f l else ({} : Lres)).foldl (fun x r => orN x r.flags) z
      = (ls.filter (inMask on)).foldl (fun x l => orN x (f l).flags) z := by
    intro ls
    induction ls with
    | nil => intro _; rfl
    | cons a t ih =>
      intro z
      by_cases h : inMask on a = true
      · simp only [List.map_cons, List.foldl_cons, h, if_true, List.filter_cons_of_pos, ih]
      · have h0 : orN z ({} : Lres).flags = z := by simp [orN]
        rw [List.filter_cons_of_neg h, List.map_cons, List.foldl_cons, if_neg h, h0, ih]
  exact key _ _

theorem resOf_agree (d : Opnd) (n m low : Nat) {f f' : Nat → Nat} (h : ∀ l, inMask m l = true → f l = f' l) (hl : (∃ k, d = .s k) → f low = f' low) :
    List.Forall₂ (Res.agree m) (resOf d n low f) (resOf d n low f') := by
  cases d with
  | v k => exact List.forall₂_map_left_iff.2 (List.forall₂_map_right_iff.2 (List.forall₂_same.2 fun i _ => ⟨rfl, fun l hl => by simp [h l hl]⟩))
  | o k => exact List.forall₂_map_left_iff.2 (List.forall₂_map_right_iff.2 (List.forall₂_same.2 fun i _ => ⟨rfl, fun l hl => by simp [h l hl]⟩))
  | s k => exact .cons ⟨rfl, by simp [hl ⟨k, rfl⟩]⟩ .nil
  | z k => exact .nil
  | imm k => exact .nil
  | sr k => exact .nil

theorem Group.updLanes_id (g : Group) (m : Nat) {f : Nat → Lane → Lane} (h : ∀ l x, inMask m l = true → f l x = x) : g.updLanes m f = g := by
  unfold Group.updLanes
  rw [mapFrom_id]
  intro i a
  split
  · exact h i a ‹_›
  · rfl

theorem State.updGroup_id (s : State) (uid : Nat) {f : Group → Group} (h : ∀ g, f g = g) : s.updGroup uid f = s := by
  unfold State.updGroup
  rw [Tab.upd_id _ _ _ h]

theorem Group.updLanes_congr (g : Group) (m : Nat) {f f' : Nat → Lane → Lane} (h : ∀ l x, inMask m l = true → f l x = f' l x) :
    g.updLanes m f = g.updLanes m f' := by
  unfold Group.updLanes
  rw [mapFrom_congr 0 fun i a _ _ => ?_]
  split
  · exact h i a ‹_›
  · rfl

theorem laneSet_on {act : Nat} (d : Option (Opnd × Nat)) (pd : Option (BitVec 3)) (h : LaneSet act) : LaneSet (computing d pd act) := by
  unfold computing
  split
  · split
    · intro l hl
      rw [inMask_pow] at hl
      have : lowLane act = l := by simpa using hl
      exact this ▸ lowLane_lt
    · exact h
  · exact h

/-- The lanes that write are among those that compute, but for an S destination. -/
theorem mem_on {d : Option (Opnd × Nat)} {pd : Option (BitVec 3)} {act l : Nat} (hl : inMask act l = true)
    (hd : pd.isSome = true ∨ ∀ x, d = some x → x.1.isS = false) : inMask (computing d pd act) l = true := by
  unfold computing
  split
  · rename_i d' n
    rcases hd with hd | hd
    · simp at hd
    · simpa [hd _ rfl] using hl
  · exact hl

theorem resultsOf_agree (d : Option (Opnd × Nat)) (pd : Option (BitVec 3)) {act : Nat} {f f' : Nat → Lres}
    (hd : ∀ x, d = some x → x.1.isS = false → ∀ l, inMask act l = true → f l = f' l)
    (hp : pd.isSome = true → ∀ l, inMask act l = true → f l = f' l)
    (hs : ∀ x, d = some x → x.1.isS = true → f (lowLane act) = f' (lowLane act)) :
    List.Forall₂ (Res.agree act) (resultsOf d pd act f) (resultsOf d pd act f') := by
  refine List.rel_append (R := Res.agree act) ?_ ?_
  · cases d with
    | none => exact .nil
    | some x =>
      obtain ⟨d, n⟩ := x
      cases hS : d.isS with
      | true =>
        cases d with
        | s k => exact .cons ⟨rfl, by simp [hs _ rfl hS]⟩ .nil
        | _ => simp [Opnd.isS] at hS
      | false => exact resOf_agree d n act (lowLane act) (fun l hl => by rw [hd _ rfl hS l hl]) fun ⟨k, hk⟩ => by subst hk; simp [Opnd.isS] at hS
  · cases pd with
    | none => exact .nil
    | some p => exact .cons ⟨rfl, fun l hl => by simp [hp rfl l hl]⟩ .nil

/-- What a lane-by-lane body does is what its `LaneOp` says. -/
theorem aluBody_out (h : Hdr) (lat : Lat) (d : Option (Opnd × Nat)) (pd : Option (BitVec 3)) (f : Env → Nat → Lres) (s : State) (e : Env)
    {act : Nat} (ha : LaneSet act) (h0 : act ≠ 0) :
    aluBody h lat d pd f s e act = ({ lat, dst := d, pd, f := fun e _ l => f e l } : LaneOp).out h s e act := by
  unfold aluBody LaneOp.out LaneOp.flags LaneOp.on LaneOp.results
  extract_lets on rs at_ dres pres res flags s1
  simp only [Bool.false_eq_true, if_false]
  have hon : LaneSet on := laneSet_on d pd ha
  have hat : ∀ l, inMask on l = true → at_ l = f e l := by
    intro l hl
    show rs.getD l {} = _
    rw [getD_lanes on l _ (hon l hl), if_pos hl]
  have hflags : flags = (lanesOf on).foldl (fun x l => orN x (f e l).flags) 0 := foldl_flags on (f e)
  have hs1 : s1 = s.result e.g.uid h act lat (resultsOf d pd act (f e)) flags := by
    refine State.result_congr s _ _ _ _ _ ?_
    show List.Forall₂ (Res.agree act) (resultsOf d pd act at_) _
    refine resultsOf_agree d pd ?_ ?_ ?_
    · intro x hx hS l hl
      refine hat l (mem_on hl (.inr fun y hy => ?_))
      rw [hx] at hy; cases hy; exact hS
    · intro hp l hl; exact hat l (mem_on hl (.inl hp))
    · intro x hx hS
      cases hpd : pd with
      | some p => exact hat _ (mem_on (lowLane_mem ha h0) (.inl (by simp [hpd])))
      | none =>
        refine hat _ ?_
        show inMask (computing d pd act) _ = true
        obtain ⟨o, n⟩ := x
        have hS : o.isS = true := hS
        simp [computing, hx, hpd, hS, inMask_pow]
  simp only [hs1, hflags]
  by_cases hany : (rs.any fun r => r.lfsr.isSome) = true
  · rw [if_pos hany]
    congr 2
    funext g
    refine Group.updLanes_congr g on fun l x hl => ?_
    exact congrArg (fun r : Lres => match r.lfsr with | some y => { x with lfsr := BitVec.ofNat 32 y } | none => x) (hat l hl)
  · rw [if_neg hany]
    congr 1
    refine (State.updGroup_id _ _ fun g => Group.updLanes_id g on fun l x hl => ?_).symm
    have : (f e l).lfsr = none := by
      by_contra hc
      apply hany
      rw [List.any_eq_true]
      refine ⟨f e l, ?_, by simpa [Option.isSome_iff_ne_none] using hc⟩
      refine List.mem_map.2 ⟨l, by simpa using hon l hl, by simp [hl]⟩
    rw [this]

/-- What the effect of a cross-lane instruction is: it does what its `LaneOp` says. -/
theorem crossOp_out {s : State} {i : Instr} {h : Hdr} {lanes : Nat} {pc next : BitVec 49} {e0 e : Env} (H : Issues s i h lanes pc next e0 e)
    (d : Option (Opnd × Nat)) (pd : Option (BitVec 3)) (f : XFun) (hf : ∀ l, (f e (e0.act h lanes) l).lfsr = none) :
    crossOp i h d pd f s
      = (({ lat := .var, dst := d, pd, every := true, f } : LaneOp).out h e.st e (e0.act h lanes)).ends e0 lanes pc next := by
  unfold crossOp
  rw [issue_group H]
  have ha := laneSet_act e0 h lanes
  have h0 := H.some_lane
  generalize e0.act h lanes = act at *
  unfold LaneOp.out LaneOp.flags LaneOp.on LaneOp.results
  congr 1
  extract_lets rs at_ dres pres
  have hat : ∀ l, inMask act l = true → at_ l = f e act l := by
    intro l hl
    show rs.getD l {} = _
    rw [getD_lanes act l _ (ha l hl), if_pos hl]
  have hres : e.st.result e.g.uid h act .var (dres ++ pres) (rs.foldl (fun x r => orN x r.flags) 0)
      = e.st.result e.g.uid h act .var (resultsOf d pd act (f e act)) ((lanesOf act).foldl (fun x l => orN x (f e act l).flags) 0) := by
    rw [show rs.foldl (fun x r => orN x r.flags) 0 = _ from foldl_flags act (f e act)]
    refine State.result_congr _ _ _ _ _ _ ?_
    show List.Forall₂ (Res.agree act) (resultsOf d pd act at_) _
    exact resultsOf_agree d pd (fun _ _ _ l hl => hat l hl) (fun _ l hl => hat l hl) fun _ _ _ => hat _ (lowLane_mem ha h0)
  simp only [hres, if_true]
  congr 1
  exact (State.updGroup_id _ _ fun g => Group.updLanes_id g act fun l x _ => by rw [hf l]).symm

end Sys2Proof.Machine
end

