-- ==== Sys2Proof/Laws/Lanes.lean ====
section
/-! SUPPORT. Effects that treat the active lanes one after another. -/

namespace Sys2Proof.Machine

theorem nodup_lanesOf (m : Nat) : (lanesOf m).Nodup := List.Nodup.filter _ List.nodup_range

theorem mask_ext {a b : Nat} (h : ∀ l, inMask a l = inMask b l) : a = b := by
  refine Nat.eq_of_testBit_eq fun i => ?_
  have := h i
  rwa [inMask, inMask, bitOf_testBit, bitOf_testBit] at this

theorem inMask_foldl_maskOr (ls : List Nat) (z l : Nat) :
    inMask (ls.foldl (fun m k => maskOr m (2 ^ k)) z) l = (inMask z l || decide (l ∈ ls)) := by
  induction ls generalizing z with
  | nil => simp
  | cons a t ih =>
    rw [List.foldl_cons, ih, inMask_maskOr, inMask_pow, Bool.or_assoc]
    congr 1
    by_cases h : a = l
    · subst h; simp
    · have : l ≠ a := fun hc => h hc.symm
      simp [h, this]

theorem foldl_maskOr {m : Nat} (h : LaneSet m) : (lanesOf m).foldl (fun x k => maskOr x (2 ^ k)) 0 = m := by
  refine mask_ext fun l => ?_
  rw [inMask_foldl_maskOr, inMask_zero, Bool.false_or]
  by_cases hl : inMask m l = true
  · simp [mem_lanesOf, hl, h l hl]
  · simp [mem_lanesOf, hl]

/-- Lanes of a list changed in turn. -/
theorem foldl_updLanes (ls : List Nat) (hn : ls.Nodup) (f : Nat → Lane → Lane) (g : Group) :
    ls.foldl (fun g l => g.updLanes (2 ^ l) fun _ x => f l x) g = { g with lanes := mapFrom (fun l x => if l ∈ ls then f l x else x) 0 g.lanes } := by
  induction ls generalizing g with
  | nil => simp [mapFrom_id]
  | cons a t ih =>
    rw [List.nodup_cons] at hn
    rw [List.foldl_cons, ih hn.2]
    simp only [Group.updLanes]
    congr 1
    refine List.ext_getElem? fun i => ?_
    simp only [getElem?_mapFrom, Option.map_map, Nat.zero_add]
    cases g.lanes[i]? with
    | none => rfl
    | some x =>
      simp only [Option.map_some, Function.comp_apply, inMask_pow, List.mem_cons]
      by_cases h : a = i
      · subst h; simp [hn.1]
      · have : i ≠ a := fun hc => h hc.symm
        simp [h, this]

theorem foldl_lanesOf (m : Nat) (f : Nat → Lane → Lane) (g : Group) (hg : LaneSet m) :
    (lanesOf m).foldl (fun g l => g.updLanes (2 ^ l) fun _ x => f l x) g = g.updLanes m f := by
  rw [foldl_updLanes _ (nodup_lanesOf m)]
  simp only [Group.updLanes]
  congr 1
  refine mapFrom_congr 0 fun i a _ _ => ?_
  simp only [mem_lanesOf]
  by_cases h : inMask m i = true
  · simp [h, hg i h]
  · simp [h]

theorem State.updGroup_updGroup (s : State) (uid : Nat) (f f' : Group → Group) :
    (s.updGroup uid f).updGroup uid f' = s.updGroup uid fun g => f' (f g) := by
  simp only [State.updGroup, Tab.upd]
  cases h : Tab.get? s.groups uid with
  | none => simp [h]
  | some g =>
    have : ∀ (t : Tab Group) (a b : Group), Tab.set (Tab.set t uid a) uid b = Tab.set t uid b := by
      intro t a b
      induction t with
      | nil => simp [Tab.set]
      | cons x t ih =>
        obtain ⟨k, c⟩ := x
        simp only [Tab.set, beq_iff_eq]
        split_ifs with h1 h2 <;> simp [Tab.set, *]
    simp [this]

theorem foldl_updGroup (s : State) (uid : Nat) (ls : List Nat) (f : Nat → Group → Group) :
    ls.foldl (fun (s : State) l => s.updGroup uid (f l)) s = s.updGroup uid fun g => ls.foldl (fun g l => f l g) g := by
  induction ls generalizing s with
  | nil => simp [State.updGroup_id]
  | cons a t ih => simp only [List.foldl_cons, ih, State.updGroup_updGroup]

/-- Active lanes that each change their own lane and stay where they put themselves. -/
theorem forLanes_stay (s : State) (uid : Nat) {act : Nat} (ha : LaneSet act) (f : Nat → Lane → Lane) :
    forLanes s act (fun s l => (s.updGroup uid fun g => g.updLanes (2 ^ l) fun _ x => f l x, .stay))
      = { s := s.updGroup uid fun g => g.updLanes act f, stays := act } := by
  have key : ∀ (ls : List Nat) (o : Out), ls.foldl (fun o l =>
      ({ o with s := o.s.updGroup uid fun g => g.updLanes (2 ^ l) fun _ x => f l x, stays := maskOr o.stays (2 ^ l) } : Out)) o
      = { o with s := ls.foldl (fun (s : State) l => s.updGroup uid fun g => g.updLanes (2 ^ l) fun _ x => f l x) o.s
                 stays := ls.foldl (fun x k => maskOr x (2 ^ k)) o.stays } := by
    intro ls
    induction ls with
    | nil => intro _; rfl
    | cons a t ih => intro o; simp only [List.foldl_cons, ih]
  unfold forLanes
  refine (key (lanesOf act) { s }).trans ?_
  rw [foldl_updGroup s uid (lanesOf act) fun l g => g.updLanes (2 ^ l) fun _ x => f l x, foldl_maskOr ha]
  simp only [foldl_lanesOf _ _ _ ha]

end Sys2Proof.Machine
end

