-- ==== Sys2Proof/Laws/Link.lean ====
section
/-! SUPPORT. What an update of a link, of either direction, leaves as it was, field by field, and what it sets. -/

namespace Sys2Proof.Machine

section updLink
variable (s : State) (peer : Nat) (f : Link → Link)
@[simp] theorem State.updLink_cores : (s.updLink peer f).cores = s.cores := rfl
@[simp] theorem State.updLink_dieTlb : (s.updLink peer f).dieTlb = s.dieTlb := rfl
@[simp] theorem State.updLink_mem : (s.updLink peer f).mem = s.mem := rfl
@[simp] theorem State.updLink_hostMem : (s.updLink peer f).hostMem = s.hostMem := rfl
@[simp] theorem State.updLink_poison : (s.updLink peer f).poison = s.poison := rfl
@[simp] theorem State.updLink_contexts : (s.updLink peer f).contexts = s.contexts := rfl
@[simp] theorem State.updLink_queues : (s.updLink peer f).queues = s.queues := rfl
@[simp] theorem State.updLink_orreryUs : (s.updLink peer f).orreryUs = s.orreryUs := rfl
@[simp] theorem State.updLink_grids : (s.updLink peer f).grids = s.grids := rfl
@[simp] theorem State.updLink_teams : (s.updLink peer f).teams = s.teams := rfl
@[simp] theorem State.updLink_groups : (s.updLink peer f).groups = s.groups := rfl
@[simp] theorem State.updLink_spans : (s.updLink peer f).spans = s.spans := rfl
@[simp] theorem State.updLink_children : (s.updLink peer f).children = s.children := rfl
@[simp] theorem State.updLink_flights : (s.updLink peer f).flights = s.flights := rfl
@[simp] theorem State.updLink_stores : (s.updLink peer f).stores = s.stores := rfl
@[simp] theorem State.updLink_seals : (s.updLink peer f).seals = s.seals := rfl
@[simp] theorem State.updLink_pfaults : (s.updLink peer f).pfaults = s.pfaults := rfl
@[simp] theorem State.updLink_versions : (s.updLink peer f).versions = s.versions := rfl
@[simp] theorem State.updLink_foreign : (s.updLink peer f).foreign = s.foreign := rfl
@[simp] theorem State.updLink_vlines : (s.updLink peer f).vlines = s.vlines := rfl
@[simp] theorem State.updLink_frames : (s.updLink peer f).frames = s.frames := rfl
@[simp] theorem State.updLink_squashes : (s.updLink peer f).squashes = s.squashes := rfl
@[simp] theorem State.updLink_vways : (s.updLink peer f).vways = s.vways := rfl
@[simp] theorem State.updLink_links : (s.updLink peer f).links = Tab.set s.links peer (f (s.link peer)) := rfl
@[simp] theorem State.updLink_inLinks : (s.updLink peer f).inLinks = s.inLinks := rfl
@[simp] theorem State.updLink_pod : (s.updLink peer f).pod = s.pod := rfl
@[simp] theorem State.updLink_streams : (s.updLink peer f).streams = s.streams := rfl
@[simp] theorem State.updLink_latches : (s.updLink peer f).latches = s.latches := rfl
@[simp] theorem State.updLink_fabricCtx : (s.updLink peer f).fabricCtx = s.fabricCtx := rfl
@[simp] theorem State.updLink_fabricCycles : (s.updLink peer f).fabricCycles = s.fabricCycles := rfl
@[simp] theorem State.updLink_linkQueue : (s.updLink peer f).linkQueue = s.linkQueue := rfl
@[simp] theorem State.updLink_port : (s.updLink peer f).port = s.port := rfl
@[simp] theorem State.updLink_manage : (s.updLink peer f).manage = s.manage := rfl
@[simp] theorem State.updLink_fnmode : (s.updLink peer f).fnmode = s.fnmode := rfl
@[simp] theorem State.updLink_device : (s.updLink peer f).device = s.device := rfl
@[simp] theorem State.updLink_uids : (s.updLink peer f).uids = s.uids := rfl
@[simp] theorem State.updLink_agenda : (s.updLink peer f).agenda = s.agenda := rfl
@[simp] theorem State.updLink_issuing : (s.updLink peer f).issuing = s.issuing := rfl
@[simp] theorem State.updLink_cur : (s.updLink peer f).cur = s.cur := rfl
@[simp] theorem State.updLink_free : (s.updLink peer f).free = s.free := rfl
@[simp] theorem State.updLink_turn : (s.updLink peer f).turn = s.turn := rfl
end updLink

section updInLink
variable (s : State) (peer : Nat) (f : InLink → InLink)
@[simp] theorem State.updInLink_cores : (s.updInLink peer f).cores = s.cores := rfl
@[simp] theorem State.updInLink_dieTlb : (s.updInLink peer f).dieTlb = s.dieTlb := rfl
@[simp] theorem State.updInLink_mem : (s.updInLink peer f).mem = s.mem := rfl
@[simp] theorem State.updInLink_hostMem : (s.updInLink peer f).hostMem = s.hostMem := rfl
@[simp] theorem State.updInLink_poison : (s.updInLink peer f).poison = s.poison := rfl
@[simp] theorem State.updInLink_contexts : (s.updInLink peer f).contexts = s.contexts := rfl
@[simp] theorem State.updInLink_queues : (s.updInLink peer f).queues = s.queues := rfl
@[simp] theorem State.updInLink_orreryUs : (s.updInLink peer f).orreryUs = s.orreryUs := rfl
@[simp] theorem State.updInLink_grids : (s.updInLink peer f).grids = s.grids := rfl
@[simp] theorem State.updInLink_teams : (s.updInLink peer f).teams = s.teams := rfl
@[simp] theorem State.updInLink_groups : (s.updInLink peer f).groups = s.groups := rfl
@[simp] theorem State.updInLink_spans : (s.updInLink peer f).spans = s.spans := rfl
@[simp] theorem State.updInLink_children : (s.updInLink peer f).children = s.children := rfl
@[simp] theorem State.updInLink_flights : (s.updInLink peer f).flights = s.flights := rfl
@[simp] theorem State.updInLink_stores : (s.updInLink peer f).stores = s.stores := rfl
@[simp] theorem State.updInLink_seals : (s.updInLink peer f).seals = s.seals := rfl
@[simp] theorem State.updInLink_pfaults : (s.updInLink peer f).pfaults = s.pfaults := rfl
@[simp] theorem State.updInLink_versions : (s.updInLink peer f).versions = s.versions := rfl
@[simp] theorem State.updInLink_foreign : (s.updInLink peer f).foreign = s.foreign := rfl
@[simp] theorem State.updInLink_vlines : (s.updInLink peer f).vlines = s.vlines := rfl
@[simp] theorem State.updInLink_frames : (s.updInLink peer f).frames = s.frames := rfl
@[simp] theorem State.updInLink_squashes : (s.updInLink peer f).squashes = s.squashes := rfl
@[simp] theorem State.updInLink_vways : (s.updInLink peer f).vways = s.vways := rfl
@[simp] theorem State.updInLink_links : (s.updInLink peer f).links = s.links := rfl
@[simp] theorem State.updInLink_inLinks : (s.updInLink peer f).inLinks = Tab.set s.inLinks peer (f (s.inLink peer)) := rfl
@[simp] theorem State.updInLink_pod : (s.updInLink peer f).pod = s.pod := rfl
@[simp] theorem State.updInLink_streams : (s.updInLink peer f).streams = s.streams := rfl
@[simp] theorem State.updInLink_latches : (s.updInLink peer f).latches = s.latches := rfl
@[simp] theorem State.updInLink_fabricCtx : (s.updInLink peer f).fabricCtx = s.fabricCtx := rfl
@[simp] theorem State.updInLink_fabricCycles : (s.updInLink peer f).fabricCycles = s.fabricCycles := rfl
@[simp] theorem State.updInLink_linkQueue : (s.updInLink peer f).linkQueue = s.linkQueue := rfl
@[simp] theorem State.updInLink_port : (s.updInLink peer f).port = s.port := rfl
@[simp] theorem State.updInLink_manage : (s.updInLink peer f).manage = s.manage := rfl
@[simp] theorem State.updInLink_fnmode : (s.updInLink peer f).fnmode = s.fnmode := rfl
@[simp] theorem State.updInLink_device : (s.updInLink peer f).device = s.device := rfl
@[simp] theorem State.updInLink_uids : (s.updInLink peer f).uids = s.uids := rfl
@[simp] theorem State.updInLink_agenda : (s.updInLink peer f).agenda = s.agenda := rfl
@[simp] theorem State.updInLink_issuing : (s.updInLink peer f).issuing = s.issuing := rfl
@[simp] theorem State.updInLink_cur : (s.updInLink peer f).cur = s.cur := rfl
@[simp] theorem State.updInLink_free : (s.updInLink peer f).free = s.free := rfl
@[simp] theorem State.updInLink_turn : (s.updInLink peer f).turn = s.turn := rfl
end updInLink

/-- A flit that comes counts, and the channels it broke are named once they have broken 64 of the last 1,024 (R405). -/
@[simp] theorem InLink.count_flits (k : InLink) (m : Nat) : (k.count m).1.flits = k.flits + 1 := rfl
@[simp] theorem InLink.count_state (k : InLink) (m : Nat) : (k.count m).1.state = k.state := rfl
@[simp] theorem InLink.count_rx (k : InLink) (m : Nat) : (k.count m).1.rx = k.rx := rfl
@[simp] theorem InLink.count_inbox (k : InLink) (m : Nat) : (k.count m).1.inbox = k.inbox := rfl

end Sys2Proof.Machine
end

