-- ==== Sys2Proof/Laws/PerInstr.lean ====
section
/-! SUPPORT. What the decoder reads from an instruction's own fields is that instruction, constructor by constructor. -/

set_option linter.all false
set_option linter.unusedSimpArgs false
set_option linter.unusedTactic false
set_option linter.unreachableTactic false
set_option linter.unnecessarySeqFocus false

namespace Sys2Proof.Laws
open Sys2Proof Sys2Proof.Machine

/-- The fields of a well-formed instruction fit their places, and an instruction of their opcode built from them is it. -/
def RoundTrip.Statement (i : Instr) : Prop := ∀ f, i.fields = some f → i.wf = true → build f = some i ∧ ∃ len, opcWords f.opc = some len ∧ f.inPlace len

theorem RoundTrip.Statement.event {i : Instr} (h : i.fields = none) : Statement i := fun f hf => by rw [h] at hf; cases hf
theorem RoundTrip.Statement.of {i : Instr} {f : Fields} {len : Nat} (h : i.fields = some f) (hl : opcWords f.opc = some len) (hb : build f = some i) (hp : f.inPlace len) : Statement i := by
  intro g hg _
  rw [h] at hg
  obtain rfl := Option.some.inj hg
  exact ⟨hb, len, hl, hp⟩

theorem RoundTrip.nop (h : Hdr) : Statement (.nop h) := by
  refine .of (len := 2) rfl rfl (congrArg some (?_ : _ = Instr.nop h)) ?_
  · congr 1 <;> (first | rfl)
  · simp only [Fields.inPlace, mk, mkW, fld, AttMod.bitsA]; omega
theorem RoundTrip.bra (h : Hdr) (off : BitVec 32) : Statement (.bra h off) := by
  have := off.isLt
  refine .of (len := 3) rfl rfl (congrArg some (?_ : _ = Instr.bra h off)) ?_
  · congr 1 <;> (first | rfl | exact ofNat_of (by simp only [mk, mkW, fld, Fields.w1, Fields.w2, AttMod.bitsA] <;> omega))
  · simp only [Fields.inPlace, mk, mkW, fld, AttMod.bitsA]; omega
theorem RoundTrip.brx (h : Hdr) (a : Opnd) : Statement (.brx h a) := by
  have := a.bits_lt
  refine .of (len := 2) rfl rfl (congrArg some (?_ : _ = Instr.brx h a)) ?_
  · congr 1 <;> (first | rfl | exact opnd_bits _)
  · simp only [Fields.inPlace, mk, mkW, fld, AttMod.bitsA]; omega
theorem RoundTrip.call (h : Hdr) (off : BitVec 32) : Statement (.call h off) := by
  have := off.isLt
  refine .of (len := 3) rfl rfl (congrArg some (?_ : _ = Instr.call h off)) ?_
  · congr 1 <;> (first | rfl | exact ofNat_of (by simp only [mk, mkW, fld, Fields.w1, Fields.w2, AttMod.bitsA] <;> omega))
  · simp only [Fields.inPlace, mk, mkW, fld, AttMod.bitsA]; omega
theorem RoundTrip.callx (h : Hdr) (a : Opnd) : Statement (.callx h a) := by
  have := a.bits_lt
  refine .of (len := 2) rfl rfl (congrArg some (?_ : _ = Instr.callx h a)) ?_
  · congr 1 <;> (first | rfl | exact opnd_bits _)
  · simp only [Fields.inPlace, mk, mkW, fld, AttMod.bitsA]; omega
theorem RoundTrip.ret (h : Hdr) : Statement (.ret h) := by
  refine .of (len := 2) rfl rfl (congrArg some (?_ : _ = Instr.ret h)) ?_
  · congr 1 <;> (first | rfl)
  · simp only [Fields.inPlace, mk, mkW, fld, AttMod.bitsA]; omega
theorem RoundTrip.exit (h : Hdr) : Statement (.exit h) := by
  refine .of (len := 2) rfl rfl (congrArg some (?_ : _ = Instr.exit h)) ?_
  · congr 1 <;> (first | rfl)
  · simp only [Fields.inPlace, mk, mkW, fld, AttMod.bitsA]; omega
theorem RoundTrip.jset (h : Hdr) (j : BitVec 4) (add : Bool) : Statement (.jset h j add) := by
  have := j.isLt; have := b2n_le add
  refine .of (len := 2) rfl rfl (congrArg some (?_ : _ = Instr.jset h j add)) ?_
  · congr 1 <;> (first | rfl | exact n4_of (by simp only [mk, mkW, fld, Fields.w1, Fields.w2, AttMod.bitsA] <;> omega) | exact bitOf_of (by simp only [mk, mkW, fld, Fields.w1, Fields.w2, AttMod.bitsA] <;> omega))
  · simp only [Fields.inPlace, mk, mkW, fld, AttMod.bitsA]; omega
theorem RoundTrip.join (h : Hdr) (j : BitVec 4) : Statement (.join h j) := by
  have := j.isLt
  refine .of (len := 2) rfl rfl (congrArg some (?_ : _ = Instr.join h j)) ?_
  · congr 1 <;> (first | rfl | exact n4_of (by simp only [mk, mkW, fld, Fields.w1, Fields.w2, AttMod.bitsA] <;> omega))
  · simp only [Fields.inPlace, mk, mkW, fld, AttMod.bitsA]; omega
theorem RoundTrip.jpush (h : Hdr) (j : BitVec 4) : Statement (.jpush h j) := by
  have := j.isLt
  refine .of (len := 2) rfl rfl (congrArg some (?_ : _ = Instr.jpush h j)) ?_
  · congr 1 <;> (first | rfl | exact n4_of (by simp only [mk, mkW, fld, Fields.w1, Fields.w2, AttMod.bitsA] <;> omega))
  · simp only [Fields.inPlace, mk, mkW, fld, AttMod.bitsA]; omega
theorem RoundTrip.jpop (h : Hdr) (j : BitVec 4) : Statement (.jpop h j) := by
  have := j.isLt
  refine .of (len := 2) rfl rfl (congrArg some (?_ : _ = Instr.jpop h j)) ?_
  · congr 1 <;> (first | rfl | exact n4_of (by simp only [mk, mkW, fld, Fields.w1, Fields.w2, AttMod.bitsA] <;> omega))
  · simp only [Fields.inPlace, mk, mkW, fld, AttMod.bitsA]; omega
theorem RoundTrip.brk (h : Hdr) (off : BitVec 32) (j : BitVec 4) (n1 : BitVec 4) : Statement (.brk h off j n1) := by
  have := off.isLt; have := j.isLt; have := n1.isLt
  refine .of (len := 3) rfl rfl (congrArg some (?_ : _ = Instr.brk h off j n1)) ?_
  · congr 1 <;> (first | rfl | exact ofNat_of (by simp only [mk, mkW, fld, Fields.w1, Fields.w2, AttMod.bitsA] <;> omega) | exact n4_of (by simp only [mk, mkW, fld, Fields.w1, Fields.w2, AttMod.bitsA] <;> omega))
  · simp only [Fields.inPlace, mk, mkW, fld, AttMod.bitsA]; omega
theorem RoundTrip.yield (h : Hdr) (a : Opnd) : Statement (.yield h a) := by
  have := a.bits_lt
  refine .of (len := 2) rfl rfl (congrArg some (?_ : _ = Instr.yield h a)) ?_
  · congr 1 <;> (first | rfl | exact opnd_bits _)
  · simp only [Fields.inPlace, mk, mkW, fld, AttMod.bitsA]; omega
theorem RoundTrip.monw (h : Hdr) (a : Opnd) : Statement (.monw h a) := by
  have := a.bits_lt
  refine .of (len := 2) rfl rfl (congrArg some (?_ : _ = Instr.monw h a)) ?_
  · congr 1 <;> (first | rfl | exact opnd_bits _)
  · simp only [Fields.inPlace, mk, mkW, fld, AttMod.bitsA]; omega
theorem RoundTrip.mwait (h : Hdr) (d : Opnd) (a : Opnd) : Statement (.mwait h d a) := by
  have := d.bits_lt; have := a.bits_lt
  refine .of (len := 2) rfl rfl (congrArg some (?_ : _ = Instr.mwait h d a)) ?_
  · congr 1 <;> (first | rfl | exact opnd_bits _)
  · simp only [Fields.inPlace, mk, mkW, fld, AttMod.bitsA]; omega
theorem RoundTrip.gsync (h : Hdr) : Statement (.gsync h) := by
  refine .of (len := 2) rfl rfl (congrArg some (?_ : _ = Instr.gsync h)) ?_
  · congr 1 <;> (first | rfl)
  · simp only [Fields.inPlace, mk, mkW, fld, AttMod.bitsA]; omega
theorem RoundTrip.spmat (h : Hdr) : Statement (.spmat h) := by
  refine .of (len := 2) rfl rfl (congrArg some (?_ : _ = Instr.spmat h)) ?_
  · congr 1 <;> (first | rfl)
  · simp only [Fields.inPlace, mk, mkW, fld, AttMod.bitsA]; omega
theorem RoundTrip.gfold (h : Hdr) : Statement (.gfold h) := by
  refine .of (len := 2) rfl rfl (congrArg some (?_ : _ = Instr.gfold h)) ?_
  · congr 1 <;> (first | rfl)
  · simp only [Fields.inPlace, mk, mkW, fld, AttMod.bitsA]; omega
theorem RoundTrip.spform (h : Hdr) (d : Opnd) (src : FormSrc) : Statement (.spform h d src) := by
  have := d.bits_lt
  cases src with
  | reg x =>
    have := x.bits_lt
    refine .of (len := 2) rfl rfl (congrArg some (?_ : _ = Instr.spform h d (.reg x))) ?_
    · congr 1 <;> (first | rfl | exact opnd_bits _ | exact p3_of (by simp only [mk, mkW, fld, Fields.w1, Fields.w2, AttMod.bitsA] <;> omega) | simp [mk, bitOf, p3, n4, opnd_bits])
    · simp only [Fields.inPlace, mk, mkW, fld, AttMod.bitsA]; omega
  | pred x =>
    have := x.isLt
    refine .of (len := 2) rfl rfl (congrArg some (?_ : _ = Instr.spform h d (.pred x))) ?_
    · congr 1 <;> (first | rfl | exact opnd_bits _ | exact p3_of (by simp only [mk, mkW, fld, Fields.w1, Fields.w2, AttMod.bitsA] <;> omega) | simp [mk, bitOf, p3, n4, opnd_bits])
    · simp only [Fields.inPlace, mk, mkW, fld, AttMod.bitsA]; omega
theorem RoundTrip.rgnld (h : Hdr) (base : BitVec 10) (mask : BitVec 8) (offs : BitVec 32) : Statement (.rgnld h base mask offs) := by
  have := base.isLt; have := mask.isLt; have := offs.isLt
  refine .of (len := 3) rfl rfl (congrArg some (?_ : _ = Instr.rgnld h base mask offs)) ?_
  · congr 1 <;> (first | rfl | exact ofNat_of (by simp only [mk, mkW, fld, Fields.w1, Fields.w2, AttMod.bitsA] <;> omega))
  · simp only [Fields.inPlace, mk, mkW, fld, AttMod.bitsA]; omega
theorem RoundTrip.rshrink (h : Hdr) (a : Opnd) (s : BitVec 4) : Statement (.rshrink h a s) := by
  have := a.bits_lt; have := s.isLt
  refine .of (len := 2) rfl rfl (congrArg some (?_ : _ = Instr.rshrink h a s)) ?_
  · congr 1 <;> (first | rfl | exact opnd_bits _ | exact n4_of (by simp only [mk, mkW, fld, Fields.w1, Fields.w2, AttMod.bitsA] <;> omega))
  · simp only [Fields.inPlace, mk, mkW, fld, AttMod.bitsA]; omega
theorem RoundTrip.rgrow (h : Hdr) (a : Opnd) (s : BitVec 4) : Statement (.rgrow h a s) := by
  have := a.bits_lt; have := s.isLt
  refine .of (len := 2) rfl rfl (congrArg some (?_ : _ = Instr.rgrow h a s)) ?_
  · congr 1 <;> (first | rfl | exact opnd_bits _ | exact n4_of (by simp only [mk, mkW, fld, Fields.w1, Fields.w2, AttMod.bitsA] <;> omega))
  · simp only [Fields.inPlace, mk, mkW, fld, AttMod.bitsA]; omega
theorem RoundTrip.plop (h : Hdr) (pd : BitVec 3) (pa : BitVec 3) (pb : BitVec 3) (lut : BitVec 4) : Statement (.plop h pd pa pb lut) := by
  have := pd.isLt; have := pa.isLt; have := pb.isLt; have := lut.isLt
  refine .of (len := 2) rfl rfl (congrArg some (?_ : _ = Instr.plop h pd pa pb lut)) ?_
  · congr 1 <;> (first | rfl | exact p3_of (by simp only [mk, mkW, fld, Fields.w1, Fields.w2, AttMod.bitsA] <;> omega) | exact n4_of (by simp only [mk, mkW, fld, Fields.w1, Fields.w2, AttMod.bitsA] <;> omega))
  · simp only [Fields.inPlace, mk, mkW, fld, AttMod.bitsA]; omega
theorem RoundTrip.pmov (h : Hdr) (pd : BitVec 3) (pa : BitVec 3) (neg : Bool) : Statement (.pmov h pd pa neg) := by
  have := pd.isLt; have := pa.isLt; have := b2n_le neg
  refine .of (len := 2) rfl rfl (congrArg some (?_ : _ = Instr.pmov h pd pa neg)) ?_
  · congr 1 <;> (first | rfl | exact p3_of (by simp only [mk, mkW, fld, Fields.w1, Fields.w2, AttMod.bitsA] <;> omega) | exact bitOf_of (by simp only [mk, mkW, fld, Fields.w1, Fields.w2, AttMod.bitsA] <;> omega))
  · simp only [Fields.inPlace, mk, mkW, fld, AttMod.bitsA]; omega
theorem RoundTrip.trap (h : Hdr) (tag : BitVec 8) : Statement (.trap h tag) := by
  have := tag.isLt
  refine .of (len := 2) rfl rfl (congrArg some (?_ : _ = Instr.trap h tag)) ?_
  · congr 1 <;> (first | rfl | exact ofNat_of (by simp only [mk, mkW, fld, Fields.w1, Fields.w2, AttMod.bitsA] <;> omega))
  · simp only [Fields.inPlace, mk, mkW, fld, AttMod.bitsA]; omega
theorem RoundTrip.bpt (h : Hdr) (tag : BitVec 8) : Statement (.bpt h tag) := by
  have := tag.isLt
  refine .of (len := 2) rfl rfl (congrArg some (?_ : _ = Instr.bpt h tag)) ?_
  · congr 1 <;> (first | rfl | exact ofNat_of (by simp only [mk, mkW, fld, Fields.w1, Fields.w2, AttMod.bitsA] <;> omega))
  · simp only [Fields.inPlace, mk, mkW, fld, AttMod.bitsA]; omega
theorem RoundTrip.srd (h : Hdr) (d : Opnd) (a : Opnd) : Statement (.srd h d a) := by
  have := d.bits_lt; have := a.bits_lt
  refine .of (len := 2) rfl rfl (congrArg some (?_ : _ = Instr.srd h d a)) ?_
  · congr 1 <;> (first | rfl | exact opnd_bits _)
  · simp only [Fields.inPlace, mk, mkW, fld, AttMod.bitsA]; omega
theorem RoundTrip.swr (h : Hdr) (d : Opnd) (a : Opnd) : Statement (.swr h d a) := by
  have := d.bits_lt; have := a.bits_lt
  refine .of (len := 2) rfl rfl (congrArg some (?_ : _ = Instr.swr h d a)) ?_
  · congr 1 <;> (first | rfl | exact opnd_bits _)
  · simp only [Fields.inPlace, mk, mkW, fld, AttMod.bitsA]; omega
theorem RoundTrip.cyc (h : Hdr) (d : Opnd) (hi : Bool) : Statement (.cyc h d hi) := by
  have := d.bits_lt; have := b2n_le hi
  refine .of (len := 2) rfl rfl (congrArg some (?_ : _ = Instr.cyc h d hi)) ?_
  · congr 1 <;> (first | rfl | exact opnd_bits _ | exact bitOf_of (by simp only [mk, mkW, fld, Fields.w1, Fields.w2, AttMod.bitsA] <;> omega))
  · simp only [Fields.inPlace, mk, mkW, fld, AttMod.bitsA]; omega
theorem RoundTrip.bar (h : Hdr) (b : BitVec 4) : Statement (.bar h b) := by
  have := b.isLt
  refine .of (len := 2) rfl rfl (congrArg some (?_ : _ = Instr.bar h b)) ?_
  · congr 1 <;> (first | rfl | exact n4_of (by simp only [mk, mkW, fld, Fields.w1, Fields.w2, AttMod.bitsA] <;> omega))
  · simp only [Fields.inPlace, mk, mkW, fld, AttMod.bitsA]; omega
theorem RoundTrip.bara (h : Hdr) (d : Opnd) (b : BitVec 4) : Statement (.bara h d b) := by
  have := d.bits_lt; have := b.isLt
  refine .of (len := 2) rfl rfl (congrArg some (?_ : _ = Instr.bara h d b)) ?_
  · congr 1 <;> (first | rfl | exact opnd_bits _ | exact n4_of (by simp only [mk, mkW, fld, Fields.w1, Fields.w2, AttMod.bitsA] <;> omega))
  · simp only [Fields.inPlace, mk, mkW, fld, AttMod.bitsA]; omega
theorem RoundTrip.barw (h : Hdr) (b : BitVec 4) (a : Opnd) : Statement (.barw h b a) := by
  have := b.isLt; have := a.bits_lt
  refine .of (len := 2) rfl rfl (congrArg some (?_ : _ = Instr.barw h b a)) ?_
  · congr 1 <;> (first | rfl | exact n4_of (by simp only [mk, mkW, fld, Fields.w1, Fields.w2, AttMod.bitsA] <;> omega) | exact opnd_bits _)
  · simp only [Fields.inPlace, mk, mkW, fld, AttMod.bitsA]; omega
theorem RoundTrip.barinit (h : Hdr) (b : BitVec 4) (a : Opnd) : Statement (.barinit h b a) := by
  have := b.isLt; have := a.bits_lt
  refine .of (len := 2) rfl rfl (congrArg some (?_ : _ = Instr.barinit h b a)) ?_
  · congr 1 <;> (first | rfl | exact n4_of (by simp only [mk, mkW, fld, Fields.w1, Fields.w2, AttMod.bitsA] <;> omega) | exact opnd_bits _)
  · simp only [Fields.inPlace, mk, mkW, fld, AttMod.bitsA]; omega
theorem RoundTrip.cbar (h : Hdr) : Statement (.cbar h) := by
  refine .of (len := 2) rfl rfl (congrArg some (?_ : _ = Instr.cbar h)) ?_
  · congr 1 <;> (first | rfl)
  · simp only [Fields.inPlace, mk, mkW, fld, AttMod.bitsA]; omega
theorem RoundTrip.gbar (h : Hdr) : Statement (.gbar h) := by
  refine .of (len := 2) rfl rfl (congrArg some (?_ : _ = Instr.gbar h)) ?_
  · congr 1 <;> (first | rfl)
  · simp only [Fields.inPlace, mk, mkW, fld, AttMod.bitsA]; omega
theorem RoundTrip.launch (h : Hdr) (d : Opnd) (a : Opnd) (nb : Bool) : Statement (.launch h d a nb) := by
  have := d.bits_lt; have := a.bits_lt; have := b2n_le nb
  refine .of (len := 3) rfl rfl (congrArg some (?_ : _ = Instr.launch h d a nb)) ?_
  · congr 1 <;> (first | rfl | exact opnd_bits _ | exact bitOf_of (by simp only [mk, mkW, fld, Fields.w1, Fields.w2, AttMod.bitsA] <;> omega))
  · simp only [Fields.inPlace, mk, mkW, fld, AttMod.bitsA]; omega
theorem RoundTrip.enq (h : Hdr) (d : Opnd) (a : Opnd) (b : Opnd) (nb : Bool) : Statement (.enq h d a b nb) := by
  have := d.bits_lt; have := a.bits_lt; have := b.bits_lt; have := b2n_le nb
  refine .of (len := 3) rfl rfl (congrArg some (?_ : _ = Instr.enq h d a b nb)) ?_
  · congr 1 <;> (first | rfl | exact opnd_bits _ | exact bitOf_of (by simp only [mk, mkW, fld, Fields.w1, Fields.w2, AttMod.bitsA] <;> omega))
  · simp only [Fields.inPlace, mk, mkW, fld, AttMod.bitsA]; omega
theorem RoundTrip.qstat (h : Hdr) (d : Opnd) (a : Opnd) (child : Bool) : Statement (.qstat h d a child) := by
  have := d.bits_lt; have := a.bits_lt; have := b2n_le child
  refine .of (len := 2) rfl rfl (congrArg some (?_ : _ = Instr.qstat h d a child)) ?_
  · congr 1 <;> (first | rfl | exact opnd_bits _ | exact bitOf_of (by simp only [mk, mkW, fld, Fields.w1, Fields.w2, AttMod.bitsA] <;> omega))
  · simp only [Fields.inPlace, mk, mkW, fld, AttMod.bitsA]; omega
theorem RoundTrip.splnch (h : Hdr) (d : Opnd) (a : Opnd) (b : Opnd) (c : Opnd) (slot : BitVec 4) (ps : Bool) (nb : Bool) (lit : BitVec 32) : Statement (.splnch h d a b c slot ps nb lit) := by
  have := d.bits_lt; have := a.bits_lt; have := b.bits_lt; have := c.bits_lt; have := slot.isLt; have := b2n_le ps; have := b2n_le nb; have := lit.isLt
  refine .of (len := 4) rfl rfl (congrArg some (?_ : _ = Instr.splnch h d a b c slot ps nb lit)) ?_
  · congr 1 <;> (first | rfl | exact opnd_bits _ | exact n4_of (by simp only [mk, mkW, fld, Fields.w1, Fields.w2, AttMod.bitsA] <;> omega) | exact bitOf_of (by simp only [mk, mkW, fld, Fields.w1, Fields.w2, AttMod.bitsA] <;> omega) | exact ofNat_of (by simp only [mk, mkW, fld, Fields.w1, Fields.w2, AttMod.bitsA] <;> omega))
  · simp only [Fields.inPlace, mk, mkW, fld, AttMod.bitsA]; omega
theorem RoundTrip.resolve (h : Hdr) (d : Opnd) (a : Opnd) (b : Opnd) (slot : BitVec 4) : Statement (.resolve h d a b slot) := by
  have := d.bits_lt; have := a.bits_lt; have := b.bits_lt; have := slot.isLt
  refine .of (len := 3) rfl rfl (congrArg some (?_ : _ = Instr.resolve h d a b slot)) ?_
  · congr 1 <;> (first | rfl | exact opnd_bits _ | exact n4_of (by simp only [mk, mkW, fld, Fields.w1, Fields.w2, AttMod.bitsA] <;> omega))
  · simp only [Fields.inPlace, mk, mkW, fld, AttMod.bitsA]; omega
theorem RoundTrip.vqry (h : Hdr) (d : Opnd) (a : Opnd) (drops : Bool) : Statement (.vqry h d a drops) := by
  have := d.bits_lt; have := a.bits_lt; have := b2n_le drops
  refine .of (len := 2) rfl rfl (congrArg some (?_ : _ = Instr.vqry h d a drops)) ?_
  · congr 1 <;> (first | rfl | exact opnd_bits _ | exact bitOf_of (by simp only [mk, mkW, fld, Fields.w1, Fields.w2, AttMod.bitsA] <;> omega))
  · simp only [Fields.inPlace, mk, mkW, fld, AttMod.bitsA]; omega
theorem RoundTrip.vabort (h : Hdr) (d : Opnd) (a : Opnd) : Statement (.vabort h d a) := by
  have := d.bits_lt; have := a.bits_lt
  refine .of (len := 2) rfl rfl (congrArg some (?_ : _ = Instr.vabort h d a)) ?_
  · congr 1 <;> (first | rfl | exact opnd_bits _)
  · simp only [Fields.inPlace, mk, mkW, fld, AttMod.bitsA]; omega
theorem RoundTrip.iadd (h : Hdr) (m : IMod) (d : Opnd) (a : Opnd) (b : Opnd) : Statement (.iadd h m d a b) := by
  have := m.bits_lt; have := d.bits_lt; have := a.bits_lt; have := b.bits_lt
  refine .of (len := 3) rfl rfl (congrArg some (?_ : _ = Instr.iadd h m d a b)) ?_
  · congr 1 <;> (first | rfl | exact imod_of (by simp only [mk, mkW, fld, Fields.w1, Fields.w2, AttMod.bitsA] <;> omega) | exact opnd_bits _)
  · simp only [Fields.inPlace, mk, mkW, fld, AttMod.bitsA]; omega
theorem RoundTrip.isub (h : Hdr) (m : IMod) (d : Opnd) (a : Opnd) (b : Opnd) : Statement (.isub h m d a b) := by
  have := m.bits_lt; have := d.bits_lt; have := a.bits_lt; have := b.bits_lt
  refine .of (len := 3) rfl rfl (congrArg some (?_ : _ = Instr.isub h m d a b)) ?_
  · congr 1 <;> (first | rfl | exact imod_of (by simp only [mk, mkW, fld, Fields.w1, Fields.w2, AttMod.bitsA] <;> omega) | exact opnd_bits _)
  · simp only [Fields.inPlace, mk, mkW, fld, AttMod.bitsA]; omega
theorem RoundTrip.imul (h : Hdr) (m : IMod) (d : Opnd) (a : Opnd) (b : Opnd) : Statement (.imul h m d a b) := by
  have := m.bits_lt; have := d.bits_lt; have := a.bits_lt; have := b.bits_lt
  refine .of (len := 3) rfl rfl (congrArg some (?_ : _ = Instr.imul h m d a b)) ?_
  · congr 1 <;> (first | rfl | exact imod_of (by simp only [mk, mkW, fld, Fields.w1, Fields.w2, AttMod.bitsA] <;> omega) | exact opnd_bits _)
  · simp only [Fields.inPlace, mk, mkW, fld, AttMod.bitsA]; omega
theorem RoundTrip.imulh (h : Hdr) (m : IMod) (d : Opnd) (a : Opnd) (b : Opnd) : Statement (.imulh h m d a b) := by
  have := m.bits_lt; have := d.bits_lt; have := a.bits_lt; have := b.bits_lt
  refine .of (len := 3) rfl rfl (congrArg some (?_ : _ = Instr.imulh h m d a b)) ?_
  · congr 1 <;> (first | rfl | exact imod_of (by simp only [mk, mkW, fld, Fields.w1, Fields.w2, AttMod.bitsA] <;> omega) | exact opnd_bits _)
  · simp only [Fields.inPlace, mk, mkW, fld, AttMod.bitsA]; omega
theorem RoundTrip.imad (h : Hdr) (m : IMod) (d : Opnd) (a : Opnd) (b : Opnd) (c : Opnd) : Statement (.imad h m d a b c) := by
  have := m.bits_lt; have := d.bits_lt; have := a.bits_lt; have := b.bits_lt; have := c.bits_lt
  refine .of (len := 3) rfl rfl (congrArg some (?_ : _ = Instr.imad h m d a b c)) ?_
  · congr 1 <;> (first | rfl | exact imod_of (by simp only [mk, mkW, fld, Fields.w1, Fields.w2, AttMod.bitsA] <;> omega) | exact opnd_bits _)
  · simp only [Fields.inPlace, mk, mkW, fld, AttMod.bitsA]; omega
theorem RoundTrip.imadw (h : Hdr) (m : IMod) (d : Opnd) (a : Opnd) (b : Opnd) (c : Opnd) : Statement (.imadw h m d a b c) := by
  have := m.bits_lt; have := d.bits_lt; have := a.bits_lt; have := b.bits_lt; have := c.bits_lt
  refine .of (len := 3) rfl rfl (congrArg some (?_ : _ = Instr.imadw h m d a b c)) ?_
  · congr 1 <;> (first | rfl | exact imod_of (by simp only [mk, mkW, fld, Fields.w1, Fields.w2, AttMod.bitsA] <;> omega) | exact opnd_bits _)
  · simp only [Fields.inPlace, mk, mkW, fld, AttMod.bitsA]; omega
theorem RoundTrip.addc (h : Hdr) (m : IMod) (cy : Carry) (d : Opnd) (a : Opnd) (b : Opnd) : Statement (.addc h m cy d a b) := by
  have := m.bits_lt; have := cy.bits_lt; have := d.bits_lt; have := a.bits_lt; have := b.bits_lt
  refine .of (len := 3) rfl rfl (congrArg some (?_ : _ = Instr.addc h m cy d a b)) ?_
  · congr 1 <;> (first | rfl | exact imod_of (by simp only [mk, mkW, fld, Fields.w1, Fields.w2, AttMod.bitsA] <;> omega) | exact carry_of (by simp only [mk, mkW, fld, Fields.w1, Fields.w2, AttMod.bitsA] <;> omega) | exact opnd_bits _)
  · simp only [Fields.inPlace, mk, mkW, fld, AttMod.bitsA]; omega
theorem RoundTrip.subb (h : Hdr) (m : IMod) (cy : Carry) (d : Opnd) (a : Opnd) (b : Opnd) : Statement (.subb h m cy d a b) := by
  have := m.bits_lt; have := cy.bits_lt; have := d.bits_lt; have := a.bits_lt; have := b.bits_lt
  refine .of (len := 3) rfl rfl (congrArg some (?_ : _ = Instr.subb h m cy d a b)) ?_
  · congr 1 <;> (first | rfl | exact imod_of (by simp only [mk, mkW, fld, Fields.w1, Fields.w2, AttMod.bitsA] <;> omega) | exact carry_of (by simp only [mk, mkW, fld, Fields.w1, Fields.w2, AttMod.bitsA] <;> omega) | exact opnd_bits _)
  · simp only [Fields.inPlace, mk, mkW, fld, AttMod.bitsA]; omega
theorem RoundTrip.madc (h : Hdr) (m : IMod) (hi : Bool) (cy : Carry) (d : Opnd) (a : Opnd) (b : Opnd) (c : Opnd) : Statement (.madc h m hi cy d a b c) := by
  have := m.bits_lt; have := b2n_le hi; have := cy.bits_lt; have := d.bits_lt; have := a.bits_lt; have := b.bits_lt; have := c.bits_lt
  refine .of (len := 3) rfl rfl (congrArg some (?_ : _ = Instr.madc h m hi cy d a b c)) ?_
  · congr 1 <;> (first | rfl | exact imod_of (by simp only [mk, mkW, fld, Fields.w1, Fields.w2, AttMod.bitsA] <;> omega) | exact bitOf_of (by simp only [mk, mkW, fld, Fields.w1, Fields.w2, AttMod.bitsA] <;> omega) | exact carry_of (by simp only [mk, mkW, fld, Fields.w1, Fields.w2, AttMod.bitsA] <;> omega) | exact opnd_bits _)
  · simp only [Fields.inPlace, mk, mkW, fld, AttMod.bitsA]; omega
theorem RoundTrip.imin (h : Hdr) (m : IMod) (d : Opnd) (a : Opnd) (b : Opnd) : Statement (.imin h m d a b) := by
  have := m.bits_lt; have := d.bits_lt; have := a.bits_lt; have := b.bits_lt
  refine .of (len := 3) rfl rfl (congrArg some (?_ : _ = Instr.imin h m d a b)) ?_
  · congr 1 <;> (first | rfl | exact imod_of (by simp only [mk, mkW, fld, Fields.w1, Fields.w2, AttMod.bitsA] <;> omega) | exact opnd_bits _)
  · simp only [Fields.inPlace, mk, mkW, fld, AttMod.bitsA]; omega
theorem RoundTrip.imax (h : Hdr) (m : IMod) (d : Opnd) (a : Opnd) (b : Opnd) : Statement (.imax h m d a b) := by
  have := m.bits_lt; have := d.bits_lt; have := a.bits_lt; have := b.bits_lt
  refine .of (len := 3) rfl rfl (congrArg some (?_ : _ = Instr.imax h m d a b)) ?_
  · congr 1 <;> (first | rfl | exact imod_of (by simp only [mk, mkW, fld, Fields.w1, Fields.w2, AttMod.bitsA] <;> omega) | exact opnd_bits _)
  · simp only [Fields.inPlace, mk, mkW, fld, AttMod.bitsA]; omega
theorem RoundTrip.iabs (h : Hdr) (m : IMod) (d : Opnd) (a : Opnd) : Statement (.iabs h m d a) := by
  have := m.bits_lt; have := d.bits_lt; have := a.bits_lt
  refine .of (len := 2) rfl rfl (congrArg some (?_ : _ = Instr.iabs h m d a)) ?_
  · congr 1 <;> (first | rfl | exact imod_of (by simp only [mk, mkW, fld, Fields.w1, Fields.w2, AttMod.bitsA] <;> omega) | exact opnd_bits _)
  · simp only [Fields.inPlace, mk, mkW, fld, AttMod.bitsA]; omega
theorem RoundTrip.shl (h : Hdr) (m : IMod) (wrap : Bool) (d : Opnd) (a : Opnd) (b : Opnd) : Statement (.shl h m wrap d a b) := by
  have := m.bits_lt; have := b2n_le wrap; have := d.bits_lt; have := a.bits_lt; have := b.bits_lt
  refine .of (len := 3) rfl rfl (congrArg some (?_ : _ = Instr.shl h m wrap d a b)) ?_
  · congr 1 <;> (first | rfl | exact imod_of (by simp only [mk, mkW, fld, Fields.w1, Fields.w2, AttMod.bitsA] <;> omega) | exact bitOf_of (by simp only [mk, mkW, fld, Fields.w1, Fields.w2, AttMod.bitsA] <;> omega) | exact opnd_bits _)
  · simp only [Fields.inPlace, mk, mkW, fld, AttMod.bitsA]; omega
theorem RoundTrip.shr (h : Hdr) (m : IMod) (wrap : Bool) (d : Opnd) (a : Opnd) (b : Opnd) : Statement (.shr h m wrap d a b) := by
  have := m.bits_lt; have := b2n_le wrap; have := d.bits_lt; have := a.bits_lt; have := b.bits_lt
  refine .of (len := 3) rfl rfl (congrArg some (?_ : _ = Instr.shr h m wrap d a b)) ?_
  · congr 1 <;> (first | rfl | exact imod_of (by simp only [mk, mkW, fld, Fields.w1, Fields.w2, AttMod.bitsA] <;> omega) | exact bitOf_of (by simp only [mk, mkW, fld, Fields.w1, Fields.w2, AttMod.bitsA] <;> omega) | exact opnd_bits _)
  · simp only [Fields.inPlace, mk, mkW, fld, AttMod.bitsA]; omega
theorem RoundTrip.shra (h : Hdr) (m : IMod) (wrap : Bool) (d : Opnd) (a : Opnd) (b : Opnd) : Statement (.shra h m wrap d a b) := by
  have := m.bits_lt; have := b2n_le wrap; have := d.bits_lt; have := a.bits_lt; have := b.bits_lt
  refine .of (len := 3) rfl rfl (congrArg some (?_ : _ = Instr.shra h m wrap d a b)) ?_
  · congr 1 <;> (first | rfl | exact imod_of (by simp only [mk, mkW, fld, Fields.w1, Fields.w2, AttMod.bitsA] <;> omega) | exact bitOf_of (by simp only [mk, mkW, fld, Fields.w1, Fields.w2, AttMod.bitsA] <;> omega) | exact opnd_bits _)
  · simp only [Fields.inPlace, mk, mkW, fld, AttMod.bitsA]; omega
theorem RoundTrip.shf (h : Hdr) (m : IMod) (right : Bool) (wrap : Bool) (d : Opnd) (a : Opnd) (b : Opnd) (c : Opnd) : Statement (.shf h m right wrap d a b c) := by
  have := m.bits_lt; have := b2n_le right; have := b2n_le wrap; have := d.bits_lt; have := a.bits_lt; have := b.bits_lt; have := c.bits_lt
  refine .of (len := 3) rfl rfl (congrArg some (?_ : _ = Instr.shf h m right wrap d a b c)) ?_
  · congr 1 <;> (first | rfl | exact imod_of (by simp only [mk, mkW, fld, Fields.w1, Fields.w2, AttMod.bitsA] <;> omega) | exact bitOf_of (by simp only [mk, mkW, fld, Fields.w1, Fields.w2, AttMod.bitsA] <;> omega) | exact opnd_bits _)
  · simp only [Fields.inPlace, mk, mkW, fld, AttMod.bitsA]; omega
theorem RoundTrip.bitfn (h : Hdr) (m : IMod) (fn : BitVec 8) (d : Opnd) (a : Opnd) (b : Opnd) (c : Opnd) : Statement (.bitfn h m fn d a b c) := by
  have := m.bits_lt; have := fn.isLt; have := d.bits_lt; have := a.bits_lt; have := b.bits_lt; have := c.bits_lt
  refine .of (len := 3) rfl rfl (congrArg some (?_ : _ = Instr.bitfn h m fn d a b c)) ?_
  · congr 1 <;> (first | rfl | exact imod_of (by simp only [mk, mkW, fld, Fields.w1, Fields.w2, AttMod.bitsA] <;> omega) | exact ofNat_of (by simp only [mk, mkW, fld, Fields.w1, Fields.w2, AttMod.bitsA] <;> omega) | exact opnd_bits _)
  · simp only [Fields.inPlace, mk, mkW, fld, AttMod.bitsA]; omega
theorem RoundTrip.popc (h : Hdr) (m : IMod) (d : Opnd) (a : Opnd) : Statement (.popc h m d a) := by
  have := m.bits_lt; have := d.bits_lt; have := a.bits_lt
  refine .of (len := 2) rfl rfl (congrArg some (?_ : _ = Instr.popc h m d a)) ?_
  · congr 1 <;> (first | rfl | exact imod_of (by simp only [mk, mkW, fld, Fields.w1, Fields.w2, AttMod.bitsA] <;> omega) | exact opnd_bits _)
  · simp only [Fields.inPlace, mk, mkW, fld, AttMod.bitsA]; omega
theorem RoundTrip.clz (h : Hdr) (m : IMod) (d : Opnd) (a : Opnd) : Statement (.clz h m d a) := by
  have := m.bits_lt; have := d.bits_lt; have := a.bits_lt
  refine .of (len := 2) rfl rfl (congrArg some (?_ : _ = Instr.clz h m d a)) ?_
  · congr 1 <;> (first | rfl | exact imod_of (by simp only [mk, mkW, fld, Fields.w1, Fields.w2, AttMod.bitsA] <;> omega) | exact opnd_bits _)
  · simp only [Fields.inPlace, mk, mkW, fld, AttMod.bitsA]; omega
theorem RoundTrip.brev (h : Hdr) (m : IMod) (d : Opnd) (a : Opnd) : Statement (.brev h m d a) := by
  have := m.bits_lt; have := d.bits_lt; have := a.bits_lt
  refine .of (len := 2) rfl rfl (congrArg some (?_ : _ = Instr.brev h m d a)) ?_
  · congr 1 <;> (first | rfl | exact imod_of (by simp only [mk, mkW, fld, Fields.w1, Fields.w2, AttMod.bitsA] <;> omega) | exact opnd_bits _)
  · simp only [Fields.inPlace, mk, mkW, fld, AttMod.bitsA]; omega
theorem RoundTrip.bfe (h : Hdr) (m : IMod) (d : Opnd) (a : Opnd) (b : Opnd) : Statement (.bfe h m d a b) := by
  have := m.bits_lt; have := d.bits_lt; have := a.bits_lt; have := b.bits_lt
  refine .of (len := 3) rfl rfl (congrArg some (?_ : _ = Instr.bfe h m d a b)) ?_
  · congr 1 <;> (first | rfl | exact imod_of (by simp only [mk, mkW, fld, Fields.w1, Fields.w2, AttMod.bitsA] <;> omega) | exact opnd_bits _)
  · simp only [Fields.inPlace, mk, mkW, fld, AttMod.bitsA]; omega
theorem RoundTrip.bfi (h : Hdr) (m : IMod) (d : Opnd) (a : Opnd) (b : Opnd) (c : Opnd) : Statement (.bfi h m d a b c) := by
  have := m.bits_lt; have := d.bits_lt; have := a.bits_lt; have := b.bits_lt; have := c.bits_lt
  refine .of (len := 3) rfl rfl (congrArg some (?_ : _ = Instr.bfi h m d a b c)) ?_
  · congr 1 <;> (first | rfl | exact imod_of (by simp only [mk, mkW, fld, Fields.w1, Fields.w2, AttMod.bitsA] <;> omega) | exact opnd_bits _)
  · simp only [Fields.inPlace, mk, mkW, fld, AttMod.bitsA]; omega
theorem RoundTrip.bysel (h : Hdr) (m : IMod) (d : Opnd) (a : Opnd) (b : Opnd) (c : Opnd) : Statement (.bysel h m d a b c) := by
  have := m.bits_lt; have := d.bits_lt; have := a.bits_lt; have := b.bits_lt; have := c.bits_lt
  refine .of (len := 3) rfl rfl (congrArg some (?_ : _ = Instr.bysel h m d a b c)) ?_
  · congr 1 <;> (first | rfl | exact imod_of (by simp only [mk, mkW, fld, Fields.w1, Fields.w2, AttMod.bitsA] <;> omega) | exact opnd_bits _)
  · simp only [Fields.inPlace, mk, mkW, fld, AttMod.bitsA]; omega
theorem RoundTrip.isetp (h : Hdr) (m : IMod) (cmp : Cmp) (bop : Bop) (pd : BitVec 3) (a : Opnd) (b : Opnd) (pc : BitVec 3) : Statement (.isetp h m cmp bop pd a b pc) := by
  have := m.bits_lt; have := cmp.code_lt; have := bop.code_lt; have := pd.isLt; have := a.bits_lt; have := b.bits_lt; have := pc.isLt
  refine .of (len := 3) rfl rfl (congrArg some (?_ : _ = Instr.isetp h m cmp bop pd a b pc)) ?_
  · congr 1 <;> (first | rfl | exact imod_of (by simp only [mk, mkW, fld, Fields.w1, Fields.w2, AttMod.bitsA] <;> omega) | exact Cmp.of_code (by simp only [mk, mkW, fld, Fields.w1, Fields.w2, AttMod.bitsA] <;> omega) | exact Bop.of_code (by simp only [mk, mkW, fld, Fields.w1, Fields.w2, AttMod.bitsA] <;> omega) | exact p3_of (by simp only [mk, mkW, fld, Fields.w1, Fields.w2, AttMod.bitsA] <;> omega) | exact opnd_bits _)
  · simp only [Fields.inPlace, mk, mkW, fld, AttMod.bitsA]; omega
theorem RoundTrip.sel (h : Hdr) (m : IMod) (d : Opnd) (a : Opnd) (b : Opnd) (pc : BitVec 3) : Statement (.sel h m d a b pc) := by
  have := m.bits_lt; have := d.bits_lt; have := a.bits_lt; have := b.bits_lt; have := pc.isLt
  refine .of (len := 3) rfl rfl (congrArg some (?_ : _ = Instr.sel h m d a b pc)) ?_
  · congr 1 <;> (first | rfl | exact imod_of (by simp only [mk, mkW, fld, Fields.w1, Fields.w2, AttMod.bitsA] <;> omega) | exact opnd_bits _ | exact p3_of (by simp only [mk, mkW, fld, Fields.w1, Fields.w2, AttMod.bitsA] <;> omega))
  · simp only [Fields.inPlace, mk, mkW, fld, AttMod.bitsA]; omega
theorem RoundTrip.mov (h : Hdr) (m : IMod) (d : Opnd) (a : Opnd) : Statement (.mov h m d a) := by
  have := m.bits_lt; have := d.bits_lt; have := a.bits_lt
  refine .of (len := 2) rfl rfl (congrArg some (?_ : _ = Instr.mov h m d a)) ?_
  · congr 1 <;> (first | rfl | exact imod_of (by simp only [mk, mkW, fld, Fields.w1, Fields.w2, AttMod.bitsA] <;> omega) | exact opnd_bits _)
  · simp only [Fields.inPlace, mk, mkW, fld, AttMod.bitsA]; omega
theorem RoundTrip.movi (h : Hdr) (m : IMod) (d : Opnd) (lit : BitVec 32) : Statement (.movi h m d lit) := by
  have := m.bits_lt; have := d.bits_lt; have := lit.isLt
  refine .of (len := 4) rfl rfl (congrArg some (?_ : _ = Instr.movi h m d lit)) ?_
  · congr 1 <;> (first | rfl | exact imod_of (by simp only [mk, mkW, fld, Fields.w1, Fields.w2, AttMod.bitsA] <;> omega) | exact opnd_bits _ | exact ofNat_of (by simp only [mk, mkW, fld, Fields.w1, Fields.w2, AttMod.bitsA] <;> omega))
  · simp only [Fields.inPlace, mk, mkW, fld, AttMod.bitsA]; omega
theorem RoundTrip.lea (h : Hdr) (m : IMod) (sh : BitVec 5) (d : Opnd) (a : Opnd) (b : Opnd) : Statement (.lea h m sh d a b) := by
  have := m.bits_lt; have := sh.isLt; have := d.bits_lt; have := a.bits_lt; have := b.bits_lt
  refine .of (len := 3) rfl rfl (congrArg some (?_ : _ = Instr.lea h m sh d a b)) ?_
  · congr 1 <;> (first | rfl | exact imod_of (by simp only [mk, mkW, fld, Fields.w1, Fields.w2, AttMod.bitsA] <;> omega) | exact ofNat_of (by simp only [mk, mkW, fld, Fields.w1, Fields.w2, AttMod.bitsA] <;> omega) | exact opnd_bits _)
  · simp only [Fields.inPlace, mk, mkW, fld, AttMod.bitsA]; omega
theorem RoundTrip.rqnt (h : Hdr) (dst : QDst) (rm : QRm) (pos : BitVec 3) (shift : BitVec 6) (pack : Bool) (d : Opnd) (a : Opnd) (b : Opnd) (c : Opnd) : Statement (.rqnt h dst rm pos shift pack d a b c) := by
  have := dst.code_lt; have := rm.code_lt; have := pos.isLt; have := shift.isLt; have := b2n_le pack; have := d.bits_lt; have := a.bits_lt; have := b.bits_lt; have := c.bits_lt
  refine .of (len := 3) rfl rfl (congrArg some (?_ : _ = Instr.rqnt h dst rm pos shift pack d a b c)) ?_
  · congr 1 <;> (first | rfl | exact QDst.of_code (by simp only [mk, mkW, fld, Fields.w1, Fields.w2, AttMod.bitsA] <;> omega) | exact QRm.of_code (by simp only [mk, mkW, fld, Fields.w1, Fields.w2, AttMod.bitsA] <;> omega) | exact p3_of (by simp only [mk, mkW, fld, Fields.w1, Fields.w2, AttMod.bitsA] <;> omega) | exact ofNat_of (by simp only [mk, mkW, fld, Fields.w1, Fields.w2, AttMod.bitsA] <;> omega) | exact bitOf_of (by simp only [mk, mkW, fld, Fields.w1, Fields.w2, AttMod.bitsA] <;> omega) | exact opnd_bits _)
  · simp only [Fields.inPlace, mk, mkW, fld, AttMod.bitsA]; omega
theorem RoundTrip.idp4 (h : Hdr) (m : IMod) (bsgn : Bool) (d : Opnd) (a : Opnd) (b : Opnd) (c : Opnd) : Statement (.idp4 h m bsgn d a b c) := by
  have := m.bits_lt; have := b2n_le bsgn; have := d.bits_lt; have := a.bits_lt; have := b.bits_lt; have := c.bits_lt
  refine .of (len := 3) rfl rfl (congrArg some (?_ : _ = Instr.idp4 h m bsgn d a b c)) ?_
  · congr 1 <;> (first | rfl | exact imod_of (by simp only [mk, mkW, fld, Fields.w1, Fields.w2, AttMod.bitsA] <;> omega) | exact bitOf_of (by simp only [mk, mkW, fld, Fields.w1, Fields.w2, AttMod.bitsA] <;> omega) | exact opnd_bits _)
  · simp only [Fields.inPlace, mk, mkW, fld, AttMod.bitsA]; omega
theorem RoundTrip.idp8 (h : Hdr) (m : IMod) (bsgn : Bool) (d : Opnd) (a : Opnd) (b : Opnd) (c : Opnd) : Statement (.idp8 h m bsgn d a b c) := by
  have := m.bits_lt; have := b2n_le bsgn; have := d.bits_lt; have := a.bits_lt; have := b.bits_lt; have := c.bits_lt
  refine .of (len := 3) rfl rfl (congrArg some (?_ : _ = Instr.idp8 h m bsgn d a b c)) ?_
  · congr 1 <;> (first | rfl | exact imod_of (by simp only [mk, mkW, fld, Fields.w1, Fields.w2, AttMod.bitsA] <;> omega) | exact bitOf_of (by simp only [mk, mkW, fld, Fields.w1, Fields.w2, AttMod.bitsA] <;> omega) | exact opnd_bits _)
  · simp only [Fields.inPlace, mk, mkW, fld, AttMod.bitsA]; omega
theorem RoundTrip.fadd (h : Hdr) (m : FMod) (d : Opnd) (a : Opnd) (b : Opnd) : Statement (.fadd h m d a b) := by
  have := m.bits_lt; have := d.bits_lt; have := a.bits_lt; have := b.bits_lt
  refine .of (len := 3) rfl rfl (congrArg some (?_ : _ = Instr.fadd h m d a b)) ?_
  · congr 1 <;> (first | rfl | exact fmod_of (by simp only [mk, mkW, fld, Fields.w1, Fields.w2, AttMod.bitsA] <;> omega) | exact opnd_bits _)
  · simp only [Fields.inPlace, mk, mkW, fld, AttMod.bitsA]; omega
theorem RoundTrip.fmul (h : Hdr) (m : FMod) (d : Opnd) (a : Opnd) (b : Opnd) : Statement (.fmul h m d a b) := by
  have := m.bits_lt; have := d.bits_lt; have := a.bits_lt; have := b.bits_lt
  refine .of (len := 3) rfl rfl (congrArg some (?_ : _ = Instr.fmul h m d a b)) ?_
  · congr 1 <;> (first | rfl | exact fmod_of (by simp only [mk, mkW, fld, Fields.w1, Fields.w2, AttMod.bitsA] <;> omega) | exact opnd_bits _)
  · simp only [Fields.inPlace, mk, mkW, fld, AttMod.bitsA]; omega
theorem RoundTrip.ffma (h : Hdr) (m : FMod) (d : Opnd) (a : Opnd) (b : Opnd) (c : Opnd) : Statement (.ffma h m d a b c) := by
  have := m.bits_lt; have := d.bits_lt; have := a.bits_lt; have := b.bits_lt; have := c.bits_lt
  refine .of (len := 3) rfl rfl (congrArg some (?_ : _ = Instr.ffma h m d a b c)) ?_
  · congr 1 <;> (first | rfl | exact fmod_of (by simp only [mk, mkW, fld, Fields.w1, Fields.w2, AttMod.bitsA] <;> omega) | exact opnd_bits _)
  · simp only [Fields.inPlace, mk, mkW, fld, AttMod.bitsA]; omega
theorem RoundTrip.fmin (h : Hdr) (m : FMod) (d : Opnd) (a : Opnd) (b : Opnd) : Statement (.fmin h m d a b) := by
  have := m.bits_lt; have := d.bits_lt; have := a.bits_lt; have := b.bits_lt
  refine .of (len := 3) rfl rfl (congrArg some (?_ : _ = Instr.fmin h m d a b)) ?_
  · congr 1 <;> (first | rfl | exact fmod_of (by simp only [mk, mkW, fld, Fields.w1, Fields.w2, AttMod.bitsA] <;> omega) | exact opnd_bits _)
  · simp only [Fields.inPlace, mk, mkW, fld, AttMod.bitsA]; omega
theorem RoundTrip.fmax (h : Hdr) (m : FMod) (d : Opnd) (a : Opnd) (b : Opnd) : Statement (.fmax h m d a b) := by
  have := m.bits_lt; have := d.bits_lt; have := a.bits_lt; have := b.bits_lt
  refine .of (len := 3) rfl rfl (congrArg some (?_ : _ = Instr.fmax h m d a b)) ?_
  · congr 1 <;> (first | rfl | exact fmod_of (by simp only [mk, mkW, fld, Fields.w1, Fields.w2, AttMod.bitsA] <;> omega) | exact opnd_bits _)
  · simp only [Fields.inPlace, mk, mkW, fld, AttMod.bitsA]; omega
theorem RoundTrip.fsetp (h : Hdr) (m : FSetMod) (pd : BitVec 3) (a : Opnd) (b : Opnd) (pc : BitVec 3) : Statement (.fsetp h m pd a b pc) := by
  have := m.bits_lt; have := m.bop.code_lt; have := pd.isLt; have := a.bits_lt; have := b.bits_lt; have := pc.isLt
  refine .of (len := 3) rfl rfl (congrArg some (?_ : _ = Instr.fsetp h m pd a b pc)) ?_
  · congr 1 <;> (first | rfl | exact fset_of (by simp only [mk, mkW, fld, Fields.w1, Fields.w2, AttMod.bitsA] <;> omega) (by simp only [mk, mkW, fld, Fields.w1, Fields.w2, AttMod.bitsA] <;> omega) | exact p3_of (by simp only [mk, mkW, fld, Fields.w1, Fields.w2, AttMod.bitsA] <;> omega) | exact opnd_bits _)
  · simp only [Fields.inPlace, mk, mkW, fld, AttMod.bitsA]; omega
theorem RoundTrip.frnd (h : Hdr) (rnd : Rnd) (f64 : Bool) (d : Opnd) (a : Opnd) : Statement (.frnd h rnd f64 d a) := by
  have := rnd.code_lt; have := b2n_le f64; have := d.bits_lt; have := a.bits_lt
  refine .of (len := 2) rfl rfl (congrArg some (?_ : _ = Instr.frnd h rnd f64 d a)) ?_
  · congr 1 <;> (first | rfl | exact Rnd.of_code (by simp only [mk, mkW, fld, Fields.w1, Fields.w2, AttMod.bitsA] <;> omega) | exact bitOf_of (by simp only [mk, mkW, fld, Fields.w1, Fields.w2, AttMod.bitsA] <;> omega) | exact opnd_bits _)
  · simp only [Fields.inPlace, mk, mkW, fld, AttMod.bitsA]; omega
theorem RoundTrip.fclass (h : Hdr) (f64 : Bool) (d : Opnd) (a : Opnd) : Statement (.fclass h f64 d a) := by
  have := b2n_le f64; have := d.bits_lt; have := a.bits_lt
  refine .of (len := 2) rfl rfl (congrArg some (?_ : _ = Instr.fclass h f64 d a)) ?_
  · congr 1 <;> (first | rfl | exact bitOf_of (by simp only [mk, mkW, fld, Fields.w1, Fields.w2, AttMod.bitsA] <;> omega) | exact opnd_bits _)
  · simp only [Fields.inPlace, mk, mkW, fld, AttMod.bitsA]; omega
theorem RoundTrip.dadd (h : Hdr) (m : FMod) (d : Opnd) (a : Opnd) (b : Opnd) : Statement (.dadd h m d a b) := by
  have := m.bits_lt; have := d.bits_lt; have := a.bits_lt; have := b.bits_lt
  refine .of (len := 3) rfl rfl (congrArg some (?_ : _ = Instr.dadd h m d a b)) ?_
  · congr 1 <;> (first | rfl | exact fmod_of (by simp only [mk, mkW, fld, Fields.w1, Fields.w2, AttMod.bitsA] <;> omega) | exact opnd_bits _)
  · simp only [Fields.inPlace, mk, mkW, fld, AttMod.bitsA]; omega
theorem RoundTrip.dmul (h : Hdr) (m : FMod) (d : Opnd) (a : Opnd) (b : Opnd) : Statement (.dmul h m d a b) := by
  have := m.bits_lt; have := d.bits_lt; have := a.bits_lt; have := b.bits_lt
  refine .of (len := 3) rfl rfl (congrArg some (?_ : _ = Instr.dmul h m d a b)) ?_
  · congr 1 <;> (first | rfl | exact fmod_of (by simp only [mk, mkW, fld, Fields.w1, Fields.w2, AttMod.bitsA] <;> omega) | exact opnd_bits _)
  · simp only [Fields.inPlace, mk, mkW, fld, AttMod.bitsA]; omega
theorem RoundTrip.dfma (h : Hdr) (m : FMod) (d : Opnd) (a : Opnd) (b : Opnd) (c : Opnd) : Statement (.dfma h m d a b c) := by
  have := m.bits_lt; have := d.bits_lt; have := a.bits_lt; have := b.bits_lt; have := c.bits_lt
  refine .of (len := 3) rfl rfl (congrArg some (?_ : _ = Instr.dfma h m d a b c)) ?_
  · congr 1 <;> (first | rfl | exact fmod_of (by simp only [mk, mkW, fld, Fields.w1, Fields.w2, AttMod.bitsA] <;> omega) | exact opnd_bits _)
  · simp only [Fields.inPlace, mk, mkW, fld, AttMod.bitsA]; omega
theorem RoundTrip.dsetp (h : Hdr) (m : FSetMod) (pd : BitVec 3) (a : Opnd) (b : Opnd) (pc : BitVec 3) : Statement (.dsetp h m pd a b pc) := by
  have := m.bits_lt; have := m.bop.code_lt; have := pd.isLt; have := a.bits_lt; have := b.bits_lt; have := pc.isLt
  refine .of (len := 3) rfl rfl (congrArg some (?_ : _ = Instr.dsetp h m pd a b pc)) ?_
  · congr 1 <;> (first | rfl | exact fset_of (by simp only [mk, mkW, fld, Fields.w1, Fields.w2, AttMod.bitsA] <;> omega) (by simp only [mk, mkW, fld, Fields.w1, Fields.w2, AttMod.bitsA] <;> omega) | exact p3_of (by simp only [mk, mkW, fld, Fields.w1, Fields.w2, AttMod.bitsA] <;> omega) | exact opnd_bits _)
  · simp only [Fields.inPlace, mk, mkW, fld, AttMod.bitsA]; omega
theorem RoundTrip.hfma2 (h : Hdr) (m : FMod) (d : Opnd) (a : Opnd) (b : Opnd) (c : Opnd) : Statement (.hfma2 h m d a b c) := by
  have := m.bits_lt; have := d.bits_lt; have := a.bits_lt; have := b.bits_lt; have := c.bits_lt
  refine .of (len := 3) rfl rfl (congrArg some (?_ : _ = Instr.hfma2 h m d a b c)) ?_
  · congr 1 <;> (first | rfl | exact fmod_of (by simp only [mk, mkW, fld, Fields.w1, Fields.w2, AttMod.bitsA] <;> omega) | exact opnd_bits _)
  · simp only [Fields.inPlace, mk, mkW, fld, AttMod.bitsA]; omega
theorem RoundTrip.bfma2 (h : Hdr) (m : FMod) (d : Opnd) (a : Opnd) (b : Opnd) (c : Opnd) : Statement (.bfma2 h m d a b c) := by
  have := m.bits_lt; have := d.bits_lt; have := a.bits_lt; have := b.bits_lt; have := c.bits_lt
  refine .of (len := 3) rfl rfl (congrArg some (?_ : _ = Instr.bfma2 h m d a b c)) ?_
  · congr 1 <;> (first | rfl | exact fmod_of (by simp only [mk, mkW, fld, Fields.w1, Fields.w2, AttMod.bitsA] <;> omega) | exact opnd_bits _)
  · simp only [Fields.inPlace, mk, mkW, fld, AttMod.bitsA]; omega
theorem RoundTrip.frcp (h : Hdr) (rnd : Rnd) (f64 : Bool) (d : Opnd) (a : Opnd) : Statement (.frcp h rnd f64 d a) := by
  have := rnd.code_lt; have := b2n_le f64; have := d.bits_lt; have := a.bits_lt
  refine .of (len := 2) rfl rfl (congrArg some (?_ : _ = Instr.frcp h rnd f64 d a)) ?_
  · congr 1 <;> (first | rfl | exact Rnd.of_code (by simp only [mk, mkW, fld, Fields.w1, Fields.w2, AttMod.bitsA] <;> omega) | exact bitOf_of (by simp only [mk, mkW, fld, Fields.w1, Fields.w2, AttMod.bitsA] <;> omega) | exact opnd_bits _)
  · simp only [Fields.inPlace, mk, mkW, fld, AttMod.bitsA]; omega
theorem RoundTrip.frsq (h : Hdr) (d : Opnd) (a : Opnd) : Statement (.frsq h d a) := by
  have := d.bits_lt; have := a.bits_lt
  refine .of (len := 2) rfl rfl (congrArg some (?_ : _ = Instr.frsq h d a)) ?_
  · congr 1 <;> (first | rfl | exact opnd_bits _)
  · simp only [Fields.inPlace, mk, mkW, fld, AttMod.bitsA]; omega
theorem RoundTrip.fsqrt (h : Hdr) (rnd : Rnd) (f64 : Bool) (d : Opnd) (a : Opnd) : Statement (.fsqrt h rnd f64 d a) := by
  have := rnd.code_lt; have := b2n_le f64; have := d.bits_lt; have := a.bits_lt
  refine .of (len := 2) rfl rfl (congrArg some (?_ : _ = Instr.fsqrt h rnd f64 d a)) ?_
  · congr 1 <;> (first | rfl | exact Rnd.of_code (by simp only [mk, mkW, fld, Fields.w1, Fields.w2, AttMod.bitsA] <;> omega) | exact bitOf_of (by simp only [mk, mkW, fld, Fields.w1, Fields.w2, AttMod.bitsA] <;> omega) | exact opnd_bits _)
  · simp only [Fields.inPlace, mk, mkW, fld, AttMod.bitsA]; omega
theorem RoundTrip.fex2 (h : Hdr) (d : Opnd) (a : Opnd) : Statement (.fex2 h d a) := by
  have := d.bits_lt; have := a.bits_lt
  refine .of (len := 2) rfl rfl (congrArg some (?_ : _ = Instr.fex2 h d a)) ?_
  · congr 1 <;> (first | rfl | exact opnd_bits _)
  · simp only [Fields.inPlace, mk, mkW, fld, AttMod.bitsA]; omega
theorem RoundTrip.flg2 (h : Hdr) (d : Opnd) (a : Opnd) : Statement (.flg2 h d a) := by
  have := d.bits_lt; have := a.bits_lt
  refine .of (len := 2) rfl rfl (congrArg some (?_ : _ = Instr.flg2 h d a)) ?_
  · congr 1 <;> (first | rfl | exact opnd_bits _)
  · simp only [Fields.inPlace, mk, mkW, fld, AttMod.bitsA]; omega
theorem RoundTrip.fsin (h : Hdr) (d : Opnd) (a : Opnd) : Statement (.fsin h d a) := by
  have := d.bits_lt; have := a.bits_lt
  refine .of (len := 2) rfl rfl (congrArg some (?_ : _ = Instr.fsin h d a)) ?_
  · congr 1 <;> (first | rfl | exact opnd_bits _)
  · simp only [Fields.inPlace, mk, mkW, fld, AttMod.bitsA]; omega
theorem RoundTrip.fcos (h : Hdr) (d : Opnd) (a : Opnd) : Statement (.fcos h d a) := by
  have := d.bits_lt; have := a.bits_lt
  refine .of (len := 2) rfl rfl (congrArg some (?_ : _ = Instr.fcos h d a)) ?_
  · congr 1 <;> (first | rfl | exact opnd_bits _)
  · simp only [Fields.inPlace, mk, mkW, fld, AttMod.bitsA]; omega
theorem RoundTrip.fcvt (h : Hdr) (rnd : Rnd) (cv : Cv) (d : Opnd) (a : Opnd) : Statement (.fcvt h rnd cv d a) := by
  have := rnd.code_lt; have := cv.code_lt; have := d.bits_lt; have := a.bits_lt
  refine .of (len := 2) rfl rfl (congrArg some (?_ : _ = Instr.fcvt h rnd cv d a)) ?_
  · congr 1 <;> (first | rfl | exact Rnd.of_code (by simp only [mk, mkW, fld, Fields.w1, Fields.w2, AttMod.bitsA] <;> omega) | exact Cv.of_code (by simp only [mk, mkW, fld, Fields.w1, Fields.w2, AttMod.bitsA] <;> omega) | exact opnd_bits _)
  · simp only [Fields.inPlace, mk, mkW, fld, AttMod.bitsA]; omega
theorem RoundTrip.cvtn (h : Hdr) (rnd : Rnd) (from_ : Bool) (std : Std) (n4 : Bool) (pos : BitVec 3) (d : Opnd) (a : Opnd) (k : BitVec 3) : Statement (.cvtn h rnd from_ std n4 pos d a k) := by
  have := rnd.code_lt; have := b2n_le from_; have := std.code_lt; have := b2n_le n4; have := pos.isLt; have := d.bits_lt; have := a.bits_lt; have := k.isLt
  refine .of (len := 3) rfl rfl (congrArg some (?_ : _ = Instr.cvtn h rnd from_ std n4 pos d a k)) ?_
  · congr 1 <;> (first | rfl | exact Rnd.of_code (by simp only [mk, mkW, fld, Fields.w1, Fields.w2, AttMod.bitsA] <;> omega) | exact bitOf_of (by simp only [mk, mkW, fld, Fields.w1, Fields.w2, AttMod.bitsA] <;> omega) | exact Std.of_code (by simp only [mk, mkW, fld, Fields.w1, Fields.w2, AttMod.bitsA] <;> omega) | exact p3_of (by simp only [mk, mkW, fld, Fields.w1, Fields.w2, AttMod.bitsA] <;> omega) | exact opnd_bits _)
  · simp only [Fields.inPlace, mk, mkW, fld, AttMod.bitsA]; omega
theorem RoundTrip.qnt (h : Hdr) (rnd : Rnd) (n4 : Bool) (d : Opnd) (a : Opnd) (k : BitVec 3) : Statement (.qnt h rnd n4 d a k) := by
  have := rnd.code_lt; have := b2n_le n4; have := d.bits_lt; have := a.bits_lt; have := k.isLt
  refine .of (len := 3) rfl rfl (congrArg some (?_ : _ = Instr.qnt h rnd n4 d a k)) ?_
  · congr 1 <;> (first | rfl | exact Rnd.of_code (by simp only [mk, mkW, fld, Fields.w1, Fields.w2, AttMod.bitsA] <;> omega) | exact bitOf_of (by simp only [mk, mkW, fld, Fields.w1, Fields.w2, AttMod.bitsA] <;> omega) | exact opnd_bits _ | exact p3_of (by simp only [mk, mkW, fld, Fields.w1, Fields.w2, AttMod.bitsA] <;> omega))
  · simp only [Fields.inPlace, mk, mkW, fld, AttMod.bitsA]; omega
theorem RoundTrip.scacc (h : Hdr) (rnd : Rnd) (nega : Bool) (d : Opnd) (a : Opnd) (b : Opnd) (c : Opnd) : Statement (.scacc h rnd nega d a b c) := by
  have := rnd.code_lt; have := b2n_le nega; have := d.bits_lt; have := a.bits_lt; have := b.bits_lt; have := c.bits_lt
  refine .of (len := 3) rfl rfl (congrArg some (?_ : _ = Instr.scacc h rnd nega d a b c)) ?_
  · congr 1 <;> (first | rfl | exact Rnd.of_code (by simp only [mk, mkW, fld, Fields.w1, Fields.w2, AttMod.bitsA] <;> omega) | exact bitOf_of (by simp only [mk, mkW, fld, Fields.w1, Fields.w2, AttMod.bitsA] <;> omega) | exact opnd_bits _)
  · simp only [Fields.inPlace, mk, mkW, fld, AttMod.bitsA]; omega
theorem RoundTrip.fmtset (h : Hdr) (k : BitVec 3) (a : Opnd) : Statement (.fmtset h k a) := by
  have := k.isLt; have := a.bits_lt
  refine .of (len := 3) rfl rfl (congrArg some (?_ : _ = Instr.fmtset h k a)) ?_
  · congr 1 <;> (first | rfl | exact p3_of (by simp only [mk, mkW, fld, Fields.w1, Fields.w2, AttMod.bitsA] <;> omega) | exact opnd_bits _)
  · simp only [Fields.inPlace, mk, mkW, fld, AttMod.bitsA]; omega
theorem RoundTrip.lnget (h : Hdr) (m : XMod) (wrap : Bool) (d : Opnd) (a : Opnd) (b : Opnd) (c : Opnd) : Statement (.lnget h m wrap d a b c) := by
  have := m.bits_lt; have := b2n_le wrap; have := d.bits_lt; have := a.bits_lt; have := b.bits_lt; have := c.bits_lt
  refine .of (len := 3) rfl rfl (congrArg some (?_ : _ = Instr.lnget h m wrap d a b c)) ?_
  · congr 1 <;> (first | rfl | exact xmod_of (by simp only [mk, mkW, fld, Fields.w1, Fields.w2, AttMod.bitsA] <;> omega) | exact bitOf_of (by simp only [mk, mkW, fld, Fields.w1, Fields.w2, AttMod.bitsA] <;> omega) | exact opnd_bits _)
  · simp only [Fields.inPlace, mk, mkW, fld, AttMod.bitsA]; omega
theorem RoundTrip.lnxor (h : Hdr) (m : XMod) (wrap : Bool) (d : Opnd) (a : Opnd) (b : Opnd) (c : Opnd) : Statement (.lnxor h m wrap d a b c) := by
  have := m.bits_lt; have := b2n_le wrap; have := d.bits_lt; have := a.bits_lt; have := b.bits_lt; have := c.bits_lt
  refine .of (len := 3) rfl rfl (congrArg some (?_ : _ = Instr.lnxor h m wrap d a b c)) ?_
  · congr 1 <;> (first | rfl | exact xmod_of (by simp only [mk, mkW, fld, Fields.w1, Fields.w2, AttMod.bitsA] <;> omega) | exact bitOf_of (by simp only [mk, mkW, fld, Fields.w1, Fields.w2, AttMod.bitsA] <;> omega) | exact opnd_bits _)
  · simp only [Fields.inPlace, mk, mkW, fld, AttMod.bitsA]; omega
theorem RoundTrip.lnsub (h : Hdr) (m : XMod) (wrap : Bool) (d : Opnd) (a : Opnd) (b : Opnd) (c : Opnd) : Statement (.lnsub h m wrap d a b c) := by
  have := m.bits_lt; have := b2n_le wrap; have := d.bits_lt; have := a.bits_lt; have := b.bits_lt; have := c.bits_lt
  refine .of (len := 3) rfl rfl (congrArg some (?_ : _ = Instr.lnsub h m wrap d a b c)) ?_
  · congr 1 <;> (first | rfl | exact xmod_of (by simp only [mk, mkW, fld, Fields.w1, Fields.w2, AttMod.bitsA] <;> omega) | exact bitOf_of (by simp only [mk, mkW, fld, Fields.w1, Fields.w2, AttMod.bitsA] <;> omega) | exact opnd_bits _)
  · simp only [Fields.inPlace, mk, mkW, fld, AttMod.bitsA]; omega
theorem RoundTrip.lnadd (h : Hdr) (m : XMod) (wrap : Bool) (d : Opnd) (a : Opnd) (b : Opnd) (c : Opnd) : Statement (.lnadd h m wrap d a b c) := by
  have := m.bits_lt; have := b2n_le wrap; have := d.bits_lt; have := a.bits_lt; have := b.bits_lt; have := c.bits_lt
  refine .of (len := 3) rfl rfl (congrArg some (?_ : _ = Instr.lnadd h m wrap d a b c)) ?_
  · congr 1 <;> (first | rfl | exact xmod_of (by simp only [mk, mkW, fld, Fields.w1, Fields.w2, AttMod.bitsA] <;> omega) | exact bitOf_of (by simp only [mk, mkW, fld, Fields.w1, Fields.w2, AttMod.bitsA] <;> omega) | exact opnd_bits _)
  · simp only [Fields.inPlace, mk, mkW, fld, AttMod.bitsA]; omega
theorem RoundTrip.redx (h : Hdr) (m : XMod) (op : RedOp) (d : Opnd) (a : Opnd) : Statement (.redx h m op d a) := by
  have := m.bits_lt; have := op.code_lt; have := d.bits_lt; have := a.bits_lt
  refine .of (len := 3) rfl rfl (congrArg some (?_ : _ = Instr.redx h m op d a)) ?_
  · congr 1 <;> (first | rfl | exact xmod_of (by simp only [mk, mkW, fld, Fields.w1, Fields.w2, AttMod.bitsA] <;> omega) | exact RedOp.of_code (by simp only [mk, mkW, fld, Fields.w1, Fields.w2, AttMod.bitsA] <;> omega) | exact opnd_bits _)
  · simp only [Fields.inPlace, mk, mkW, fld, AttMod.bitsA]; omega
theorem RoundTrip.scan (h : Hdr) (m : XMod) (excl : Bool) (op : RedOp) (d : Opnd) (a : Opnd) (c : Opnd) : Statement (.scan h m excl op d a c) := by
  have := m.bits_lt; have := b2n_le excl; have := op.code_lt; have := d.bits_lt; have := a.bits_lt; have := c.bits_lt
  refine .of (len := 3) rfl rfl (congrArg some (?_ : _ = Instr.scan h m excl op d a c)) ?_
  · congr 1 <;> (first | rfl | exact xmod_of (by simp only [mk, mkW, fld, Fields.w1, Fields.w2, AttMod.bitsA] <;> omega) | exact bitOf_of (by simp only [mk, mkW, fld, Fields.w1, Fields.w2, AttMod.bitsA] <;> omega) | exact RedOp.of_code (by simp only [mk, mkW, fld, Fields.w1, Fields.w2, AttMod.bitsA] <;> omega) | exact opnd_bits _)
  · simp only [Fields.inPlace, mk, mkW, fld, AttMod.bitsA]; omega
theorem RoundTrip.pcons (h : Hdr) (sw : Sw) (dst : PconsDst) (pa : BitVec 3) : Statement (.pcons h sw dst pa) := by
  have := sw.code_lt; have := pa.isLt
  cases dst with
  | every x =>
    have := x.isLt
    refine .of (len := 2) rfl rfl (congrArg some (?_ : _ = Instr.pcons h sw (.every x) pa)) ?_
    · congr 1 <;> (first | rfl | exact Sw.of_code (by simp only [mk, mkW, fld, Fields.w1, Fields.w2, AttMod.bitsA] <;> omega) | exact opnd_bits _ | exact p3_of (by simp only [mk, mkW, fld, Fields.w1, Fields.w2, AttMod.bitsA] <;> omega) | (simp [mk, p3, opnd_bits, show fld (sw.ctorIdx) 4 2 = 0 by simp only [fld]; omega]; done) | (simp [mk, p3, opnd_bits, show fld (sw.ctorIdx + 16) 4 2 = 1 by simp only [fld]; omega]; done) | (simp [mk, p3, opnd_bits, show fld (sw.ctorIdx + 32) 4 2 = 2 by simp only [fld]; omega]; done) | (simp [mk, p3, opnd_bits, show fld (sw.ctorIdx + 48) 4 2 = 3 by simp only [fld]; omega]; done))
    · simp only [Fields.inPlace, mk, mkW, fld, AttMod.bitsA]; omega
  | some x =>
    have := x.isLt
    refine .of (len := 2) rfl rfl (congrArg some (?_ : _ = Instr.pcons h sw (.some x) pa)) ?_
    · congr 1 <;> (first | rfl | exact Sw.of_code (by simp only [mk, mkW, fld, Fields.w1, Fields.w2, AttMod.bitsA] <;> omega) | exact opnd_bits _ | exact p3_of (by simp only [mk, mkW, fld, Fields.w1, Fields.w2, AttMod.bitsA] <;> omega) | (simp [mk, p3, opnd_bits, show fld (sw.ctorIdx) 4 2 = 0 by simp only [fld]; omega]; done) | (simp [mk, p3, opnd_bits, show fld (sw.ctorIdx + 16) 4 2 = 1 by simp only [fld]; omega]; done) | (simp [mk, p3, opnd_bits, show fld (sw.ctorIdx + 32) 4 2 = 2 by simp only [fld]; omega]; done) | (simp [mk, p3, opnd_bits, show fld (sw.ctorIdx + 48) 4 2 = 3 by simp only [fld]; omega]; done))
    · simp only [Fields.inPlace, mk, mkW, fld, AttMod.bitsA]; omega
  | same x =>
    have := x.isLt
    refine .of (len := 2) rfl rfl (congrArg some (?_ : _ = Instr.pcons h sw (.same x) pa)) ?_
    · congr 1 <;> (first | rfl | exact Sw.of_code (by simp only [mk, mkW, fld, Fields.w1, Fields.w2, AttMod.bitsA] <;> omega) | exact opnd_bits _ | exact p3_of (by simp only [mk, mkW, fld, Fields.w1, Fields.w2, AttMod.bitsA] <;> omega) | (simp [mk, p3, opnd_bits, show fld (sw.ctorIdx) 4 2 = 0 by simp only [fld]; omega]; done) | (simp [mk, p3, opnd_bits, show fld (sw.ctorIdx + 16) 4 2 = 1 by simp only [fld]; omega]; done) | (simp [mk, p3, opnd_bits, show fld (sw.ctorIdx + 32) 4 2 = 2 by simp only [fld]; omega]; done) | (simp [mk, p3, opnd_bits, show fld (sw.ctorIdx + 48) 4 2 = 3 by simp only [fld]; omega]; done))
    · simp only [Fields.inPlace, mk, mkW, fld, AttMod.bitsA]; omega
  | mask x =>
    have := x.bits_lt
    refine .of (len := 2) rfl rfl (congrArg some (?_ : _ = Instr.pcons h sw (.mask x) pa)) ?_
    · congr 1 <;> (first | rfl | exact Sw.of_code (by simp only [mk, mkW, fld, Fields.w1, Fields.w2, AttMod.bitsA] <;> omega) | exact opnd_bits _ | exact p3_of (by simp only [mk, mkW, fld, Fields.w1, Fields.w2, AttMod.bitsA] <;> omega) | (simp [mk, p3, opnd_bits, show fld (sw.ctorIdx) 4 2 = 0 by simp only [fld]; omega]; done) | (simp [mk, p3, opnd_bits, show fld (sw.ctorIdx + 16) 4 2 = 1 by simp only [fld]; omega]; done) | (simp [mk, p3, opnd_bits, show fld (sw.ctorIdx + 32) 4 2 = 2 by simp only [fld]; omega]; done) | (simp [mk, p3, opnd_bits, show fld (sw.ctorIdx + 48) 4 2 = 3 by simp only [fld]; omega]; done))
    · simp only [Fields.inPlace, mk, mkW, fld, AttMod.bitsA]; omega
theorem RoundTrip.matchv (h : Hdr) (m : XMod) (d : Opnd) (a : Opnd) : Statement (.matchv h m d a) := by
  have := m.bits_lt; have := d.bits_lt; have := a.bits_lt
  refine .of (len := 2) rfl rfl (congrArg some (?_ : _ = Instr.matchv h m d a)) ?_
  · congr 1 <;> (first | rfl | exact xmod_of (by simp only [mk, mkW, fld, Fields.w1, Fields.w2, AttMod.bitsA] <;> omega) | exact opnd_bits _)
  · simp only [Fields.inPlace, mk, mkW, fld, AttMod.bitsA]; omega
theorem RoundTrip.bcast (h : Hdr) (m : XMod) (first : Bool) (d : Opnd) (a : Opnd) (b : Opnd) (c : Opnd) : Statement (.bcast h m first d a b c) := by
  have := m.bits_lt; have := b2n_le first; have := d.bits_lt; have := a.bits_lt; have := b.bits_lt; have := c.bits_lt
  refine .of (len := 3) rfl rfl (congrArg some (?_ : _ = Instr.bcast h m first d a b c)) ?_
  · congr 1 <;> (first | rfl | exact xmod_of (by simp only [mk, mkW, fld, Fields.w1, Fields.w2, AttMod.bitsA] <;> omega) | exact bitOf_of (by simp only [mk, mkW, fld, Fields.w1, Fields.w2, AttMod.bitsA] <;> omega) | exact opnd_bits _)
  · simp only [Fields.inPlace, mk, mkW, fld, AttMod.bitsA]; omega
theorem RoundTrip.ldg (h : Hdr) (sz : Sz) (pol : Pol) (d : Opnd) (a : Opnd) (b : Opnd) : Statement (.ldg h sz pol d a b) := by
  have := sz.code_lt; have := pol.code_lt; have := d.bits_lt; have := a.bits_lt; have := b.bits_lt
  refine .of (len := 3) rfl rfl (congrArg some (?_ : _ = Instr.ldg h sz pol d a b)) ?_
  · congr 1 <;> (first | rfl | exact Sz.of_code (by simp only [mk, mkW, fld, Fields.w1, Fields.w2, AttMod.bitsA] <;> omega) | exact Pol.of_code (by simp only [mk, mkW, fld, Fields.w1, Fields.w2, AttMod.bitsA] <;> omega) | exact opnd_bits _)
  · simp only [Fields.inPlace, mk, mkW, fld, AttMod.bitsA]; omega
theorem RoundTrip.stg (h : Hdr) (sz : Sz) (pol : Pol) (a : Opnd) (b : Opnd) (c : Opnd) : Statement (.stg h sz pol a b c) := by
  have := sz.code_lt; have := pol.code_lt; have := a.bits_lt; have := b.bits_lt; have := c.bits_lt
  refine .of (len := 3) rfl rfl (congrArg some (?_ : _ = Instr.stg h sz pol a b c)) ?_
  · congr 1 <;> (first | rfl | exact Sz.of_code (by simp only [mk, mkW, fld, Fields.w1, Fields.w2, AttMod.bitsA] <;> omega) | exact Pol.of_code (by simp only [mk, mkW, fld, Fields.w1, Fields.w2, AttMod.bitsA] <;> omega) | exact opnd_bits _)
  · simp only [Fields.inPlace, mk, mkW, fld, AttMod.bitsA]; omega
theorem RoundTrip.ldsh (h : Hdr) (sz : Sz) (d : Opnd) (a : Opnd) (b : Opnd) : Statement (.ldsh h sz d a b) := by
  have := sz.code_lt; have := d.bits_lt; have := a.bits_lt; have := b.bits_lt
  refine .of (len := 3) rfl rfl (congrArg some (?_ : _ = Instr.ldsh h sz d a b)) ?_
  · congr 1 <;> (first | rfl | exact Sz.of_code (by simp only [mk, mkW, fld, Fields.w1, Fields.w2, AttMod.bitsA] <;> omega) | exact opnd_bits _)
  · simp only [Fields.inPlace, mk, mkW, fld, AttMod.bitsA]; omega
theorem RoundTrip.stsh (h : Hdr) (sz : Sz) (a : Opnd) (b : Opnd) (c : Opnd) : Statement (.stsh h sz a b c) := by
  have := sz.code_lt; have := a.bits_lt; have := b.bits_lt; have := c.bits_lt
  refine .of (len := 3) rfl rfl (congrArg some (?_ : _ = Instr.stsh h sz a b c)) ?_
  · congr 1 <;> (first | rfl | exact Sz.of_code (by simp only [mk, mkW, fld, Fields.w1, Fields.w2, AttMod.bitsA] <;> omega) | exact opnd_bits _)
  · simp only [Fields.inPlace, mk, mkW, fld, AttMod.bitsA]; omega
theorem RoundTrip.ldts (h : Hdr) (sz : Sz) (d : Opnd) (a : Opnd) (b : Opnd) : Statement (.ldts h sz d a b) := by
  have := sz.code_lt; have := d.bits_lt; have := a.bits_lt; have := b.bits_lt
  refine .of (len := 3) rfl rfl (congrArg some (?_ : _ = Instr.ldts h sz d a b)) ?_
  · congr 1 <;> (first | rfl | exact Sz.of_code (by simp only [mk, mkW, fld, Fields.w1, Fields.w2, AttMod.bitsA] <;> omega) | exact opnd_bits _)
  · simp only [Fields.inPlace, mk, mkW, fld, AttMod.bitsA]; omega
theorem RoundTrip.stts (h : Hdr) (sz : Sz) (a : Opnd) (b : Opnd) (c : Opnd) : Statement (.stts h sz a b c) := by
  have := sz.code_lt; have := a.bits_lt; have := b.bits_lt; have := c.bits_lt
  refine .of (len := 3) rfl rfl (congrArg some (?_ : _ = Instr.stts h sz a b c)) ?_
  · congr 1 <;> (first | rfl | exact Sz.of_code (by simp only [mk, mkW, fld, Fields.w1, Fields.w2, AttMod.bitsA] <;> omega) | exact opnd_bits _)
  · simp only [Fields.inPlace, mk, mkW, fld, AttMod.bitsA]; omega
theorem RoundTrip.ldl (h : Hdr) (sz : Sz) (d : Opnd) (a : Opnd) (b : Opnd) : Statement (.ldl h sz d a b) := by
  have := sz.code_lt; have := d.bits_lt; have := a.bits_lt; have := b.bits_lt
  refine .of (len := 3) rfl rfl (congrArg some (?_ : _ = Instr.ldl h sz d a b)) ?_
  · congr 1 <;> (first | rfl | exact Sz.of_code (by simp only [mk, mkW, fld, Fields.w1, Fields.w2, AttMod.bitsA] <;> omega) | exact opnd_bits _)
  · simp only [Fields.inPlace, mk, mkW, fld, AttMod.bitsA]; omega
theorem RoundTrip.stl (h : Hdr) (sz : Sz) (a : Opnd) (b : Opnd) (c : Opnd) : Statement (.stl h sz a b c) := by
  have := sz.code_lt; have := a.bits_lt; have := b.bits_lt; have := c.bits_lt
  refine .of (len := 3) rfl rfl (congrArg some (?_ : _ = Instr.stl h sz a b c)) ?_
  · congr 1 <;> (first | rfl | exact Sz.of_code (by simp only [mk, mkW, fld, Fields.w1, Fields.w2, AttMod.bitsA] <;> omega) | exact opnd_bits _)
  · simp only [Fields.inPlace, mk, mkW, fld, AttMod.bitsA]; omega
theorem RoundTrip.atomg (h : Hdr) (m : AMod) (d : Opnd) (a : Opnd) (b : Opnd) (c : Opnd) (off : BitVec 32) : Statement (.atomg h m d a b c off) := by
  have := m.bitsA_lt; have := m.bitsB_lt; have := d.bits_lt; have := a.bits_lt; have := b.bits_lt; have := c.bits_lt; have := off.isLt
  refine .of (len := 4) rfl rfl (congrArg some (?_ : _ = Instr.atomg h m d a b c off)) ?_
  · congr 1 <;> (first | rfl | exact amod_of (by simp only [mk, mkW, fld, Fields.w1, Fields.w2, AttMod.bitsA] <;> omega) (by simp only [mk, mkW, fld, Fields.w1, Fields.w2, AttMod.bitsA] <;> omega) | exact opnd_bits _ | exact ofNat_of (by simp only [mk, mkW, fld, Fields.w1, Fields.w2, AttMod.bitsA] <;> omega))
  · simp only [Fields.inPlace, mk, mkW, fld, AttMod.bitsA]; omega
theorem RoundTrip.atomsh (h : Hdr) (m : AMod) (d : Opnd) (a : Opnd) (b : Opnd) (c : Opnd) (off : BitVec 32) : Statement (.atomsh h m d a b c off) := by
  have := m.bitsA_lt; have := m.bitsB_lt; have := d.bits_lt; have := a.bits_lt; have := b.bits_lt; have := c.bits_lt; have := off.isLt
  refine .of (len := 4) rfl rfl (congrArg some (?_ : _ = Instr.atomsh h m d a b c off)) ?_
  · congr 1 <;> (first | rfl | exact amod_of (by simp only [mk, mkW, fld, Fields.w1, Fields.w2, AttMod.bitsA] <;> omega) (by simp only [mk, mkW, fld, Fields.w1, Fields.w2, AttMod.bitsA] <;> omega) | exact opnd_bits _ | exact ofNat_of (by simp only [mk, mkW, fld, Fields.w1, Fields.w2, AttMod.bitsA] <;> omega))
  · simp only [Fields.inPlace, mk, mkW, fld, AttMod.bitsA]; omega
theorem RoundTrip.pref (h : Hdr) (l2 : Bool) (a : Opnd) : Statement (.pref h l2 a) := by
  have := b2n_le l2; have := a.bits_lt
  refine .of (len := 2) rfl rfl (congrArg some (?_ : _ = Instr.pref h l2 a)) ?_
  · congr 1 <;> (first | rfl | exact bitOf_of (by simp only [mk, mkW, fld, Fields.w1, Fields.w2, AttMod.bitsA] <;> omega) | exact opnd_bits _)
  · simp only [Fields.inPlace, mk, mkW, fld, AttMod.bitsA]; omega
theorem RoundTrip.cctl (h : Hdr) (op : CctlOp) (a : Opnd) : Statement (.cctl h op a) := by
  have := op.code_lt; have := a.bits_lt
  refine .of (len := 2) rfl rfl (congrArg some (?_ : _ = Instr.cctl h op a)) ?_
  · congr 1 <;> (first | rfl | exact CctlOp.of_code (by simp only [mk, mkW, fld, Fields.w1, Fields.w2, AttMod.bitsA] <;> omega) | exact opnd_bits _)
  · simp only [Fields.inPlace, mk, mkW, fld, AttMod.bitsA]; omega
theorem RoundTrip.fence (h : Hdr) (scope : Scope) (kind : FenceKind) : Statement (.fence h scope kind) := by
  have := scope.code_lt; have := kind.code_lt
  refine .of (len := 2) rfl rfl (congrArg some (?_ : _ = Instr.fence h scope kind)) ?_
  · congr 1 <;> (first | rfl | exact Scope.of_code (by simp only [mk, mkW, fld, Fields.w1, Fields.w2, AttMod.bitsA] <;> omega) | exact FenceKind.of_code (by simp only [mk, mkW, fld, Fields.w1, Fields.w2, AttMod.bitsA] <;> omega))
  · simp only [Fields.inPlace, mk, mkW, fld, AttMod.bitsA]; omega
theorem RoundTrip.seal (h : Hdr) (d : Opnd) (a : Opnd) (b : Opnd) : Statement (.seal h d a b) := by
  have := d.bits_lt; have := a.bits_lt; have := b.bits_lt
  refine .of (len := 3) rfl rfl (congrArg some (?_ : _ = Instr.seal h d a b)) ?_
  · congr 1 <;> (first | rfl | exact opnd_bits _)
  · simp only [Fields.inPlace, mk, mkW, fld, AttMod.bitsA]; omega
theorem RoundTrip.unseal (h : Hdr) (d : UnsealDst) (a : Opnd) : Statement (.unseal h d a) := by
  have := a.bits_lt
  cases d with
  | status x =>
    have := x.bits_lt
    refine .of (len := 3) rfl rfl (congrArg some (?_ : _ = Instr.unseal h (.status x) a)) ?_
    · congr 1 <;> (first | rfl | exact opnd_bits _ | exact n4_of (by simp only [mk, mkW, fld, Fields.w1, Fields.w2, AttMod.bitsA] <;> omega) | simp [mk, bitOf, p3, n4, opnd_bits])
    · simp only [Fields.inPlace, mk, mkW, fld, AttMod.bitsA]; omega
  | handle x =>
    have := x.isLt
    refine .of (len := 3) rfl rfl (congrArg some (?_ : _ = Instr.unseal h (.handle x) a)) ?_
    · congr 1 <;> (first | rfl | exact opnd_bits _ | exact n4_of (by simp only [mk, mkW, fld, Fields.w1, Fields.w2, AttMod.bitsA] <;> omega) | simp [mk, bitOf, p3, n4, opnd_bits])
    · simp only [Fields.inPlace, mk, mkW, fld, AttMod.bitsA]; omega
theorem RoundTrip.sealq (h : Hdr) (d : Opnd) (a : Opnd) : Statement (.sealq h d a) := by
  have := d.bits_lt; have := a.bits_lt
  refine .of (len := 2) rfl rfl (congrArg some (?_ : _ = Instr.sealq h d a)) ?_
  · congr 1 <;> (first | rfl | exact opnd_bits _)
  · simp only [Fields.inPlace, mk, mkW, fld, AttMod.bitsA]; omega
theorem RoundTrip.ldsc (h : Hdr) (sz : Sz) (scope : Scope) (ord : Order) (sh : Bool) (d : Opnd) (a : Opnd) (b : Opnd) : Statement (.ldsc h sz scope ord sh d a b) := by
  have := sz.code_lt; have := scope.code_lt; have := ord.code_lt; have := b2n_le sh; have := d.bits_lt; have := a.bits_lt; have := b.bits_lt
  refine .of (len := 3) rfl rfl (congrArg some (?_ : _ = Instr.ldsc h sz scope ord sh d a b)) ?_
  · congr 1 <;> (first | rfl | exact Sz.of_code (by simp only [mk, mkW, fld, Fields.w1, Fields.w2, AttMod.bitsA] <;> omega) | exact Scope.of_code (by simp only [mk, mkW, fld, Fields.w1, Fields.w2, AttMod.bitsA] <;> omega) | exact Order.of_code (by simp only [mk, mkW, fld, Fields.w1, Fields.w2, AttMod.bitsA] <;> omega) | exact bitOf_of (by simp only [mk, mkW, fld, Fields.w1, Fields.w2, AttMod.bitsA] <;> omega) | exact opnd_bits _)
  · simp only [Fields.inPlace, mk, mkW, fld, AttMod.bitsA]; omega
theorem RoundTrip.stsc (h : Hdr) (sz : Sz) (scope : Scope) (ord : Order) (sh : Bool) (a : Opnd) (b : Opnd) (c : Opnd) : Statement (.stsc h sz scope ord sh a b c) := by
  have := sz.code_lt; have := scope.code_lt; have := ord.code_lt; have := b2n_le sh; have := a.bits_lt; have := b.bits_lt; have := c.bits_lt
  refine .of (len := 3) rfl rfl (congrArg some (?_ : _ = Instr.stsc h sz scope ord sh a b c)) ?_
  · congr 1 <;> (first | rfl | exact Sz.of_code (by simp only [mk, mkW, fld, Fields.w1, Fields.w2, AttMod.bitsA] <;> omega) | exact Scope.of_code (by simp only [mk, mkW, fld, Fields.w1, Fields.w2, AttMod.bitsA] <;> omega) | exact Order.of_code (by simp only [mk, mkW, fld, Fields.w1, Fields.w2, AttMod.bitsA] <;> omega) | exact bitOf_of (by simp only [mk, mkW, fld, Fields.w1, Fields.w2, AttMod.bitsA] <;> omega) | exact opnd_bits _)
  · simp only [Fields.inPlace, mk, mkW, fld, AttMod.bitsA]; omega
theorem RoundTrip.pgq (h : Hdr) (d : Opnd) (a : Opnd) : Statement (.pgq h d a) := by
  have := d.bits_lt; have := a.bits_lt
  refine .of (len := 2) rfl rfl (congrArg some (?_ : _ = Instr.pgq h d a)) ?_
  · congr 1 <;> (first | rfl | exact opnd_bits _)
  · simp only [Fields.inPlace, mk, mkW, fld, AttMod.bitsA]; omega
theorem RoundTrip.copy (h : Hdr) (m : CopyMod) (lens : Bool) (hd : BitVec 4) (a : Opnd) (b : Opnd) (c : Opnd) (lit : BitVec 32) : Statement (.copy h m lens hd a b c lit) := by
  have := m.bitsA_lt; have := m.bitsB_lt; have := b2n_le lens; have := hd.isLt; have := a.bits_lt; have := b.bits_lt; have := c.bits_lt; have := lit.isLt
  refine .of (len := 4) rfl rfl (congrArg some (?_ : _ = Instr.copy h m lens hd a b c lit)) ?_
  · congr 1 <;> (first | rfl | exact copymod_of (by simp only [mk, mkW, fld, Fields.w1, Fields.w2, AttMod.bitsA] <;> omega) (by simp only [mk, mkW, fld, Fields.w1, Fields.w2, AttMod.bitsA] <;> omega) | exact bitOf_of (by simp only [mk, mkW, fld, Fields.w1, Fields.w2, AttMod.bitsA] <;> omega) | exact n4_of (by simp only [mk, mkW, fld, Fields.w1, Fields.w2, AttMod.bitsA] <;> omega) | exact opnd_bits _ | exact ofNat_of (by simp only [mk, mkW, fld, Fields.w1, Fields.w2, AttMod.bitsA] <;> omega))
  · simp only [Fields.inPlace, mk, mkW, fld, AttMod.bitsA]; omega
theorem RoundTrip.copy2d (h : Hdr) (m : CopyMod) (hd : BitVec 4) (a : Opnd) (b : Opnd) (c : Opnd) (lit : BitVec 32) : Statement (.copy2d h m hd a b c lit) := by
  have := m.bitsA_lt; have := m.bitsB_lt; have := hd.isLt; have := a.bits_lt; have := b.bits_lt; have := c.bits_lt; have := lit.isLt
  refine .of (len := 4) rfl rfl (congrArg some (?_ : _ = Instr.copy2d h m hd a b c lit)) ?_
  · congr 1 <;> (first | rfl | exact copymod_of (by simp only [mk, mkW, fld, Fields.w1, Fields.w2, AttMod.bitsA] <;> omega) (by simp only [mk, mkW, fld, Fields.w1, Fields.w2, AttMod.bitsA] <;> omega) | exact n4_of (by simp only [mk, mkW, fld, Fields.w1, Fields.w2, AttMod.bitsA] <;> omega) | exact opnd_bits _ | exact ofNat_of (by simp only [mk, mkW, fld, Fields.w1, Fields.w2, AttMod.bitsA] <;> omega))
  · simp only [Fields.inPlace, mk, mkW, fld, AttMod.bitsA]; omega
theorem RoundTrip.fwait (h : Hdr) (d : Opnd) (hn : BitVec 4) : Statement (.fwait h d hn) := by
  have := d.bits_lt; have := hn.isLt
  refine .of (len := 2) rfl rfl (congrArg some (?_ : _ = Instr.fwait h d hn)) ?_
  · congr 1 <;> (first | rfl | exact opnd_bits _ | exact n4_of (by simp only [mk, mkW, fld, Fields.w1, Fields.w2, AttMod.bitsA] <;> omega))
  · simp only [Fields.inPlace, mk, mkW, fld, AttMod.bitsA]; omega
theorem RoundTrip.ftest (h : Hdr) (d : Opnd) (hn : BitVec 4) : Statement (.ftest h d hn) := by
  have := d.bits_lt; have := hn.isLt
  refine .of (len := 2) rfl rfl (congrArg some (?_ : _ = Instr.ftest h d hn)) ?_
  · congr 1 <;> (first | rfl | exact opnd_bits _ | exact n4_of (by simp only [mk, mkW, fld, Fields.w1, Fields.w2, AttMod.bitsA] <;> omega))
  · simp only [Fields.inPlace, mk, mkW, fld, AttMod.bitsA]; omega
theorem RoundTrip.fcancel (h : Hdr) (hn : BitVec 4) : Statement (.fcancel h hn) := by
  have := hn.isLt
  refine .of (len := 2) rfl rfl (congrArg some (?_ : _ = Instr.fcancel h hn)) ?_
  · congr 1 <;> (first | rfl | exact n4_of (by simp only [mk, mkW, fld, Fields.w1, Fields.w2, AttMod.bitsA] <;> omega))
  · simp only [Fields.inPlace, mk, mkW, fld, AttMod.bitsA]; omega
theorem RoundTrip.fwp (h : Hdr) (d : Opnd) (hn : BitVec 4) : Statement (.fwp h d hn) := by
  have := d.bits_lt; have := hn.isLt
  refine .of (len := 2) rfl rfl (congrArg some (?_ : _ = Instr.fwp h d hn)) ?_
  · congr 1 <;> (first | rfl | exact opnd_bits _ | exact n4_of (by simp only [mk, mkW, fld, Fields.w1, Fields.w2, AttMod.bitsA] <;> omega))
  · simp only [Fields.inPlace, mk, mkW, fld, AttMod.bitsA]; omega
theorem RoundTrip.fmovOut (h : Hdr) (d : Opnd) (hn : BitVec 4) : Statement (.fmovOut h d hn) := by
  have := d.bits_lt; have := hn.isLt
  refine .of (len := 2) rfl rfl (congrArg some (?_ : _ = Instr.fmovOut h d hn)) ?_
  · congr 1 <;> (first | rfl | exact opnd_bits _ | exact n4_of (by simp only [mk, mkW, fld, Fields.w1, Fields.w2, AttMod.bitsA] <;> omega) | simp [mk, bitOf, p3, n4, opnd_bits])
  · simp only [Fields.inPlace, mk, mkW, fld, AttMod.bitsA]; omega
theorem RoundTrip.fmovIn (h : Hdr) (hd : BitVec 4) (a : Opnd) : Statement (.fmovIn h hd a) := by
  have := hd.isLt; have := a.bits_lt
  refine .of (len := 2) rfl rfl (congrArg some (?_ : _ = Instr.fmovIn h hd a)) ?_
  · congr 1 <;> (first | rfl | exact n4_of (by simp only [mk, mkW, fld, Fields.w1, Fields.w2, AttMod.bitsA] <;> omega) | exact opnd_bits _ | simp [mk, bitOf, p3, n4, opnd_bits])
  · simp only [Fields.inPlace, mk, mkW, fld, AttMod.bitsA]; omega
theorem RoundTrip.tsalloc (h : Hdr) (d : Opnd) (a : Opnd) (nb : Bool) : Statement (.tsalloc h d a nb) := by
  have := d.bits_lt; have := a.bits_lt; have := b2n_le nb
  refine .of (len := 2) rfl rfl (congrArg some (?_ : _ = Instr.tsalloc h d a nb)) ?_
  · congr 1 <;> (first | rfl | exact opnd_bits _ | exact bitOf_of (by simp only [mk, mkW, fld, Fields.w1, Fields.w2, AttMod.bitsA] <;> omega))
  · simp only [Fields.inPlace, mk, mkW, fld, AttMod.bitsA]; omega
theorem RoundTrip.tsfree (h : Hdr) (a : Opnd) : Statement (.tsfree h a) := by
  have := a.bits_lt
  refine .of (len := 2) rfl rfl (congrArg some (?_ : _ = Instr.tsfree h a)) ?_
  · congr 1 <;> (first | rfl | exact opnd_bits _)
  · simp only [Fields.inPlace, mk, mkW, fld, AttMod.bitsA]; omega
theorem RoundTrip.amset (h : Hdr) (am : BitVec 4) (a : Opnd) (w : BitVec 3) (mem : Bool) : Statement (.amset h am a w mem) := by
  have := am.isLt; have := a.bits_lt; have := w.isLt; have := b2n_le mem
  refine .of (len := 3) rfl rfl (congrArg some (?_ : _ = Instr.amset h am a w mem)) ?_
  · congr 1 <;> (first | rfl | exact n4_of (by simp only [mk, mkW, fld, Fields.w1, Fields.w2, AttMod.bitsA] <;> omega) | exact opnd_bits _ | exact p3_of (by simp only [mk, mkW, fld, Fields.w1, Fields.w2, AttMod.bitsA] <;> omega) | exact bitOf_of (by simp only [mk, mkW, fld, Fields.w1, Fields.w2, AttMod.bitsA] <;> omega))
  · simp only [Fields.inPlace, mk, mkW, fld, AttMod.bitsA]; omega
theorem RoundTrip.amget (h : Hdr) (d : Opnd) (am : BitVec 4) (w : BitVec 3) : Statement (.amget h d am w) := by
  have := d.bits_lt; have := am.isLt; have := w.isLt
  refine .of (len := 3) rfl rfl (congrArg some (?_ : _ = Instr.amget h d am w)) ?_
  · congr 1 <;> (first | rfl | exact opnd_bits _ | exact n4_of (by simp only [mk, mkW, fld, Fields.w1, Fields.w2, AttMod.bitsA] <;> omega) | exact p3_of (by simp only [mk, mkW, fld, Fields.w1, Fields.w2, AttMod.bitsA] <;> omega))
  · simp only [Fields.inPlace, mk, mkW, fld, AttMod.bitsA]; omega
theorem RoundTrip.gang (h : Hdr) (a : Opnd) : Statement (.gang h a) := by
  have := a.bits_lt
  refine .of (len := 2) rfl rfl (congrArg some (?_ : _ = Instr.gang h a)) ?_
  · congr 1 <;> (first | rfl | exact opnd_bits _)
  · simp only [Fields.inPlace, mk, mkW, fld, AttMod.bitsA]; omega
theorem RoundTrip.azero (h : Hdr) (an : BitVec 4) (f64 : Bool) : Statement (.azero h an f64) := by
  have := an.isLt; have := b2n_le f64
  refine .of (len := 2) rfl rfl (congrArg some (?_ : _ = Instr.azero h an f64)) ?_
  · congr 1 <;> (first | rfl | exact n4_of (by simp only [mk, mkW, fld, Fields.w1, Fields.w2, AttMod.bitsA] <;> omega) | exact bitOf_of (by simp only [mk, mkW, fld, Fields.w1, Fields.w2, AttMod.bitsA] <;> omega))
  · simp only [Fields.inPlace, mk, mkW, fld, AttMod.bitsA]; omega
theorem RoundTrip.ald (h : Hdr) (hd : Option (BitVec 4)) (f64 : Bool) (an : BitVec 4) (am : BitVec 4) (b : Opnd) (c : Opnd) : Statement (.ald h hd f64 an am b c) := by
  have := hdBits_lt hd; have := b2n_le hd.isSome; have := b2n_le f64; have := an.isLt; have := am.isLt; have := b.bits_lt; have := c.bits_lt
  refine .of (len := 3) rfl rfl (congrArg some (?_ : _ = Instr.ald h hd f64 an am b c)) ?_
  · congr 1 <;> (first | rfl | exact hd_of (by simp only [mk, mkW, fld, Fields.w1, Fields.w2, AttMod.bitsA] <;> omega) (by simp only [mk, mkW, fld, Fields.w1, Fields.w2, AttMod.bitsA] <;> omega) | exact bitOf_of (by simp only [mk, mkW, fld, Fields.w1, Fields.w2, AttMod.bitsA] <;> omega) | exact n4_of (by simp only [mk, mkW, fld, Fields.w1, Fields.w2, AttMod.bitsA] <;> omega) | exact opnd_bits _)
  · simp only [Fields.inPlace, mk, mkW, fld, AttMod.bitsA]; omega
theorem RoundTrip.ast (h : Hdr) (hd : Option (BitVec 4)) (f64 : Bool) (an : BitVec 4) (am : BitVec 4) (b : Opnd) (c : Opnd) : Statement (.ast h hd f64 an am b c) := by
  have := hdBits_lt hd; have := b2n_le hd.isSome; have := b2n_le f64; have := an.isLt; have := am.isLt; have := b.bits_lt; have := c.bits_lt
  refine .of (len := 3) rfl rfl (congrArg some (?_ : _ = Instr.ast h hd f64 an am b c)) ?_
  · congr 1 <;> (first | rfl | exact hd_of (by simp only [mk, mkW, fld, Fields.w1, Fields.w2, AttMod.bitsA] <;> omega) (by simp only [mk, mkW, fld, Fields.w1, Fields.w2, AttMod.bitsA] <;> omega) | exact bitOf_of (by simp only [mk, mkW, fld, Fields.w1, Fields.w2, AttMod.bitsA] <;> omega) | exact n4_of (by simp only [mk, mkW, fld, Fields.w1, Fields.w2, AttMod.bitsA] <;> omega) | exact opnd_bits _)
  · simp only [Fields.inPlace, mk, mkW, fld, AttMod.bitsA]; omega
theorem RoundTrip.ard (h : Hdr) (m : FragMod) (d : Opnd) (an : BitVec 4) : Statement (.ard h m d an) := by
  have := m.bits_lt; have := d.bits_lt; have := an.isLt
  refine .of (len := 3) rfl rfl (congrArg some (?_ : _ = Instr.ard h m d an)) ?_
  · congr 1 <;> (first | rfl | exact frag_of (by simp only [mk, mkW, fld, Fields.w1, Fields.w2, AttMod.bitsA] <;> omega) | exact opnd_bits _ | exact n4_of (by simp only [mk, mkW, fld, Fields.w1, Fields.w2, AttMod.bitsA] <;> omega))
  · simp only [Fields.inPlace, mk, mkW, fld, AttMod.bitsA]; omega
theorem RoundTrip.awr (h : Hdr) (m : FragMod) (an : BitVec 4) (a : Opnd) : Statement (.awr h m an a) := by
  have := m.bits_lt; have := an.isLt; have := a.bits_lt
  refine .of (len := 3) rfl rfl (congrArg some (?_ : _ = Instr.awr h m an a)) ?_
  · congr 1 <;> (first | rfl | exact frag_of (by simp only [mk, mkW, fld, Fields.w1, Fields.w2, AttMod.bitsA] <;> omega) | exact n4_of (by simp only [mk, mkW, fld, Fields.w1, Fields.w2, AttMod.bitsA] <;> omega) | exact opnd_bits _)
  · simp only [Fields.inPlace, mk, mkW, fld, AttMod.bitsA]; omega
theorem RoundTrip.tld (h : Hdr) (hd : Option (BitVec 4)) (tots : Bool) (dst : BitVec 4) (am : BitVec 4) (rows1 : BitVec 5) (b : Opnd) (c : Opnd) : Statement (.tld h hd tots dst am rows1 b c) := by
  have := hdBits_lt hd; have := b2n_le hd.isSome; have := b2n_le tots; have := dst.isLt; have := am.isLt; have := rows1.isLt; have := b.bits_lt; have := c.bits_lt
  refine .of (len := 4) rfl rfl (congrArg some (?_ : _ = Instr.tld h hd tots dst am rows1 b c)) ?_
  · congr 1 <;> (first | rfl | exact hd_of (by simp only [mk, mkW, fld, Fields.w1, Fields.w2, AttMod.bitsA] <;> omega) (by simp only [mk, mkW, fld, Fields.w1, Fields.w2, AttMod.bitsA] <;> omega) | exact bitOf_of (by simp only [mk, mkW, fld, Fields.w1, Fields.w2, AttMod.bitsA] <;> omega) | exact n4_of (by simp only [mk, mkW, fld, Fields.w1, Fields.w2, AttMod.bitsA] <;> omega) | exact ofNat_of (by simp only [mk, mkW, fld, Fields.w1, Fields.w2, AttMod.bitsA] <;> omega) | exact opnd_bits _)
  · simp only [Fields.inPlace, mk, mkW, fld, AttMod.bitsA]; omega
theorem RoundTrip.mma (h : Hdr) (m : MmaMod) (ad : BitVec 4) (ta : BitVec 3) (tb : BitVec 3) : Statement (.mma h m ad ta tb) := by
  have := m.bitsA_lt; have := m.bitsL_lt; have := ad.isLt; have := ta.isLt; have := tb.isLt
  refine .of (len := 4) rfl rfl (congrArg some (?_ : _ = Instr.mma h m ad ta tb)) ?_
  · congr 1 <;> (first | rfl | exact mmamod_of (by simp only [mk, mkW, fld, Fields.w1, Fields.w2, AttMod.bitsA] <;> omega) (by simp only [mk, mkW, fld, Fields.w1, Fields.w2, AttMod.bitsA] <;> omega) | exact n4_of (by simp only [mk, mkW, fld, Fields.w1, Fields.w2, AttMod.bitsA] <;> omega) | exact p3_of (by simp only [mk, mkW, fld, Fields.w1, Fields.w2, AttMod.bitsA] <;> omega))
  · simp only [Fields.inPlace, mk, mkW, fld, AttMod.bitsA]; omega
theorem RoundTrip.arel (h : Hdr) (f64 : Bool) (t : Bool) (n : BitVec 4) : Statement (.arel h f64 t n) := by
  have := b2n_le f64; have := b2n_le t; have := n.isLt
  refine .of (len := 2) rfl rfl (congrArg some (?_ : _ = Instr.arel h f64 t n)) ?_
  · congr 1 <;> (first | rfl | exact bitOf_of (by simp only [mk, mkW, fld, Fields.w1, Fields.w2, AttMod.bitsA] <;> omega) | exact n4_of (by simp only [mk, mkW, fld, Fields.w1, Fields.w2, AttMod.bitsA] <;> omega))
  · simp only [Fields.inPlace, mk, mkW, fld, AttMod.bitsA]; omega
theorem RoundTrip.asca (h : Hdr) (ad : BitVec 4) (ap : BitVec 4) (ts : BitVec 3) (row : BitVec 5) : Statement (.asca h ad ap ts row) := by
  have := ad.isLt; have := ap.isLt; have := ts.isLt; have := row.isLt
  refine .of (len := 3) rfl rfl (congrArg some (?_ : _ = Instr.asca h ad ap ts row)) ?_
  · congr 1 <;> (first | rfl | exact n4_of (by simp only [mk, mkW, fld, Fields.w1, Fields.w2, AttMod.bitsA] <;> omega) | exact p3_of (by simp only [mk, mkW, fld, Fields.w1, Fields.w2, AttMod.bitsA] <;> omega) | exact ofNat_of (by simp only [mk, mkW, fld, Fields.w1, Fields.w2, AttMod.bitsA] <;> omega))
  · simp only [Fields.inPlace, mk, mkW, fld, AttMod.bitsA]; omega
theorem RoundTrip.kvtr (h : Hdr) (vhalf : Bool) (d : Opnd) (a : Opnd) (b : Opnd) : Statement (.kvtr h vhalf d a b) := by
  have := b2n_le vhalf; have := d.bits_lt; have := a.bits_lt; have := b.bits_lt
  refine .of (len := 3) rfl rfl (congrArg some (?_ : _ = Instr.kvtr h vhalf d a b)) ?_
  · congr 1 <;> (first | rfl | exact bitOf_of (by simp only [mk, mkW, fld, Fields.w1, Fields.w2, AttMod.bitsA] <;> omega) | exact opnd_bits _)
  · simp only [Fields.inPlace, mk, mkW, fld, AttMod.bitsA]; omega
theorem RoundTrip.atts (h : Hdr) (m : AttMod) (causal : Bool) (aset : BitVec 4) (tq : BitVec 3) (src : KvSrc) (c : Opnd) (tp : BitVec 3) (window : BitVec 20) : Statement (.atts h m causal aset tq src c tp window) := by
  have := m.nh.isLt; have := b2n_le m.f16; have := b2n_le m.hd.isSome; have := hdBits_lt m.hd; have := m.nk.isLt; have := b2n_le causal; have := aset.isLt; have := tq.isLt; have := src.bits_lt; have := b2n_le src.isKv; have := c.bits_lt; have := tp.isLt; have := window.isLt
  refine .of (len := 4) rfl rfl (congrArg some (?_ : _ = Instr.atts h m causal aset tq src c tp window)) ?_
  · congr 1 <;> (first | rfl | exact att_of (by simp only [mk, mkW, fld, Fields.w1, Fields.w2, AttMod.bitsA] <;> omega) (by simp only [mk, mkW, fld, Fields.w1, Fields.w2, AttMod.bitsA] <;> omega) (by simp only [mk, mkW, fld, Fields.w1, Fields.w2, AttMod.bitsA] <;> omega) (by simp only [mk, mkW, fld, Fields.w1, Fields.w2, AttMod.bitsA] <;> omega) | exact bitOf_of (by simp only [mk, mkW, fld, Fields.w1, Fields.w2, AttMod.bitsA] <;> omega) | exact n4_of (by simp only [mk, mkW, fld, Fields.w1, Fields.w2, AttMod.bitsA] <;> omega) | exact p3_of (by simp only [mk, mkW, fld, Fields.w1, Fields.w2, AttMod.bitsA] <;> omega) | exact kv_of (by simp only [mk, mkW, fld, Fields.w1, Fields.w2, AttMod.bitsA] <;> omega) (by simp only [mk, mkW, fld, Fields.w1, Fields.w2, AttMod.bitsA] <;> omega) | exact opnd_bits _ | exact ofNat_of (by simp only [mk, mkW, fld, Fields.w1, Fields.w2, AttMod.bitsA] <;> omega))
  · simp only [Fields.inPlace, mk, mkW, fld, AttMod.bitsA]; omega
theorem RoundTrip.attv (h : Hdr) (m : AttMod) (aset : BitVec 4) (tp : BitVec 3) (src : KvSrc) (c : Opnd) : Statement (.attv h m aset tp src c) := by
  have := m.nh.isLt; have := b2n_le m.f16; have := b2n_le m.hd.isSome; have := hdBits_lt m.hd; have := m.nk.isLt; have := aset.isLt; have := tp.isLt; have := src.bits_lt; have := b2n_le src.isKv; have := c.bits_lt
  refine .of (len := 4) rfl rfl (congrArg some (?_ : _ = Instr.attv h m aset tp src c)) ?_
  · congr 1 <;> (first | rfl | exact att_of (by simp only [mk, mkW, fld, Fields.w1, Fields.w2, AttMod.bitsA] <;> omega) (by simp only [mk, mkW, fld, Fields.w1, Fields.w2, AttMod.bitsA] <;> omega) (by simp only [mk, mkW, fld, Fields.w1, Fields.w2, AttMod.bitsA] <;> omega) (by simp only [mk, mkW, fld, Fields.w1, Fields.w2, AttMod.bitsA] <;> omega) | exact n4_of (by simp only [mk, mkW, fld, Fields.w1, Fields.w2, AttMod.bitsA] <;> omega) | exact p3_of (by simp only [mk, mkW, fld, Fields.w1, Fields.w2, AttMod.bitsA] <;> omega) | exact kv_of (by simp only [mk, mkW, fld, Fields.w1, Fields.w2, AttMod.bitsA] <;> omega) (by simp only [mk, mkW, fld, Fields.w1, Fields.w2, AttMod.bitsA] <;> omega) | exact opnd_bits _)
  · simp only [Fields.inPlace, mk, mkW, fld, AttMod.bitsA]; omega
theorem RoundTrip.attmrg (h : Hdr) (nh : BitVec 2) (ad : BitVec 4) (asrc : BitVec 4) (b : Opnd) : Statement (.attmrg h nh ad asrc b) := by
  have := nh.isLt; have := ad.isLt; have := asrc.isLt; have := b.bits_lt
  refine .of (len := 3) rfl rfl (congrArg some (?_ : _ = Instr.attmrg h nh ad asrc b)) ?_
  · congr 1 <;> (first | rfl | exact ofNat_of (by simp only [mk, mkW, fld, Fields.w1, Fields.w2, AttMod.bitsA] <;> omega) | exact n4_of (by simp only [mk, mkW, fld, Fields.w1, Fields.w2, AttMod.bitsA] <;> omega) | exact opnd_bits _)
  · simp only [Fields.inPlace, mk, mkW, fld, AttMod.bitsA]; omega
theorem RoundTrip.attfin (h : Hdr) (nh : BitVec 2) (aset : BitVec 4) : Statement (.attfin h nh aset) := by
  have := nh.isLt; have := aset.isLt
  refine .of (len := 3) rfl rfl (congrArg some (?_ : _ = Instr.attfin h nh aset)) ?_
  · congr 1 <;> (first | rfl | exact ofNat_of (by simp only [mk, mkW, fld, Fields.w1, Fields.w2, AttMod.bitsA] <;> omega) | exact n4_of (by simp only [mk, mkW, fld, Fields.w1, Fields.w2, AttMod.bitsA] <;> omega))
  · simp only [Fields.inPlace, mk, mkW, fld, AttMod.bitsA]; omega
theorem RoundTrip.arset (h : Hdr) (nh : BitVec 2) (aset : BitVec 4) : Statement (.arset h nh aset) := by
  have := nh.isLt; have := aset.isLt
  refine .of (len := 2) rfl rfl (congrArg some (?_ : _ = Instr.arset h nh aset)) ?_
  · congr 1 <;> (first | rfl | exact ofNat_of (by simp only [mk, mkW, fld, Fields.w1, Fields.w2, AttMod.bitsA] <;> omega) | exact n4_of (by simp only [mk, mkW, fld, Fields.w1, Fields.w2, AttMod.bitsA] <;> omega))
  · simp only [Fields.inPlace, mk, mkW, fld, AttMod.bitsA]; omega
theorem RoundTrip.rld (h : Hdr) (sz : Sz) (ns : Bool) (stream : BitVec 4) (d : Opnd) (a : Opnd) (b : Opnd) (off : BitVec 32) : Statement (.rld h sz ns stream d a b off) := by
  have := sz.code_lt; have := b2n_le ns; have := stream.isLt; have := d.bits_lt; have := a.bits_lt; have := b.bits_lt; have := off.isLt
  refine .of (len := 4) rfl rfl (congrArg some (?_ : _ = Instr.rld h sz ns stream d a b off)) ?_
  · congr 1 <;> (first | rfl | exact Sz.of_code (by simp only [mk, mkW, fld, Fields.w1, Fields.w2, AttMod.bitsA] <;> omega) | exact bitOf_of (by simp only [mk, mkW, fld, Fields.w1, Fields.w2, AttMod.bitsA] <;> omega) | exact n4_of (by simp only [mk, mkW, fld, Fields.w1, Fields.w2, AttMod.bitsA] <;> omega) | exact opnd_bits _ | exact ofNat_of (by simp only [mk, mkW, fld, Fields.w1, Fields.w2, AttMod.bitsA] <;> omega))
  · simp only [Fields.inPlace, mk, mkW, fld, AttMod.bitsA]; omega
theorem RoundTrip.rst (h : Hdr) (sz : Sz) (stream : BitVec 4) (a : Opnd) (b : Opnd) (c : Opnd) (off : BitVec 32) : Statement (.rst h sz stream a b c off) := by
  have := sz.code_lt; have := stream.isLt; have := a.bits_lt; have := b.bits_lt; have := c.bits_lt; have := off.isLt
  refine .of (len := 4) rfl rfl (congrArg some (?_ : _ = Instr.rst h sz stream a b c off)) ?_
  · congr 1 <;> (first | rfl | exact Sz.of_code (by simp only [mk, mkW, fld, Fields.w1, Fields.w2, AttMod.bitsA] <;> omega) | exact n4_of (by simp only [mk, mkW, fld, Fields.w1, Fields.w2, AttMod.bitsA] <;> omega) | exact opnd_bits _ | exact ofNat_of (by simp only [mk, mkW, fld, Fields.w1, Fields.w2, AttMod.bitsA] <;> omega))
  · simp only [Fields.inPlace, mk, mkW, fld, AttMod.bitsA]; omega
theorem RoundTrip.ratom (h : Hdr) (op : AtomOp) (sgn : Bool) (x64 : Bool) (ns : Bool) (stream : BitVec 4) (d : Opnd) (a : Opnd) (b : Opnd) (c : Opnd) (off : BitVec 32) : Statement (.ratom h op sgn x64 ns stream d a b c off) := by
  have := op.code_lt; have := b2n_le sgn; have := b2n_le x64; have := b2n_le ns; have := stream.isLt; have := d.bits_lt; have := a.bits_lt; have := b.bits_lt; have := c.bits_lt; have := off.isLt
  refine .of (len := 4) rfl rfl (congrArg some (?_ : _ = Instr.ratom h op sgn x64 ns stream d a b c off)) ?_
  · congr 1 <;> (first | rfl | exact AtomOp.of_code (by simp only [mk, mkW, fld, Fields.w1, Fields.w2, AttMod.bitsA] <;> omega) | exact bitOf_of (by simp only [mk, mkW, fld, Fields.w1, Fields.w2, AttMod.bitsA] <;> omega) | exact n4_of (by simp only [mk, mkW, fld, Fields.w1, Fields.w2, AttMod.bitsA] <;> omega) | exact opnd_bits _ | exact ofNat_of (by simp only [mk, mkW, fld, Fields.w1, Fields.w2, AttMod.bitsA] <;> omega))
  · simp only [Fields.inPlace, mk, mkW, fld, AttMod.bitsA]; omega
theorem RoundTrip.rcopy (h : Hdr) (ssp : Spc) (lens : Bool) (stream : BitVec 4) (hd : BitVec 4) (a : Opnd) (b : Opnd) (c : Opnd) (lit : BitVec 32) : Statement (.rcopy h ssp lens stream hd a b c lit) := by
  have := ssp.code_lt; have := b2n_le lens; have := stream.isLt; have := hd.isLt; have := a.bits_lt; have := b.bits_lt; have := c.bits_lt; have := lit.isLt
  refine .of (len := 4) rfl rfl (congrArg some (?_ : _ = Instr.rcopy h ssp lens stream hd a b c lit)) ?_
  · congr 1 <;> (first | rfl | exact Spc.of_code (by simp only [mk, mkW, fld, Fields.w1, Fields.w2, AttMod.bitsA] <;> omega) | exact bitOf_of (by simp only [mk, mkW, fld, Fields.w1, Fields.w2, AttMod.bitsA] <;> omega) | exact n4_of (by simp only [mk, mkW, fld, Fields.w1, Fields.w2, AttMod.bitsA] <;> omega) | exact opnd_bits _ | exact ofNat_of (by simp only [mk, mkW, fld, Fields.w1, Fields.w2, AttMod.bitsA] <;> omega))
  · simp only [Fields.inPlace, mk, mkW, fld, AttMod.bitsA]; omega
theorem RoundTrip.srel (h : Hdr) (stream : BitVec 4) (value : Opnd) (a : Opnd) : Statement (.srel h stream value a) := by
  have := stream.isLt; have := value.bits_lt; have := a.bits_lt
  refine .of (len := 2) rfl rfl (congrArg some (?_ : _ = Instr.srel h stream value a)) ?_
  · congr 1 <;> (first | rfl | exact n4_of (by simp only [mk, mkW, fld, Fields.w1, Fields.w2, AttMod.bitsA] <;> omega) | exact opnd_bits _)
  · simp only [Fields.inPlace, mk, mkW, fld, AttMod.bitsA]; omega
theorem RoundTrip.rjoin (h : Hdr) (j : BitVec 4) : Statement (.rjoin h j) := by
  have := j.isLt
  refine .of (len := 2) rfl rfl (congrArg some (?_ : _ = Instr.rjoin h j)) ?_
  · congr 1 <;> (first | rfl | exact n4_of (by simp only [mk, mkW, fld, Fields.w1, Fields.w2, AttMod.bitsA] <;> omega))
  · simp only [Fields.inPlace, mk, mkW, fld, AttMod.bitsA]; omega
theorem RoundTrip.lnkq (h : Hdr) (str : Bool) (d : Opnd) (a : Opnd) : Statement (.lnkq h str d a) := by
  have := b2n_le str; have := d.bits_lt; have := a.bits_lt
  refine .of (len := 2) rfl rfl (congrArg some (?_ : _ = Instr.lnkq h str d a)) ?_
  · congr 1 <;> (first | rfl | exact bitOf_of (by simp only [mk, mkW, fld, Fields.w1, Fields.w2, AttMod.bitsA] <;> omega) | exact opnd_bits _)
  · simp only [Fields.inPlace, mk, mkW, fld, AttMod.bitsA]; omega
theorem RoundTrip.vote (core : Nat) : Statement (.vote core) := .event rfl
theorem RoundTrip.variableResultLands (group : Nat) (ticket : Nat) : Statement (.variableResultLands group ticket) := .event rfl
theorem RoundTrip.storePerformed (ticket : Nat) : Statement (.storePerformed ticket) := .event rfl
theorem RoundTrip.mwaitTimeout (group : Nat) (lane : Nat) : Statement (.mwaitTimeout group lane) := .event rfl
theorem RoundTrip.yieldWake (group : Nat) (lane : Nat) : Statement (.yieldWake group lane) := .event rfl
theorem RoundTrip.ktimeout (queue : Nat) : Statement (.ktimeout queue) := .event rfl
theorem RoundTrip.rgrowGrant (core : Nat) : Statement (.rgrowGrant core) := .event rfl
theorem RoundTrip.tsallocGrant (core : Nat) : Statement (.tsallocGrant core) := .event rfl
theorem RoundTrip.tsfreeRelease (team : Nat) : Statement (.tsfreeRelease team) := .event rfl
theorem RoundTrip.accumulatorTileGrant (core : Nat) : Statement (.accumulatorTileGrant core) := .event rfl
theorem RoundTrip.copyBeat (core : Nat) (ch : Nat) : Statement (.copyBeat core ch) := .event rfl
theorem RoundTrip.tileRowMove (team : Nat) (op : Nat) : Statement (.tileRowMove team op) := .event rfl
theorem RoundTrip.attentionCommit (team : Nat) (op : Nat) : Statement (.attentionCommit team op) := .event rfl
theorem RoundTrip.hwFaultService (die : Nat) (slot : Nat) : Statement (.hwFaultService die slot) := .event rfl
theorem RoundTrip.faultReplayWrite (slot : BitVec 16) : Statement (.faultReplayWrite slot) := .event rfl
theorem RoundTrip.tlbInvalidate (ctx : Nat) (range : Option (Nat × Nat)) : Statement (.tlbInvalidate ctx range) := .event rfl
theorem RoundTrip.tlbInvalidateComplete (ctx : Nat) : Statement (.tlbInvalidateComplete ctx) := .event rfl
theorem RoundTrip.sealComplete (ctx : Nat) (base : Nat) : Statement (.sealComplete ctx base) := .event rfl
theorem RoundTrip.unsealComplete (ctx : Nat) (base : Nat) : Statement (.unsealComplete ctx base) := .event rfl
theorem RoundTrip.absentUnitFill (owner : Nat) (unit : Nat) : Statement (.absentUnitFill owner unit) := .event rfl
theorem RoundTrip.contextDescriptorWrite (d : CtxDesc) : Statement (.contextDescriptorWrite d) := .event rfl
theorem RoundTrip.contextActivate (ctx : Nat) : Statement (.contextActivate ctx) := .event rfl
theorem RoundTrip.preemptRequest (ctx : Nat) : Statement (.preemptRequest ctx) := .event rfl
theorem RoundTrip.preemptHalt (ctx : Nat) : Statement (.preemptHalt ctx) := .event rfl
theorem RoundTrip.contextSaveComplete (ctx : Nat) : Statement (.contextSaveComplete ctx) := .event rfl
theorem RoundTrip.resumeRequest (ctx : Nat) : Statement (.resumeRequest ctx) := .event rfl
theorem RoundTrip.restoreEagerComplete (ctx : Nat) : Statement (.restoreEagerComplete ctx) := .event rfl
theorem RoundTrip.contextDestroy (ctx : Nat) : Statement (.contextDestroy ctx) := .event rfl
theorem RoundTrip.trapAreaReset (ctx : Nat) : Statement (.trapAreaReset ctx) := .event rfl
theorem RoundTrip.erptrWrite (ctx : Option Nat) (count : Nat) : Statement (.erptrWrite ctx count) := .event rfl
theorem RoundTrip.queueDescriptorWrite (d : QueueDesc) : Statement (.queueDescriptorWrite d) := .event rfl
theorem RoundTrip.queueEnable (queue : Nat) : Statement (.queueEnable queue) := .event rfl
theorem RoundTrip.queueSuspend (queue : Nat) : Statement (.queueSuspend queue) := .event rfl
theorem RoundTrip.queueResume (queue : Nat) : Statement (.queueResume queue) := .event rfl
theorem RoundTrip.queueDrain (queue : Nat) : Statement (.queueDrain queue) := .event rfl
theorem RoundTrip.queueReset (queue : Nat) : Statement (.queueReset queue) := .event rfl
theorem RoundTrip.queueDestroy (queue : Nat) : Statement (.queueDestroy queue) := .event rfl
theorem RoundTrip.doorbellWrite (queue : Nat) (wptr : Nat) : Statement (.doorbellWrite queue wptr) := .event rfl
theorem RoundTrip.dispatchRegisterWrite (queue : Nat) (pos : Nat) : Statement (.dispatchRegisterWrite queue pos) := .event rfl
theorem RoundTrip.recordTake (queue : Nat) : Statement (.recordTake queue) := .event rfl
theorem RoundTrip.recordStart (queue : Nat) : Statement (.recordStart queue) := .event rfl
theorem RoundTrip.queueBufferGrant (die : Nat) : Statement (.queueBufferGrant die) := .event rfl
theorem RoundTrip.teamDispatch (grid : Nat) : Statement (.teamDispatch grid) := .event rfl
theorem RoundTrip.teamRetire (team : Nat) : Statement (.teamRetire team) := .event rfl
theorem RoundTrip.recordComplete (queue : Nat) : Statement (.recordComplete queue) := .event rfl
theorem RoundTrip.squashRuleStep (ctx : Nat) : Statement (.squashRuleStep ctx) := .event rfl
theorem RoundTrip.versionRetag (version : Nat) : Statement (.versionRetag version) := .event rfl
theorem RoundTrip.versionNotice (peer : Nat) (version : Nat) (ctx : Nat) (ancestors : List Nat) : Statement (.versionNotice peer version ctx ancestors) := .event rfl
theorem RoundTrip.commitNotice (peer : Nat) (version : Nat) (target : Nat) (marks : List Nat) : Statement (.commitNotice peer version target marks) := .event rfl
theorem RoundTrip.deadNotice (peer : Nat) (version : Nat) (marks : List Nat) : Statement (.deadNotice peer version marks) := .event rfl
theorem RoundTrip.noticeAck (peer : Nat) (version : VerAck) : Statement (.noticeAck peer version) := .event rfl
theorem RoundTrip.flitReceive (peer fseq ack : Nat) (nak : Bool) (got : Arrival) : Statement (.flitReceive peer fseq ack nak got) := .event rfl
theorem RoundTrip.lossOfLight (peer : Nat) (channels : BitVec 16) : Statement (.lossOfLight peer channels) := .event rfl
theorem RoundTrip.restripeComplete (link : LinkEnd) : Statement (.restripeComplete link) := .event rfl
theorem RoundTrip.channelRetrained (peer : Nat) (ch : Nat) : Statement (.channelRetrained peer ch) := .event rfl
theorem RoundTrip.linkTrainingComplete (link : LinkEnd) (trained : BitVec 16) : Statement (.linkTrainingComplete link trained) := .event rfl
theorem RoundTrip.linkMaskWrite (peer : Nat) (mask : BitVec 16) : Statement (.linkMaskWrite peer mask) := .event rfl
theorem RoundTrip.linkReset (link : LinkEnd) : Statement (.linkReset link) := .event rfl
theorem RoundTrip.rekey (peer : Nat) : Statement (.rekey peer) := .event rfl
theorem RoundTrip.remoteRequestPerform (r : Req) : Statement (.remoteRequestPerform r) := .event rfl
theorem RoundTrip.remoteReply (peer : Nat) (stream : Nat) (seq : Nat) (status : Nat) (data : List (BitVec 8)) : Statement (.remoteReply peer stream seq status data) := .event rfl
theorem RoundTrip.rcopyPieceSend (team : Nat) (fid : Nat) : Statement (.rcopyPieceSend team fid) := .event rfl
theorem RoundTrip.flitSend (peer : Nat) : Statement (.flitSend peer) := .event rfl
theorem RoundTrip.hostRead (p : Nat) (own : Bool) : Statement (.hostRead p own) := .event rfl
theorem RoundTrip.hostWriteback (p : Nat) (back : HostData) : Statement (.hostWriteback p back) := .event rfl
theorem RoundTrip.hostWrite (p : Nat) (data : List (BitVec 8)) (poison : Bool) : Statement (.hostWrite p data poison) := .event rfl
theorem RoundTrip.recallResponse (p : Nat) (back : HostData) : Statement (.recallResponse p back) := .event rfl
theorem RoundTrip.hostSnoop (p : Nat) (snoop : Snoop) : Statement (.hostSnoop p snoop) := .event rfl
theorem RoundTrip.bar2Access (p : Nat) (write : Option (List (BitVec 8))) : Statement (.bar2Access p write) := .event rfl
theorem RoundTrip.portDown : Statement (.portDown) := .event rfl
theorem RoundTrip.moduleReset : Statement (.moduleReset) := .event rfl
theorem RoundTrip.startTimeout : Statement (.startTimeout) := .event rfl
theorem RoundTrip.fullStartRequest : Statement (.fullStartRequest) := .event rfl
theorem RoundTrip.recoveryImageWrite (image : Image) : Statement (.recoveryImageWrite image) := .event rfl
theorem RoundTrip.attestationRequest (nonce : BitVec 512) : Statement (.attestationRequest nonce) := .event rfl
theorem RoundTrip.fnmodeWrite (value : BitVec 32) : Statement (.fnmodeWrite value) := .event rfl
theorem RoundTrip.windowRegisterWrite (r : WinReg) : Statement (.windowRegisterWrite r) := .event rfl
theorem RoundTrip.thermalStop (r : Readings) : Statement (.thermalStop r) := .event rfl
theorem RoundTrip.clockThrottle (r : Readings) : Statement (.clockThrottle r) := .event rfl
theorem RoundTrip.clockRaise (r : Readings) : Statement (.clockRaise r) := .event rfl
theorem RoundTrip.telemetryUpdate (r : Readings) : Statement (.telemetryUpdate r) := .event rfl
theorem RoundTrip.powerOff : Statement (.powerOff) := .event rfl

end Sys2Proof.Laws
end

