-- ==== Sys2Proof/Tests/Slice0.lean ====
section
/-! SUPPORT. Tests: words written out from the encoding tables decode to what they stand for, ill-formed terms and words are refused, a few
single steps give what the spec's examples say, and for each statement with hypotheses a state and operands that meet them. -/

namespace Sys2Proof.Machine

set_option maxRecDepth 20000
set_option Elab.async false

/-! ### Small states -/

/-- The plain header: no guard, no scoreboard. -/
def hd0 : Hdr := { stall := 0, y := false, gp := 7, gn := false, wsb := 7, wait := 0 }

/-- The same with scoreboard 1, which a result of variable latency needs. -/
def hv : Hdr := { hd0 with wsb := 1 }

def i32 : IMod := { wid := .w32, sgn := false, sat := false }

def f32 : FMod := { rnd := .rn, nega := false, negb := false, negc := false, absa := false, sat := false }

/-- A context, a grid and a team with one group whose lanes `lanes` are to issue next: group 3 of team 2 of grid 1, on core 0.
Its tables map one GiB from address 0 on, and the local window. -/
def sceneOf (lanes : Nat) (f : Group → Group) : State :=
  let s := (State.reset.scaffold [] |>.setEntry 0x11FF8 (5 + 0x30000)).setEntry (0x30000 + 8 * 0x1C0) (1 + 8 + 16 + 2 ^ 31)
  ({ s with issuing := [], agenda := [], cur := some { who := .group 3 lanes, pc := 0x1000, next := 0x1008, word := 0 } } : State).updGroup 3 f

def scene : State := sceneOf allLanes id

/-- The same with one S register, or one team, grid or context, changed. -/
def sceneS (n : Nat) (w : DWord) : State := sceneOf allLanes fun g => g.setS 0 n w

def sceneT (f : Team → Team) : State := scene.updTeam 2 f

def sceneG (f : Grid → Grid) : State := scene.updGrid 1 f

def scene1 (l : Nat) (f : Lane → Lane) : State := sceneOf (2 ^ l) fun g => g.updLanes (2 ^ l) fun _ x => f x

/-- An instruction issues to the lanes that `s` has chosen, and they meet `ok`. -/
def meets (s : State) (i : Instr) (ok : Env → Nat → Bool) : Bool :=
  match s.cur, i.hdr? with
  | some { who := .group uid lanes, chk := false, .. }, some h =>
    match ({ s with cur := none } : State).env? uid with
    | some e0 => e0.g.uid == uid && !h.never && !e0.g.outOfBounds (i.uses.rd ++ i.uses.wr)
        && s.contexts.all (fun c => c.2.absent == []) && e0.act h lanes != 0 &&
      match (s.atIssue e0 h lanes).env? uid with
      | some e => ok e (e0.act h lanes)
      | none => false
    | none => false
  | _, _ => false

/-- What `meets` says is the hypothesis of the statements in the form `Does`. -/
theorem meets_issues {s : State} {i : Instr} {ok : Env → Nat → Bool} (H : meets s i ok = true) :
    ∃ h lanes pc next e0 e, Issues s i h lanes pc next e0 e ∧ ok e (e0.act h lanes) = true := by
  unfold meets at H
  split at H
  · rename_i uid lanes pc next word h hc hi
    split at H
    · rename_i e0 he0
      simp only [Bool.and_eq_true, beq_iff_eq, Bool.not_eq_true', bne_iff_ne, List.all_eq_true] at H
      obtain ⟨⟨⟨⟨⟨hu, hn⟩, hb⟩, ha⟩, hact⟩, H⟩ := H
      split at H
      · rename_i e he
        refine ⟨h, lanes, pc, next, e0, e, ⟨⟨word, ?_⟩, hi, hn, ?_, ?_, hb, ha, hact⟩, H⟩
        · rw [hc, hu]
        · rw [hu]; exact he0
        · rw [hu]; exact he
      · cases H
    · cases H
  · cases H

/-! ### Decoding (R57, R58, R63 to R68, R79 and the tables of the chapters)

Each row gives an instruction's bits, its word, and what it stands for. -/

/-- Every row decodes to its instruction, which is well formed. -/
def decodes (rows : List (Nat × Nat × Instr)) : Bool :=
  rows.all fun x => x.2.2.wf && decodeTableWord x.1 x.2.1 == some x.2.2

/-- No row decodes once one bit of its word is turned over. -/
def refusesFlip (bit : Nat) (rows : List (Nat × Nat × Instr)) : Bool :=
  rows.all fun x => decodeTableWord x.1 (Nat.xor x.2.1 (2 ^ bit)) == none

def wordsControl1 : List (Nat × Nat × Instr) :=
  [(64, 0x000000003FFBF000, .nop { stall := 15, y := true, gp := 5, gn := true, wsb := 7, wait := 63 }),
   (96, 0x00000000FFFFFFF900EE0005, .bra hd0 0xFFFFFFF9),
   (64, 0x00006000006E0008, .brx { hd0 with wsb := 3 } (.v 6)),
   (96, 0x000000000000123400EE000D, .call hd0 0x1234),
   (64, 0x00C0900000EE0010, .callx hd0 (.s 9)),
   (64, 0x0000000000EE0014, .ret hd0),
   (64, 0x0000000000EE0018, .exit hd0),
   (64, 0x0100000500EE001C, .jset hd0 5 true),
   (64, 0x0000000F00EE0020, .join hd0 15),
   (64, 0x0000900000EE0024, .jpush hd0 9),
   (64, 0x0000000900EE0028, .jpop hd0 9),
   (96, 0x000000D60000001800EE002D, .brk hd0 0x18 6 13)]

def wordsControl2 : List (Nat × Nat × Instr) :=
  [(64, 0x00D8000000EE0030, .yield hd0 (.imm 0x80)),
   (64, 0x0040200000AE0034, .monw { hd0 with wsb := 5 } (.o 2)),
   (64, 0x00CFF27F008E0038, .mwait { hd0 with wsb := 4 } (.v 639) (.s 255)),
   (64, 0x0000000000EE003C, .gsync hd0),
   (64, 0x0000000000EE0040, .spmat hd0),
   (64, 0x0000000000EE0044, .gfold hd0),
   (64, 0x00801C0300EE0048, .spform hd0 (.s 3) (.reg (.z 1))),
   (64, 0x01006003004E0048, .spform { hd0 with wsb := 2 } (.v 3) (.pred 6)),
   (96, 0x7090000200028658002E004D, .rgnld { hd0 with wsb := 1 } 600 0xA1 0x70900002),
   (64, 0x0BC0400000EE0050, .rshrink hd0 (.s 4) 11),
   (64, 0x05D03000000E0054, .rgrow { hd0 with wsb := 0 } (.imm 3) 5),
   (64, 0x1300200100EE0058, .plop hd0 1 2 3 2)]

def wordsControl3 : List (Nat × Nat × Instr) :=
  [(64, 0x0100500600EE005C, .pmov hd0 6 5 true),
   (64, 0xA500000000EE0060, .trap hd0 0xA5),
   (64, 0x5A00000000EE0064, .bpt hd0 0x5A),
   (64, 0x00E2140700EE0068, .srd hd0 (.o 7) (.sr 0x21)),
   (64, 0x00D02E1800EE006C, .swr hd0 (.sr 0x18) (.imm 2)),
   (64, 0x0100000400EE0070, .cyc hd0 (.v 4) true)]

theorem test_decode_control : decodes (wordsControl1 ++ wordsControl2 ++ wordsControl3) = true := by decide +kernel

def wordsLaunch1 : List (Nat × Nat × Instr) :=
  [(64, 0x0000D00000EE0100, .bar hd0 13),
   (64, 0x0000CC07006E0104, .bara { hd0 with wsb := 3 } (.s 7) 12),
   (64, 0x0300A00000EE0108, .barw hd0 3 (.v 10)),
   (64, 0x00C0600B00EE010C, .barinit hd0 11 (.s 6)),
   (64, 0x0000000000EE0110, .cbar hd0),
   (64, 0x0000000000EE0114, .gbar hd0),
   (96, 0x0000000001C02C01004E0119, .launch { hd0 with wsb := 2 } (.s 1) (.s 2) true),
   (96, 0x00000C0301C02C01004E011D, .enq { hd0 with wsb := 2 } (.s 1) (.s 2) (.s 3) true),
   (64, 0x01C02C01004E0120, .qstat { hd0 with wsb := 2 } (.s 1) (.s 2) true),
   (128, 0x0000000700C0900002C08C14002E0126, .splnch { hd0 with wsb := 1 } (.s 20) (.s 8) (.v 0) (.s 9) 2 false false 7),
   (128, 0x0000000000C09C053FC08C14002E0126, .splnch { hd0 with wsb := 1 } (.s 20) (.s 8) (.s 5) (.s 9) 15 true true 0),
   (96, 0x00000C0402C16C17008E0129, .resolve { hd0 with wsb := 4 } (.s 23) (.s 22) (.s 4) 2)]

def wordsLaunch2 : List (Nat × Nat × Instr) :=
  [(64, 0x01000C17008E012C, .vqry { hd0 with wsb := 4 } (.s 23) (.v 0) true),
   (64, 0x00C18C17008E0130, .vabort { hd0 with wsb := 4 } (.s 23) (.s 24))]

theorem test_decode_launch : decodes (wordsLaunch1 ++ wordsLaunch2) = true := by decide +kernel

def wordsInteger1 : List (Nat × Nat × Instr) :=
  [(96, 0x00000DFB0000300C01F42201, .iadd { stall := 2, y := false, gp := 2, gn := true, wsb := 7, wait := 1 } { wid := .w32, sgn := false, sat := false } (.v 12) (.v 3) (.imm 0xFB)),
   (96, 0x000000060D00400200EE0205, .isub hd0 { wid := .w64, sgn := true, sat := true } (.v 2) (.v 4) (.v 6)),
   (96, 0x000000030200200100EE0209, .imul hd0 { wid := .x2, sgn := false, sat := false } (.v 1) (.v 2) (.v 3)),
   (96, 0x000000030400200100EE020D, .imulh hd0 { wid := .w32, sgn := true, sat := false } (.v 1) (.v 2) (.v 3)),
   (96, 0x000040030800200100EE0211, .imad hd0 { wid := .w32, sgn := false, sat := true } (.v 1) (.v 2) (.v 3) (.v 4)),
   (96, 0x000060050400300200EE0215, .imadw hd0 { wid := .w32, sgn := true, sat := false } (.v 2) (.v 3) (.v 5) (.v 6)),
   (96, 0x480000020000000400EE0219, .addc hd0 { wid := .w32, sgn := false, sat := false } { pci := 0, pco := 1, nci := true } (.v 4) (.v 0) (.v 2)),
   (96, 0x2E0000020000100400EE021D, .subb hd0 { wid := .w32, sgn := false, sat := false } { pci := 6, pco := 5, nci := false } (.v 4) (.v 1) (.v 2)),
   (96, 0x130030021000100400EE0221, .madc hd0 { wid := .w32, sgn := false, sat := false } true { pci := 3, pco := 2, nci := false } (.v 4) (.v 1) (.v 2) (.v 3)),
   (96, 0x000000030300200100EE0225, .imin hd0 { wid := .x4, sgn := false, sat := false } (.v 1) (.v 2) (.v 3)),
   (96, 0x000000030700200100EE0229, .imax hd0 { wid := .x4, sgn := true, sat := false } (.v 1) (.v 2) (.v 3)),
   (64, 0x0E00200100EE022C, .iabs hd0 { wid := .x2, sgn := true, sat := true } (.v 1) (.v 2))]

def wordsInteger2 : List (Nat × Nat × Instr) :=
  [(96, 0x000000031800200100EE0231, .shl hd0 { wid := .w32, sgn := false, sat := true } true (.v 1) (.v 2) (.v 3)),
   (96, 0x000000031000200100EE0235, .shr hd0 { wid := .w32, sgn := false, sat := false } true (.v 1) (.v 2) (.v 3)),
   (96, 0x000000030100400200EE0239, .shra hd0 { wid := .w64, sgn := false, sat := false } false (.v 2) (.v 4) (.v 3)),
   (96, 0x000040031000200100EE023D, .shf hd0 { wid := .w32, sgn := false, sat := false } true false (.v 1) (.v 2) (.v 3) (.v 4)),
   (96, 0xCA0040030000200100EE0241, .bitfn hd0 { wid := .w32, sgn := false, sat := false } 0xCA (.v 1) (.v 2) (.v 3) (.v 4)),
   (64, 0x0100200100EE0244, .popc hd0 { wid := .w64, sgn := false, sat := false } (.v 1) (.v 2)),
   (64, 0x0000300100EE0248, .clz hd0 { wid := .w32, sgn := false, sat := false } (.v 1) (.v 3)),
   (64, 0x0000300100AE024C, .brev { hd0 with wsb := 5 } { wid := .w32, sgn := false, sat := false } (.v 1) (.v 3)),
   (96, 0x000000030400200100EE0251, .bfe hd0 { wid := .w32, sgn := true, sat := false } (.v 1) (.v 2) (.v 3)),
   (96, 0x000040030000200100EE0255, .bfi hd0 { wid := .w32, sgn := false, sat := false } (.v 1) (.v 2) (.v 3) (.v 4)),
   (96, 0x000040030000200100EE0259, .bysel hd0 { wid := .w32, sgn := false, sat := false } (.v 1) (.v 2) (.v 3) (.v 4)),
   (96, 0x020060033400200100EE025D, .isetp hd0 { wid := .w32, sgn := true, sat := false } .le .or 1 (.v 2) (.v 3) 6)]

def wordsInteger3 : List (Nat × Nat × Instr) :=
  [(96, 0x000050030000200100EE0261, .sel hd0 { wid := .w32, sgn := false, sat := false } (.v 1) (.v 2) (.v 3) 5),
   (64, 0x0080040100EE0264, .mov hd0 { wid := .w32, sgn := false, sat := false } (.o 1) (.z 0)),
   (128, 0xDEADBEEF0000000005000C0400EE026A, .movi hd0 { wid := .w64, sgn := true, sat := false } (.s 4) 0xDEADBEEF),
   (96, 0x1F0000030000200100EE026D, .lea hd0 { wid := .w32, sgn := false, sat := false } 31 (.v 1) (.v 2) (.v 3)),
   (96, 0x63C05C045600200700EE0271, .rqnt hd0 .i4 .rz 5 35 true (.v 7) (.v 2) (.s 4) (.s 5)),
   (96, 0x000040030C00200100EE0275, .idp4 hd0 { wid := .w32, sgn := true, sat := true } false (.v 1) (.v 2) (.v 3) (.v 4)),
   (96, 0x000040031000200100EE0279, .idp8 hd0 { wid := .w32, sgn := false, sat := false } true (.v 1) (.v 2) (.v 3) (.v 4))]

theorem test_decode_integer : decodes (wordsInteger1 ++ wordsInteger2 ++ wordsInteger3) = true := by decide +kernel

def wordsFloat1 : List (Nat × Nat × Instr) :=
  [(96, 0x00000003CB00200100EE0401, .fadd hd0 { rnd := .ru, nega := true, negb := false, negc := false, absa := true, sat := true } (.v 1) (.v 2) (.v 3)),
   (96, 0x000000031400200100EE0405, .fmul hd0 { rnd := .dyn, nega := false, negb := true, negc := false, absa := false, sat := false } (.v 1) (.v 2) (.v 3)),
   (96, 0x00800C052100200A00EE0409, .ffma hd0 { rnd := .rz, nega := false, negb := false, negc := true, absa := false, sat := false } (.v 10) (.v 2) (.s 5) (.z 0)),
   (96, 0x000000030800200100EE040D, .fmin hd0 { rnd := .rn, nega := true, negb := false, negc := false, absa := false, sat := false } (.v 1) (.v 2) (.v 3)),
   (96, 0x000000031000200100EE0411, .fmax hd0 { rnd := .rn, nega := false, negb := true, negc := false, absa := false, sat := false } (.v 1) (.v 2) (.v 3)),
   (96, 0x030050035700200400EE0415, .fsetp hd0 { cmp := .nan, nega := true, negb := false, absa := true, bop := .xor } 4 (.v 2) (.v 3) 5),
   (64, 0x0A00400200EE0418, .frnd hd0 .rd true (.v 2) (.v 4)),
   (64, 0x0800400200EE041C, .fclass hd0 true (.v 2) (.v 4)),
   (96, 0x000000060000400200EE0421, .dadd hd0 { rnd := .rn, nega := false, negb := false, negc := false, absa := false, sat := false } (.v 2) (.v 4) (.v 6)),
   (96, 0x000000060100400200EE0425, .dmul hd0 { rnd := .rz, nega := false, negb := false, negc := false, absa := false, sat := false } (.v 2) (.v 4) (.v 6)),
   (96, 0x000080062000400200EE0429, .dfma hd0 { rnd := .rn, nega := false, negb := false, negc := true, absa := false, sat := false } (.v 2) (.v 4) (.v 6) (.v 8)),
   (96, 0x000000062D00200400EE042D, .dsetp hd0 { cmp := .geu, nega := false, negb := true, absa := false, bop := .none } 4 (.v 2) (.v 6) 0)]

def wordsFloat2 : List (Nat × Nat × Instr) :=
  [(96, 0x000040038000200100EE0431, .hfma2 hd0 { rnd := .rn, nega := false, negb := false, negc := false, absa := false, sat := true } (.v 1) (.v 2) (.v 3) (.v 4)),
   (96, 0x000040034000200100EE0435, .bfma2 hd0 { rnd := .rn, nega := false, negb := false, negc := false, absa := true, sat := false } (.v 1) (.v 2) (.v 3) (.v 4)),
   (64, 0x0B004002000E0438, .frcp { hd0 with wsb := 0 } .ru true (.v 2) (.v 4)),
   (64, 0x00004002002E043C, .frsq { hd0 with wsb := 1 } (.v 2) (.v 4)),
   (64, 0x01004002004E0440, .fsqrt { hd0 with wsb := 2 } .rz false (.v 2) (.v 4)),
   (64, 0x00004002006E0444, .fex2 { hd0 with wsb := 3 } (.v 2) (.v 4)),
   (64, 0x00004002008E0448, .flg2 { hd0 with wsb := 4 } (.v 2) (.v 4)),
   (64, 0x0000400200AE044C, .fsin { hd0 with wsb := 5 } (.v 2) (.v 4)),
   (64, 0x00004002000E0450, .fcos { hd0 with wsb := 0 } (.v 2) (.v 4)),
   (64, 0x2500400200EE0454, .fcvt hd0 .rs .bf16f32 (.v 2) (.v 4)),
   (64, 0x7100400200EE0454, .fcvt hd0 .rz .s32f64 (.v 2) (.v 4)),
   (64, 0xE000400200EE0454, .fcvt hd0 .rn .f32f16x2 (.v 2) (.v 4))]

def wordsFloat3 : List (Nat × Nat × Instr) :=
  [(64, 0xE800400200EE0454, .fcvt hd0 .rn .f32bf16x2 (.v 2) (.v 4)),
   (64, 0xB200400200EE0454, .fcvt hd0 .rd .s64f32 (.v 2) (.v 4)),
   (96, 0x0600000365001014002E0459, .cvtn { hd0 with wsb := 1 } .rs false .bf16x2 true 6 (.v 20) (.v 1) 3),
   (96, 0x0200000718001014002E0459, .cvtn { hd0 with wsb := 1 } .rn true .f16x2 false 2 (.v 20) (.v 1) 7),
   (96, 0x0000000445004005002E045D, .qnt { hd0 with wsb := 1 } .rs true (.v 5) (.v 4) 4),
   (96, 0x000040030C00200100EE0461, .scacc hd0 .dyn true (.v 1) (.v 2) (.v 3) (.v 4)),
   (96, 0x0000000000C0300600EE0465, .fmtset hd0 6 (.s 3))]

theorem test_decode_float : decodes (wordsFloat1 ++ wordsFloat2 ++ wordsFloat3) = true := by decide +kernel

def wordsCrossLane1 : List (Nat × Nat × Instr) :=
  [(96, 0x00004C0306002001000E0601, .lnget { hd0 with wsb := 0 } { sw := .sg64, x64 := false } false (.v 1) (.v 2) (.s 3) (.v 4)),
   (96, 0x00006D0109004002000E0605, .lnxor { hd0 with wsb := 0 } { sw := .sg2, x64 := true } false (.v 2) (.v 4) (.imm 1) (.v 6)),
   (96, 0x0000400312002001000E0609, .lnsub { hd0 with wsb := 0 } { sw := .sg4, x64 := false } true (.v 1) (.v 2) (.v 3) (.v 4)),
   (96, 0x00DFFD0103004006004E060D, .lnadd { hd0 with wsb := 2 } { sw := .sg8, x64 := false } false (.v 6) (.v 4) (.imm 1) (.imm 0xFF)),
   (96, 0x0000000000002C01000E0611, .redx { hd0 with wsb := 0 } { sw := .full, x64 := false } .add (.s 1) (.v 2)),
   (96, 0x0A00000004002001000E0611, .redx { hd0 with wsb := 0 } { sw := .sg16, x64 := false } .fmax (.v 1) (.v 2)),
   (96, 0x0700300015002001000E0615, .scan { hd0 with wsb := 0 } { sw := .sg32, x64 := false } true .xor (.v 1) (.v 2) (.v 3)),
   (64, 0x02004003000E0618, .pcons { hd0 with wsb := 0 } .sg4 (.every 3) 4),
   (64, 0x10004003000E0618, .pcons { hd0 with wsb := 0 } .full (.some 3) 4),
   (64, 0x20004003000E0618, .pcons { hd0 with wsb := 0 } .full (.same 3) 4),
   (64, 0x30004002000E0618, .pcons { hd0 with wsb := 0 } .full (.mask (.v 2)) 4),
   (64, 0x08004002000E061C, .matchv { hd0 with wsb := 0 } { sw := .full, x64 := true } (.v 2) (.v 4))]

def wordsCrossLane2 : List (Nat × Nat × Instr) :=
  [(96, 0x00004C0300002001000E0621, .bcast { hd0 with wsb := 0 } { sw := .full, x64 := false } false (.v 1) (.v 2) (.s 3) (.v 4)),
   (96, 0x0000400010002001000E0621, .bcast { hd0 with wsb := 0 } { sw := .full, x64 := false } true (.v 1) (.v 2) (.v 0) (.v 4))]

theorem test_decode_crosslane : decodes (wordsCrossLane1 ++ wordsCrossLane2) = true := by decide +kernel

def wordsMemory1 : List (Nat × Nat × Instr) :=
  [(96, 0x00000D100DC04008002E0701, .ldg { hd0 with wsb := 1 } .b64 .l2 (.v 8) (.s 4) (.imm 0x10)),
   (96, 0x000070031C00400000EE0705, .stg hd0 .b32 .sys (.v 4) (.v 3) (.v 7)),
   (96, 0x0000000200001008002E0709, .ldsh { hd0 with wsb := 1 } .u8 (.v 8) (.v 1) (.v 2)),
   (96, 0x000030020200100000EE070D, .stsh hd0 .u16 (.v 1) (.v 2) (.v 3)),
   (96, 0x0000000201001008002E0711, .ldts { hd0 with wsb := 1 } .s8 (.v 8) (.v 1) (.v 2)),
   (96, 0x000040020600100000EE0715, .stts hd0 .b128 (.v 1) (.v 2) (.v 4)),
   (96, 0x0000000203001404002E0719, .ldl { hd0 with wsb := 1 } .s16 (.o 4) (.v 1) (.v 2)),
   (96, 0x00DFD0020400100000EE071D, .stl hd0 .b32 (.v 1) (.v 2) (.imm 0xFD)),
   (128, 0xFFFFFFF80B00800429C06002000E0722, .atomg { hd0 with wsb := 0 } { op := .cas, sgn := false, x64 := true, scope := .device, ord := .acq } (.v 2) (.s 6) (.v 4) (.v 8) 0xFFFFFFF8),
   (128, 0x000000041900000413006002000E0726, .atomsh { hd0 with wsb := 0 } { op := .min, sgn := true, x64 := false, scope := .team, ord := .ar } (.v 2) (.v 6) (.v 4) (.v 0) 4),
   (64, 0x01C0600000EE0728, .pref hd0 true (.s 6)),
   (64, 0x02C0600000EE072C, .cctl hd0 .clean (.s 6))]

def wordsMemory2 : List (Nat × Nat × Instr) :=
  [(64, 0x0100000000EE072C, .cctl hd0 .ivall (.v 0)),
   (64, 0x1500000000EE0730, .fence hd0 .system .rel),
   (64, 0x1900000000EE0730, .fence hd0 .team .ar),
   (96, 0x00000D0500C02C01006E0735, .seal { hd0 with wsb := 3 } (.s 1) (.s 2) (.imm 5)),
   (96, 0x0000000000C02C01006E0739, .unseal { hd0 with wsb := 3 } (.status (.s 1)) (.s 2)),
   (96, 0x0000000001C0200D006E0739, .unseal { hd0 with wsb := 3 } (.handle 13) (.s 2)),
   (64, 0x00C02C01006E073C, .sealq { hd0 with wsb := 3 } (.s 1) (.s 2)),
   (96, 0x0A00000305004002006E0741, .ldsc { hd0 with wsb := 3 } .b64 .cluster .acq false (.v 2) (.v 4) (.v 3)),
   (96, 0x340060030400500000EE0745, .stsc hd0 .b32 .pod .rel true (.v 5) (.v 3) (.v 6)),
   (64, 0x0000C005006E0748, .pgq { hd0 with wsb := 3 } (.v 5) (.v 12))]

theorem test_decode_memory : decodes (wordsMemory1 ++ wordsMemory2) = true := by decide +kernel

def wordsCopies : List (Nat × Nat × Instr) :=
  [(128, 0x0000080000000C0601C0400100EE0902, .copy hd0 { dsp := .sh, ssp := .g, fix := false, ch := 0 } false 1 (.s 4) (.s 6) (.v 0) 0x800),
   (128, 0x000000000DC08C0619C0400100EE0902, .copy hd0 { dsp := .sh, ssp := .ts, fix := true, ch := 5 } true 1 (.s 4) (.s 6) (.s 8) 0),
   (128, 0xFFF0004000C08C0604C0400E00EE0906, .copy2d hd0 { dsp := .g, ssp := .sh, fix := false, ch := 0 } 14 (.s 4) (.s 6) (.s 8) 0xFFF00040),
   (64, 0x00009C03004E0908, .fwait { hd0 with wsb := 2 } (.s 3) 9),
   (64, 0x00009C03004E090C, .ftest { hd0 with wsb := 2 } (.s 3) 9),
   (64, 0x0000900000EE0910, .fcancel hd0 9),
   (64, 0x00009C03004E0914, .fwp { hd0 with wsb := 2 } (.s 3) 9),
   (64, 0x00009C03004E0918, .fmovOut { hd0 with wsb := 2 } (.s 3) 9),
   (64, 0x01C0300900EE0918, .fmovIn hd0 9 (.s 3))]

theorem test_decode_copies : decodes (wordsCopies) = true := by decide +kernel

def wordsTiles1 : List (Nat × Nat × Instr) :=
  [(64, 0x01D04C03004E0A00, .tsalloc { hd0 with wsb := 2 } (.s 3) (.imm 4) true),
   (64, 0x00C0400000EE0A04, .tsfree hd0 (.s 4)),
   (96, 0x0000000005C0400B00EE0A09, .amset hd0 11 (.s 4) 5 false),
   (96, 0x0000000008C0400A00EE0A09, .amset hd0 10 (.s 4) 0 true),
   (96, 0x000000000600BC04004E0A0D, .amget { hd0 with wsb := 2 } (.s 4) 11 6),
   (64, 0x00C0400000EE0A10, .gang hd0 (.s 4)),
   (64, 0x0100000E00EE0A14, .azero hd0 14 true),
   (96, 0x07C04C020100B00900EE0A19, .ald hd0 (some 9) false 7 11 (.s 2) (.s 4)),
   (96, 0x06000C020200B00000EE0A1D, .ast hd0 none true 6 11 (.s 2) (.v 0)),
   (96, 0x0000000007005008004E0A21, .ard { hd0 with wsb := 2 } { q := 3, qsel := true, f64 := false } (.v 8) 5),
   (96, 0x000000000A01000600EE0A25, .awr hd0 { q := 2, qsel := false, f64 := true } 6 (.v 16)),
   (128, 0x0000001F01000C150200300000EE0A2A, .tld hd0 none true 1 3 31 (.s 21) (.v 0))]

def wordsTiles2 : List (Nat × Nat × Instr) :=
  [(128, 0x0000000206C09C150100300500EE0A2A, .tld hd0 (some 5) false 6 3 2 (.s 21) (.s 9)),
   (128, 0x00000008000000011200000300EE0A2E, .mma hd0 { ty := .n8, new := true, nb := false, blk := 0, fmta := 0, fmtb := 1, sgna := false, sgnb := false } 3 0 1),
   (64, 0x0200000600EE0A30, .arel hd0 false true 6),
   (96, 0x000000051D00300200EE0A35, .asca hd0 2 3 5 29)]

theorem test_decode_tiles : decodes (wordsTiles1 ++ wordsTiles2) = true := by decide +kernel

def wordsAttention : List (Nat × Nat × Instr) :=
  [(96, 0x0000000301C02004004E0C01, .kvtr { hd0 with wsb := 2 } true (.v 4) (.s 2) (.v 3)),
   (128, 0x0200004004C0A0020B00000000EE0C06, .atts hd0 { nh := 3, f16 := false, hd := none, nk := 32 } true 0 0 (.map 2) (.s 10) 4 64),
   (128, 0x01FFFFFF94C0AC063400200100EE0C06, .atts hd0 { nh := 0, f16 := true, hd := some 9, nk := 31 } false 1 2 (.desc (.s 6)) (.s 10) 4 0xFFFFF),
   (128, 0x0010000000C0A0070200600500EE0C0A, .attv hd0 { nh := 2, f16 := false, hd := none, nk := 1 } 5 6 (.map 7) (.s 10)),
   (96, 0x00000C030100900500EE0C0D, .attmrg hd0 1 5 9 (.s 3)),
   (96, 0x000000000200000500EE0C11, .attfin hd0 2 5),
   (64, 0x0300000500EE0C14, .arset hd0 3 5)]

theorem test_decode_attention : decodes (wordsAttention) = true := by decide +kernel

def wordsFabric : List (Nat × Nat × Instr) :=
  [(128, 0xFFFFFFF0070000030DC02004004E0D02, .rld { hd0 with wsb := 2 } .b64 true 7 (.v 4) (.s 2) (.v 3) 0xFFFFFFF0),
   (128, 0x000000080F0050030400200000EE0D06, .rst hd0 .b32 15 (.v 2) (.v 3) (.v 5) 8),
   (128, 0x000000080300000674C02004004E0D0A, .ratom { hd0 with wsb := 2 } .max true true true 3 (.v 4) (.s 2) (.v 6) (.v 0) 8),
   (128, 0x0008000003000C0C00C0A00200EE0D0E, .rcopy hd0 .g false 3 2 (.s 10) (.s 12) (.v 0) 0x80000),
   (128, 0x0000000003C0EC0C18C0A00200EE0D0E, .rcopy hd0 .ts true 3 2 (.s 10) (.s 12) (.s 14) 0),
   (64, 0x03C02C0B00EE0D10, .srel hd0 3 (.s 11) (.s 2)),
   (64, 0x0000000C00EE0D14, .rjoin hd0 12),
   (64, 0x00D06C04004E0D18, .lnkq { hd0 with wsb := 2 } false (.s 4) (.imm 6)),
   (64, 0x01C06C04004E0D18, .lnkq { hd0 with wsb := 2 } true (.s 4) (.s 6))]

theorem test_decode_fabric : decodes (wordsFabric) = true := by decide +kernel

/-- The rows of every family together. -/
def wordsAll : List (Nat × Nat × Instr) :=
  wordsControl1 ++ wordsControl2 ++ wordsControl3 ++ wordsLaunch1 ++ wordsLaunch2 ++ wordsInteger1 ++ wordsInteger2 ++ wordsInteger3 ++ wordsFloat1 ++ wordsFloat2 ++ wordsFloat3 ++ wordsCrossLane1 ++ wordsCrossLane2 ++ wordsMemory1 ++ wordsMemory2 ++ wordsCopies ++ wordsTiles1 ++ wordsTiles2 ++ wordsAttention ++ wordsFabric

/-- R57: a set bit 31 is refused, whatever the instruction; so is WSB 6, and so is another length (R80). -/
theorem test_reserved_bit_refused : refusesFlip 31 wordsAll = true := by decide +kernel

theorem test_wsb_six_refused :
    (wordsAll.all fun x => decodeTableWord x.1 (x.2.1 - 2 ^ 21 * (x.2.1 / 2 ^ 21 % 8) + 2 ^ 21 * 6) == none) = true := by decide +kernel

theorem test_length_refused : (refusesFlip 0 wordsAll && refusesFlip 1 wordsAll) = true := by decide +kernel

/-- R80: the opcodes that the map does not list. -/
theorem test_unlisted_opcodes : (((List.range 1024).filter fun o =>
    match decodeBytes 0 (leBytes 16 (4 * o + 7 * 2 ^ 17 + 7 * 2 ^ 21)) with | .error .illegalOpc => false | _ => true).length == 161) = true := by
  decide +kernel

/-- R60, R61: pad words, and an instruction that leaves its fetch block. -/
theorem test_pad_words : (decodeBytes 28 [3, 0, 0, 0] == .error .padWord) = true ∧ (decodeBytes 28 [7, 0, 0, 0] == .error .badPad) = true
    ∧ (decodeBytes 24 (leBytes 16 0x00000DFB0000300C01F42201) == .error .fetchSplit) = true := by decide +kernel

/-! ### Well-formedness: terms that its checks refuse -/

theorem test_ill_formed_header : (([.nop ({ hd0 with wsb := 0 }),
    .ret ({ hd0 with wsb := 0 }),
    .exit ({ hd0 with wsb := 0 }),
    .gsync ({ hd0 with wsb := 0 }),
    .spmat ({ hd0 with wsb := 0 }),
    .gfold ({ hd0 with wsb := 0 }),
    .cbar ({ hd0 with wsb := 0 }),
    .gbar ({ hd0 with wsb := 0 }),
    .bra ({ hd0 with wsb := 0 }) 1,
    .call ({ hd0 with wsb := 0 }) 1,
    .brk ({ hd0 with wsb := 0 }) 1 1 1,
    .jset ({ hd0 with wsb := 0 }) 1 true,
    .join ({ hd0 with wsb := 0 }) 1,
    .jpush ({ hd0 with wsb := 0 }) 1,
    .jpop ({ hd0 with wsb := 0 }) 1,
    .rjoin ({ hd0 with wsb := 0 }) 1,
    .trap ({ hd0 with wsb := 0 }) 1,
    .bpt ({ hd0 with wsb := 0 }) 1,
    .bar ({ hd0 with wsb := 0 }) 1,
    .fcancel ({ hd0 with wsb := 0 }) 1,
    .fence ({ hd0 with wsb := 0 }) .team .ar,
    .pref ({ hd0 with wsb := 0 }) true (.s 2),
    .cctl ({ hd0 with wsb := 0 }) .iv (.s 2),
    .srd ({ hd0 with wsb := 0 }) (.v 1) (.sr 0x18),
    .cyc ({ hd0 with wsb := 0 }) (.v 1) true] : List Instr).all fun i => !i.wf) = true := by
  decide +kernel

theorem test_ill_formed_scoreboard : (([.mwait hd0 (.v 1) (.s 1),
    .rgnld hd0 1 1 1,
    .bara hd0 (.v 1) 1,
    .launch hd0 (.s 1) (.s 2) true,
    .vabort hd0 (.s 1) (.s 2),
    .frsq hd0 (.v 1) (.v 2),
    .qnt hd0 .rn true (.v 1) (.v 2) 1,
    .lnget hd0 { sw := .full, x64 := false } false (.v 1) (.v 2) (.v 3) (.v 4),
    .ldg hd0 .b32 .l1 (.v 1) (.s 2) (.imm 0),
    .seal hd0 (.s 1) (.s 2) (.s 3),
    .pgq hd0 (.s 1) (.s 2),
    .fwait hd0 (.s 1) 2,
    .tsalloc hd0 (.s 1) (.s 2) true,
    .kvtr hd0 true (.s 1) (.s 2) (.s 3),
    .lnkq hd0 true (.s 1) (.s 2),
    .rld hd0 .b32 true 1 (.v 1) (.s 2) (.imm 0) 0,
    .iadd ({ hd0 with wsb := 6 }) i32 (.v 1) (.v 2) (.v 3),
    .stg ({ hd0 with wsb := 6 }) .b32 .l1 (.s 2) (.imm 0) (.v 1),
    .mma ({ hd0 with wsb := 6 }) { ty := .bf16, new := true, nb := false, blk := 0, fmta := 0, fmtb := 0, sgna := false, sgnb := false } 1 1 1,
    .arset ({ hd0 with wsb := 6 }) 1 1] : List Instr).all fun i => !i.wf) = true := by
  decide +kernel

theorem test_ill_formed_operands : (([.brx hd0 (.v 3),
    .callx hd0 (.imm 4),
    .monw hd0 (.z 0),
    .yield hd0 (.v 1),
    .mwait hv (.s 1) (.s 1),
    .mwait hv (.v 1) (.v 1),
    .spform hd0 (.z 1) (.reg (.v 1)),
    .spform hd0 (.v 1) (.reg (.imm 1)),
    .rshrink hd0 (.v 1) 1,
    .srd hd0 (.imm 1) (.sr 0x18),
    .srd hd0 (.v 1) (.sr 0x06),
    .swr hd0 (.sr 0x20) (.s 1),
    .swr hd0 (.v 1) (.s 1),
    .cyc hd0 (.s 1) true,
    .barw hd0 1 (.imm 1),
    .barinit hd0 1 (.v 1),
    .enq hv (.s 1) (.s 2) (.v 3) true,
    .qstat hv (.v 1) (.s 2) true,
    .splnch hv (.s 1) (.s 2) (.v 0) (.s 3) 1 true false 0,
    .splnch hv (.s 1) (.s 2) (.s 4) (.s 3) 1 true false 1,
    .resolve hv (.s 1) (.v 2) (.s 3) 1,
    .vqry hv (.s 1) (.s 2) true] : List Instr).all fun i => !i.wf) = true := by
  decide +kernel

theorem test_ill_formed_integer : (([.iadd hd0 i32 (.z 0) (.v 1) (.v 2),
    .iadd hd0 i32 (.s 1) (.v 1) (.s 2),
    .iadd hd0 i32 (.s 1) (.sr 0x08) (.s 2),
    .isub hd0 { wid := .w64, sgn := false, sat := false } (.v 1) (.v 2) (.v 4),
    .isub hd0 { wid := .w64, sgn := false, sat := false } (.v 2) (.z 0) (.v 4),
    .imul hd0 { wid := .x4, sgn := false, sat := false } (.v 1) (.v 2) (.v 3),
    .imulh hd0 { wid := .w32, sgn := false, sat := true } (.v 1) (.v 2) (.v 3),
    .imad hd0 { wid := .x2, sgn := false, sat := false } (.v 1) (.v 2) (.v 3) (.v 4),
    .imadw hd0 { wid := .w32, sgn := false, sat := false } (.v 2) (.v 3) (.v 4) (.v 5),
    .addc hd0 i32 { pci := 1, pco := 1, nci := true } (.v 1) (.v 2) (.v 3),
    .imin hd0 { wid := .w32, sgn := false, sat := true } (.v 1) (.v 2) (.v 3),
    .shl hd0 { wid := .w64, sgn := false, sat := false } true (.v 2) (.v 3) (.v 1),
    .shf hd0 { wid := .w64, sgn := false, sat := false } true true (.v 2) (.v 4) (.v 6) (.v 8),
    .bitfn hd0 { wid := .x2, sgn := false, sat := false } 1 (.v 2) (.v 4) (.v 6) (.v 8),
    .popc hd0 { wid := .w64, sgn := false, sat := false } (.v 1) (.v 3),
    .isetp hd0 i32 .lt .none 1 (.v 1) (.v 2) 3,
    .sel hd0 { wid := .w64, sgn := false, sat := false } (.v 1) (.v 2) (.v 4) 1,
    .lea hd0 { wid := .w64, sgn := false, sat := false } 1 (.v 2) (.v 1) (.v 3),
    .rqnt hd0 .i8 .rn 4 1 true (.v 1) (.v 2) (.v 3) (.v 4),
    .rqnt hd0 .i4 .rn 1 1 false (.v 1) (.v 2) (.v 3) (.v 4),
    .idp4 hd0 { wid := .w64, sgn := false, sat := false } true (.v 2) (.v 4) (.v 6) (.v 8)] : List Instr).all fun i => !i.wf) = true := by
  decide +kernel

theorem test_ill_formed_float : (([.fadd hd0 { rnd := .rs, nega := false, negb := false, negc := false, absa := false, sat := false } (.v 1) (.v 2) (.v 3),
    .fmul hd0 { rnd := .rn, nega := false, negb := false, negc := true, absa := false, sat := false } (.v 1) (.v 2) (.v 3),
    .fmin hd0 { rnd := .rz, nega := false, negb := false, negc := false, absa := false, sat := false } (.v 1) (.v 2) (.v 3),
    .fmax hd0 { rnd := .rn, nega := false, negb := false, negc := false, absa := false, sat := true } (.v 1) (.v 2) (.v 3),
    .fsetp hd0 { cmp := .lt, nega := false, negb := false, absa := false, bop := .none } 1 (.v 1) (.v 2) 3,
    .frnd hd0 .rn true (.v 1) (.v 2),
    .fclass hd0 true (.v 1) (.v 3),
    .dadd hd0 f32 (.v 2) (.v 4) (.v 5),
    .dfma hd0 { rnd := .rn, nega := false, negb := false, negc := false, absa := false, sat := true } (.v 2) (.v 4) (.v 6) (.v 8),
    .dsetp hd0 { cmp := .lt, nega := false, negb := false, absa := false, bop := .none } 1 (.v 1) (.v 2) 0,
    .frcp hv .rs false (.v 1) (.v 2),
    .fcvt hd0 .rs .f32f16 (.v 1) (.v 2),
    .fcvt hd0 .rn .f32f64 (.v 1) (.v 3),
    .fcvt hd0 .rn .f64f32 (.v 1) (.v 2),
    .cvtn hv .rs true .f32 true 1 (.v 1) (.v 2) 1,
    .cvtn hv .rn true .f32 false 4 (.v 1) (.v 2) 1,
    .cvtn hv .rn true .f16x2 true 3 (.v 1) (.v 2) 1,
    .scacc hd0 .rn true (.v 1) (.v 2) (.imm 3) (.v 4),
    .fmtset hd0 1 (.v 2)] : List Instr).all fun i => !i.wf) = true := by
  decide +kernel

theorem test_ill_formed_lanes : (([.lnxor hv { sw := .full, x64 := true } false (.v 1) (.v 2) (.v 3) (.v 4),
    .lnadd hv { sw := .full, x64 := false } false (.s 1) (.v 2) (.v 3) (.v 4),
    .lnsub hv { sw := .full, x64 := false } false (.v 1) (.sr 0x08) (.v 3) (.v 4),
    .redx hv { sw := .sg8, x64 := false } .add (.s 1) (.v 2),
    .scan hv { sw := .full, x64 := false } false .add (.v 1) (.v 2) (.v 3),
    .pcons hv .sg8 (.mask (.s 1)) 1,
    .pcons hv .sg8 (.mask (.v 1)) 1,
    .matchv hv { sw := .full, x64 := false } (.v 1) (.v 2),
    .bcast hv { sw := .full, x64 := false } true (.v 1) (.v 2) (.imm 1) (.v 3),
    .bcast hv { sw := .full, x64 := false } false (.v 1) (.v 2) (.v 4) (.v 3)] : List Instr).all fun i => !i.wf) = true := by
  decide +kernel

theorem test_ill_formed_memory : (([.ldg hv .b128 .l1 (.v 2) (.s 2) (.imm 0),
    .ldg hv .b64 .l1 (.v 1) (.s 2) (.imm 0),
    .ldg hv .b32 .l1 (.s 1) (.v 2) (.imm 0),
    .stg hd0 .b64 .l1 (.s 2) (.imm 0) (.imm 3),
    .stg hd0 .b32 .l1 (.v 1) (.imm 0) (.v 3),
    .ldsh hv .b32 (.s 8) (.s 2) (.imm 0),
    .stl hd0 .b128 (.v 1) (.imm 0) (.v 2),
    .atomg hv { op := .fadd, sgn := false, x64 := true, scope := .pod, ord := .rlx } (.v 2) (.s 2) (.v 4) (.v 0) 0,
    .atomsh hv { op := .add, sgn := false, x64 := false, scope := .pod, ord := .rlx } (.v 2) (.s 2) (.v 4) (.v 1) 0,
    .cctl hd0 .ivall (.s 2),
    .seal hv (.v 1) (.s 2) (.s 3),
    .unseal hv (.status (.v 1)) (.s 2),
    .sealq hv (.s 1) (.v 2),
    .ldsc hv .b32 .pod .rel false (.v 1) (.s 2) (.imm 0),
    .stsc hd0 .b32 .pod .acq false (.s 2) (.imm 0) (.v 1),
    .ldsc hv .b128 .pod .rlx false (.v 4) (.s 2) (.imm 0),
    .pgq hv (.v 1) (.s 2),
    .pgq hv (.v 1) (.v 3),
    .copy hd0 { dsp := .g, ssp := .g, fix := false, ch := 1 } false 1 (.s 1) (.s 2) (.v 0) 4,
    .copy hd0 { dsp := .g, ssp := .g, fix := false, ch := 0 } true 1 (.s 1) (.s 2) (.s 3) 4,
    .copy2d hd0 { dsp := .g, ssp := .g, fix := false, ch := 0 } 1 (.s 1) (.s 2) (.v 3) 4] : List Instr).all fun i => !i.wf) = true := by
  decide +kernel

theorem test_ill_formed_tiles : (([.tsfree hd0 (.v 1),
    .amset hd0 1 (.s 1) 2 true,
    .amget hv (.v 1) 1 2,
    .gang hd0 (.imm 3),
    .azero hd0 3 true,
    .ald hd0 none true 3 1 (.s 1) (.s 2),
    .ast hd0 none false 3 1 (.v 1) (.s 2),
    .ard hv { q := 0, qsel := false, f64 := false } (.v 2) 1,
    .ard hv { q := 0, qsel := false, f64 := false } (.o 4) 1,
    .awr hd0 { q := 0, qsel := false, f64 := true } 1 (.v 8),
    .tld hd0 none false 8 1 1 (.s 1) (.s 2),
    .mma hd0 { ty := .bf16, new := true, nb := false, blk := 0, fmta := 1, fmtb := 0, sgna := false, sgnb := false } 1 1 1,
    .mma hd0 { ty := .bf16, new := true, nb := false, blk := 0, fmta := 0, fmtb := 0, sgna := true, sgnb := false } 1 1 1,
    .mma hd0 { ty := .bf16, new := true, nb := false, blk := 1, fmta := 0, fmtb := 0, sgna := false, sgnb := false } 1 1 1,
    .mma hd0 { ty := .n8, new := true, nb := true, blk := 2, fmta := 0, fmtb := 0, sgna := false, sgnb := false } 1 1 1,
    .mma hd0 { ty := .f64, new := true, nb := false, blk := 0, fmta := 0, fmtb := 0, sgna := false, sgnb := false } 1 1 1,
    .arel hd0 false true 8,
    .arel hd0 true false 3,
    .kvtr hv true (.v 3) (.s 2) (.v 1),
    .kvtr hv true (.s 3) (.s 2) (.v 1),
    .atts hd0 { nh := 0, f16 := false, hd := none, nk := 0 } true 0 0 (.map 1) (.s 2) 1 1,
    .attv hd0 { nh := 0, f16 := false, hd := none, nk := 33 } 0 0 (.map 1) (.s 2),
    .attv hd0 { nh := 0, f16 := false, hd := none, nk := 3 } 0 0 (.desc (.v 1)) (.s 2),
    .attmrg hd0 0 1 2 (.v 1)] : List Instr).all fun i => !i.wf) = true := by
  decide +kernel

theorem test_ill_formed_fabric : (([.rld hv .b64 true 1 (.v 1) (.s 2) (.imm 0) 0,
    .rst hd0 .b32 1 (.v 1) (.imm 0) (.v 1) 0,
    .ratom hv .inc false true true 1 (.v 2) (.s 2) (.v 4) (.v 0) 0,
    .rcopy hd0 .g true 1 1 (.s 1) (.s 2) (.s 3) 4,
    .rcopy hd0 .g false 1 1 (.s 1) (.s 2) (.s 3) 4,
    .srel hd0 1 (.imm 1) (.s 2),
    .lnkq hv true (.s 1) (.imm 2)] : List Instr).all fun i => !i.wf) = true := by
  decide +kernel

theorem test_ill_formed_steps : (([.vote 258,
    .rgrowGrant 256,
    .tsallocGrant 256,
    .accumulatorTileGrant 256,
    .copyBeat 256 0,
    .copyBeat 0 8,
    .mwaitTimeout 3 64,
    .yieldWake 3 64,
    .hwFaultService 2 0,
    .hwFaultService 0 256,
    .queueBufferGrant 2,
    .recordTake 4096,
    .doorbellWrite 4096 0,
    .contextActivate 4096,
    .flitReceive 64 0 0 false { ty := 0, chunks := [], check := .good },
    .lossOfLight 64 1,
    .flitSend 64,
    .channelRetrained 1 16,
    .remoteReply 1 16 0 0 [],
    .remoteRequestPerform { peer := 64, stream := 0, seq := 0, version := 0, fctx := 0, addr := 0, kind := .read 8 }] : List Instr).all fun i => !i.wf) = true := by
  decide +kernel

/-! ### Single steps, with the results that the spec's examples give -/

/-- Lane `l` of a register of group 3 after an instruction of the scene `s`. -/
def after (s : State) (i : Instr) (r : Reg) (l : Nat) : Option Word :=
  match exec i s with
  | .next t => (Tab.get? t.groups 3).map fun g => (g.words r).getD l 0
  | _ => none

/-- A V register of the scene with given words in its first lanes. -/
def sceneV (n : Nat) (ws : List Nat) (f : Group → Group) : State := sceneOf allLanes fun g => f (g.setV n allLanes fun l => BitVec.ofNat 32 (ws.getD l 0))

/-- The example of R76: fetched and run, ?!P2 IADD V12, V3, #-5 adds -5 in the lanes whose P2 is false. -/
theorem test_step_iadd : (match step ((State.reset.withFetchWord 96 0x00000DFB0000300C01F42201).updGroup 3 fun g =>
      (g.setV 3 allLanes fun _ => 0).setP 2 allLanes fun l => l == 62) with
    | .next t => (Tab.get? t.groups 3).map fun g => ((g.words (.v 12)).getD 63 0, (g.lane 63).pc)
    | _ => none) = some (0xFFFFFFFB, 0x100C) := by decide +kernel

/-- The example of R209: 0xFFFF_FFFF + 1 is 0 and carries. -/
theorem test_addc_example :
    after (sceneV 0 [0xFFFFFFFF] fun g => g.setV 2 allLanes fun _ => 1) (.addc hd0 i32 { pci := 0, pco := 1, nci := true } (.v 4) (.v 0) (.v 2)) (.v 4) 0 = some 0
    ∧ (match exec (.addc hd0 i32 { pci := 0, pco := 1, nci := true } (.v 4) (.v 0) (.v 2)) (sceneV 0 [0xFFFFFFFF] fun g => g.setV 2 allLanes fun _ => 1) with
       | .next t => (Tab.get? t.groups 3).map fun g => g.pmask 1
       | _ => none) = some 1 := by decide +kernel

/-- The example of R220. -/
theorem test_rqnt_example : [0, 1, 2].map (after (sceneV 2 [1000, 80, 9000] fun g => (g.setS 0 4 0x40000000).setS 0 5 0xFFFFFFFD)
    (.rqnt hd0 .i8 .rn 0 35 false (.v 7) (.v 2) (.s 4) (.s 5)) (.v 7)) = [some 0x1C, some 0xFFFFFFFF, some 0x7F] := by decide +kernel

/-- The example of R221. -/
theorem test_idp4_example : after (sceneV 1 [0x01FF0302] fun g => (g.setV 2 allLanes fun _ => 0x7F020405).setV 3 allLanes fun _ => BitVec.ofInt 32 (-150))
    (.idp4 hd0 { wid := .w32, sgn := true, sat := false } false (.v 4) (.v 1) (.v 2) (.v 3)) (.v 4) 0 = some 0xFFFFFFFD := by decide +kernel

/-- The example of R245: lane 3 stands elsewhere; lanes 2 and 7 take the fill. -/
theorem test_lnadd_example : (List.range 8).map (after ((sceneOf 0xF7 fun g => (g.setV 4 allLanes fun l => BitVec.ofNat 32 (10 * l)).setV 6 allLanes fun _ => 9))
    (.lnadd hv { sw := .sg8, x64 := false } false (.v 6) (.v 4) (.imm 1) (.imm 0xFF)) (.v 6))
    = [some 10, some 20, some 0xFFFFFFFF, some 9, some 50, some 60, some 70, some 0xFFFFFFFF] := by decide +kernel

/-- The example of R235: 11.0 is code 0x53 of E4M3, and the other bytes keep. -/
theorem test_cvtn_example : after (sceneV 1 [0x41300000] fun g => (g.setV 20 allLanes fun _ => 0xAABBCCDD)) (.cvtn hv .rn false .f32 false 0 (.v 20) (.v 1) 0) (.v 20) 0
    = some 0xAABBCC53 := by decide +kernel

/-- R212: bit 7 of the table is the result where A, B and C are all set. -/
theorem test_bitfn_index : after (sceneV 1 [0xFFFF0000] fun g => (g.setV 2 allLanes fun _ => 0x0F0F0F0F).setV 3 allLanes fun _ => 0x33333333)
    (.bitfn hd0 i32 0x80 (.v 4) (.v 1) (.v 2) (.v 3)) (.v 4) 0 = some 0x03030000 := by decide +kernel

/-- R68: a false guard changes no register and passes the instruction. -/
theorem test_guard_false : after (sceneV 4 [7] fun g => g.setP 2 allLanes fun _ => false) (.movi { hd0 with gp := 2 } i32 (.v 4) 9) (.v 4) 0 = some 7 := by decide +kernel

/-! ### What the statements assume can be met

Each theorem gives states and operands that meet the hypotheses of the statement it names, clause by clause; `meets_issues` turns the
checks on an issue into the hypothesis `Issues`. -/

/-- Eight V registers, all written, and no argument: a group that may fold. -/
def foldScene : State := sceneOf allLanes fun g => { g with vallot := 16, v := (List.range 8).map fun n => (n, rowOf 7) }

/-- A context whose handler stands at address 0x2000. -/
def trapScene : State := sceneG fun g => { g with kernel := { g.kernel with handler := 0x2000 } }

def full8 (x : Lane) : Lane := { x with rstack := List.replicate 8 5 }

def barT (b : Nat) (x : Barrier) : State := sceneT fun t => t.setBar b x

/-- S2 holds an address, S4 a number of bytes or lines. -/
def addrScene (a n : DWord) : State := sceneOf allLanes fun g => (g.setS 0 2 a).setS 0 4 n

/-- A store of the group that is not yet performed, to the bytes that a load is to read. -/
def storePending (s : State) : State :=
  let p : Piece := { lane := 0, va := 0x100, loc := physLoc 0 (2 ^ 30 + 0x100), ov := none, bytes := leBytes 8 0x1122334455667788, b := 0, c := 0 }
  { s with
    stores := [(20, { group := 3, lanes := 1, core := 0, ctx := 0, version := 0, pol := .l1, scope := .group, pieces := [p], atomic := none })]
    uids := 21 }

def sealOf (sealing : Option Nat) (unsealing : Bool) : Seal := { ctx := 0, base := 0x400, lines := 2, sealing, unsealing, handles := [] }

def sealedScene : State := { addrScene 0x400 2 with seals := [sealOf none false] }

def fut (state kind : Nat) (token : Bool) : Future := { state, kind, ch := 0, wptr := 40, code := 0, addr := 0, token, cancel := false }

/-- H1 holds the handle of future 9. -/
def futScene (f : Future) : State := (sceneOf allLanes fun g => (g.setH 1 (f.word 9)).setS 0 2 (2 ^ 63 + 9)).updTeam 2 fun t => { t with futures := [(9, f)] }

/-- Bytes at an address of the scene's one GiB. -/
def State.put (s : State) (va : Nat) (bs : List Byte) : State := s.pokeN (physLoc 0 (2 ^ 30 + va)) bs

/-- A record of `n` bytes with the fields of a list: offset and value. -/
def fieldBytes (n : Nat) (fs : List (Nat × Nat)) : List Byte := leBytes n (sumN (fs.map fun f => 2 ^ (8 * f.1) * f.2))

/-- A valid map of two dimensions of 64 elements. -/
def mapBytes (base esz tile step : Nat) : List Byte :=
  fieldBytes 64 [(0, base), (8, esz + 8 * tile + 16), (16, 64), (28, 64), (32, step)]

/-- Maps 0 to 4: 32-bit, 64-bit and 16-bit elements in memory, and 32-bit ones in the tile store; the team holds four granules. -/
def mapScene : State := (addrScene 0 0).updTeam 2 fun t => { t with
  granules := 4, am := [(0, mapBytes 0x10000 3 0 256), (1, mapBytes 0x10000 4 0 512), (2, mapBytes 0x10000 2 0 128), (3, mapBytes 0 3 1 256)] }

def tilesB (e : Env) (act : Nat) (rd wr : List TReg) (ren need : List Nat) : Bool :=
  Tab.get? e.st.teams e.t.uid == some e.t && e.t.readers ren == [] && !e.t.tileBusy rd wr && !e.t.tileLive rd && !e.t.tileDead rd
  && ((need.all fun n => (e.t.acc n).inuse)
      || ((e.st.accHead e.t.core == none || e.st.accHead e.t.core == some (e.g.uid, (e.pc (lowLane act)).toNat))
          && decide ((need.filter fun n => !(e.t.acc n).inuse).length ≤ e.st.accFree e.t.core)))
  && ((e.tileState act need).env? e.g.uid).isSome

theorem tilesB_tiles {e : Env} {act : Nat} {rd wr : List TReg} {ren need : List Nat} (H : tilesB e act rd wr ren need = true) :
    ∃ f, e.Tiles act rd wr ren need f := by
  simp only [tilesB, Bool.and_eq_true, Bool.or_eq_true, beq_iff_eq, Bool.not_eq_true', decide_eq_true_eq, List.all_eq_true] at H
  obtain ⟨⟨⟨⟨⟨⟨h1, h2⟩, h3⟩, h4⟩, h5⟩, h6⟩, h7⟩ := H
  obtain ⟨f, hf⟩ := Option.isSome_iff_exists.mp h7
  exact ⟨f, ⟨h1, h2, h3, h4, h5⟩, h6.imp id fun x => ⟨x.1, x.2⟩, hf⟩

/-- What an instruction on tile state performs on. -/
def tileEnv (e : Env) (act : Nat) (need : List Nat) : Env := ((e.tileState act need).env? e.g.uid).getD e

def mayMoveB (e : Env) (act : Nat) (i : Instr) (hd : Option (BitVec 4)) (m : AMap) (d : Option AMap) (bv cv rows : Nat) (rd wr : List TReg)
    (need : List Nat) : Bool :=
  let f := tileEnv e act need
  (m.esz != 0 || bv % 2 == 0) && (match hd with | some n => !e.createWaits n.toNat | none => true) && tilesB e act rd wr [] need
  && !(f.st.core f.t.core).lockWaits f.gr.ctx f.t.uid (moveRanges i m d bv cv rows) && f.st.moveSealed f.gr.ctx i m bv cv == none
  && (f.st.drain f.g.uid).2

/-- A sequence descriptor at 0x8000 with the table at 0x9000: block 0 of its records stands at 0x10000, of no version. -/
def seqScene : State := ((sceneOf (2 ^ 63 + 1) fun g => (g.setS 0 2 0x8000).setS 0 4 0).put 0x8000 (fieldBytes 64 [(0, 0x9000), (16, 2), (24, 0x4000), (28, 64)])).put 0x9000
  (fieldBytes 32 [(0, 2 ^ 63 + 0x10000), (16, 2 ^ 63 + 0x20000)])

/-- Attention set 0, with its words written: a map of 16-bit elements is the source. -/
def setScene (mark : Word) : State := mapScene.updTeam 2 fun t => { t with
  a := [(0, { inuse := true, dirty := true, data := [(2, 0x3F800000), (16, mark), (18, 3)], writer := none }),
        (1, { inuse := true, dirty := true, data := [(0, 0x40000000)], writer := none })] }

/-- A queue that feeds from the device, a kernel header at 0x4000, a launch record at 0x4040 and its argument at 0x4080. -/
def queueOf (feed : Bool) (state : QState) : Queue :=
  { desc := { qnum := 7, ctx := 0, home := false, feed, base := 0x6000, size := 4, cbase := 0x7000, cls := 0, prio := 0, tlimit := 0, qmin := 0, qcap := 64 }
    state, left := .idle, draining := false, wptr := 0, rptr := 0, cptr := 0, records := [], codes := [], faultAddr := 0, faultPos := none,
    owing := [], served := 0 }

def headerBytes : List Byte :=
  fieldBytes 64 [(0, 0x1000), (0x10, 8), (0x12, 16), (0x14, 2), (0x16, 2), (0x17, 2), (0x1C, 64), (0x20, 64), (0x22, 1), (0x24, 1), (0x26, 1), (0x27, 1), (0x28, 32)]

def recordBytes (flags : Nat) : List Byte :=
  fieldBytes 64 [(0, 1), (1, flags), (2, 1), (8, 0x4000), (0x10, 2), (0x14, 1), (0x18, 1), (0x20, 0x4080)]

def launchScene (k : Queue) (flags : Nat) (f : Grid → Grid) : State :=
  let s := ((sceneOf 5 fun g => ((g.setS 0 2 0x4040).setS 0 4 7).setS 0 6 0x5000).put 0x4000 (headerBytes ++ recordBytes flags ++ leBytes 8 99)).updGrid 1 fun g => f { g with queue := 7 }
  { s with queues := [(7, k)] }

/-- Two groups of a gang, the second of which has arrived with `i` where `there` says so. -/
def gangScene (there : Bool) (i : Instr) : State :=
  let s := (sceneOf allLanes fun g => { g with gang := 3 }).updGrid 1 fun g => { g with kernel := { g.kernel with tx := 128 } }
  let s := { s with groups := s.groups ++ (s.groups.map fun (g : Nat × Group) => (30, { g.2 with uid := 30, gid := 1 })) }
  s.updTeam 2 fun t => { t with latches := if there then [{ group := 30, lanes := 5, mask := 3, instr := i, pc := 0x1000 }] else [] }

def mmaI (tb : BitVec 3) : Instr :=
  .mma hd0 { ty := .bf16, new := true, nb := false, blk := 0, fmta := 1, fmtb := 1, sgna := false, sgnb := false } 0 1 tb

def gangStep (i : Instr) (s : State) : Out :=
  match s.env? 3 with
  | some e => gangOp i (fun s _ xs => .done (s.updTeam 2 fun t => { t with granules := xs.length })) s e 7
  | none => { s }

def gangTeam (i : Instr) (s : State) : Team :=
  { ((Tab.get? s.teams 2).getD (Team.blank 0 0 0 0 0 0 scaffoldKernel)) with
    latches := ((Tab.get? s.teams 2).map fun t => t.latches).getD [] ++ [{ group := 3, lanes := 7, mask := 3, instr := i, pc := 0x1000 }] }

/-- A version 0x11 of context 0 under version 0, of decision slot 2. -/
def verOf (pred state : Nat) : Ver :=
  { ctx := 0, state, parent := 0, slot := 2, opened := true, pred, target := 0 }

def verScene (f : Grid → Grid) : State := { (sceneOf 5 fun g => (g.setS 0 2 0x11).setS 0 4 0x1_0000_0003).updGrid 1 f with versions := [(0x11, verOf 0x11 0), (0x12, verOf 7 0)] }

def linkUp : Link := { Link.dark with state := .up, mask := 0xFFFF }

/-- The other direction, with what has come in it. -/
def inUp (inbox : List Cargo) : InLink := { InLink.dark with state := .up, mask := 0xFFFF, inbox }

/-- The link to device 1 is up; S2 holds a fabric address of it. -/
def fabScene : State :=
  { sceneOf 5 (fun g => ((g.setS 0 2 (2 ^ 58 + 0x8000)).setS 0 4 0x4000).setS 0 6 64) with links := [(1, linkUp)], inLinks := [(1, inUp [])] }

/-- A state whose next issue is the group of the scaffold, with words at its PC, and one in which nobody issues. -/
def fetchScene (w : Nat) : State := State.reset.withFetchWord 96 w

def quiet : State := { scene with cur := none }

def quietS (f : State → State) : State := f quiet

/-- The window is open. -/
def winScene : State := { quiet with manage := { quiet.manage with ready := true }, port := { quiet.port with up := true } }

/-- Context 0 of the open window is in a state. -/
def ctxIn (st : CState) (f : Context → Context) : State := winScene.updCtx 0 fun c => f { c with state := st }

def pieceOf (ov : Option (Nat × Nat × Nat)) (off : Nat) (bs : List Byte) : Piece :=
  { lane := 5, va := off, loc := physLoc 0 (2 ^ 30 + off), ov, bytes := bs, b := 3, c := 4 }

def storeOf (atomic : Option (AMod × Reg × Nat)) (ps : List Piece) : PStore :=
  { group := 3, lanes := 32, core := 0, ctx := 0, version := 0, pol := .l1, scope := .group, pieces := ps, atomic }

def flightOf (due : Option Nat) : Flight := { group := 3, lanes := 33, regs := [(.v 2, List.replicate 64 9)], due, sb := some 1, flags := 5, landed := false }

/-- A copy of 256 bytes of the team, at the head of channel 1. -/
def copyOpOf (fid rowlen : Nat) : CopyOp :=
  { CopyOp.make { dsp := .g, ssp := .g, fix := true, ch := 1 } 0x4000 0x8000 rowlen 1 0 0 with team := 2, group := 3, fid, op := 11 }

def copyScene (f : Future) (rowlen : Nat) : State :=
  ((quiet.put 0x8000 (leBytes 8 0x1122334455667788)).updTeam 2 fun t => { t with futures := [(9, f)] }).updCore 0 fun c =>
    { c with channels := [(1, [copyOpOf 9 rowlen])] }

/-- A move or an attention step of the team under way, at row `row`. -/
def tileOpOf (instr : Instr) (amap : List Byte) (row : Nat) : TileOp :=
  { instr, who := [(3, 7)], fid := none, amap, amap2 := [], b := 0, c := 0, src := [], gone := [], limit := 65536, row, paused := false, faulted := false }

def tileOpScene (o : TileOp) : State := { (setScene 0).updTeam 2 fun t => { t with ops := [(12, o)] } with cur := none }

/-- A fault of the entry at `key` in slot 1 of die 0. -/
def faultOf (key level entry : Nat) : PFault :=
  { ctx := 0, key, level, va := 0x40000000, entry, host := false, flags := 0, core := 0, recorded := false, lanes := [(3, 1)], ops := [], reqs := [] }

def faultScene (level entry : Nat) : State := { quiet.setEntry 0x20010 entry with pfaults := [(1, faultOf 0x20010 level entry)] }

def descOf (ctx : BitVec 12) : CtxDesc := { ctx, ptroot := 0x12000, savebase := 0x8000, savelen := 0x100000, evq := 0x9000, evqsz := 4 }

def qdescOf (qnum : BitVec 12) : QueueDesc :=
  { qnum, ctx := 0, home := false, feed := false, base := 0x6000, size := 4, cbase := 0x7000, cls := 2, prio := 0, tlimit := 5, qmin := 8191, qcap := 8191 }

/-- Queue 7 of the open window, in a state. -/
def queueIn (state : QState) (f : Queue → Queue) : State := { winScene with queues := [(7, f { queueOf false state with desc := { (queueOf false state).desc with tlimit := 5 } })] }

def recordOf : Record :=
  { kind := 2, flags := 0, argn := 0, header := 0, gx := 0, gy := 0, gz := 0, argva := 0, dep0 := 0, dep1 := 0, vdep := 0, vreq := 0, kernel := none,
    args := [], pos := 0, version := 0, started := false, ready := false, go := false, posted := false, grid := none, code := 0, startUs := 0, ranUs := 5, timed := false }

def squashScene (rule : Nat) : State :=
  { (verScene id).updGrid 1 fun g => { g with version := 0x11 } with
    cur := none, squashes := [{ ctx := 0, vers := [0x11], grids := [1], rule }]
    vlines := [{ ver := 0x11, line := 5, bytes := [(0, 1)], spilled := false, used := 0 }] }

def foreignOf : Foreign := { peer := 1, ctx := 0, ancestors := [0x14] }

def foreignScene (inbox : List Cargo) : State := { winScene with foreign := [(0x13, foreignOf)], links := [(1, linkUp)], inLinks := [(1, inUp inbox)], fabricCtx := [(9, 0)] }

def linkIn (k : Link) : State := { winScene with links := [(1, k)] }

/-- A request of peer 1 that is the next of its stream. -/
def reqOf (kind : ReqKind) (fctx : Nat) : Req := { peer := 1, stream := 2, seq := 0, version := 0, fctx, addr := 0x4000, kind }

def owedOf (kind : Nat) (sz : Sz) : Owed :=
  { seq := 5, addr := 0x4000, version := 0, ctx := 0, group := 3, lanes := [5, 63], kind, sz, reg := .v 2, size := 8, offs := [8, 0], flight := 9, ns := false,
    copy := none, what := .read 0 }

def owedScene (o : Owed) (reply : Cargo) : State :=
  { winScene with links := [(1, linkUp)], inLinks := [(1, inUp [reply])], flights := [(9, flightOf none)]
                  streams := [{ peer := 1, stream := 2, next := 6, owed := [o], expect := 0, old := 0 }] }

/-- The host port is up as a memory device, with a bridge line for device address 0x1000, and a seal where `sealed` says so. -/
def hostScene (b : Bridge) (sealed : Bool) : State :=
  let s : State := { winScene with stores := [], seals := if sealed then [{ sealOf none false with base := 0x1000 }] else [] }
  { s.put 0x1000 (leBytes 8 0x1122334455667788) with port := { s.port with lines := [(physLoc 0 (2 ^ 30 + 0x1000) / 128, b)], l2host := [5] } }

def bridgeOf (lower : Bool) (recalled : Nat) : Bridge := { lower, upper := false, recalled, stale := 0, yields0 := 0, yields1 := 0 }

def withManage (f : Manage → Manage) : State := { winScene with manage := f winScene.manage }

theorem witness_StepRuns :
    (let s : State := fetchScene 0x00000DFB0000300C01F42201
     match s.issuing with
      | x :: rest =>
        match x.who, ({ s with issuing := rest } : State).env? 3 with
        | .group uid _, some e =>
          match ({ s with issuing := rest } : State).checkPage e.t.core e.gr.ctx e.gr.version (x.pc.toNat / 32 * 32) .fetch 2 with
          | (.pass p, t) => uid == 3 && !t.torn p.loc && (t.viewHeld e.gr.version p 32 false).isNone && (match decodeBytes (x.pc.toNat % 32) (t.viewBytes e.gr.version (p.add (x.pc.toNat % 32)) (min 16 (32 - x.pc.toNat % 32))).1 with | .ok _ => true | _ => false)
          | _ => false
        | _, _ => false
      | [] => false) = true
    ∧ (let s : State := fetchScene 0
     match s.issuing with
      | x :: rest =>
        match x.who, ({ s with issuing := rest } : State).env? 3 with
        | .group uid _, some e =>
          match ({ s with issuing := rest } : State).checkPage e.t.core e.gr.ctx e.gr.version (x.pc.toNat / 32 * 32) .fetch 2 with
          | (.pass p, t) => uid == 3 && !t.torn p.loc && (t.viewHeld e.gr.version p 32 false).isNone && (match fetchedOf x.pc.toNat (t.viewBytes e.gr.version (p.add (x.pc.toNat % 32)) (min 16 (32 - x.pc.toNat % 32))).1 with | .bad _ a none => a == x.pc.toNat | _ => false)
          | _ => false
        | _, _ => false
      | [] => false) = true
    ∧ (let s : State := State.reset
     s.issuing == [] && s.agenda.length == 1) = true
    ∧ (let s : State := { quiet with turn := 258 + 0 }
     s.issuing == [] && s.agenda == [] && (s.duties[s.turn % s.duties.length]?).isSome) = true
    ∧ (let s : State := { quiet with turn := 258 + 257 }
     s.issuing == [] && s.agenda == [] && (s.duties[s.turn % s.duties.length]?).isSome) = true := by decide +kernel

theorem witness_PadWords :
    ((match decodeBytes (28 % 32) (leBytes 4 3) with | .error .padWord => true | _ => false) && decide (3 % 4 = 3 ∧ 28 + 4 ≤ 32)) = true
    ∧ ((match decodeBytes (28 % 32) (leBytes 4 7) with | .error .badPad => true | _ => false) && decide (7 % 4 = 3 ∧ 28 + 4 ≤ 32)) = true
    ∧ ((match decodeBytes (28 % 32) (leBytes 4 0xFFFFFFFF) with | .error .badPad => true | _ => false) && decide (0xFFFFFFFF % 4 = 3 ∧ 28 + 4 ≤ 32)) = true
    ∧ (let s : State := fetchScene 3
     (match (s.fetch 0 0 0 (0x1000 : BitVec 49).toNat).1 with | .pad => true | _ => false)) = true
    ∧ (let s : State := fetchScene 3
     match s.issuing, s.env? 3 with
    | x :: _, some e => x.who == .group 3 allLanes && (match s.fetch e.t.core e.gr.ctx e.gr.version x.pc.toNat with | (.pad, _) => true | _ => false)
    | _, _ => false) = true := by decide +kernel

theorem witness_DecodeExact :
    (match decodeBytes 0 (leBytes 16 0x00000DFB0000300C01F42201) with | .ok _ => true | _ => false) = true
    ∧ (match decodeBytes 20 (leBytes 16 0x00000DFB0000300C01F42201) with | .ok _ => true | _ => false) = true := by decide +kernel

theorem witness_EncodeDecode :
    ((.iadd hd0 i32 (.v 12) (.v 3) (.imm 0xFFFFFFFB) : Instr).wf && (Instr.fields (.iadd hd0 i32 (.v 12) (.v 3) (.imm 0xFFFFFFFB))).isSome && decide (20 + 4 * Instr.words (.iadd hd0 i32 (.v 12) (.v 3) (.imm 0xFFFFFFFB)) ≤ 32)) = true
    ∧ ((.nop { hd0 with gp := 0, gn := true, wait := 63, stall := 15 } : Instr).wf && (Instr.fields (.nop { hd0 with gp := 0, gn := true, wait := 63, stall := 15 })).isSome && decide (24 + 4 * Instr.words (.nop { hd0 with gp := 0, gn := true, wait := 63, stall := 15 }) ≤ 32)) = true
    ∧ ((.rgnld hv 600 0x81 0xF0000001 : Instr).wf && (Instr.fields (.rgnld hv 600 0x81 0xF0000001)).isSome && decide (0 + 4 * Instr.words (.rgnld hv 600 0x81 0xF0000001) ≤ 32)) = true := by decide +kernel

theorem witness_StepKeepsMemory :
    (let s : State := State.reset
     s.memWf && (match step s with | .next _ => true | _ => false)) = true
    ∧ (let s : State := fetchScene 0x00000DFB0000300C01F42201
     s.memWf && (match step s with | .next _ => true | _ => false)) = true := by decide +kernel

theorem witness_IssueEdges :
    (let s : State := sceneOf 5 fun g => { g with vallot := 16 }
     match s.cur, Instr.hdr? (.iadd hd0 i32 (.v 16) (.v 1) (.imm 3)) with
      | some { who := .group uid _, .. }, some h =>
        match ({ s with cur := none } : State).env? uid with
        | some e0 => uid == e0.g.uid && !h.never && e0.g.outOfBounds ((Instr.uses (.iadd hd0 i32 (.v 16) (.v 1) (.imm 3))).rd ++ (Instr.uses (.iadd hd0 i32 (.v 16) (.v 1) (.imm 3))).wr)
        | none => false
      | _, _ => false) = true
    ∧ (let s : State := sceneOf (2 ^ 63) fun g => g.setP 2 (2 ^ 63) fun _ => false
     match s.cur, Instr.hdr? (.iadd { hd0 with gp := 2 } i32 (.v 12) (.v 3) (.imm 1)) with
      | some { who := .group uid lanes, chk := false, .. }, some h =>
        match ({ s with cur := none } : State).env? uid with
        | some e0 => uid == e0.g.uid && !h.never && !e0.g.outOfBounds ((Instr.uses (.iadd { hd0 with gp := 2 } i32 (.v 12) (.v 3) (.imm 1))).rd ++ (Instr.uses (.iadd { hd0 with gp := 2 } i32 (.v 12) (.v 3) (.imm 1))).wr) && e0.act h lanes == 0 && ((s.atIssue e0 h lanes).env? uid).isSome
        | none => false
      | _, _ => false) = true
    ∧ (let s : State := sceneOf (2 ^ 63) fun g => g.setP 2 (2 ^ 63) fun _ => true
     match s.cur, Instr.hdr? (.bra { hd0 with gp := 2, gn := true } 8) with
      | some { who := .group uid lanes, chk := false, .. }, some h =>
        match ({ s with cur := none } : State).env? uid with
        | some e0 => uid == e0.g.uid && !h.never && !e0.g.outOfBounds ((Instr.uses (.bra { hd0 with gp := 2, gn := true } 8)).rd ++ (Instr.uses (.bra { hd0 with gp := 2, gn := true } 8)).wr) && e0.act h lanes == 0 && ((s.atIssue e0 h lanes).env? uid).isSome
        | none => false
      | _, _ => false) = true
    -- lanes 0 and 2 issue with CHK = 1; lane 2 reads a result under way, and lane 0 takes part
    ∧ (let s : State := { sceneOf 5 id with flights := [(9, { flightOf none with lanes := 4 })] }
     let s : State := { s with cur := some { who := .group 3 5, pc := 0x1000, next := 0x1008, word := 0, chk := true } }
     match ({ s with cur := none } : State).env? 3 with
      | some e0 => !e0.g.outOfBounds [.v 2, .v 8] && s.contexts.all (fun c => c.2.absent == []) && maskDiff (e0.act hd0 5) 4 == 1
        && (match (s.atIssue e0 hd0 5).env? 3 with
          | some e => e.st.flights == [(9, { flightOf none with lanes := 4 })] && e.guard hd0 2
          | none => false)
        && (Instr.laneOp? (.iadd hd0 i32 (.v 8) (.v 2) (.imm 3))).isSome
      | none => false) = true := by decide +kernel

/-- What makes a lane late, as a check. -/
def lateB (s : State) (uid now : Nat) (h : Hdr) (rs : List Reg) (l : Nat) : Bool :=
  s.flights.any fun f => f.2.group == uid && inMask f.2.lanes l && (f.2.regs.any fun x => rs.contains x.1)
    && (match f.2.due with
        | some d => decide (now < d)
        | none => match f.2.sb with | some b => !bitOf h.wait.toNat b | none => false)

theorem late_iff (s : State) (uid now : Nat) (h : Hdr) (rs : List Reg) (l : Nat) : s.late uid now h rs l ↔ lateB s uid now h rs l = true := by
  simp only [State.late, lateB, List.any_eq_true, Bool.and_eq_true, beq_iff_eq, List.contains_iff_mem, and_assoc]
  refine exists_congr fun f => and_congr_right fun _ => and_congr_right fun _ => and_congr_right fun _ => and_congr_right fun _ => ?_
  cases f.2.due <;> cases f.2.sb <;> simp

/-- The lanes of the issue of `s` that are late, which GCTL.CHK = 1 raises STALL_SHORT for: they are `m`. -/
def shortB (s : State) (i : Instr) (m : Nat) : Bool :=
  match s.cur, i.hdr?, ({ s with cur := none } : State).env? 3 with
  | some { who := .group 3 lanes, chk := true, .. }, some h, some e0 =>
    e0.g.uid == 3 && !h.never && !e0.g.outOfBounds (i.uses.rd ++ i.uses.wr) && s.contexts.all (fun c => c.2.absent == []) &&
    match (s.atIssue e0 h lanes).env? 3 with
    | some e => (List.range 64).all fun l => inMask m l == (inMask lanes l && ((h.gp != 7 && lateB e.st 3 e0.c.now h [.p h.gp.toNat] l)
        || (e0.guard h l && lateB e.st 3 e0.c.now h (i.uses.rd ++ i.uses.wr) l)))
    | none => false
  | _, _, _ => false

/-- An issue of lanes 0 to 6 under GCTL.CHK = 1, with results of lanes 0 and 5 under way: of P2 with a latency, of V2 by a scoreboard. -/
def chkScene (r : Reg) (due : Option Nat) : State :=
  let s := sceneOf 127 fun g => g.setP 2 allLanes fun l => l != 5
  { s with cur := s.cur.map fun x => { x with chk := true }, flights := [(9, { flightOf due with regs := [(r, [])] })] }

theorem witness_IssueEdgesChecked :
    shortB (chkScene (.v 2) none) (.iadd hd0 i32 (.v 12) (.v 2) (.imm 1)) 33 = true
    ∧ shortB (chkScene (.v 2) none) (.iadd { hd0 with gp := 2 } i32 (.v 12) (.v 2) (.imm 1)) 1 = true
    ∧ shortB (chkScene (.p 2) (some 9)) (.iadd { hd0 with gp := 2 } i32 (.v 12) (.v 3) (.imm 1)) 33 = true
    ∧ shortB (chkScene (.v 2) none) (.iadd { hd0 with wait := 2 } i32 (.v 12) (.v 2) (.imm 1)) 0 = true := by
  refine ⟨?_, ?_, ?_, ?_⟩ <;> decide +kernel

theorem witness_PredicateRegisters :
    (decide (63 < 64 ∧ 6 < 7)) = true := by decide +kernel

theorem witness_LaneFrame :
    meets (sceneOf 0x8000000000000007 fun g => (g.setV 1 allLanes fun l => BitVec.ofNat 32 (l * 0x1234567)).setP 2 5 fun _ => true) (.iadd { hd0 with gp := 2 } i32 (.v 12) (.v 1) (.imm 3)) (fun _ act => (Instr.laneOp? (.iadd { hd0 with gp := 2 } i32 (.v 12) (.v 1) (.imm 3))).isSome && decide (inMask act 6 = false ∧ 6 < 64)) = true
    ∧ meets (sceneOf 0x8000000000000007 fun g => (g.setV 1 allLanes fun l => BitVec.ofNat 32 (l * 0x1234567)).setP 2 5 fun _ => true) (.redx { hv with gp := 2, gn := true } { sw := .sg8, x64 := false } .add (.v 2) (.s 0)) (fun _ act => (Instr.laneOp? (.redx { hv with gp := 2, gn := true } { sw := .sg8, x64 := false } .add (.v 2) (.s 0))).isSome && decide (inMask act 6 = false ∧ 6 < 64)) = true := by decide +kernel

theorem witness_ControlFrame :
    (let s : State := sceneOf 6 fun g => { (g.setJ 3 9).setS 0 4 64 with depth := 1 }
     meets s (.bra hd0 5) (fun e _ => (instrControlWrites e.g (.bra hd0 5)).isSome)) = true
    ∧ (let s : State := sceneOf 6 fun g => { (g.setJ 3 9).setS 0 4 64 with depth := 1 }
     meets s (.jpop hd0 3) (fun e _ => (instrControlWrites e.g (.jpop hd0 3)).isSome)) = true
    ∧ (let s : State := sceneOf 6 fun g => { (g.setJ 3 9).setS 0 4 64 with depth := 1 }
     meets s (.jpush hd0 3) (fun e _ => (instrControlWrites e.g (.jpush hd0 3)).isSome && e.g.depth != e.g.divdepth)) = true
    ∧ (let s : State := sceneOf 6 fun g => { (g.setJ 3 9).setS 0 4 64 with depth := 1 }
     meets s (.brk hd0 5 3 1) (fun e _ => (instrControlWrites e.g (.brk hd0 5 3 1)).isSome)) = true
    ∧ meets (sceneOf 6 id) (.gsync hd0) (fun e _ => (instrControlWrites e.g (.gsync hd0)).isSome && decide (e.st.drainTeam e.g.uid = (e.st, true))) = true := by decide +kernel

theorem witness_StoreFrame :
    (let s : State := { quiet with stores := [(20, storeOf none [pieceOf none 0x100 (leBytes 8 0x1122334455667788), pieceOf none 0x104 [1, 2]])] }
     (match Tab.get? s.stores 20 with | some p => s.mayPerform 20 && (p.pieces.all fun x => !s.heldHalf x.loc x.bytes.length) && p.atomic.isNone && p.load.isNone && p.inTeam.isNone | none => false) && s.memWf && s.eff 0 == 0
       && (Tab.get? s.spans 3).isNone && s.groups.all fun x => x.2.lanes.all fun y => y.watch == none) = true
    ∧ (([false, true] : List Bool).all fun ts =>
       let s : State := { (quiet.updTeam 2 fun t => { t with sharedMem := [(5, 7)], store := [(6, 8)], granules := 1 }) with
          stores := [(20, { storeOf none [{ pieceOf none 0 [1, 2] with loc := 5 }] with inTeam := some (2, ts) })] }
       match Tab.get? s.stores 20, Tab.get? s.teams 2 with
       | some p, some k => s.mayPerform 20 && p.atomic.isNone && p.load.isNone && Mem.wf k.store && Mem.wf k.sharedMem && (Tab.get? s.spans 3).isNone
       | _, _ => false) = true := by
  refine ⟨?_, ?_⟩ <;> decide +kernel

theorem witness_IntegerResults :
    meets (sceneS 0 0x3F8000007FFFFFFF) (.iadd hd0 i32 (.v 1) (.v 1) (.imm 3)) (fun _ _ => (Instr.intOp? (.iadd hd0 i32 (.v 1) (.v 1) (.imm 3))).isSome) = true := by decide +kernel

theorem witness_CarryAndPredicateResults :
    meets (sceneS 0 0x3F8000007FFFFFFF) (.addc hd0 i32 { pci := 7, pco := 1, nci := false } (.v 1) (.s 0) (.imm 3)) (fun _ _ => (Instr.carryOp? (.addc hd0 i32 { pci := 7, pco := 1, nci := false } (.v 1) (.s 0) (.imm 3))).isSome) = true
    ∧ meets (sceneS 0 0x3F8000007FFFFFFF) (.plop hd0 7 1 2 5) (fun _ _ => (Instr.predOp? (.plop hd0 7 1 2 5)).isSome) = true := by decide +kernel

theorem witness_FloatResults :
    meets (sceneS 0 0x3F8000007FFFFFFF) (.fadd hd0 f32 (.v 1) (.s 0) (.imm 3)) (fun _ _ => (Instr.floatOp? (.fadd hd0 f32 (.v 1) (.s 0) (.imm 3))).isSome) = true := by decide +kernel

theorem witness_CrossLaneResults :
    meets (sceneS 0 0x3F8000007FFFFFFF) (.redx hv { sw := .sg8, x64 := false } .add (.v 2) (.s 0)) (fun _ _ => (Instr.crossOp? (.redx hv { sw := .sg8, x64 := false } .add (.v 2) (.s 0))).isSome) = true := by decide +kernel

/-- A span of items `first` to `last` of team 2, whose P1 is true below item 20; V1 is uniform and V2 affine. -/
def spanOf (first last : Nat) : Span :=
  { uid := 40, grid := 1, team := some 2, first, last, pc := 0x1000, v := [(1, { base := 5, stride := 0 }), (2, { base := 3, stride := 4 })], o := [], z := [],
    p := [(1, .lt 20), (4, .u true)], s := [], j := [], vlim := 8, slim := 16, gctl := 0, fpctl := 0, fpstat := 0, fmt := [], rowprog := 0, block := .free,
    readyAt := 0, stamps := [] }

def spanScene (f : Span → Span) : State :=
  { quiet with groups := [], spans := [(40, f (spanOf 0 63))], uids := 41, cur := some { who := .span 40, pc := 0x1000, next := 0x1008, word := 0 } }

/-- So many spans on the core that no other has room. -/
def fullScene : State :=
  let s := spanScene id
  { s with spans := s.spans ++ (List.range 63).map fun n => (100 + n, { spanOf 0 0 with uid := 100 + n }) }

/-- An instruction issues to span 40, which is marked as issued, and the two meet `ok`. -/
def meetsSpan (s : State) (i : Instr) (ok : State → Span → Hdr → Bool) : Bool :=
  match s.cur, i.hdr?, Tab.get? s.spans 40 with
  | some { who := .span 40, .. }, some h, some sp =>
    let p := { sp with readyAt := (s.core (s.spanCore sp)).now + 1, block := .free }
    (Tab.get? s.grids p.grid).isSome && p.uid == 40 && !h.never
    && ((i.uses.rd ++ i.uses.wr).all fun r => match r with | .v n => decide (n < p.vlim ∧ n < 640) | .s n => decide (n < p.slim) | _ => true)
    && ok (({ s with cur := none } : State).setSpan p) p h
  | _, _, _ => false

/-- The guard cuts the span, and the part that executes reads forms U alone. -/
def cutsB (i : Instr) (t : State) (p : Span) (h : Hdr) : Bool :=
  match t.cutGuard p (p.guard h) 0x1008 with
  | some (_, part) => p.guard h != .u false && part.allU i.uses
  | none => false

def affB (a b : Opnd) (t : State) (p : Span) (h : Hdr) : Bool :=
  match Tab.get? t.grids p.grid with
  | some gr => p.guard h == .u true && (t.opForm gr p a).isSome && (t.opForm gr p b).isSome
  | none => false

theorem witness_SpansAndForms :
    meets (scene) (.nop hd0) (fun _ _ => true) = true
    ∧ meets (scene) (.spmat hd0) (fun _ _ => true) = true
    ∧ meets (sceneOf 5 id) (.spform hd0 (.s 2) (.reg (.s 1))) (fun _ _ => true) = true
    ∧ meets (sceneOf 5 id) (.spform hd0 (.o 2) (.pred 1)) (fun _ _ => true) = true
    ∧ (let i : Instr := .iadd { hd0 with gp := 2 } i32 (.v 3) (.v 1) (.imm 3)
       meetsSpan (spanScene id) i fun _ p h => p.guard h == .u false && i.intOp?.isSome && p.team != none) = true
    ∧ (let i : Instr := .iadd hd0 i32 (.v 3) (.v 1) (.imm 3)
       meetsSpan (spanScene id) i fun _ p h => p.guard h == .u true && i.intOp?.isSome && p.allU i.uses) = true
    ∧ (let i : Instr := .fadd { hd0 with gp := 1 } f32 (.v 3) (.v 1) (.v 1)
       meetsSpan (spanScene id) i fun t p h => i.floatOp?.isSome && cutsB i t p h) = true
    ∧ (let i : Instr := .fadd { hd0 with gp := 1, gn := true } f32 (.v 3) (.v 1) (.v 1)
       meetsSpan (spanScene id) i fun t p h => i.floatOp?.isSome && cutsB i t p h) = true
    ∧ (let i : Instr := .iadd { hd0 with gp := 1 } i32 (.v 3) (.v 1) (.imm 3)
       meetsSpan fullScene i fun t p h => i.intOp?.isSome && (t.cutGuard p (p.guard h) 0x1008).isNone) = true
    ∧ (let i : Instr := .fadd hd0 f32 (.v 3) (.v 2) (.imm 3)
       meetsSpan (spanScene id) i fun _ p h => i.floatOp?.isSome && p.guard h == .u true && !p.allU i.uses) = true
    ∧ (([.brx hd0 (.s 2), .call hd0 8, .callx hd0 (.s 2), .ret hd0, .jpush hd0 1, .jpop hd0 1, .brk hd0 8 1 2, .gsync hd0, .monw hd0 (.s 2),
         .mwait hv (.v 1) (.s 2), .rshrink hd0 (.s 2) 1, .rgrow hd0 (.s 2) 1, .trap hd0 1, .bpt hd0 1, .nop hd0, .yield hd0 (.imm 1), .bra hd0 8,
         .spmat hd0, .join hd0 15, .jset hd0 15 false] : List Instr).all fun i =>
       meetsSpan (spanScene id) i fun _ p h => p.team != none && p.guard h == .u true && ((p.guard h).range p.first p.last).isSome) = true
    ∧ meetsSpan (spanScene fun p => { p with team := none, last := 8191 }) (.spmat { hd0 with gp := 1 }) (fun _ p h => p.team == none && p.guard h != .u false) = true
    ∧ (([.iadd hd0 i32 (.v 3) (.v 2) (.v 1), .isub hd0 i32 (.o 3) (.v 1) (.v 2), .imul hd0 i32 (.v 3) (.v 2) (.v 1), .shl hd0 i32 true (.v 3) (.v 2) (.v 1),
         .shl hd0 i32 false (.v 3) (.v 2) (.v 1), .lea hd0 i32 31 (.v 3) (.v 2) (.v 1), .mov hd0 i32 (.v 3) (.v 2), .sel hd0 i32 (.v 3) (.v 2) (.v 1) 4] : List Instr).all fun i =>
       meetsSpan (spanScene id) i fun t p h => i32.plain && !p.allU i.uses && affB (.v 2) (.v 1) t p h && (p.formOf (.v 1)).isU
         && (match p.pform 4 with | .u _ => true | _ => false)) = true
    ∧ (let i : Instr := .imul hd0 i32 (.v 3) (.v 1) (.v 2)
       meetsSpan (spanScene id) i fun t p h => !p.allU i.uses && affB (.v 1) (.v 2) t p h && !(p.formOf (.v 2)).isU && (p.formOf (.v 1)).isU) = true
    ∧ (let i : Instr := .pmov hd0 3 1 true
       meetsSpan (spanScene id) i fun t p h => !p.allU i.uses && affB (.v 1) (.v 2) t p h) = true
    ∧ (let i : Instr := .isetp hd0 i32 .lt .none 3 (.v 2) (.v 1) 0
       meetsSpan (spanScene id) i fun t p h => !p.allU i.uses && affB (.v 2) (.v 1) t p h && (thresholdOf false .lt { base := 3, stride := 4 } 5 p.first p.last).isSome) = true
    ∧ (let i : Instr := .isetp hd0 i32 .eq .none 3 (.v 2) (.v 1) 0
       meetsSpan (spanScene id) i fun t p h => !p.allU i.uses && affB (.v 2) (.v 1) t p h && (thresholdOf false .eq { base := 3, stride := 4 } 5 p.first p.last).isNone) = true
    ∧ (40 < (spanScene id).uids ∧ (spanScene id).spanRoom (spanOf 0 63) = true)
    ∧ ((thresholdOf true .le { base := 0xFFFFFF00, stride := 8 } 0 0 63).isSome && (thresholdOf false .gt { base := 500, stride := 0xFFFFFFFC } 300 10 63).isSome) = true
    ∧ (inMask (2 ^ 63) 63 = true ∧ ((quiet.groups : List (Nat × Group)).all fun g => g.2.lanes.length == 64) = true)
    ∧ ((unifyForm { base := 7, stride := 4 } { base := 0, stride := 0 } 5 5 6).isSome && (unifyForm { base := 7, stride := 4 } { base := 7, stride := 4 } 0 4 9).isSome
        && (unifyP (.u true) (.u false) 0 4 9).isSome && (unifyP (.lt 3) (.u false) 0 4 9).isSome) = true := by
  refine ⟨?_, ?_, ?_, ?_, ?_, ?_, ?_, ?_, ?_, ?_, ?_, ?_, ?_, ?_, ?_, ?_, ?_, ?_, ?_, ?_, ?_⟩ <;> decide +kernel

theorem witness_NeverGuard :
    (let s : State := sceneOf 5 id
     match s.cur, ({ s with cur := none } : State).env? 3 with
      | some { who := .group uid _, .. }, some e => uid == e.g.uid && ({ hd0 with gp := 7, gn := true } : Hdr).never
      | _, _ => false) = true
    ∧ (let s : State := spanScene id
     match s.cur, Tab.get? s.spans 40 with
      | some { who := .span 40, .. }, some p => p.uid == 40 && (Tab.get? s.grids p.grid).isSome
      | _, _ => false) = true := by decide +kernel

/-- What a spill, and a fill, does to memory goes through. -/
def spillsB (s : State) (e : Env) (l : Nat) : Bool :=
  match s.localLoad e l 0 8 with
  | .done bs t =>
    match t.localStore e l (64 * (leNat bs + 1)) ((e.g.lane l).rstack.flatMap fun y => le 8 y.toNat) with
    | .done _ u => match u.localStore e l 0 (le 8 (leNat bs + 1)) with | .done _ _ => true | _ => false
    | _ => false
  | _ => false
def fillsB (s : State) (e : Env) (l : Nat) : Bool :=
  match s.localLoad e l 0 8 with
  | .done bs t => decide (0 < leNat bs) && match t.localLoad e l (64 * leNat bs) 64 with
    | .done fr u => fr.length == 64 && match u.localStore e l 0 (le 8 (leNat bs - 1)) with | .done _ _ => true | _ => false
    | _ => false
  | _ => false
/-- Lane 0 has spilled one frame, and its stack is empty. -/
def spilledScene : State :=
  let s := scene1 0 fun x => { x with rstack := List.replicate 8 8 }
  match s.env? 3 with
  | some e => match s.push e 0 0x1004 with
    | .done _ s => s.updGroup 3 fun g => g.updLanes 1 fun _ x => { x with rstack := [] }
    | _ => s
  | none => s

theorem witness_Transfers :
    meets (sceneOf (2 ^ 63 + 1) id) (.bra hd0 0xFFFFFFFF) (fun _ _ => true) = true
    ∧ meets (sceneS 2 (2 ^ 49 - 4)) (.brx hd0 (.s 2)) (fun e act => (lanesOf act).all fun l => decide (e.w64 l (.s 2) < 2 ^ 49) && e.w64 l (.s 2) % 4 == 0) = true
    ∧ meets (scene) (.call hd0 3) (fun e act => (lanesOf act).all fun l => decide ((e.g.lane l).rstack.length < 8)) = true
    ∧ meets (sceneOf 6 fun g => (g.setS 0 4 0x1004).updLanes 6 fun _ x => { x with rstack := List.replicate 7 1 }) (.callx hd0 (.s 4)) (fun e act => (lanesOf act).all fun l => decide ((e.g.lane l).rstack.length < 8 ∧ e.w64 l (.s 4) < 2 ^ 49 ∧ e.w64 l (.s 4) % 4 = 0)) = true
    ∧ meets (sceneOf 6 fun g => g.updLanes 6 fun l x => { x with rstack := [4, BitVec.ofNat 64 (4 * l)] }) (.ret hd0) (fun e act => (lanesOf act).all fun l => (e.g.lane l).rstack.getLast? == some (BitVec.ofNat 64 (4 * l)) && !(BitVec.ofNat 64 (4 * l)).getLsbD 63 && (BitVec.ofNat 64 (4 * l)).toNat % 4 == 0) = true
    ∧ meets (scene1 63 fun x => { x with rstack := [8, 2 ^ 63 + 0x1006], handler := true }) (.ret hd0) (fun e act => act == 2 ^ 63 && (e.g.lane 63).rstack.getLast? == some (2 ^ 63 + 0x1006)) = true
    ∧ meets (scene1 0 fun x => { x with rstack := [5] }) (.ret hd0) (fun e act => act == 1 && (e.g.lane 0).rstack.getLast? == some 5) = true
    ∧ meets (scene1 5 full8) (.call hd0 3) (fun e act => act == 2 ^ 5 && (match e.st.push e 5 (BitVec.ofNat 64 (e.nextPc 5 12).toNat) with | .done _ _ => true | _ => false)) = true
    ∧ meets (scene1 63 fun x => { x with rstack := [7, 2 ^ 63 + 0x1004], handler := true }) (.ret hd0) (fun e act => act == 2 ^ 63 && (e.g.lane 63).rstack.getLast? == some (2 ^ 63 + 0x1004)) = true
    ∧ meets (scene1 0 id) (.ret hd0) (fun e act => act == 1 && (match e.st.pop e 0 with | .done none _ => true | _ => false)) = true
    ∧ meets (scene1 5 fun x => full8 x) (.callx hd0 (.imm 8)) (fun e act => act == 2 ^ 5 && decide (e.w64 5 (.imm 8) < 2 ^ 49 ∧ e.w64 5 (.imm 8) % 4 = 0)
        && (match e.st.push e 5 (BitVec.ofNat 64 (e.nextPc 5 8).toNat) with | .done _ _ => true | _ => false)) = true
    -- a full stack spills; and with one frame spilled an empty one is filled
    ∧ meets (scene1 5 full8) (.call hd0 3) (fun e _ => (e.g.lane 5).rstack.length == 8 && spillsB e.st e 5) = true
    ∧ meets spilledScene (.ret hd0) (fun e _ => (e.g.lane 0).rstack == [] && fillsB e.st e 0) = true
    ∧ meets spilledScene (.ret hd0) (fun e act => act == 1 && (e.g.lane 0).rstack == []
        && (match e.st.pop e 0 with | .done (some x) _ => !x.getLsbD 63 && x.toNat % 4 == 0 | _ => false)) = true
    ∧ ((([0x1002, 2 ^ 49, 2 ^ 49 + 1] : List DWord).all fun n => meets (sceneS 2 n) (.brx hd0 (.s 2)) fun e act =>
        (lanesOf act).all fun l => decide (2 ^ 49 ≤ e.w64 l (.s 2)) || e.w64 l (.s 2) % 4 != 0) = true) := by
  refine ⟨?_, ?_, ?_, ?_, ?_, ?_, ?_, ?_, ?_, ?_, ?_, ?_, ?_, ?_, ?_⟩ <;> decide +kernel

theorem witness_RejoinMasks :
    meets (sceneOf 6 fun g => g.setJ 3 9) (.jset hd0 3 true) (fun _ _ => true) = true
    ∧ meets (sceneOf 6 fun g => g.setJ 3 9) (.jset hd0 15 false) (fun _ _ => true) = true
    ∧ meets (sceneOf 6 fun g => g.setJ 3 9) (.join hd0 3) (fun _ _ => true) = true
    ∧ (([sceneOf 6 id, storePending (sceneOf 6 id)] : List State).all fun s => meets s (.gsync hd0) fun e _ => (e.st.drainTeam e.g.uid).2) = true
    ∧ meets (sceneOf 6 fun g => { g.setJ 3 (2 ^ 63 + 9) with depth := 15, v := [(639, rowOf 1)] }) (.jpush hd0 3) (fun e _ => e.g.depth != e.g.divdepth) = true
    ∧ meets (sceneOf 6 fun g => { g with depth := 16 }) (.jpush hd0 3) (fun e _ => e.g.depth == e.g.divdepth) = true
    ∧ meets (sceneOf 6 fun g => { g.setJ 3 9 with depth := 1, v := [(632, rowOf 5)] }) (.jpop hd0 3) (fun _ _ => true) = true
    ∧ meets (sceneOf 6 fun g => g.setJ 3 9) (.jpop hd0 3) (fun _ _ => true) = true
    ∧ meets (sceneOf 6 fun g => { g.setJ 3 (2 ^ 64 - 1) with depth := 1, v := [(632, rowOf 5)] }) (.brk hd0 5 3 1) (fun _ _ => true) = true := by decide +kernel

theorem witness_Waiting :
    meets (sceneOf 6 id) (.yield hd0 (.imm 200)) (fun _ _ => true) = true
    ∧ meets (sceneOf 6 id) (.yield hd0 (.imm 0)) (fun _ _ => true) = true
    ∧ meets (sceneS 2 0x3FFFFFFF) (.monw hd0 (.s 2)) (fun e act => ((lanesOf act).all fun l => decide (e.w64 l (.s 2) < 2 ^ 49)) && (lanesMade (fun s l => match s.checkPage e.t.core e.gr.ctx e.gr.version (e.w64 l (.s 2)) .load 0 with
          | (.pass p, s) => .done () (s.updGroup e.g.uid fun g => g.updLanes (2 ^ l) fun _ x => { x with watch := some { line := p.loc / 128, fired := false } })
          | (_, s) => .wait s) e.st (lanesOf act)).isSome) = true
    ∧ meets (sceneOf 7 fun g => g.updLanes 2 fun _ x => { x with watch := some { line := 5, fired := false } }) (.mwait { hv with wsb := 2 } (.v 2) (.imm 9)) (fun _ _ => ((Opnd.regs (.v 2) 1).head?).isSome) = true
    ∧ meets (sceneOf 7 fun g => g.updLanes 2 fun _ x => { x with watch := some { line := 5, fired := false } }) (.mwait { hv with wsb := 2 } (.o 5) (.imm 9)) (fun _ _ => ((Opnd.regs (.o 5) 1).head?).isSome) = true
    ∧ meets ((sceneOf 7 fun g => (g.setS 0 2 0xFFFFFFFF).updLanes 6 fun l x => { x with watch := some { line := 5, fired := l == 2 } })) (.mwait { hv with wsb := 2 } (.v 2) (.s 2)) (fun _ _ => ((Opnd.regs (.v 2) 1).head?).isSome) = true
    ∧ meets ((sceneOf 7 fun g => (g.setS 0 2 0xFFFFFFFF).updLanes 6 fun l x => { x with watch := some { line := 5, fired := l == 2 } })) (.mwait { hv with wsb := 2 } (.o 5) (.s 2)) (fun _ _ => ((Opnd.regs (.o 5) 1).head?).isSome) = true := by decide +kernel

theorem witness_Allotment :
    meets (sceneOf 6 fun g => { g with v := (List.range 16).map fun n => (n + 600, rowOf (BitVec.ofNat 32 n)) }) (.rgnld hv 600 0x81 0xF0000001) (fun _ _ => true) = true
    ∧ meets (sceneOf 6 fun g => { g with slim := 256 }) (.rshrink hd0 (.imm 78) 14) (fun e act => decide (8 * e.w32 (lowLane act) (.imm 78) + 8 ≤ e.g.vlim ∧ 16 * (14 : BitVec 4).toNat + 16 ≤ e.g.slim ∧ e.flights = [])) = true
    ∧ meets (sceneOf 6 fun g => { g with slim := 256 }) (.rshrink hd0 (.imm 1) 0) (fun e act => decide (8 * e.w32 (lowLane act) (.imm 1) + 8 ≤ e.g.vlim ∧ 16 * (0 : BitVec 4).toNat + 16 ≤ e.g.slim ∧ e.flights = [])) = true
    ∧ meets (scene) (.rshrink hd0 (.imm 79) 0) (fun e act => decide (e.g.vlim < 8 * e.w32 (lowLane act) (.imm 79) + 8 ∨ e.g.slim < 16 * (0 : BitVec 4).toNat + 16)) = true
    ∧ meets (sceneOf 6 fun g => { g with slim := 240 }) (.rshrink hd0 (.imm 1) 15) (fun e act => decide (e.g.vlim < 8 * e.w32 (lowLane act) (.imm 1) + 8 ∨ e.g.slim < 16 * (15 : BitVec 4).toNat + 16)) = true
    ∧ meets (sceneOf 6 fun g => { g with vallot := 320, slim := 240 }) (.rgrow hd0 (.imm 40) 1) (fun e act => decide (e.g.vallot + 8 * e.w32 (lowLane act) (.imm 40) ≤ 640 ∧ e.g.slim + 16 * (1 : BitVec 4).toNat ≤ 256)) = true
    ∧ meets ((sceneOf 6 fun g => { g with vallot := 320, slim := 240 }).updCore 0 fun c => { c with rgrowq := [(9, 1, 1, 1)] }) (.rgrow hd0 (.imm 40) 1) (fun e act => decide (e.g.vallot + 8 * e.w32 (lowLane act) (.imm 40) ≤ 640 ∧ e.g.slim + 16 * (1 : BitVec 4).toNat ≤ 256)) = true
    ∧ meets (scene) (.rgrow hd0 (.imm 1) 0) (fun e act => decide (640 < e.g.vallot + 8 * e.w32 (lowLane act) (.imm 1) ∨ 256 < e.g.slim + 16 * (0 : BitVec 4).toNat)) = true
    ∧ meets (sceneOf 6 fun g => { g with vallot := 320 }) (.rgrow hd0 (.imm 1) 1) (fun e act => decide (640 < e.g.vallot + 8 * e.w32 (lowLane act) (.imm 1) ∨ 256 < e.g.slim + 16 * (1 : BitVec 4).toNat)) = true := by decide +kernel

theorem witness_SoftwareTraps :
    meets (trapScene) (.trap hd0 0xFF) (fun _ _ => true) = true
    ∧ meets (trapScene) (.bpt hd0 0xFF) (fun _ _ => true) = true
    ∧ (let s : State := trapScene
     (match s.env? 3 with
    | some e => e.g.uid == 3 && e.gr.kernel.handler != 0 && !e.g.trapValid && e.g.lanes.length == 64 && ((lanesOf 6).all fun l => decide ((e.g.lane l).rstack.length < 8)) && s.postFaults == s && s.unborn 3 6 == s
    | none => false)) = true
    ∧ (let s : State := trapScene
     (match s.env? 3 with
    | some e => e.g.uid == 3 && e.gr.kernel.handler != 0 && !e.g.trapValid && e.g.lanes.length == 64 && ((lanesOf (2 ^ 63)).all fun l => decide ((e.g.lane l).rstack.length < 8)) && s.postFaults == s && s.unborn 3 (2 ^ 63) == s
    | none => false)) = true := by decide +kernel

theorem witness_SpecialWrites :
    meets (sceneS 2 0xABCDFFFD) (.swr hd0 (.sr 0x18) (.s 2)) (fun _ _ => true) = true
    ∧ meets (sceneOf 6 fun g => { g with fpstat := 0x15 }) (.swr hd0 (.sr 0x19) (.imm 0xF4)) (fun _ _ => true) = true
    ∧ meets (sceneOf 6 fun g => { g with fpstat := 0x15, fpnew := 4 }) (.swr hd0 (.sr 0x19) (.imm 0xF4)) (fun _ _ => true) = true
    ∧ meets (sceneS 2 0x003F0003) (.swr hd0 (.sr 0x1A) (.s 2)) (fun _ _ => true) = true := by decide +kernel

/-- The host holds no half in which the lanes' counts of spilled frames lie. -/
def oursB (e : Env) (act : Nat) : Bool := (lanesOf act).all fun l => (e.st.spillHeld e l).isNone

/-- What a fold looks at: the group when its stores are performed. -/
def foldB (e : Env) (act : Nat) (room : Bool) : Bool :=
  let r := (e.looked act e.st).drainTeam e.g.uid
  oursB e act && e.mayFold act && r.2 && r.1.contexts.all (fun c => c.2.absent == []) && match r.1.env? e.g.uid with
    | some f => (match f.fold? act (f.nextPc (lowLane act) 8) r.1.uids with | some sp => r.1.fresh.2.spanRoom sp | none => false) == room
    | none => false

theorem witness_GroupEnds :
    meets (sceneOf 6 id) (.gfold hd0) (fun e act => oursB e act && e.mayFold act == false) = true
    ∧ meets (foldScene.updGroup 3 fun g => g.setV 0 5 fun l => BitVec.ofNat 32 (l * l)) (.gfold hd0) (fun e act => foldB e act false) = true
    ∧ meets (foldScene) (.gfold hd0) (fun e act => foldB e act true) = true
    ∧ meets (scene) (.exit hd0) (fun e _ => (e.st.drainTeam e.g.uid).2 && !e.t.bars.any fun b => decide (2 ≤ b.mode)) = true
    ∧ meets (storePending (barT 14 { expect := 64, mode := 3, teamdone := false, arrived := 0, phase := 0 })) (.exit hd0) (fun e _ => (e.st.drain e.g.uid).2 && e.t.bars.any fun b => decide (2 ≤ b.mode)) = true
    ∧ meets (sceneOf 6 id) (.exit hd0) (fun e _ => (e.st.drainTeam e.g.uid).2) = true := by
  refine ⟨?_, ?_, ?_, ?_, ?_⟩ <;> decide +kernel

theorem witness_Barriers :
    meets (scene) (.bar hd0 3) (fun e _ => decide ((e.t.bar 3).mode < 2) && (e.st.drainTeam e.g.uid).2) = true
    ∧ meets (storePending (sceneOf 6 id)) (.bar hd0 3) (fun e _ => decide ((e.t.bar 3).mode < 2) && (e.st.drainTeam e.g.uid).2) = true
    ∧ meets (barT 3 { expect := 64, mode := 2, teamdone := false, arrived := 0, phase := 0 }) (.bar hd0 3) (fun e _ => decide (2 ≤ (e.t.bar 3).mode)) = true
    ∧ meets (barT 3 { expect := 64, mode := 1, teamdone := false, arrived := 0, phase := 3 }) (.bara hv (.v 2) 3) (fun e _ => (e.t.bar 3).mode == 1 && (e.st.drainTeam e.g.uid).2) = true
    ∧ meets (barT 3 { expect := 64, mode := 1, teamdone := false, arrived := 0, phase := 3 }) (.bara hv (.s 2) 3) (fun e _ => (e.t.bar 3).mode == 1 && (e.st.drainTeam e.g.uid).2) = true
    ∧ meets (scene) (.bara hv (.v 2) 3) (fun e _ => (e.t.bar 3).mode != 1) = true
    ∧ meets ((barT 3 { expect := 64, mode := 1, teamdone := false, arrived := 0, phase := 3 }).updGroup 3 fun g => g.setS 0 2 2) (.barw hd0 3 (.s 2)) (fun e _ => decide ((e.t.bar 3).mode < 2)) = true
    ∧ meets ((barT 3 { expect := 64, mode := 0, teamdone := false, arrived := 0, phase := 3 }).updGroup 3 fun g => g.setS 0 2 3) (.barw hd0 3 (.s 2)) (fun e _ => decide ((e.t.bar 3).mode < 2)) = true
    ∧ meets (barT 15 { expect := 64, mode := 2, teamdone := false, arrived := 0, phase := 0 }) (.barw hd0 15 (.s 2)) (fun e _ => decide (2 ≤ (e.t.bar 15).mode)) = true
    ∧ meets (sceneS 2 2048) (.barinit hd0 3 (.s 2)) (fun e act => decide ((e.t.bar 3).arrived = 0 ∧ e.w32 (lowLane act) (.s 2) ≤ 2048 ∧ (e.t.bar 3).mode < 2)) = true
    ∧ meets (sceneS 2 0) (.barinit hd0 3 (.s 2)) (fun e act => decide ((e.t.bar 3).arrived = 0 ∧ e.w32 (lowLane act) (.s 2) ≤ 2048 ∧ (e.t.bar 3).mode < 2)) = true
    ∧ meets (sceneS 2 2049) (.barinit hd0 3 (.s 2)) (fun e act => decide ((e.t.bar 3).arrived ≠ 0 ∨ 2048 < e.w32 (lowLane act) (.s 2) ∨ 2 ≤ (e.t.bar 3).mode)) = true
    ∧ meets (barT 3 { expect := 64, mode := 1, teamdone := false, arrived := 1, phase := 3 }) (.barinit hd0 3 (.s 2)) (fun e act => decide ((e.t.bar 3).arrived ≠ 0 ∨ 2048 < e.w32 (lowLane act) (.s 2) ∨ 2 ≤ (e.t.bar 3).mode)) = true
    ∧ meets (scene) (.cbar hd0) (fun e _ => wideOk (e.t.bar 15) && ((e.st.turnWide e.t.uid 15 2).drainTeam e.g.uid).2) = true
    ∧ meets (barT 15 { expect := 1, mode := 2, teamdone := false, arrived := 0, phase := 0 }) (.cbar hd0) (fun e _ => wideOk (e.t.bar 15) && ((e.st.turnWide e.t.uid 15 2).drainTeam e.g.uid).2) = true
    ∧ meets (barT 15 { expect := 64, mode := 0, teamdone := false, arrived := 1, phase := 3 }) (.cbar hd0) (fun e _ => !wideOk (e.t.bar 15)) = true
    ∧ meets (scene) (.gbar hd0) (fun e _ => wideOk (e.t.bar 14) && decide (e.gr.nteams ≤ e.gr.coresident) && ((e.st.updGrid e.gr.uid fun g => { g with gbarwait := true }).turnWide e.t.uid 14 3 |>.drainTeam e.g.uid).2) = true
    ∧ meets (sceneG fun g => { g with coresident := 0 }) (.gbar hd0) (fun e _ => !wideOk (e.t.bar 14) || decide (e.gr.coresident < e.gr.nteams)) = true
    ∧ meets (barT 14 { expect := 64, mode := 1, teamdone := false, arrived := 0, phase := 3 }) (.gbar hd0) (fun e _ => !wideOk (e.t.bar 14) || decide (e.gr.coresident < e.gr.nteams)) = true := by decide +kernel

/-- A store of another group of the core to the shared memory of team 2, which entered first and is not yet performed. -/
def otherShared (s : State) : State :=
  let p : Piece := { lane := 0, va := 0x100, loc := 0x100, ov := none, bytes := leBytes 4 5, b := 0, c := 0 }
  { s with
    stores := [(20, { group := 9, lanes := 1, core := 0, ctx := 0, version := 0, pol := .l1, scope := .team, pieces := [p], atomic := none, inTeam := some (2, false) })]
    uids := 21 }

theorem witness_Loads :
    meets (addrScene 0x100 0) (.ldg hv .b64 .l2 (.v 8) (.s 2) (.imm 0)) (fun e act => (Tab.get? e.st.spans e.g.uid).isNone && (e.loadsLater hv (.v 8) .global .b64 .l2 (polScope .l2) (Env.gAddr (.s 2) (.imm 0)) e.st act).isSome) = true
    ∧ meets (storePending (addrScene 0x100 0)) (.ldg hv .b64 .l2 (.v 8) (.s 2) (.imm 0)) (fun e act => (Tab.get? e.st.spans e.g.uid).isNone && (e.loadsLater hv (.v 8) .global .b64 .l2 (polScope .l2) (Env.gAddr (.s 2) (.imm 0)) e.st act).isSome) = true
    ∧ meets (addrScene 0xFFFC 0) (.ldsh hv .b32 (.v 9) (.s 2) (.imm 0)) (fun e act => (Tab.get? e.st.spans e.g.uid).isNone && (e.loadsLater hv (.v 9) .shared .b32 .l1 .team (Env.oAddr (.s 2) (.imm 0)) e.st act).isSome) = true
    ∧ meets ((addrScene 0x3FF0 0).updTeam 2 fun t => { t with granules := 1, store := [(0x3FFF, 0x80)] }) (.ldts hv .b128 (.o 4) (.s 2) (.imm 0)) (fun e act => (Tab.get? e.st.spans e.g.uid).isNone && (e.loadsLater hv (.o 4) .tile .b128 .l1 .team (Env.oAddr (.s 2) (.imm 0)) e.st act).isSome) = true
    ∧ meets (addrScene 0x3FFE 0) (.ldl hv .s16 (.v 4) (.s 2) (.imm 0)) (fun e act => (Tab.get? e.st.spans e.g.uid).isNone && (e.loadsLater hv (.v 4) .localMem .s16 .l1 .team (Env.oAddr (.s 2) (.imm 0)) e.st act).isSome) = true
    ∧ meets (storePending (addrScene 0x100 0)) (.ldsc hv .b64 .pod .acq false (.v 8) (.s 2) (.imm 0)) (fun e act => (e.releases .acq .pod).any fun u => (e.loads hv (.v 8) .global .b64 (scopePol .pod) (Env.gAddr (.s 2) (.imm 0)) u act).isSome) = true
    ∧ meets (storePending (addrScene 0x100 0)) (.ldsc hv .b64 .device .ar false (.v 8) (.s 2) (.imm 0)) (fun e act => (e.releases .ar .device).any fun u => (e.loads hv (.v 8) .global .b64 (scopePol .device) (Env.gAddr (.s 2) (.imm 0)) u act).isSome) = true
    ∧ meets (storePending (addrScene 0x100 0)) (.ldsc hv .b64 .system .rlx false (.v 8) (.s 2) (.imm 0)) (fun e act => (e.releases .rlx .system).any fun u => (Tab.get? u.spans e.g.uid).isNone && (e.loadsLater hv (.v 8) .global .b64 (scopePol .system) .system (Env.gAddr (.s 2) (.imm 0)) u act).isSome) = true
    ∧ meets (storePending (addrScene 0x100 0)) (.ldsc hv .b64 .group .rlx false (.v 8) (.s 2) (.imm 0)) (fun e act => (e.releases .rlx .group).any fun u => (Tab.get? u.spans e.g.uid).isNone && (e.loadsLater hv (.v 8) .global .b64 (scopePol .group) .group (Env.gAddr (.s 2) (.imm 0)) u act).isSome) = true
    ∧ meets (otherShared (addrScene 0x100 0)) (.ldsc hv .b64 .team .acq true (.v 8) (.s 2) (.imm 0)) (fun e act => (e.releases .acq .team).any fun u => (e.loads hv (.v 8) .shared .b64 .l1 (Env.oAddr (.s 2) (.imm 0)) u act).isSome) = true
    ∧ meets (otherShared (addrScene 0x100 0)) (.ldsc hv .b64 .team .rlx true (.v 8) (.s 2) (.imm 0)) (fun e act => (e.releases .rlx .team).any fun u => (Tab.get? u.spans e.g.uid).isNone && (e.loadsLater hv (.v 8) .shared .b64 .l1 .team (Env.oAddr (.s 2) (.imm 0)) u act).isSome) = true := by
  refine ⟨?_, ?_, ?_, ?_, ?_, ?_, ?_, ?_, ?_, ?_, ?_⟩ <;> decide +kernel

theorem witness_Stores :
    meets (addrScene 0x100 77) (.stg hd0 .b64 .st (.s 2) (.imm 0) (.s 4)) (fun e act => (e.storesTo .global .b64 .st (polScope .st) (Env.gAddr (.s 2) (.imm 0)) (.s 4) e.st act).isSome) = true
    ∧ meets (addrScene 0x100 77) (.stg hd0 .b128 .l1 (.s 2) (.imm 0) (.v 4)) (fun e act => (e.storesTo .global .b128 .l1 (polScope .l1) (Env.gAddr (.s 2) (.imm 0)) (.v 4) e.st act).isSome) = true
    ∧ meets (addrScene 0xFFFC 77) (.stsh hd0 .b32 (.s 2) (.imm 0) (.imm 4)) (fun e act => (e.storesTo .shared .b32 .l1 .team (Env.oAddr (.s 2) (.imm 0)) (.imm 4) e.st act).isSome) = true
    ∧ meets ((addrScene 0x3FF0 0).updTeam 2 fun t => { t with granules := 1, store := [(0x3FFF, 0x80)] }) (.stts hd0 .b32 (.s 2) (.imm 0) (.imm 4)) (fun e act => (e.storesTo .tile .b32 .l1 .team (Env.oAddr (.s 2) (.imm 0)) (.imm 4) e.st act).isSome) = true
    ∧ meets (addrScene 0x3FFF 77) (.stl hd0 .u8 (.s 2) (.imm 0) (.s 4)) (fun e act => (e.storesTo .localMem .u8 .l1 .team (Env.oAddr (.s 2) (.imm 0)) (.s 4) e.st act).isSome) = true
    ∧ meets (storePending (addrScene 0x100 5)) (.stsc hd0 .b64 .pod .rel false (.s 2) (.imm 0) (.s 4)) (fun e act => ((e.releases .rel .pod).bind fun u => e.storesTo .global .b64 (scopePol .pod) .pod (Env.gAddr (.s 2) (.imm 0)) (.s 4) u act).isSome) = true
    ∧ meets (storePending (addrScene 0x100 5)) (.stsc hd0 .b64 .device .rel false (.s 2) (.imm 0) (.s 4)) (fun e act => ((e.releases .rel .device).bind fun u => e.storesTo .global .b64 (scopePol .device) .device (Env.gAddr (.s 2) (.imm 0)) (.s 4) u act).isSome) = true
    ∧ meets (storePending (addrScene 0x100 5)) (.stsc hd0 .b64 .system .rel false (.s 2) (.imm 0) (.s 4)) (fun e act => ((e.releases .rel .system).bind fun u => e.storesTo .global .b64 (scopePol .system) .system (Env.gAddr (.s 2) (.imm 0)) (.s 4) u act).isSome) = true
    ∧ meets (storePending (addrScene 0x100 5)) (.stsc hd0 .b64 .group .rlx false (.s 2) (.imm 0) (.s 4)) (fun e act => ((e.releases .rlx .group).bind fun u => e.storesTo .global .b64 (scopePol .group) .group (Env.gAddr (.s 2) (.imm 0)) (.s 4) u act).isSome) = true
    ∧ meets (storePending (addrScene 0x100 5)) (.stsc hd0 .b64 .team .rel true (.s 2) (.imm 0) (.s 4)) (fun e act => ((e.releases .rel .team).bind fun u => e.storesTo .shared .b64 .l1 .team (Env.oAddr (.s 2) (.imm 0)) (.s 4) u act).isSome) = true := by
  refine ⟨?_, ?_, ?_, ?_, ?_, ?_, ?_, ?_, ?_, ?_⟩ <;> decide +kernel

theorem witness_Atomics :
    meets (storePending (addrScene 0x100 5)) (.atomg hv ({ op := .add, sgn := false, x64 := false, scope := .pod, ord := .ar } : AMod) (.v 3) (.s 2) (.imm 1) (.v 0) 4) (fun e act => (((e.releases .ar .pod).bind fun u => e.readies .ar u).bind fun u => e.atomics ({ op := .add, sgn := false, x64 := false, scope := .pod, ord := .ar } : AMod) .global (Env.litAddr (.s 2) 4 true e) (.imm 1) (.v 0) u act).isSome) = true
    ∧ meets (storePending (addrScene 0x100 5)) (.atomg hv ({ op := .add, sgn := false, x64 := false, scope := .group, ord := .rlx } : AMod) (.v 3) (.s 2) (.imm 1) (.v 0) 4) (fun e act => (((e.releases .rlx .group).bind fun u => e.readies .rlx u).bind fun u => e.atomics ({ op := .add, sgn := false, x64 := false, scope := .group, ord := .rlx } : AMod) .global (Env.litAddr (.s 2) 4 true e) (.imm 1) (.v 0) u act).isSome) = true
    ∧ meets (otherShared (addrScene 0x100 5)) (.atomsh hv ({ op := .cas, sgn := false, x64 := true, scope := .team, ord := .ar } : AMod) (.v 4) (.s 2) (.s 4) (.s 6) 0xFFFFFFF8) (fun e act => (((e.releases .ar .team).bind fun u => e.readies .ar u).bind fun u => e.atomics ({ op := .cas, sgn := false, x64 := true, scope := .team, ord := .ar } : AMod) .shared (Env.litAddr (.s 2) 0xFFFFFFF8 false e) (.s 4) (.s 6) u act).isSome) = true
    ∧ meets (otherShared (addrScene 0x100 5)) (.atomsh hv ({ op := .add, sgn := false, x64 := false, scope := .team, ord := .rlx } : AMod) (.v 3) (.s 2) (.imm 1) (.v 0) 4) (fun e act => (((e.releases .rlx .team).bind fun u => e.readies .rlx u).bind fun u => e.atomics ({ op := .add, sgn := false, x64 := false, scope := .team, ord := .rlx } : AMod) .shared (Env.litAddr (.s 2) 4 false e) (.imm 1) (.v 0) u act).isSome) = true
    ∧ (let x : PStore := { storeOf none [pieceOf none 0x100 (leBytes 4 5)] with group := 9, inTeam := some (2, false) }
       let y : PStore := { storeOf none [pieceOf none 0x200 (leBytes 4 5)] with inTeam := some (2, false) }
       x.inTeam.isSome && x.core == y.core && x.inTeam.map (·.2) == y.inTeam.map (·.2) && !PStore.halves 20 x 21 y) = true := by decide +kernel

theorem witness_CacheControl :
    meets (addrScene 0x100 0) (.pref hd0 true (.s 2)) (fun e act => (forLanes e.st act fun s l => s.prefLane e true (.s 2) l).waits == 0
      && (forLanes e.st act fun s l => s.prefLane e true (.s 2) l).stays == 0 && (forLanes e.st act fun s l => s.prefLane e true (.s 2) l).raises == []) = true
    ∧ meets (addrScene 0x100 0) (.cctl hd0 .ivall (.v 0)) (fun _ _ => true) = true
    ∧ meets (addrScene 0x100 0) (.cctl hd0 .iv (.s 2)) (fun e act => ((lanesOf act).all fun l => decide (e.w64 l (.s 2) < 2 ^ 49)) && (lanesMade (fun s l => match s.checkPage e.t.core e.gr.ctx e.gr.version (e.w64 l (.s 2)) .load 0 with
          | (.pass p, s) => .done () (if CctlOp.iv = .iv then s.dropL1 e.t.core fun x => x.line == p.loc / 128 else s)
          | (_, s) => .wait s) e.st (lanesOf act)).isSome) = true
    ∧ meets (addrScene 0x100 0) (.cctl hd0 .clean (.s 2)) (fun e act => ((lanesOf act).all fun l => decide (e.w64 l (.s 2) < 2 ^ 49)) && (lanesMade (fun s l => match s.checkPage e.t.core e.gr.ctx e.gr.version (e.w64 l (.s 2)) .load 0 with
          | (.pass p, s) => .done () (if CctlOp.clean = .iv then s.dropL1 e.t.core fun x => x.line == p.loc / 128 else s)
          | (_, s) => .wait s) e.st (lanesOf act)).isSome) = true
    ∧ meets (storePending scene) (.fence hd0 .pod .ar) (fun e act => (e.st.fenceFirst e.g.uid .pod .ar).2 && e.st.owes e.gr.uid (e.itemRanges act) == false && e.st.latches == []) = true
    ∧ meets (storePending scene) (.fence hd0 .pod .acq) (fun e act => (e.st.fenceFirst e.g.uid .pod .acq).2 && e.st.owesLoads e.gr.uid (e.itemRanges act) == false) = true
    ∧ meets (storePending scene) (.fence hd0 .team .rel) (fun e act => (e.st.fenceFirst e.g.uid .team .rel).2 && e.st.owes e.gr.uid (e.itemRanges act) == false && e.st.latches == []) = true
    ∧ meets ({ scene with latches := [{ ctx := 9, peer := 1, stream := 2, addr := 3 }, { ctx := 0, peer := 1, stream := 2, addr := 64 }] }) (.fence hd0 .pod .rel) (fun e _ => (e.st.latches.find? fun x => x.ctx == e.gr.ctx) == some { ctx := 0, peer := 1, stream := 2, addr := 64 }) = true := by decide +kernel

/-- No walk of some addresses and of the sealed ranges reads a half that the host holds. -/
def walksB (e : Env) (vas : List Nat) : Bool := (e.st.walksHeld e.gr.ctx (vas ++ e.st.sealPieces e.gr.ctx)).isNone

theorem witness_Seals :
    meets (storePending (addrScene 0x400 2)) (.seal hv (.s 8) (.s 2) (.s 4)) (fun e act => let base := e.w64 (lowLane act) (.s 2)
        let lines := e.w32 (lowLane act) (.s 4)
        match e.st.checkRange e.t.core e.gr.ctx (pieces4k base lines) with
        | (.pass _, t) => decide (base % 128 = 0 ∧ base < 2 ^ 49 ∧ 0 < lines ∧ lines ≤ 2 ^ 24 ∧ t.sealStatus e.gr.ctx e.gr.version base lines = 0) && (t.walksHeld e.gr.ctx (pieces4k base lines ++ t.sealPieces e.gr.ctx)).isNone && (t.release e.g.uid .device).2 && t.spans == []
        | _ => false) = true
    ∧ meets sealedScene (.seal hv (.s 8) (.s 2) (.s 4)) (fun e act => let base := e.w64 (lowLane act) (.s 2)
        let lines := e.w32 (lowLane act) (.s 4)
        match e.st.checkRange e.t.core e.gr.ctx (pieces4k base lines) with
        | (.pass _, t) => decide (base % 128 = 0 ∧ base < 2 ^ 49 ∧ 0 < lines ∧ lines ≤ 2 ^ 24 ∧ t.sealStatus e.gr.ctx e.gr.version base lines ≠ 0) && (t.walksHeld e.gr.ctx (pieces4k base lines ++ t.sealPieces e.gr.ctx)).isNone
        | _ => false) = true
    ∧ meets (addrScene 0x400 2) (.unseal hv (.status (.s 8)) (.s 2)) (fun e act => walksB e [] && (e.st.seals.find? fun k => k.ctx == e.gr.ctx && k.base == e.w64 (lowLane act) (.s 2)) == none) = true
    ∧ meets (sealedScene) (.unseal { hv with wsb := 3 } (.status (.s 8)) (.s 2)) (fun e act => walksB e [] && (e.st.seals.find? fun k => k.ctx == e.gr.ctx && k.base == e.w64 (lowLane act) (.s 2)) == some (sealOf none false)) = true
    ∧ meets (sealedScene) (.unseal hv (.handle 5) (.s 2)) (fun e act => walksB e [] && e.createWaits 5 == false && (e.st.seals.find? fun k => k.ctx == e.gr.ctx && k.base == e.w64 (lowLane act) (.s 2)) == some (sealOf none false)) = true
    ∧ meets (addrScene 0x400 2) (.unseal hv (.handle 5) (.s 2)) (fun e act => walksB e [] && e.createWaits 5 == false && (e.st.seals.find? fun k => k.ctx == e.gr.ctx && k.base == e.w64 (lowLane act) (.s 2)) == none && ((e.st.newFuture e 5 4 0).2.futureOf e.t.uid (e.st.newFuture e 5 4 0).1).isSome) = true
    ∧ meets (sealedScene) (.sealq hv (.s 8) (.s 2)) (fun e act => decide (e.w64 (lowLane act) (.s 2) < 2 ^ 49) && walksB e [e.w64 (lowLane act) (.s 2)]) = true
    ∧ meets (addrScene 0x600 2) (.sealq hv (.s 8) (.s 2)) (fun e act => decide (e.w64 (lowLane act) (.s 2) < 2 ^ 49) && walksB e [e.w64 (lowLane act) (.s 2)]) = true
    ∧ meets ((addrScene 0x400 2).updGroup 3 fun g => (g.setV 4 allLanes fun l => BitVec.ofNat 32 (0x12345678 + 4096 * l)).setV 5 allLanes fun _ => 0x1FFFF) (.pgq hv (.s 8) (.s 2)) (fun e act => (lanesOf act).all fun l => decide (e.w64 l (.s 2) < 2 ^ 49) && !e.st.pgqHeld e.t.core e.gr.ctx (e.w64 l (.s 2))) = true
    ∧ meets ((addrScene 0x400 2).updGroup 3 fun g => (g.setV 4 allLanes fun l => BitVec.ofNat 32 (0x12345678 + 4096 * l)).setV 5 allLanes fun _ => 0x1FFFF) (.pgq hv (.v 3) (.v 4)) (fun e act => (lanesOf act).all fun l => decide (e.w64 l (.v 4) < 2 ^ 49) && !e.st.pgqHeld e.t.core e.gr.ctx (e.w64 l (.v 4))) = true := by decide +kernel

theorem witness_CopiesBegin :
    meets ((addrScene 0x4000 0x8000).updGroup 3 fun g => g.setS 0 6 64) (.copy hd0 { dsp := .g, ssp := .g, fix := false, ch := 0 } true 1 (.s 2) (.s 4) (.s 6) 0) (fun e act => let o := (CopyOp.make { dsp := .g, ssp := .g, fix := false, ch := 0 } (e.w64 (lowLane act) (.s 2)) (e.w64 (lowLane act) (.s 4)) (e.w64 (lowLane act) (.s 6)) 1 0 0)
      e.st.copyTrap e o false == none && e.createWaits 1 == false && e.c.lockWaits e.gr.ctx e.t.uid o.ranges == false && (e.st.drain e.g.uid).2) = true
    ∧ meets ((addrScene 0x4000 0x8000).updGroup 3 fun g => g.setS 0 6 64) (.copy2d hd0 { dsp := .g, ssp := .g, fix := false, ch := 0 } 1 (.s 2) (.s 4) (.s 6) 64) (fun e act => let o := (CopyOp.make { dsp := .g, ssp := .g, fix := false, ch := 0 } (e.w64 (lowLane act) (.s 2)) (e.w64 (lowLane act) (.s 4)) (64 % 2 ^ 20) (64 / 2 ^ 20 % 2 ^ 12 + 1)
      (sext 32 (e.w64 (lowLane act) (.s 6) % 2 ^ 32)) (sext 32 (e.w64 (lowLane act) (.s 6) / 2 ^ 32 % 2 ^ 32)))
      e.st.copyTrap e o true == none && e.createWaits 1 == false && e.c.lockWaits e.gr.ctx e.t.uid o.ranges == false && (e.st.drain e.g.uid).2) = true
    ∧ meets ((addrScene 0x4000 0x8000).updGroup 3 fun g => g.setS 0 6 64) (.copy hd0 { dsp := .sh, ssp := .g, fix := true, ch := 3 } false 1 (.s 2) (.s 4) (.v 0) 128) (fun e act => let o := (CopyOp.make { dsp := .sh, ssp := .g, fix := true, ch := 3 } (e.w64 (lowLane act) (.s 2)) (e.w64 (lowLane act) (.s 4)) 128 1 0 0)
      e.st.copyTrap e o false == none && e.createWaits 1 == false && e.c.lockWaits e.gr.ctx e.t.uid o.ranges == false && (e.st.drain e.g.uid).2) = true := by decide +kernel

theorem witness_Futures :
    meets (futScene (fut 3 0 false)) (.fwait hv (.s 8) 1) (fun e _ => hLive (e.g.hreg 1) == false) = true
    ∧ meets (scene) (.fwait hv (.s 8) 1) (fun e _ => hLive (e.g.hreg 1) == false) = true
    ∧ meets (futScene (fut 2 0 false)) (.fwait hv (.s 8) 1) (fun e _ => hLive (e.g.hreg 1) == true) = true
    ∧ meets (futScene (fut 3 0 false)) (.ftest hv (.s 8) 1) (fun _ _ => true) = true
    ∧ meets (futScene (fut 3 0 false)) (.fwp hv (.s 8) 1) (fun _ _ => true) = true
    ∧ meets (futScene (fut 2 0 false)) (.ftest hv (.s 8) 1) (fun _ _ => true) = true
    ∧ meets (futScene (fut 2 0 false)) (.fwp hv (.s 8) 1) (fun _ _ => true) = true
    ∧ meets (futScene (fut 2 0 false)) (.fcancel hd0 1) (fun e _ => match e.future 1 with | some f => decide (f.state < 3 ∧ f.kind < 2) | none => false) = true
    ∧ meets (futScene (fut 3 0 false)) (.fcancel hd0 1) (fun e _ => match e.future 1 with | some f => decide (3 ≤ f.state ∨ 2 ≤ f.kind) | none => true) = true
    ∧ meets (scene) (.fcancel hd0 1) (fun e _ => match e.future 1 with | some f => decide (3 ≤ f.state ∨ 2 ≤ f.kind) | none => true) = true
    ∧ meets (futScene (fut 2 0 false)) (.fmovOut hv (.s 8) 1) (fun e _ => match e.future 1 with | some f => decide (f.state < 4) | none => false) = true
    ∧ meets (scene) (.fmovOut hv (.s 8) 1) (fun e _ => e.future 1 == none) = true
    ∧ meets (futScene (fut 4 0 false)) (.fmovOut hv (.s 8) 1) (fun e _ => match e.future 1 with | some f => decide (4 ≤ f.state) | none => false) = true
    ∧ meets (futScene (fut 3 0 true)) (.fmovIn hd0 2 (.s 2)) (fun e act => hLive (e.g.hreg 2) == false && e.w64 (lowLane act) (.s 2) != 0 && e.w64 (lowLane act) (.s 2) == tokenOf (e.w64 (lowLane act) (.s 2) % 2 ^ 10) e.t.index && Tab.get? e.t.futures (e.w64 (lowLane act) (.s 2) % 2 ^ 10) == some (fut 3 0 true)) = true
    ∧ meets (scene) (.fmovIn hd0 2 (.s 2)) (fun e act => e.w64 (lowLane act) (.s 2) == 0 && hLive (e.g.hreg 2) == false) = true
    ∧ meets (futScene (fut 3 0 false)) (.fmovIn hd0 1 (.s 4)) (fun e act => e.w64 (lowLane act) (.s 4) == 0 && hLive (e.g.hreg 1) == false) = true := by decide +kernel

theorem witness_TileResources :
    meets (scene) (.tsalloc hv (.s 8) (.imm 65) false) (fun e act => decide (e.t.freeing = [] ∧ (e.w32 (lowLane act) (.imm 65) = 0 ∨ 64 < e.t.granules + e.w32 (lowLane act) (.imm 65)))) = true
    ∧ meets (scene) (.tsalloc hv (.s 8) (.imm 0) true) (fun e act => decide (e.t.freeing = [] ∧ (e.w32 (lowLane act) (.imm 0) = 0 ∨ 64 < e.t.granules + e.w32 (lowLane act) (.imm 0)))) = true
    ∧ meets ({ scene with teams := scene.teams ++ [(9, { Team.blank 9 1 0 0 0 0 scaffoldKernel with granules := 60 })] }) (.tsalloc hv (.s 8) (.imm 5) true) (fun e act => decide (e.t.freeing = [] ∧ 0 < e.w32 (lowLane act) (.imm 5) ∧ e.t.granules + e.w32 (lowLane act) (.imm 5) ≤ 64 ∧ e.granulesFor act < e.w32 (lowLane act) (.imm 5))) = true
    ∧ meets ({ scene with teams := scene.teams ++ [(9, { Team.blank 9 1 0 0 0 0 scaffoldKernel with granules := 60 })] }) (.tsalloc hv (.s 8) (.imm 4) true) (fun e act => decide (e.t.freeing = [] ∧ 0 < e.w32 (lowLane act) (.imm 4) ∧ e.t.granules + e.w32 (lowLane act) (.imm 4) ≤ 64 ∧ e.w32 (lowLane act) (.imm 4) ≤ e.granulesFor act)) = true
    ∧ meets ({ scene with cores := [(0, { Core.reset with tsallocq := [(3, 0x1000, 4), (77, 1, 1)] })], teams := scene.teams ++ [(9, { Team.blank 9 1 0 0 0 0 scaffoldKernel with granules := 60 })] }) (.tsalloc hv (.s 8) (.imm 4) false) (fun e act => decide (e.t.freeing = [] ∧ 0 < e.w32 (lowLane act) (.imm 4) ∧ e.t.granules + e.w32 (lowLane act) (.imm 4) ≤ 64 ∧ e.w32 (lowLane act) (.imm 4) ≤ e.granulesFor act)) = true
    ∧ meets (sceneT fun t => { t with granules := 2 }) (.tsfree hd0 (.imm 2)) (fun e act => decide (0 < e.w32 (lowLane act) (.imm 2) ∧ e.w32 (lowLane act) (.imm 2) ≤ e.t.granules)) = true
    ∧ meets (sceneT fun t => { t with granules := 2 }) (.tsfree hd0 (.imm 0)) (fun e act => e.w32 (lowLane act) (.imm 0) == 0) = true
    ∧ meets (sceneT fun t => { t with granules := 2 }) (.tsfree hd0 (.imm 3)) (fun e act => decide (e.t.granules < e.w32 (lowLane act) (.imm 3))) = true
    ∧ meets (sceneT fun t => { t with t := [(7, { inuse := true, dirty := true, data := [(3, 4)], writer := none })] }) (.arel hd0 false true 7) (fun e _ => !e.tileBound [7] [] && !e.t.tileBusy [] [(true, 7)] && (e.t.treg 7).inuse) = true
    ∧ meets (sceneT fun t => { t with t := [(7, { inuse := false, dirty := false, data := [], writer := some 4 })] }) (.arel hd0 true true 7) (fun e _ => !e.tileBound [7] [] && !e.t.tileBusy [] [(true, 7)] && !(e.t.treg 7).inuse) = true
    ∧ meets (setScene 1) (.arel hd0 true false 0) (fun e _ => !e.tileBound [] (accRegs true 0) && e.t.ops == []) = true
    ∧ meets (setScene 1) (.arel hd0 false false 0) (fun e _ => !e.tileBound [] (accRegs false 0) && e.t.ops == []) = true
    ∧ meets (sceneS 2 0x0123456789ABCDEF) (.amset hd0 3 (.s 2) 7 false) (fun _ _ => true) = true
    ∧ meets ((addrScene 0x40 0).put 0x40 (mapBytes 5 3 0 256)) (.amset hd0 3 (.s 2) 0 true) (fun e act => match e.st.loadLane e (lowLane act) .global 64 .l1 (e.w64 (lowLane act) (.s 2)) with | .done _ _ => true | _ => false) = true
    ∧ meets (mapScene) (.amget hv (.s 8) 0 1) (fun _ _ => true) = true := by decide +kernel

theorem witness_GangMasks :
    meets ((sceneS 2 0x3F).updGrid 1 fun g => { g with kernel := { g.kernel with tx := 384 } }) (.gang hd0 (.s 2)) (fun e act => (decide (1 ≤ popN 32 (e.w32 (lowLane act) (.s 2))) && decide (popN 32 (e.w32 (lowLane act) (.s 2)) ≤ 6) && bitOf (e.w32 (lowLane act) (.s 2)) e.g.gid && decide (e.w32 (lowLane act) (.s 2) < 2 ^ e.gr.kernel.ngroups))) = true
    ∧ meets (sceneS 2 1) (.gang hd0 (.s 2)) (fun e act => (decide (1 ≤ popN 32 (e.w32 (lowLane act) (.s 2))) && decide (popN 32 (e.w32 (lowLane act) (.s 2)) ≤ 6) && bitOf (e.w32 (lowLane act) (.s 2)) e.g.gid && decide (e.w32 (lowLane act) (.s 2) < 2 ^ e.gr.kernel.ngroups))) = true
    ∧ meets (sceneS 2 2) (.gang hd0 (.s 2)) (fun e act => !(decide (1 ≤ popN 32 (e.w32 (lowLane act) (.s 2))) && decide (popN 32 (e.w32 (lowLane act) (.s 2)) ≤ 6) && bitOf (e.w32 (lowLane act) (.s 2)) e.g.gid && decide (e.w32 (lowLane act) (.s 2) < 2 ^ e.gr.kernel.ngroups))) = true
    ∧ meets (sceneS 2 0) (.gang hd0 (.s 2)) (fun e act => !(decide (1 ≤ popN 32 (e.w32 (lowLane act) (.s 2))) && decide (popN 32 (e.w32 (lowLane act) (.s 2)) ≤ 6) && bitOf (e.w32 (lowLane act) (.s 2)) e.g.gid && decide (e.w32 (lowLane act) (.s 2) < 2 ^ e.gr.kernel.ngroups))) = true := by decide +kernel

theorem witness_TileArithmetic :
    meets (mapScene) (.azero hd0 14 true) (fun e act => !e.tileBound [] (accRegs true 14) && tilesB e act [] (aRegs (accRegs true 14)) (accRegs true 14) (accRegs true 14)) = true
    ∧ meets (mapScene) (.azero hd0 14 false) (fun e act => !e.tileBound [] (accRegs false 14) && tilesB e act [] (aRegs (accRegs false 14)) (accRegs false 14) (accRegs false 14)) = true
    ∧ meets ((setScene 1).updTeam 2 fun t => { t with t := [(1, { inuse := true, dirty := true, data := [(0, 0x3F803F80), (40, 7)], writer := none }), (2, { inuse := true, dirty := true, data := [(0, 0x40004000), (511, 9)], writer := none })] }) (.mma hd0 ({ ty := .bf16, new := false, nb := false, blk := 0, fmta := 0, fmtb := 0, sgna := false, sgnb := false } : MmaMod) 0 1 2) (fun e act => let rs := (accRegs (({ ty := .bf16, new := false, nb := false, blk := 0, fmta := 0, fmtb := 0, sgna := false, sgnb := false } : MmaMod).ty == .f64) 0)
        let fresh := ({ ty := .bf16, new := false, nb := false, blk := 0, fmta := 0, fmtb := 0, sgna := false, sgnb := false } : MmaMod).new || ({ ty := .bf16, new := false, nb := false, blk := 0, fmta := 0, fmtb := 0, sgna := false, sgnb := false } : MmaMod).nb
        !e.tileBound [1, 2] rs && e.g.gang == 2 ^ e.g.gid
        && (!({ ty := .bf16, new := false, nb := false, blk := 0, fmta := 0, fmtb := 0, sgna := false, sgnb := false } : MmaMod).ty.narrow || (fmtFits (({ ty := .bf16, new := false, nb := false, blk := 0, fmta := 0, fmtb := 0, sgna := false, sgnb := false } : MmaMod).ty == .n4) (e.g.fmtreg 0) && fmtFits (({ ty := .bf16, new := false, nb := false, blk := 0, fmta := 0, fmtb := 0, sgna := false, sgnb := false } : MmaMod).ty == .n4) (e.g.fmtreg 0)))
        && tilesB e act ([(true, 1), (true, 2)] ++ if fresh then [] else aRegs rs) (aRegs rs) (if fresh then rs else []) rs) = true
    ∧ meets ((setScene 1).updTeam 2 fun t => { t with t := [(1, { inuse := true, dirty := true, data := [(0, 0x3F803F80), (40, 7)], writer := none }), (2, { inuse := true, dirty := true, data := [(0, 0x40004000), (511, 9)], writer := none })] }) (.mma hd0 ({ ty := .i8, new := true, nb := false, blk := 0, fmta := 0, fmtb := 0, sgna := true, sgnb := false } : MmaMod) 0 1 2) (fun e act => let rs := (accRegs (({ ty := .i8, new := true, nb := false, blk := 0, fmta := 0, fmtb := 0, sgna := true, sgnb := false } : MmaMod).ty == .f64) 0)
        let fresh := ({ ty := .i8, new := true, nb := false, blk := 0, fmta := 0, fmtb := 0, sgna := true, sgnb := false } : MmaMod).new || ({ ty := .i8, new := true, nb := false, blk := 0, fmta := 0, fmtb := 0, sgna := true, sgnb := false } : MmaMod).nb
        !e.tileBound [1, 2] rs && e.g.gang == 2 ^ e.g.gid
        && (!({ ty := .i8, new := true, nb := false, blk := 0, fmta := 0, fmtb := 0, sgna := true, sgnb := false } : MmaMod).ty.narrow || (fmtFits (({ ty := .i8, new := true, nb := false, blk := 0, fmta := 0, fmtb := 0, sgna := true, sgnb := false } : MmaMod).ty == .n4) (e.g.fmtreg 0) && fmtFits (({ ty := .i8, new := true, nb := false, blk := 0, fmta := 0, fmtb := 0, sgna := true, sgnb := false } : MmaMod).ty == .n4) (e.g.fmtreg 0)))
        && tilesB e act ([(true, 1), (true, 2)] ++ if fresh then [] else aRegs rs) (aRegs rs) (if fresh then rs else []) rs) = true
    ∧ meets ((setScene 1).updTeam 2 fun t => { t with t := [(1, { inuse := true, dirty := true, data := [(0, 0x7F7F7F7F), (8, 0x80808080), (9, 0x7F)], writer := none })] }) (.asca hd0 0 1 1 0) (fun e act => !e.tileBound [1] [0, 1] && tilesB e act [(true, 1), (false, 1), (false, 0)] [(false, 0)] [] [0]) = true
    ∧ meets (setScene 1) (.ard hv ({ q := 1, qsel := true, f64 := false } : FragMod) (.v 8) 0) (fun e act => !e.tileBound [] (accRegs false 0) && tilesB e act (aRegs (accRegs false 0)) [] [] []) = true
    ∧ meets ((setScene 1).updGroup 3 fun g => { g with v := (List.range 64).map fun n => (n + 8, (List.range 64).map fun l => BitVec.ofNat 32 (n * 64 + l)) }) (.awr hd0 ({ q := 1, qsel := true, f64 := false } : FragMod) 0 (.v 8)) (fun e act => !e.tileBound [] (accRegs false 0) && tilesB e act [] (aRegs (accRegs false 0)) [] (accRegs false 0)) = true
    ∧ meets (setScene 1) (.ard hv ({ q := 0, qsel := false, f64 := true } : FragMod) (.v 64) 0) (fun e act => !e.tileBound [] (accRegs true 0) && tilesB e act (aRegs (accRegs true 0)) [] [] []) = true
    ∧ meets ((setScene 1).updGroup 3 fun g => { g with v := (List.range 64).map fun n => (n + 64, (List.range 64).map fun l => BitVec.ofNat 32 (n * 64 + l)) }) (.awr hd0 ({ q := 0, qsel := false, f64 := true } : FragMod) 0 (.v 64)) (fun e act => !e.tileBound [] (accRegs true 0) && tilesB e act [] (aRegs (accRegs true 0)) [] (accRegs true 0)) = true := by decide +kernel

theorem witness_MovesBegin :
    meets (mapScene) (.ald hd0 none false 3 0 (.s 2) (.s 4)) (fun e act => match amapOf (e.t.map 0) with
        | some m => !e.tileBound [] (accRegs false 3) && m.esz == (if false then 4 else 3) && mayMoveB e act (.ald hd0 none false 3 0 (.s 2) (.s 4)) none m none (e.w64 (lowLane act) (.s 2)) (e.w64 (lowLane act) (.s 4)) 32 [] (aRegs (accRegs false 3)) (accRegs false 3)
        | none => false) = true
    ∧ meets (mapScene) (.ald hd0 (some 2) true 2 1 (.s 2) (.s 4)) (fun e act => match amapOf (e.t.map 1) with
        | some m => !e.tileBound [] (accRegs true 2) && m.esz == (if true then 4 else 3) && mayMoveB e act (.ald hd0 (some 2) true 2 1 (.s 2) (.s 4)) (some 2) m none (e.w64 (lowLane act) (.s 2)) (e.w64 (lowLane act) (.s 4)) 32 [] (aRegs (accRegs true 2)) (accRegs true 2)
        | none => false) = true
    ∧ meets (setScene 1) (.ast hd0 (some 2) false 0 0 (.s 2) (.s 4)) (fun e act => match amapOf (e.t.map 0) with
        | some m => !e.tileBound [] (accRegs false 0) && m.esz == (if false then 4 else 3) && mayMoveB e act (.ast hd0 (some 2) false 0 0 (.s 2) (.s 4)) (some 2) m none (e.w64 (lowLane act) (.s 2)) (e.w64 (lowLane act) (.s 4)) 32 (aRegs (accRegs false 0)) [] []
        | none => false) = true
    ∧ meets (setScene 1) (.ast hd0 none true 0 1 (.s 2) (.s 4)) (fun e act => match amapOf (e.t.map 1) with
        | some m => !e.tileBound [] (accRegs true 0) && m.esz == (if true then 4 else 3) && mayMoveB e act (.ast hd0 none true 0 1 (.s 2) (.s 4)) none m none (e.w64 (lowLane act) (.s 2)) (e.w64 (lowLane act) (.s 4)) 32 (aRegs (accRegs true 0)) [] []
        | none => false) = true
    ∧ meets (mapScene) (.tld hd0 none false 3 0 31 (.s 2) (.s 4)) (fun e act => match amapOf (e.t.map 0) with
        | some m => !e.tileBound [3] [] && mayMoveB e act (.tld hd0 none false 3 0 31 (.s 2) (.s 4)) none m none (e.w64 (lowLane act) (.s 2)) (e.w64 (lowLane act) (.s 4)) 32 [] [(true, 3)] []
        | none => false) = true
    ∧ meets (mapScene) (.tld hd0 (some 5) false 7 2 0 (.s 2) (.s 4)) (fun e act => match amapOf (e.t.map 2) with
        | some m => !e.tileBound [7] [] && mayMoveB e act (.tld hd0 (some 5) false 7 2 0 (.s 2) (.s 4)) (some 5) m none (e.w64 (lowLane act) (.s 2)) (e.w64 (lowLane act) (.s 4)) 1 [] [(true, 7)] []
        | none => false) = true
    ∧ meets (mapScene) (.tld hd0 none true 3 0 31 (.s 2) (.s 4)) (fun e act => match amapOf (e.t.map 0) with
        | some m => true && (match (amapOf (e.t.map 3)) with | some md => md.tile && md.esz == m.esz | none => false) && mayMoveB e act (.tld hd0 none true 3 0 31 (.s 2) (.s 4)) none m (amapOf (e.t.map 3)) (e.w64 (lowLane act) (.s 2)) (e.w64 (lowLane act) (.s 4)) 32 [] [] []
        | none => false) = true
    ∧ meets (mapScene) (.tld hd0 (some 4) true 3 0 0 (.s 2) (.s 4)) (fun e act => match amapOf (e.t.map 0) with
        | some m => true && (match (amapOf (e.t.map 3)) with | some md => md.tile && md.esz == m.esz | none => false) && mayMoveB e act (.tld hd0 (some 4) true 3 0 0 (.s 2) (.s 4)) (some 4) m (amapOf (e.t.map 3)) (e.w64 (lowLane act) (.s 2)) (e.w64 (lowLane act) (.s 4)) 1 [] [] []
        | none => false) = true := by decide +kernel

theorem witness_GangRendezvous :
    (let s : State := gangScene false (mmaI 2)
     (match Tab.get? s.groups 3 with | some g => g.gang != 2 ^ g.gid | none => false) && ((gangTeam (mmaI 2) s).latches.all fun x => x.group != 3 || x.lanes == 7) && ((gangTeam (mmaI 2) s).latches.findSome? fun x => s.gangSet (gangTeam (mmaI 2) s) x.mask) == none) = true
    ∧ (let s : State := gangScene true (mmaI 2)
     (match Tab.get? s.groups 3 with | some g => g.gang != 2 ^ g.gid | none => false) && ((gangTeam (mmaI 2) s).latches.all fun x => x.group != 3 || x.lanes == 7) && (match ((gangTeam (mmaI 2) s).latches.findSome? fun x => s.gangSet (gangTeam (mmaI 2) s) x.mask) with
      | some xs =>
        let me : Latch := { group := 3, lanes := 7, mask := 3, instr := mmaI 2, pc := 0x1000 }
        xs.length == 2 && (xs.all fun x => s.gangAgree me x) && xs.all fun x => (s.env? x.group).isSome
      | none => false)) = true
    ∧ (let s : State := gangScene true (mmaI 5)
     (match Tab.get? s.groups 3 with | some g => g.gang != 2 ^ g.gid | none => false) && ((gangTeam (mmaI 2) s).latches.all fun x => x.group != 3 || x.lanes == 7) && (match ((gangTeam (mmaI 2) s).latches.findSome? fun x => s.gangSet (gangTeam (mmaI 2) s) x.mask) with | some xs => xs.any fun x => !s.gangAgree ({ group := 3, lanes := 7, mask := 3, instr := mmaI 2, pc := 0x1000 }) x | none => false)) = true
    ∧ (match scene.env? 3 with | some e => e.g.gang == 2 ^ e.g.gid | none => false) = true := by
  refine ⟨?_, ?_, ?_, ?_⟩ <;> decide +kernel

/-- No range that the operation reads overlaps the destination of another (R312, R367). -/
def attRoomB (e : Env) (act : Nat) (i : Instr) (m : AttMod) (src : KvSrc) (c : Opnd) (need : List Nat) : Bool :=
  match attSource e src (e.w64 (lowLane act) c / 2 ^ 32) with
  | .ok bs =>
    let f := tileEnv { e with st := (e.st.drain e.g.uid).1 } act need
    !(f.st.core f.t.core).lockWaits f.gr.ctx f.t.uid (attRangesOf f act i m src e (e.w64 (lowLane act) c) bs)
  | _ => false

theorem witness_AttentionBegins :
    meets (setScene 1) (.atts hd0 ({ nh := 0, f16 := false, hd := none, nk := 3 } : AttMod) false 0 1 (.map 2) (.s 4) 5 0) (fun e act => attRoomB e act (.atts hd0 ({ nh := 0, f16 := false, hd := none, nk := 3 } : AttMod) false 0 1 (.map 2) (.s 4) 5 0) ({ nh := 0, f16 := false, hd := none, nk := 3 } : AttMod) (.map 2) (.s 4) [0] && !e.tileBound ((List.range ((0 : BitVec 2).toNat + 1)).map (1 + ·) ++ [5]) (setRegs 0 ((0 : BitVec 2).toNat + 1)) && e.g.gang == 2 ^ e.g.gid
        && (match attSource e (.map 2) (e.w64 (lowLane act) (.s 4) / 2 ^ 32) with | .ok _ => true | _ => false)
        && (match (none : Option (BitVec 4)) with | some n => !e.createWaits n.toNat | none => true) && (e.st.drain e.g.uid).2
        && tilesB { e with st := (e.st.drain e.g.uid).1 } act (tRegs 1 ((0 : BitVec 2).toNat + 1) ++ [(false, 0)]) [(false, 0), (true, 5)] [] [0]) = true
    ∧ meets (setScene 1) (.attv hd0 ({ nh := 0, f16 := false, hd := none, nk := 3 } : AttMod) 0 5 (.map 2) (.s 4)) (fun e act => attRoomB e act (.attv hd0 ({ nh := 0, f16 := false, hd := none, nk := 3 } : AttMod) 0 5 (.map 2) (.s 4)) ({ nh := 0, f16 := false, hd := none, nk := 3 } : AttMod) (.map 2) (.s 4) (setRegs 0 1) && !e.tileBound [5] (setRegs 0 ((0 : BitVec 2).toNat + 1)) && e.g.gang == 2 ^ e.g.gid
        && (match attSource e (.map 2) (e.w64 (lowLane act) (.s 4) / 2 ^ 32) with | .ok _ => true | _ => false)
        && (match (none : Option (BitVec 4)) with | some n => !e.createWaits n.toNat | none => true) && (e.st.drain e.g.uid).2
        && tilesB { e with st := (e.st.drain e.g.uid).1 } act ((true, 5) :: aRegs (setRegs 0 ((0 : BitVec 2).toNat + 1))) (aRegs (setRegs 0 ((0 : BitVec 2).toNat + 1))) [] (setRegs 0 ((0 : BitVec 2).toNat + 1))
        && (let f := tileEnv { e with st := (e.st.drain e.g.uid).1 } act (setRegs 0 ((0 : BitVec 2).toNat + 1))
            decide ((f.t.accWords [0]).getD 16 0 ≠ 0 ∧ ((f.t.accWords [0]).getD 17 0).toNat = e.w64 (lowLane act) (.s 4) / 2 ^ 32 ∧ ((f.t.accWords [0]).getD 18 0).toNat = 3))) = true
    ∧ meets (setScene 1) (.atts hd0 ({ nh := 1, f16 := false, hd := (some 3), nk := 3 } : AttMod) false 0 1 (.desc (.s 2)) (.s 4) 5 0) (fun e act => attRoomB e act (.atts hd0 ({ nh := 1, f16 := false, hd := (some 3), nk := 3 } : AttMod) false 0 1 (.desc (.s 2)) (.s 4) 5 0) ({ nh := 1, f16 := false, hd := (some 3), nk := 3 } : AttMod) (.desc (.s 2)) (.s 4) [0] && !e.tileBound ((List.range ((1 : BitVec 2).toNat + 1)).map (1 + ·) ++ [5]) (setRegs 0 ((1 : BitVec 2).toNat + 1)) && e.g.gang == 2 ^ e.g.gid
        && (match attSource e (.desc (.s 2)) (e.w64 (lowLane act) (.s 4) / 2 ^ 32) with | .ok _ => true | _ => false)
        && (match ((some 3) : Option (BitVec 4)) with | some n => !e.createWaits n.toNat | none => true) && (e.st.drain e.g.uid).2
        && tilesB { e with st := (e.st.drain e.g.uid).1 } act (tRegs 1 ((1 : BitVec 2).toNat + 1) ++ [(false, 0)]) [(false, 0), (true, 5)] [] [0]) = true
    ∧ meets (setScene 1) (.attv hd0 ({ nh := 1, f16 := false, hd := (some 3), nk := 3 } : AttMod) 0 5 (.desc (.s 2)) (.s 4)) (fun e act => attRoomB e act (.attv hd0 ({ nh := 1, f16 := false, hd := (some 3), nk := 3 } : AttMod) 0 5 (.desc (.s 2)) (.s 4)) ({ nh := 1, f16 := false, hd := (some 3), nk := 3 } : AttMod) (.desc (.s 2)) (.s 4) (setRegs 0 2) && !e.tileBound [5] (setRegs 0 ((1 : BitVec 2).toNat + 1)) && e.g.gang == 2 ^ e.g.gid
        && (match attSource e (.desc (.s 2)) (e.w64 (lowLane act) (.s 4) / 2 ^ 32) with | .ok _ => true | _ => false)
        && (match ((some 3) : Option (BitVec 4)) with | some n => !e.createWaits n.toNat | none => true) && (e.st.drain e.g.uid).2
        && tilesB { e with st := (e.st.drain e.g.uid).1 } act ((true, 5) :: aRegs (setRegs 0 ((1 : BitVec 2).toNat + 1))) (aRegs (setRegs 0 ((1 : BitVec 2).toNat + 1))) [] (setRegs 0 ((1 : BitVec 2).toNat + 1))
        && (let f := tileEnv { e with st := (e.st.drain e.g.uid).1 } act (setRegs 0 ((1 : BitVec 2).toNat + 1))
            decide ((f.t.accWords [0]).getD 16 0 ≠ 0 ∧ ((f.t.accWords [0]).getD 17 0).toNat = e.w64 (lowLane act) (.s 4) / 2 ^ 32 ∧ ((f.t.accWords [0]).getD 18 0).toNat = 3))) = true := by decide +kernel

theorem witness_AttentionSets :
    meets (((setScene 0).updTeam 2 fun t => { t with a := t.a ++ [(4, { inuse := true, dirty := true, data := [(0, 0x3F800000), (2, 0x3F800000)], writer := none })] }).updGroup 3 fun g => g.setS 0 6 0x11F00) (.attmrg hd0 0 0 4 (.s 6)) (fun e act => let x := e.w64 (lowLane act) (.s 6)
        let rd := setRegs 0 1
        let rs := setRegs 4 1
        !e.tileBound [] (rd ++ rs) && tilesB e act (aRegs (rd ++ rs)) (aRegs rd) [] rd
        && decide (0 < x / 2 ^ 16 % 2 ^ 6 ∧ x % 2 ^ 5 + x / 2 ^ 16 % 2 ^ 6 ≤ 32 ∧ x / 2 ^ 8 % 2 ^ 5 + x / 2 ^ 16 % 2 ^ 6 ≤ 32 ∧ x = x % 2 ^ 5 + 2 ^ 8 * (x / 2 ^ 8 % 2 ^ 5) + 2 ^ 16 * (x / 2 ^ 16 % 2 ^ 6))
        && (let f := tileEnv e act rd
            decide ((f.t.accWords rd).getD 16 0 ≠ 1 ∧ (f.t.accWords rs).getD 16 0 ≠ 1))) = true
    ∧ meets (setScene 0) (.attfin hd0 0 0) (fun e act => let rd := setRegs 0 1
        !e.tileBound [] rd && tilesB e act (aRegs rd) (aRegs (rd.drop 1)) [] (rd.drop 1) && decide (((tileEnv e act (rd.drop 1)).t.accWords rd).getD 16 0 ≠ 1)) = true
    ∧ meets (setScene 1) (.arset hd0 1 0) (fun e act => !e.tileBound [] (setRegs 0 2) && tilesB e act [] (aRegs (setRegs 0 2)) (setRegs 0 2) (setRegs 0 2)) = true
    ∧ meets (seqScene) (.kvtr hv true (.v 8) (.s 2) (.imm 65)) (fun e act => (e.st.drain e.g.uid).2 && (lanesMade (fun s l => match s.kvLookup e.t.core e.gr.ctx e.t.uid e.gr.version 0 (e.w64 l (.s 2)) (e.w32 l (.imm 65)) true with
          | ((x, .ok), s) => .done x s
          | (_, s) => .wait s) (e.st.drain e.g.uid).1 (lanesOf act)).isSome) = true
    ∧ meets (seqScene) (.kvtr hv false (.s 8) (.s 2) (.s 12)) (fun e act => (e.st.drain e.g.uid).2 && (lanesMade (fun s l => match s.kvLookup e.t.core e.gr.ctx e.t.uid e.gr.version 0 (e.w64 l (.s 2)) (e.w32 l (.s 12)) false with
          | ((x, .ok), s) => .done x s
          | (_, s) => .wait s) (e.st.drain e.g.uid).1 (lanesOf act)).isSome) = true := by
  refine ⟨?_, ?_, ?_, ?_, ?_⟩ <;> decide +kernel

theorem witness_NarrowFormats :
    meets (sceneOf 7 fun g => (g.setV 3 7 fun l => BitVec.ofNat 32 (0x3F804123 + 77 * l)).setS 0 2 0x20FB8) (.cvtn hv .rn true .f32 false 1 (.v 5) (.v 3) 0) (fun e act => (lanesOf act).all fun l => fmtFits false (e.fmt 0 l) == true) = true
    ∧ meets (sceneOf 7 fun g => (g.setV 3 7 fun l => BitVec.ofNat 32 (0x3F804123 + 77 * l)).setS 0 2 0x20FB8) (.cvtn hv .rn false .f32 false 1 (.v 5) (.v 3) 0) (fun e act => (lanesOf act).all fun l => fmtFits false (e.fmt 0 l) == true) = true
    ∧ meets (sceneOf 7 fun g => (g.setV 3 7 fun l => BitVec.ofNat 32 (0x3F804123 + 77 * l)).setS 0 2 0x20FB8) (.cvtn hv .rz true .f16x2 true 2 (.v 5) (.v 3) 4) (fun e act => (lanesOf act).all fun l => fmtFits true (e.fmt 4 l) == true) = true
    ∧ meets (sceneOf 7 fun g => (g.setV 3 7 fun l => BitVec.ofNat 32 (0x3F804123 + 77 * l)).setS 0 2 0x20FB8) (.cvtn hv .rz false .f16x2 true 2 (.v 5) (.v 3) 4) (fun e act => (lanesOf act).all fun l => fmtFits true (e.fmt 4 l) == true) = true
    ∧ meets (sceneOf 7 fun g => (g.setV 3 7 fun l => BitVec.ofNat 32 (0x3F804123 + 77 * l)).setS 0 2 0x20FB8) (.cvtn hv .rs false .bf16x2 false 2 (.v 5) (.v 3) 1) (fun e act => (lanesOf act).all fun l => fmtFits false (e.fmt 1 l) == true) = true
    ∧ meets (sceneOf 0x700000007 fun g => (g.setV 3 0x700000007 fun l => BitVec.ofNat 32 (0x3F804123 + 77 * l)).setS 0 2 0x20FB8) (.qnt hv .rn false (.v 9) (.v 3) 0) (fun e act => (lanesOf act).all fun l => fmtFits false (e.fmt 0 l) == true) = true
    ∧ meets (sceneOf 0x700000007 fun g => (g.setV 3 0x700000007 fun l => BitVec.ofNat 32 (0x3F804123 + 77 * l)).setS 0 2 0x20FB8) (.qnt hv .rs true (.v 9) (.v 3) 4) (fun e act => (lanesOf act).all fun l => fmtFits true (e.fmt 4 l) == true) = true
    ∧ meets (sceneOf 7 fun g => (g.setV 3 7 fun l => BitVec.ofNat 32 (0x3F804123 + 77 * l)).setS 0 2 0x20FB8) (.cvtn hv .rn true .f32 true 1 (.v 5) (.v 3) 0) (fun e act => (lanesOf act).all fun l => fmtFits true (e.fmt 0 l) == false) = true
    ∧ meets (sceneOf 7 fun g => (g.setV 3 7 fun l => BitVec.ofNat 32 (0x3F804123 + 77 * l)).setS 0 2 0x20FB8) (.cvtn hv .rn false .f32 true 1 (.v 5) (.v 3) 0) (fun e act => (lanesOf act).all fun l => fmtFits true (e.fmt 0 l) == false) = true
    ∧ meets (sceneOf 7 fun g => (g.setV 3 7 fun l => BitVec.ofNat 32 (0x3F804123 + 77 * l)).setS 0 2 0x20FB8) (.qnt hv .rn true (.v 5) (.v 3) 0) (fun e act => (lanesOf act).all fun l => fmtFits true (e.fmt 0 l) == false) = true
    ∧ meets (sceneOf 7 fun g => (g.setV 3 7 fun l => BitVec.ofNat 32 (0x3F804123 + 77 * l)).setS 0 2 0x20FB8) (.fmtset hd0 5 (.s 2)) (fun e act => fmtValid (e.w64 (lowLane act) (.s 2))) = true
    ∧ meets (sceneS 2 3) (.fmtset hd0 5 (.s 2)) (fun e act => !fmtValid (e.w64 (lowLane act) (.s 2))) = true := by decide +kernel

/-- The record at an address is taken, in a caller whose stores are performed, and what is then found meets `ok`. -/
def takesB (e : Env) (va : Nat) (ok : Taken → State → Bool) : Bool :=
  let r := e.st.release e.g.uid .device
  let x := r.1.takeRecord e.gr.home e.gr.ctx e.gr.version va
  va % 64 == 0 && r.2 && ok x.1 x.2

def isOk : Taken → Bool | .ok _ => true | _ => false

def isBad : Taken → Bool | .bad _ => true | _ => false

/-- The queue is open, of the caller's context. -/
def openB (e : Env) (u : State) (q : Nat) : Bool :=
  match Tab.get? u.queues q with | some k => !k.closed && k.desc.ctx.toNat == e.gr.ctx | none => false

/-- No record of the die can be buffered: as many are held as there are buffers. -/
def fullBuffers : Queue := { queueOf true .running with desc := { (queueOf true .running).desc with qcap := 0 } }

theorem witness_Launches :
    meets (launchScene (queueOf true .running) 0 id) (.launch hv (.s 8) (.s 2) false) (fun e act =>
      takesB e (e.w64 (lowLane act) (.s 2)) fun x u => isOk x && openB e u e.gr.queue && decide (e.gr.level < 4) && u.canBuffer e.gr.queue) = true
    ∧ meets (launchScene (queueOf true .running) 16 id) (.launch hv (.s 8) (.s 2) true) (fun e act => takesB e (e.w64 (lowLane act) (.s 2)) fun x _ => isBad x) = true
    ∧ meets (launchScene (queueOf true .destroyed) 0 id) (.launch hv (.s 8) (.s 2) true) (fun e act =>
      takesB e (e.w64 (lowLane act) (.s 2)) fun x u => isOk x && match Tab.get? u.queues e.gr.queue with | some k => k.closed | none => false) = true
    ∧ meets (launchScene (queueOf true .running) 0 fun g => { g with level := 4 }) (.launch hv (.s 8) (.s 2) true) (fun e act =>
      takesB e (e.w64 (lowLane act) (.s 2)) fun x u => isOk x && openB e u e.gr.queue && decide (4 ≤ e.gr.level)) = true
    ∧ meets (launchScene fullBuffers 0 id) (.launch hv (.s 8) (.s 2) true) (fun e act =>
      takesB e (e.w64 (lowLane act) (.s 2)) fun x u => isOk x && openB e u e.gr.queue && decide (e.gr.level < 4) && !u.canBuffer e.gr.queue) = true
    ∧ meets (sceneS 2 0x4048) (.launch hv (.s 8) (.s 2) false) (fun e act => e.w64 (lowLane act) (.s 2) % 64 != 0) = true
    ∧ meets (launchScene (queueOf true .running) 0 id) (.enq hv (.s 8) (.s 4) (.s 2) false) (fun e act =>
      takesB e (e.w64 (lowLane act) (.s 2)) fun x u => isOk x && openB e u 7 && e.w64 (lowLane act) (.s 4) % 2 ^ 12 == 7 && u.canBuffer 7
        && match Tab.get? u.queues 7 with | some k => k.desc.feed | none => false) = true
    ∧ meets (launchScene (queueOf false .running) 0 id) (.enq hv (.s 8) (.s 4) (.s 2) false) (fun e act =>
      takesB e (e.w64 (lowLane act) (.s 2)) fun x u => isOk x && e.w64 (lowLane act) (.s 4) % 2 ^ 12 == 7
        && match Tab.get? u.queues 7 with | some k => !k.desc.feed | none => false) = true
    ∧ meets ((launchScene (queueOf true .running) 0 id).updGroup 3 fun g => g.setS 0 4 9) (.enq hv (.s 8) (.s 4) (.s 2) false) (fun e act =>
      takesB e (e.w64 (lowLane act) (.s 2)) fun x u => isOk x && (Tab.get? u.queues (e.w64 (lowLane act) (.s 4) % 2 ^ 12)).isNone) = true
    ∧ meets (launchScene (queueOf true .running) 16 id) (.enq hv (.s 8) (.s 4) (.s 2) false) (fun e act => takesB e (e.w64 (lowLane act) (.s 2)) fun x _ => isBad x) = true
    ∧ meets (launchScene fullBuffers 0 id) (.enq hv (.s 8) (.s 4) (.s 2) true) (fun e act =>
      takesB e (e.w64 (lowLane act) (.s 2)) fun x u => isOk x && openB e u 7 && !u.canBuffer 7 && match Tab.get? u.queues 7 with | some k => k.desc.feed | none => false) = true
    ∧ meets (sceneS 2 0x4048) (.enq hv (.s 8) (.s 4) (.s 2) false) (fun e act => e.w64 (lowLane act) (.s 2) % 64 != 0) = true
    ∧ meets (launchScene (queueOf true .running) 0 id) (.qstat hv (.s 8) (.s 4) true) (fun _ _ => true) = true
    ∧ meets (launchScene (queueOf true .running) 0 id) (.qstat hv (.s 8) (.s 4) false) (fun _ _ => true) = true := by
  refine ⟨?_, ?_, ?_, ?_, ?_, ?_, ?_, ?_, ?_, ?_, ?_, ?_, ?_, ?_⟩ <;> decide +kernel

/-- A SPLNCH passes its checks, its caller's stores are performed, and what it has taken meets `ok`, with the versions as they then stand. -/
def speculates (e : Env) (act : Nat) (ok : Taken → State → Tr → Bool) : Bool :=
  let va := e.w64 (lowLane act) (.s 6)
  let p := e.st.predCheck e va
  va % 8 == 0 && decide (va < 2 ^ 49) && (e.st.splaunching e.g.uid act (e.pc (lowLane act)).toNat).isNone && match p.1 with
    | .pass pl => takesB { e with st := p.2 } (e.w64 (lowLane act) (.s 2)) fun x v => ok x v.sweepVersions pl
    | _ => false

def shutB (e : Env) (y : State) : Bool := match Tab.get? y.queues e.gr.queue with | some k => k.closed | none => true

def verFullB (e : Env) (y : State) : Bool :=
  let c := y.eff e.gr.version
  (match Tab.get? y.versions c with | some x => x.state == 3 || x.state == 4 | none => false) || !y.verRoom e.gr.ctx c || y.freeNum.isNone

def twinB (e : Env) (y : State) (slot pred : Nat) : Bool := (y.versions : List (Nat × Ver)).any fun x =>
  x.2.ctx == e.gr.ctx && y.eff x.2.parent == y.eff e.gr.version && x.2.slot == slot && x.2.opened && x.2.state == 0 && x.2.pred == pred

/-- The version is made and its child launched, or not. -/
def launchesB (e : Env) (act : Nat) (y : State) (pl : Tr) (x : Taken) (made : Bool) : Bool :=
  match x, y.freeNum with
  | .ok r, some n =>
    let v : Ver := { ctx := e.gr.ctx, state := 0, parent := y.eff e.gr.version, slot := 3, opened := true, pred := 5, target := 0, launchVa := e.w64 (lowLane act) (.s 6) }
    (({ y with versions := Tab.set y.versions n v } : State).splaunch e (e.writer (lowLane act)) n 5 pl r).1.isSome == made
  | _, _ => false

def splI (nb : Bool) : Instr := .splnch hv (.s 8) (.s 2) (.v 0) (.s 6) 3 false nb 5

/-- Version 0x11 of the scene stands in the same decision slot with prediction 5. -/
def twinScene (pred slot : Nat) : State := { launchScene (queueOf true .running) 0 id with versions := [(0x11, { verOf pred 0 with slot })] }

/-- No way of a set and no place of the pool is left to a version's lines. -/
def noWays (s : State) : State := { s with vways := [0, 0] }

theorem witness_SpeculativeLaunch :
    meets (launchScene (queueOf true .running) 0 id) (splI false) (fun e act => speculates e act fun x y pl =>
      isOk x && decide (e.gr.level < 4) && !shutB e y && !verFullB e y && !twinB e y 3 5 && y.canBuffer e.gr.queue && launchesB e act y pl x true) = true
    ∧ meets (noWays (launchScene (queueOf true .running) 0 id)) (splI false) (fun e act => speculates e act fun x y pl =>
      isOk x && decide (e.gr.level < 4) && !shutB e y && !verFullB e y && !twinB e y 3 5 && y.canBuffer e.gr.queue && launchesB e act y pl x false) = true
    ∧ meets (twinScene 5 9) (splI false) (fun e act => speculates e act fun x y pl =>
      isOk x && decide (e.gr.level < 4) && !shutB e y && !verFullB e y && !twinB e y 3 5 && y.canBuffer e.gr.queue && launchesB e act y pl x true) = true
    ∧ (let s := launchScene (queueOf true .running) 0 id
       meets { s with versions := [(0x11, { verOf 5 0 with slot := 3, launching := some (.lane 3 0 0x1000, recordOf), launchVa := 0x5000 })] } (splI false) (fun e act =>
        match e.st.splaunching e.g.uid act (e.pc (lowLane act)).toNat with
        | some (n, born, r) =>
          let p := e.st.predCheck e born.launchVa
          n == 0x11 && born.pred == 5 && r == recordOf && match p.1 with
            | .pass pl => (p.2.splaunch e (e.writer (lowLane act)) n born.pred pl r).1.isSome
            | _ => false
        | none => false)) = true
    ∧ (let s := noWays (launchScene (queueOf true .running) 0 id)
       meets { s with versions := [(0x11, { verOf 5 0 with slot := 3, launching := some (.lane 3 0 0x1000, recordOf), launchVa := 0x5000 })] } (splI false) (fun e act =>
        match e.st.splaunching e.g.uid act (e.pc (lowLane act)).toNat with
        | some (n, born, r) =>
          let p := e.st.predCheck e born.launchVa
          n == 0x11 && born.pred == 5 && r == recordOf && match p.1 with
            | .pass pl => (p.2.splaunch e (e.writer (lowLane act)) n born.pred pl r).1.isNone
            | _ => false
        | none => false)) = true
    -- the version has been squashed meanwhile
    ∧ (let u : State := { launchScene (queueOf true .running) 0 id with versions := [(0x11, { verOf 5 3 with slot := 3, launching := some (.lane 3 0 0x1000, recordOf) })] }
       match Tab.get? u.versions 0x11 with | some x => x.state == 3 || x.state == 4 | none => false) = true
    ∧ meets (launchScene (queueOf true .running) 16 id) (splI false) (fun e act => speculates e act fun x _ _ => isBad x) = true
    ∧ meets (launchScene (queueOf true .running) 0 fun g => { g with level := 4 }) (splI false) (fun e act => speculates e act fun x _ _ => isOk x && decide (4 ≤ e.gr.level)) = true
    ∧ meets (launchScene (queueOf true .destroyed) 0 id) (splI false) (fun e act => speculates e act fun x y _ => isOk x && decide (e.gr.level < 4) && shutB e y) = true
    ∧ meets { launchScene (queueOf true .running) 0 (fun g => { g with version := 0x11 }) with versions := [(0x11, verOf 7 3)] } (splI false) (fun e act =>
      speculates e act fun x y _ => isOk x && decide (e.gr.level < 4) && !shutB e y && verFullB e y) = true
    ∧ meets (twinScene 5 3) (splI false) (fun e act => speculates e act fun x y _ =>
      isOk x && decide (e.gr.level < 4) && !shutB e y && !verFullB e y && twinB e y 3 5) = true
    ∧ meets (launchScene fullBuffers 0 id) (splI true) (fun e act => speculates e act fun x y _ =>
      isOk x && decide (e.gr.level < 4) && !shutB e y && !verFullB e y && !twinB e y 3 5 && !y.canBuffer e.gr.queue) = true
    ∧ meets (sceneS 2 0x4048) (splI false) (fun e act => e.w64 (lowLane act) (.s 2) % 64 != 0) = true
    ∧ meets ((sceneS 2 0x4040).updGroup 3 fun g => g.setS 0 6 (0x5004)) (splI false) (fun e act => e.w64 (lowLane act) (.s 2) % 64 == 0 && (e.w64 (lowLane act) (.s 6) % 8 != 0 || decide (2 ^ 49 ≤ e.w64 (lowLane act) (.s 6)))) = true
    ∧ meets ((sceneS 2 0x4040).updGroup 3 fun g => g.setS 0 6 (2 ^ 49)) (splI false) (fun e act => e.w64 (lowLane act) (.s 2) % 64 == 0 && (e.w64 (lowLane act) (.s 6) % 8 != 0 || decide (2 ^ 49 ≤ e.w64 (lowLane act) (.s 6)))) = true := by
  refine ⟨?_, ?_, ?_, ?_, ?_, ?_, ?_, ?_, ?_, ?_, ?_, ?_, ?_, ?_, ?_⟩ <;> decide +kernel

/-- A line of version 0x11 whose home half the host holds. -/
def heldJoin : State :=
  let s := verScene id
  let at_ := physLoc 0 (2 ^ 30 + 0x4000)
  { s with vlines := [{ ver := 0x11, line := at_ / 128, bytes := [(3, 7)], spilled := false, used := 1 }], port := { s.port with lines := [(at_ / 128, bridgeOf true 0)] } }

/-- A line of version `v` is sealed. -/
def sealedJoin (s : State) (v : Nat) : State :=
  { s with seals := [sealOf none false], vlines := [{ ver := v, line := physLoc 0 (2 ^ 30 + 0x400) / 128, bytes := [(3, 7)], spilled := false, used := 1 }] }

theorem witness_Resolution :
    meets ({ verScene (fun g => { g with version := 0x11 }) with versions := [(0x11, verOf 0x11 3)] }) (.resolve hv (.s 8) (.s 2) (.s 4) 2) (fun e _ => e.st.dying (e.st.eff e.gr.version)) = true
    ∧ meets (verScene id) (.resolve hv (.s 8) (.s 2) (.s 4) 3) (fun e _ => !e.st.dying (e.st.eff e.gr.version) && ((e.st.versions : List (Nat × Ver)).filter fun x => (fun (x : Ver) => x.ctx == e.gr.ctx && e.st.eff x.parent == e.st.eff e.gr.version && x.slot == 3 && x.opened) x.2 && x.2.state == 0) == []) = true
    ∧ meets ((verScene id).updGroup 3 fun g => g.setS 0 2 0x11) (.resolve hv (.s 8) (.s 2) (.s 4) 2) (fun e _ => !e.st.dying (e.st.eff e.gr.version) && ((e.st.versions : List (Nat × Ver)).filter fun x => (fun (x : Ver) => x.ctx == e.gr.ctx && e.st.eff x.parent == e.st.eff e.gr.version && x.slot == 2 && x.opened) x.2 && x.2.state == 0) != [] && !e.st.sweepVersions.joinSealed 0x11 0 && (e.st.sweepVersions.joinHeld 0x11 0).isNone) = true
    -- the host holds the half in which a versioned byte of the child is to go
    ∧ meets (heldJoin.updGroup 3 fun g => g.setS 0 2 0x11) (.resolve hv (.s 8) (.s 2) (.s 4) 2) (fun e _ => !e.st.dying (e.st.eff e.gr.version) && !e.st.sweepVersions.joinSealed 0x11 0 && (e.st.sweepVersions.joinHeld 0x11 0).isSome) = true
    -- a line of it is sealed
    ∧ meets ((sealedJoin (verScene id) 0x11).updGroup 3 fun g => g.setS 0 2 0x11) (.resolve hv (.s 8) (.s 2) (.s 4) 2) (fun e _ => !e.st.dying (e.st.eff e.gr.version) && e.st.sweepVersions.joinSealed 0x11 0) = true
    ∧ meets (verScene id) (.vqry hv (.s 8) (.v 0) true) (fun _ _ => true) = true
    ∧ meets ((verScene id).updGroup 3 fun g => g.setS 0 2 0x11) (.vqry hv (.s 8) (.s 2) false) (fun _ _ => true) = true
    ∧ meets ((verScene id).updGroup 3 fun g => g.setS 0 2 0x10000) (.vabort hv (.s 8) (.s 2)) (fun e act => (e.w64 (lowLane act) (.s 2) % 2 ^ 16) == 0) = true
    ∧ meets ((verScene id).updGroup 3 fun g => g.setS 0 2 0x13) (.vabort hv (.s 8) (.s 2)) (fun e act => (e.w64 (lowLane act) (.s 2) % 2 ^ 16) != 0 && (match Tab.get? e.st.versions (e.w64 (lowLane act) (.s 2) % 2 ^ 16) with | some x => x.state != 0 || x.ctx != e.gr.ctx || (e.st.eff e.gr.version != 0 && !e.st.under (e.st.eff e.gr.version) 1100 (e.w64 (lowLane act) (.s 2) % 2 ^ 16)) | none => true)) = true
    ∧ meets (verScene id) (.vabort hv (.s 8) (.s 2)) (fun e act => (e.w64 (lowLane act) (.s 2) % 2 ^ 16) != 0 && (match Tab.get? e.st.versions (e.w64 (lowLane act) (.s 2) % 2 ^ 16) with | some x => x.state == 0 && x.ctx == e.gr.ctx && (e.st.eff e.gr.version == 0 || e.st.under (e.st.eff e.gr.version) 1100 (e.w64 (lowLane act) (.s 2) % 2 ^ 16)) | none => false)) = true := by decide +kernel

/-- The link to device 1 trains; every lane waits for it. -/
def trainScene : State := { fabScene with links := [(1, { linkUp with state := .training })] }
def fabWaits (e : Env) (act n : Nat) (addr : Nat → Nat) : Bool :=
  (lanesOf act).all fun l => !fabBad (addr l) && addr l % n == 0 && !(e.st.link (fabDevice (addr l))).refuses && (e.st.link (fabDevice (addr l))).state == .training

theorem witness_RemoteAccesses :
    meets (fabScene) (.rld hv .b64 true 3 (.v 8) (.s 2) (.imm 64) 8) (fun e act => (lanesOf act).all fun l => e.st.rCheck e false (((lanesOf act).map fun l => (l, Env.rAddr (.s 2) (.imm 64) 8 e l)).filter fun x => decide (x.1 < l)) l (Env.rAddr (.s 2) (.imm 64) 8 e l) 8 3 == .ok) = true
    ∧ meets (fabScene) (.ratom hv .cas true false true 3 (.v 8) (.s 2) (.imm 7) (.imm 9) 8) (fun e act => (lanesOf act).all fun l => e.st.rCheck e true (((lanesOf act).map fun l => (l, Env.litAddr (.s 2) 8 true e l)).filter fun x => decide (x.1 < l)) l (Env.litAddr (.s 2) 8 true e l) 4 3 == .ok) = true
    ∧ meets (fabScene) (.rld hv .b64 false 3 (.v 8) (.s 2) (.imm 64) 8) (fun e act => (lanesOf act).all fun l => e.st.rCheck e false (((lanesOf act).map fun l => (l, Env.rAddr (.s 2) (.imm 64) 8 e l)).filter fun x => decide (x.1 < l)) l (Env.rAddr (.s 2) (.imm 64) 8 e l) 8 3 == .ok) = true
    ∧ meets (fabScene) (.ratom hv .cas true false false 3 (.v 8) (.s 2) (.imm 7) (.imm 9) 8) (fun e act => (lanesOf act).all fun l => e.st.rCheck e true (((lanesOf act).map fun l => (l, Env.litAddr (.s 2) 8 true e l)).filter fun x => decide (x.1 < l)) l (Env.litAddr (.s 2) 8 true e l) 4 3 == .ok) = true
    ∧ meets (fabScene) (.rst hd0 .b64 3 (.s 2) (.imm 64) (.v 8) 8) (fun e act => (lanesOf act).all fun l => e.st.rCheck e false (((lanesOf act).map fun l => (l, Env.rAddr (.s 2) (.imm 64) 8 e l)).filter fun x => decide (x.1 < l)) l (Env.rAddr (.s 2) (.imm 64) 8 e l) 8 3 == .ok) = true
    ∧ meets trainScene (.rld hv .b64 true 3 (.v 8) (.s 2) (.imm 64) 8) (fun e act => fabWaits e act 8 (Env.rAddr (.s 2) (.imm 64) 8 e)) = true
    ∧ meets trainScene (.rst hd0 .b64 3 (.s 2) (.imm 64) (.v 8) 8) (fun e act => fabWaits e act 8 (Env.rAddr (.s 2) (.imm 64) 8 e)) = true
    ∧ meets trainScene (.ratom hv .cas true false true 3 (.v 8) (.s 2) (.imm 7) (.imm 9) 8) (fun e act => fabWaits e act 4 (Env.litAddr (.s 2) 8 true e)) = true := by decide +kernel

theorem witness_RemoteStreams :
    meets (fabScene) (.rcopy hd0 .g true 3 1 (.s 2) (.s 4) (.s 6) 0) (fun e act => let o := ({
        team := e.t.uid, group := e.g.uid, fid := 0, op := 0, dsp := .g, ssp := .g, dst := e.w64 (lowLane act) (.s 2)
        src := e.w64 (lowLane act) (.s 4)
        rowlen := e.w64 (lowLane act) (.s 6), rows := 1, dstr := 0, sstr := 0, stream := 3, sent := 0
        unacked := [], paused := false } : CopyOp)
        e.st.rcopyTrap e o == none && !e.createWaits 1 && !e.c.lockWaits e.gr.ctx e.t.uid (o.ranges.drop 1) && (e.st.link (fabDevice o.dst)).state != .training && (e.st.drain e.g.uid).2) = true
    ∧ meets (fabScene) (.rcopy hd0 .g false 3 1 (.s 2) (.s 4) (.v 0) 512) (fun e act => let o := ({
        team := e.t.uid, group := e.g.uid, fid := 0, op := 0, dsp := .g, ssp := .g, dst := e.w64 (lowLane act) (.s 2)
        src := e.w64 (lowLane act) (.s 4)
        rowlen := (512 : BitVec 32).toNat, rows := 1, dstr := 0, sstr := 0, stream := 3, sent := 0
        unacked := [], paused := false } : CopyOp)
        e.st.rcopyTrap e o == none && !e.createWaits 1 && !e.c.lockWaits e.gr.ctx e.t.uid (o.ranges.drop 1) && (e.st.link (fabDevice o.dst)).state != .training && (e.st.drain e.g.uid).2) = true
    ∧ meets (fabScene) (.srel hd0 3 (.s 6) (.s 2)) (fun e act => let va := e.w64 (lowLane act) (.s 2)
        let t := (e.st.drain e.g.uid).1
        let latch := t.latches.find? fun x => x.ctx == e.gr.ctx && x.peer == fabDevice va && x.stream == 3
        va % 8 == 0 && !fabBad va && !(e.st.link (fabDevice va)).refuses && (e.st.link (fabDevice va)).state != .training && (e.st.drain e.g.uid).2 && latch == none && !t.lineBusy e.gr.uid (e.itemRanges act) va 3 && t.windowRoom (fabDevice va) 3 1) = true
    ∧ meets ({ fabScene with latches := [{ ctx := 0, peer := 1, stream := 3, addr := 64 }] }) (.srel hd0 3 (.s 6) (.s 2)) (fun e act => let va := e.w64 (lowLane act) (.s 2)
        let t := (e.st.drain e.g.uid).1
        let latch := t.latches.find? fun x => x.ctx == e.gr.ctx && x.peer == fabDevice va && x.stream == 3
        va % 8 == 0 && !fabBad va && !(e.st.link (fabDevice va)).refuses && (e.st.link (fabDevice va)).state != .training && (e.st.drain e.g.uid).2 && latch == some { ctx := 0, peer := 1, stream := 3, addr := 64 }) = true
    ∧ meets (fabScene) (.rjoin hd0 15) (fun _ _ => true) = true
    ∧ meets (fabScene.updGroup 3 fun g => g.setS 0 2 0x301) (.lnkq hv true (.s 8) (.s 2)) (fun _ _ => true) = true
    ∧ meets (fabScene.updGroup 3 fun g => g.setS 0 2 0x301) (.lnkq hv false (.s 8) (.s 2)) (fun _ _ => true) = true := by decide +kernel

/-- A pending access may be performed now, and the host holds no half of it. -/
def freeB (s : State) (n : Nat) (ok : PStore → Bool) : Bool :=
  match Tab.get? s.stores n with
  | some p => s.mayPerform n && (s.pieceHeld p).isNone && ok p
  | none => false

theorem witness_ResultsLand :
    (let s : State := { quiet with flights := [(9, flightOf none)] }
     (match Tab.get? s.flights 9 with | some f => f.due == none && !f.landed && f.group == 3 | none => false) && !s.owedFlight 9) = true
    ∧ (let x : PStore := { storeOf none [{ pieceOf none 0 [1, 2] with loc := 5 }] with group := 9, inTeam := some (2, false) }
       let y : PStore := { storeOf none [{ pieceOf none 0 [1, 2] with loc := 9 }] with inTeam := some (2, false) }
       let s : State := { quiet with stores := [(19, x), (20, y)] }
       Tab.get? s.stores 20 == some y && Tab.get? s.stores 19 == some x && y.inTeam.isSome && x.core == y.core && !PStore.halves 19 x 20 y) = true
    ∧ freeB { quiet with stores := [(20, storeOf none [pieceOf none 0x100 (leBytes 8 0x1122334455667788), pieceOf none 0x104 [1, 2]])] } 20
        (fun p => p.atomic.isNone && p.load.isNone) = true
    ∧ freeB { quiet with stores := [(19, storeOf none [pieceOf none 0x100 (leBytes 8 1)]), (20, { storeOf none [pieceOf none 0x108 (leBytes 8 2)] with twin := some 19 })] } 20
        (fun p => p.atomic.isNone && p.load.isNone && p.twin == some 19) = true
    ∧ freeB { quiet with stores := [(20, { storeOf none [{ pieceOf none 0 [1, 2] with loc := 5 }] with inTeam := some (2, false) })] } 20
        (fun p => p.atomic.isNone && p.load.isNone && p.inTeam.isSome) = true
    ∧ freeB { quiet with stores := [(19, storeOf none [pieceOf none 0x110 (leBytes 8 1)]), (20, { storeOf none [pieceOf none 0x100 (leBytes 4 0)] with load := some (.b32, .v 2, 9) })]
                         flights := [(9, flightOf none)] } 20 (fun p => p.load.isSome && (Tab.get? quiet.spans 3).isNone) = true
    ∧ (let s : State := spanScene id
       freeB { s with stores := [(19, { storeOf none [pieceOf none 0x108 (leBytes 8 0)] with group := 40, load := some (.b64, .v 4, 0), twin := some 20 }),
                                 (20, { storeOf none [pieceOf none 0x100 (leBytes 8 0)] with group := 40, load := some (.b64, .v 2, 0), twin := some 19 })] } 20
         (fun p => p.load.isSome && (Tab.get? s.spans p.group).isSome && p.pieces.length == 1)) = true
    ∧ freeB { quiet with stores := [(20, storeOf (some ({ op := .add, sgn := false, x64 := false, scope := .group, ord := .rlx }, .v 2, 9)) [pieceOf none 0x100 (leBytes 4 0), pieceOf none 0x100 (leBytes 4 0)])]
                         flights := [(9, flightOf none)] } 20 (fun p => p.atomic.isSome && p.load.isNone) = true
    ∧ (([5, 63] : List Nat).all fun l =>
       let s := quiet.updGroup 3 fun g => g.updLanes (2 ^ l) fun _ x => { x with block := .mwait (some 1) (.v 2) 9 }
       match s.env? 3 with | some e => (e.g.lane l).block == .mwait (some 1) (.v 2) 9 && decide (1 ≤ e.c.now + 1) | none => false) = true
    ∧ (([5, 63] : List Nat).all fun l =>
       let s := quiet.updGroup 3 fun g => g.updLanes (2 ^ l) fun _ x => { x with block := .yield 1 }
       match s.env? 3 with | some e => (e.g.lane l).block == .yield 1 && decide (1 ≤ e.c.now + 1) | none => false) = true
    ∧ (let s : State := (quiet.updGroup 3 fun g => g.updLanes 3 fun _ x => { x with block := .rgrow }).updCore 0 fun c => { c with rgrowq := [(3, 3, 240, 0), (9, 1, 1, 1)] }
     (s.core 0).rgrowq == [(3, 3, 240, 0), (9, 1, 1, 1)] && decide (s.coreV 0 + 8 * 240 ≤ 2560)) = true
    ∧ (let s : State := (quiet.updGroup 3 fun g => g.updLanes 3 fun _ x => { x with block := .tsalloc 8 }).updCore 0 fun c => { c with tsallocq := [(9, 0, 1), (3, 0x1000, 56)] }
     s.tsWaits 0 == [(3, 0x1000, 56)] && decide (56 ≤ s.tsFree 0)) = true
    ∧ (let two : List (Nat × Nat × Nat × Nat) := [(2, 1, 3, 3), (1, 1, 3, 4)]
       let s := (quiet.updGroup 3 fun g => g.updLanes 7 fun _ x => { x with block := .tsfree }).updTeam 2 fun t => { t with freeing := two, granules := 1, store := [(0, 1), (40000, 2)] }
       let s := s.updCore 0 fun c => { c with locks := [{ team := 2, ctx := 0, space := 2, low := 16384, high := 16388, dest := true, op := 9 }] }
       match Tab.get? s.teams 2 with | some t => (t.freeing.filter fun x => s.slotsQuiet t x.1 x.2.1) == [(2, 1, 3, 3)] | none => false) = true
    ∧ (match Tab.get? quiet.teams 2 with | some t => (t.freeing.filter fun x => quiet.slotsQuiet t x.1 x.2.1) == [] | none => false) = true
    ∧ (let s : State := (quiet.updGroup 3 fun g => g.updLanes 3 fun _ x => { x with block := .retry }).updCore 0 fun c => { c with accq := [(3, 0x1000)] }
     s.accHead 0 == some (3, 0x1000) && s.accFree 0 != 0) = true := by
  refine ⟨?_, ?_, ?_, ?_, ?_, ?_, ?_, ?_, ?_, ?_, ?_, ?_, ?_, ?_⟩ <;> decide +kernel

theorem witness_Voting :
    (decide (0 < 256)) = true
    ∧ (decide (255 < 256)) = true
    ∧ (decide (0 < 2)) = true
    ∧ (decide (1 < 2)) = true
    ∧ (decide (258 ≤ 258)) = true := by decide +kernel

theorem witness_EnginesCopy :
    (let s : State := copyScene (fut 1 1 false) 4096
     match (Tab.get (s.core 0).channels 1 []), s.futureOf 2 9 with
    | o :: q, some f =>
      let n := o.beat f.wptr
      let r := s.engRead 0 (s.teamView 2).1 (s.teamView 2).2 2 o.ssp o.kept (o.srcAt f.wptr) (n / 4)
      let w := r.2.engChecks 0 (s.teamView 2).1 (s.teamView 2).2 2 o.op o.dsp (o.dstAt f.wptr) (n / 4)
      ((o :: q).all fun x => match s.futureOf x.team x.fid with | some f => !f.cancel | none => false) && !o.paused && r.1.2 == .ok && w.1.2 == .ok && decide (f.wptr + n < o.total)
    | _, _ => false) = true
    ∧ (let s : State := copyScene { fut 2 1 false with wptr := 0 } 4
     match (Tab.get (s.core 0).channels 1 []), s.futureOf 2 9 with
    | o :: q, some f =>
      let n := o.beat f.wptr
      let r := s.engRead 0 (s.teamView 2).1 (s.teamView 2).2 2 o.ssp o.kept (o.srcAt f.wptr) (n / 4)
      let w := r.2.engChecks 0 (s.teamView 2).1 (s.teamView 2).2 2 o.op o.dsp (o.dstAt f.wptr) (n / 4)
      ((o :: q).all fun x => match s.futureOf x.team x.fid with | some f => !f.cancel | none => false) && !o.paused && r.1.2 == .ok && w.1.2 == .ok && decide (o.total ≤ f.wptr + n)
    | _, _ => false) = true
    ∧ (let s : State := ((copyScene { fut 2 1 false with cancel := true } 4096).updTeam 2 fun t => { t with futures := (8, fut 2 1 false) :: t.futures }).updCore 0 fun c =>
        { c with channels := [(1, [{ copyOpOf 8 4096 with op := 10 }, copyOpOf 9 4096])] }
     let q := Tab.get (s.core 0).channels 1 []
     (match (q.find? fun x => match s.futureOf x.team x.fid with | some f => f.cancel | none => true), s.futureOf 2 9 with
      | some o, some f => f.cancel && o == copyOpOf 9 4096 && !(q.head?.any fun x => x.op == o.op) | _, _ => false)) = true
    ∧ (let s : State := copyScene { fut 2 1 false with wptr := 0, cancel := true } 4096
     match (Tab.get (s.core 0).channels 1 []), s.futureOf 2 9 with
    | o :: _, some f =>
      let n := o.beat f.wptr
      let r := s.engRead 0 (s.teamView 2).1 (s.teamView 2).2 2 o.ssp o.kept (o.srcAt f.wptr) (n / 4)
      let w := r.2.engChecks 0 (s.teamView 2).1 (s.teamView 2).2 2 o.op o.dsp (o.dstAt f.wptr) (n / 4)
      f.cancel && !o.paused && r.1.2 == .ok && w.1.2 == .ok
    | _, _ => false) = true
    ∧ (let s : State := { (((quiet.put 0x8000 (leBytes 8 99)).updTeam 2 fun t => { t with futures := [(9, fut 1 1 false)] }).updCore 0 fun c => { c with fabric := [{ copyOpOf 9 4096 with dst := 2 ^ 58 + 0x40FC, stream := 3, sent := 4 }] }) with links := [(1, linkUp)] }
     let o := { copyOpOf 9 4096 with dst := 2 ^ 58 + 0x40FC, stream := 3, sent := 4 }
      let a := o.dst + o.sent
      let m := min (o.total - o.sent) (256 - a % 256)
      let ctx := (s.teamView 2).1
      let ver := (s.teamView 2).2
      let r := s.engRead 0 ctx ver 2 o.ssp o.kept (o.srcAt o.sent) (m / 4)
      (match Tab.get? s.teams 2, s.futureOf 2 9 with
      | some _, some f => s.cores.findSome? (fun c => (c.2.fabric.find? fun x => x.team == 2 && x.fid == 9).map fun o => (c.1, o)) == some (0, o) && !f.cancel && o.ssp == .g && !o.paused && decide (o.sent < o.total)
        && !(s.link (fabDevice o.dst)).refuses && (s.link (fabDevice o.dst)).state != .training && s.windowRoom (fabDevice o.dst) o.stream 1 && r.1.2 == .ok
      | _, _ => false)) = true := by decide +kernel

/-- Operation 12 of team 2 may move its row, which passes; `last` says that it is the last one, `fid` its future. -/
def movesB (s : State) (fid : Option Nat) (last : Bool) : Bool :=
  match Tab.get? s.teams 2, (Tab.get? s.teams 2).bind fun t => Tab.get? t.ops 12 with
  | some t, some o => match o.maps with
    | some (m, d) =>
      let kept := s.keepRow t (s.teamView 2).1 (s.teamView 2).2 o m
      let r := kept.2.moveRow t (s.teamView 2).1 (s.teamView 2).2 12 { o with kept := kept.1 } m (if o.amap2.isEmpty then none else d)
      !o.paused && t.resident && !s.ctxHalted (s.teamView 2).1 && r.1 == .ok && decide (o.rows ≤ o.row + 1) == last && o.fid == fid
      && (match fid with | some n => (s.futureOf 2 n).isSome | none => true)
    | none => false
  | _, _ => false

/-- Operation 12 is an attention step whose keys or values are read. -/
def attendsB (s : State) (nh : Nat) (fid : Option Nat) (v : Bool) : Bool :=
  match Tab.get? s.teams 2, (Tab.get? s.teams 2).bind fun t => Tab.get? t.ops 12 with
  | some t, some o => !o.paused && t.resident && !s.ctxHalted (s.teamView 2).1 && (s.attFetch t (s.teamView 2).1 (s.teamView 2).2 o nh v).1.2 == .ok && o.fid == fid
      && (match fid with | some n => (s.futureOf 2 n).isSome | none => true) && s.contexts.all fun c => c.2.absent == []
  | _, _ => false

def futT (s : State) : State := s.updTeam 2 fun t => { t with futures := [(9, fut 1 2 false)] }

theorem witness_EnginesMove :
    movesB (tileOpScene (tileOpOf (.tld hd0 none false 3 0 31 (.s 2) (.s 4)) (mapBytes 0x10000 3 0 256) 0)) none false = true
    ∧ movesB (tileOpScene (tileOpOf (.ald hd0 none false 3 0 (.s 2) (.s 4)) (mapBytes 0x10000 3 0 256) 30)) none false = true
    ∧ movesB (futT (tileOpScene { tileOpOf (.ald hd0 (some 1) false 3 0 (.s 2) (.s 4)) (mapBytes 0x10000 3 0 256) 30 with fid := some 9 })) (some 9) false = true
    ∧ movesB (tileOpScene (tileOpOf (.tld hd0 none false 3 0 31 (.s 2) (.s 4)) (mapBytes 0x10000 3 0 256) 31)) none true = true
    ∧ movesB (futT (tileOpScene { tileOpOf (.tld hd0 (some 1) false 3 0 0 (.s 2) (.s 4)) (mapBytes 0x10000 3 0 256) 0 with fid := some 9, faulted := true })) (some 9) true = true
    ∧ attendsB (tileOpScene { tileOpOf (.atts hd0 { nh := 0, f16 := false, hd := none, nk := 2 } true 0 1 (.map 2) (.s 4) 5 3) (mapBytes 0x10000 2 0 128) 0 with c := 2 ^ 32 + 1 }) 1 none false = true
    ∧ attendsB (futT (tileOpScene { tileOpOf (.atts hd0 { nh := 0, f16 := false, hd := some 1, nk := 2 } true 0 1 (.map 2) (.s 4) 5 3) (mapBytes 0x10000 2 0 128) 0 with
        c := 2 ^ 32 + 1, fid := some 9 })) 1 (some 9) false = true
    ∧ attendsB (tileOpScene (tileOpOf (.attv hd0 { nh := 0, f16 := false, hd := none, nk := 2 } 0 5 (.map 2) (.s 4)) (mapBytes 0x10000 2 0 128) 0)) 1 none true = true := by
  refine ⟨?_, ?_, ?_, ?_, ?_, ?_, ?_, ?_⟩ <;> decide +kernel

/-- A fault of slot 1 of die 0 that the die itself may service. -/
def thereB (s : State) : Bool :=
  match Tab.get? s.pfaults 1 with | some p => !p.host && eST p.entry != 3 && p.key == 0x20010 && !s.heldHalf (physLoc 0 p.key) 8 | none => false

/-- The host may replay a slot. -/
def replaysB (s : State) (k : Nat) : Bool :=
  s.windowOpen && s.port.held == [] && match Tab.get? s.pfaults k with
    | some p => p.host && eST p.entry != 3 && p.attached.all fun m => (s.walk p.ctx m.va).kind != .held
    | none => false

def sealScene (k : Seal) : State := { quiet with seals := [k], flights := [(9, flightOf none)] }

theorem witness_MemoryEvents :
    (let s : State := sealScene (sealOf (some 9) false)
     (match s.seals.find? fun k => k.ctx == 0 && k.base == 0x400 with | some k => k.sealing == some 9 | none => false) && s.stores.isEmpty && s.streams.isEmpty && s.port.lines.isEmpty && (s.walksHeld 0 (pieces4k 0x400 2)).isNone) = true
    ∧ (let s : State := (sealScene { sealOf none true with handles := [(2, 9)] }).updGroup 3 fun g => g.updLanes (2 ^ 63) fun _ x => { x with block := .unseal 0x400 8 9 }
     (match s.seals.find? fun k => k.ctx == 0 && k.base == 0x400 && k.unsealing with | some k => k.sealing == none && s.sealCount k 0 + s.sealCount k 1 == 0 && (s.walksHeld 0 (pieces4k k.base k.lines)).isNone | none => false)
       && (match Tab.get? s.groups 3 with | some g => (g.lane 63).block == .unseal 0x400 8 9 && ((List.range 63).all fun j => (g.lane j).block == .free) | none => false)) = true
    ∧ (let s : State := (faultScene 1 0).setEntry 0x20010 (1 + 4096)
     thereB s && eST (s.entryAt 0x20010) != 2) = true
    ∧ (let s : State := faultScene 1 (2 + 8 + 2 ^ 8 + 2 ^ 12 * 5)
     thereB s && (let e := s.entryAt 0x20010; eST e == 2 && ePFN e != 0 && eILV e == 2 && !ePS64 e)) = true
    ∧ (let s : State := (faultScene 1 (2 + 8 + 2 ^ 6 + 2 ^ 8 + 2 ^ 12 * 16)).updCtx 0 fun c => { c with frames0 := [0x40000, 0x50000] }
     let s : State := { s with port := { s.port with up := true } }
     thereB s && (let e := s.entryAt 0x20010; eST e == 2 && ePFN e != 0 && eILV e == 2 && ePS64 e && (s.hostPage (ePFN e * 4096) 65536).isSome) && (s.frameHeld 0x40000).isNone
       && match Tab.get? s.contexts 0 with | some c => c.frames0 == [0x40000, 0x50000] | none => false) = true
    ∧ (let s : State := faultScene 2 2
     thereB s && eST (s.entryAt 0x20010) == 2) = true
    ∧ replaysB { winScene with pfaults := [(1, { faultOf 0x20010 1 0 with host := true, met := [{ owner := 3, lane := 0, va := 0x40000000, flags := 0, core := 0 }] })] } 1 = true
    ∧ replaysB { winScene with pfaults := [(257, { faultOf 0x20010 1 0 with host := true })] } (256 * b2n ((0x8001 : BitVec 16).getLsbD 15) + (0x8001 : BitVec 16).toNat % 256) = true
    ∧ (let s : State := winScene
     s.windowOpen && (match Tab.get? s.contexts 0 with | some c => c.invalidate == none && c.state != .destroyed | none => false)) = true
    ∧ (([some (0, 128), some (2 ^ 40, 2 ^ 40)] : List (Option (Nat × Nat))).all fun r =>
     let s : State := { (quiet.updCtx 0 fun c => { c with invalidate := some r }) with
       dieTlb := [[{ ctx := 0, page := 3, size := 12, entry := 1, at_ := 0, level := 0 }], []]
       pfaults := [(1, faultOf 0x20010 1 3)]
       stores := [(20, storeOf none [{ pieceOf none 0 [1] with va := 2 ^ 48 }])] }
     (match Tab.get? s.contexts 0 with | some c => c.invalidate == some r | none => false) && s.streams.isEmpty
       && s.stores.all fun p => p.2.pieces.all fun x => !inRange r (x.va / 2 ^ 30 * 2 ^ 30) (2 ^ 30)) = true := by
  refine ⟨?_, ?_, ?_, ?_, ?_, ?_, ?_, ?_, ?_, ?_⟩ <;> decide +kernel

theorem witness_ContextRequests :
    (let s : State := winScene
     let d := descOf 1; s.windowOpen && decide (d.ctx ≠ 0 ∧ d.savebase.toNat % 128 = 0 ∧ d.evq.toNat % 32 = 0 ∧ 4 ≤ d.evqsz.toNat ∧ d.evqsz.toNat ≤ 20) && Tab.get? s.contexts 1 == none) = true
    ∧ (let s : State := ctxIn .created fun c => { c with desc := descOf 0 }
     s.windowOpen && (match Tab.get? s.contexts 0 with | some c => c.state == .created | none => false) && (match Tab.get? s.contexts 0 with | some c => decide (c.desc.ptroot ≠ 0 ∧ c.desc.ptroot.toNat % 8192 = 0 ∧ c.desc.ptroot.toNat < 2 ^ 39 ∧ c.desc.savebase ≠ 0) | none => false) && decide ((s.contexts.filter fun x => x.2.state.counts).length < 64)) = true
    ∧ (let s : State := ctxIn .running id
     s.windowOpen && (match Tab.get? s.contexts 0 with | some c => c.state == .running | none => false)) = true
    ∧ (let s : State := ctxIn .ready fun c => { c with desc := { c.desc with savebase := 0x8000 } }
     s.windowOpen && (match Tab.get? s.contexts 0 with
       | some c => c.state == .ready && match s.accept.partReady 0 0 c.desc.savebase.toNat 16 true with | (.ok, t) => (t.partStore 0 c.desc.savebase.toNat (zeros 16)).isSome | _ => false
       | none => false)) = true
    ∧ (let s : State := ctxIn .restoring id
     s.windowOpen && (match Tab.get? s.contexts 0 with | some c => c.state == .restoring | none => false)) = true
    ∧ (let s : State := ctxIn .ready fun c => { c with trapLow := some 5 }
     s.windowOpen && (match Tab.get? s.contexts 0 with | some c => c.state == .ready | none => false)) = true
    ∧ (let s : State := ctxIn .running fun c => { c with trapLow := some 5 }
     s.windowOpen && (match Tab.get? s.contexts 0 with | some c => c.state == .running | none => false)) = true
    ∧ (let s : State := ctxIn .saved id
     s.windowOpen && (match Tab.get? s.contexts 0 with | some c => c.state == .saved | none => false)) = true
    ∧ (let s : State := ctxIn .faulted id
     s.windowOpen && (match Tab.get? s.contexts 0 with | some c => c.state == .faulted | none => false)) = true
    ∧ (let s : State := ctxIn .ready fun c => { c with erptr := 3, ewptr := 9 }
     s.windowOpen && (match Tab.get? s.contexts 0 with | some c => decide (c.erptr ≤ 3 ∧ 3 ≤ c.ewptr) | none => false)) = true
    ∧ (let s : State := ctxIn .ready fun c => { c with erptr := 3, ewptr := 9 }
     s.windowOpen && (match Tab.get? s.contexts 0 with | some c => decide (c.erptr ≤ 9 ∧ 9 ≤ c.ewptr) | none => false)) = true
    ∧ (let s : State := ctxIn .ready id
     let t := s.accept.updCtx 0 fun c => { c with heldDestroy := true }
     s.windowOpen && (match Tab.get? s.contexts 0 with | some c => c.state == .ready | none => false)
       && (t.slotsHeld (t.frames.filter fun f => f.ctx == 0)).isNone) = true
    ∧ (let s : State := ctxIn .preempting id
     s.windowOpen && (match Tab.get? s.contexts 0 with | some c => c.state == .preempting | none => false)) = true
    ∧ (let s : State := ctxIn .restoring id
     s.windowOpen && (match Tab.get? s.contexts 0 with | some c => c.state == .restoring | none => false)) = true
    -- a READY context whose save area has no page there
    ∧ (let s : State := ctxIn .ready fun c => { c with desc := { c.desc with savebase := 0x7000_0000 }, heldPreempt := true }
     s.windowOpen && (match Tab.get? s.contexts 0 with
       | some c => c.state == .ready && c.heldPreempt && !c.heldDestroy && (match (s.accept.partReady 0 0 c.desc.savebase.toNat 16 true).1 with | .ok => false | _ => true)
       | none => false)) = true
    ∧ (let s : State := { winScene with linkQueue := { winScene.linkQueue with rptr := 3, wptr := 9 } }
     s.windowOpen && decide (s.linkQueue.rptr ≤ 9 ∧ 9 ≤ s.linkQueue.wptr)) = true := by decide +kernel

/-- The scene's context is pre-empted and halted, and its save area stands at 0x8000. -/
def savedScene (f : Context → Context) : State :=
  ctxIn .preempting fun c => f { c with halted := true, desc := { c.desc with savebase := 0x8000, savelen := 0x100000 } }

/-- A context that may be saved; its records end at or below the top of the area, or all above it. -/
def savesB (s : State) (fits : Bool) : Bool :=
  let slots := (s.grids.filter fun g => g.2.ctx == 0).map (·.1)
  let rs := s.draw.2.saveRecords slots s.draw.1
  match Tab.get? s.contexts 0 with
  | some c =>
    let base := c.desc.savebase.toNat
    let laid := layRecords (c.firstRecord rs.length) rs
    let last := match laid.getLast? with | some x => x.2 + x.1.bytes.length | none => c.firstRecord 0
    c.state == .preempting && c.halted && c.evqHeld == [] && c.absent == [] && decide (base + 16 * (rs.length + 1) ≤ c.saveTop)
      && (if fits then decide (last ≤ c.saveTop) && (s.draw.2.partStores 0 ((base, directory base laid) :: laid.map fun x => (x.2, x.1.bytes))).isSome
          else decide (c.saveTop < last) && (laid.all fun x => decide (c.saveTop < x.2 + x.1.bytes.length))
            && (s.draw.2.partStores 0 [(base, directory base laid)]).isSome)
  | none => false

/-- A context that may halt: its owners' stores are performed, and its spans may be lowered. -/
def haltsB (s : State) : Bool :=
  let owners := (s.abandonLoads 0).ctxGroups 0 ++ (s.abandonLoads 0).spansOf 0
  let r := owners.foldl (fun (r : State × Bool) g => ((r.1.drain g).1, r.2 && (r.1.drain g).2)) (s.abandonLoads 0, true)
  let u := r.1.allReady ((r.1.spans.filter fun p => owners.contains p.1 && (p.2.haltWaits || !p.2.j.isEmpty)).map (·.2))
  (match Tab.get? s.contexts 0 with | some c => c.state == .preempting && !c.halted | none => false)
    && ((s.ctxTeams 0).all fun t => t.ops.all fun o => o.2.paused) && r.2 && u.1 && !u.2.sealingFor owners

/-- A context that may be restored: its directory is read, its clusters are placed, its entries loaded and its sleepers woken. -/
def restoresB (s : State) : Bool :=
  match Tab.get? s.contexts 0 with
  | some c => match s.readDirectory 0 c.desc.savebase.toNat 262144 c.desc.savebase.toNat, s.placeSaved (s.savedClusters c.slots) with
    | some es, some s1 => match (s1.partTouch 0 c.desc.savebase.toNat (16 * (es.length + 1))).restoreEntries 0 c.slots (pairSpans es c.savedSpans) with
      | some t => match t.wakeEntries 0 c.slots es with
        | .done u => c.state == .restoring && c.reissue == [] && c.loads == [] && !s.copiesRun 0 && !c.heldPreempt && (es.all fun e => s.implOk 0 c.slots e == some true)
            && (u.lowerExtra 0).2 && (match Tab.get? (u.lowerExtra 0).1.contexts 0 with | some c => !c.heldDestroy | none => false)
        | _ => false
      | none => false
    | _, _ => false
  | none => false

theorem witness_ContextMoves :
    haltsB (ctxIn .preempting id) = true
    ∧ haltsB ((spanScene fun p => { p with j := [(1, 3)] }).updCtx 0 fun c => { c with state := .preempting }) = true
    ∧ haltsB ((spanScene fun p => { p with block := .bar 1 5 }).updCtx 0 fun c => { c with state := .preempting }) = true
    ∧ savesB { savedScene id with groups := [], teams := [] } true = true
    ∧ savesB { savedScene id with groups := [], teams := [], spans := [(40, { spanOf 0 63 with team := none, vlim := 0, slim := 0 })] } true = true
    ∧ savesB { savedScene (fun c => { c with desc := { c.desc with savelen := 0x1100 } }) with groups := [], teams := [], spans := [(40, { spanOf 0 63 with team := none, vlim := 0, slim := 0 })] } false = true
    ∧ restoresB (ctxIn .restoring fun c => { c with desc := { c.desc with savebase := 0x8000 } }) = true
    ∧ (let s : State := (quiet.updCtx 0 fun c => { c with absent := [{ owner := 2, kind := 2, index := 1, va := 0x10000 }] }).updTeam 2 fun t => { t with shared := 4096 + 20 }
     (match s.contexts.find? fun c => c.2.absent.any fun a => a.owner == 2 && a.kind == (2 * 4096 + 1) / 4096 && a.index == (2 * 4096 + 1) % 4096 with
      | some (n, _) => n == 0 && (match s.present n 2 2 1 with | .done _ => true | _ => false)
      | none => false)) = true
    ∧ (match Tab.get? quiet.groups 3 with | some g => decide (63 < 64 ∧ g.lanes.length = 64 ∧ 15 < 16) | none => false) = true := by
  refine ⟨?_, ?_, ?_, ?_, ?_, ?_, ?_, ?_, ?_⟩ <;> decide +kernel

theorem witness_QueueRequests :
    (let s : State := winScene
     (let d := qdescOf 4095
      s.windowOpen && (match Tab.get? s.contexts d.ctx.toNat with | some c => c.state != .destroyed | none => false) && (match Tab.get? s.queues 4095 with | none => true | some k => k.state == .destroyed && k.records.isEmpty && k.owing == [])
      && decide ((d.feed = false → d.base.toNat % 64 = 0) ∧ d.cbase.toNat % 32 = 0 ∧ 4 ≤ d.size.toNat ∧ d.size.toNat ≤ 20 ∧ d.cls ≠ 3 ∧ d.qmin.toNat ≤ d.qcap.toNat ∧ d.qmin.toNat ≤ 8192) && s.queues == [])) = true
    ∧ (let s : State := queueIn .idle id
     s.windowOpen && (match Tab.get? s.queues 7 with | some k => k.state == .idle | none => false)) = true
    ∧ (let s : State := queueIn .armed id
     s.windowOpen && (match Tab.get? s.queues 7 with | some k => k.state == .armed | none => false)) = true
    ∧ (let s : State := queueIn .running id
     s.windowOpen && (match Tab.get? s.queues 7 with | some k => k.state == .running | none => false)) = true
    ∧ (let s : State := queueIn .suspended fun k => { k with left := .blocked }
     s.windowOpen && (match Tab.get? s.queues 7 with | some k => k.state == .suspended | none => false)) = true
    ∧ (let s : State := queueIn .drained id
     s.windowOpen && (match Tab.get? s.queues 7 with | some k => k.state == .drained | none => false)) = true
    ∧ (let s : State := queueIn .blocked id
     s.windowOpen && (match Tab.get? s.queues 7 with | some k => k.state == .blocked | none => false)) = true
    ∧ (let s : State := queueIn .suspended id
     s.windowOpen && (match Tab.get? s.queues 7 with | some k => k.state == .suspended | none => false)) = true
    ∧ (let s : State := queueIn .destroyed id
     s.windowOpen && (match Tab.get? s.queues 7 with | some k => k.state == .destroyed | none => false)) = true
    ∧ (let s : State := queueIn .faulted fun k => { k with faultPos := some 2, rptr := 2, wptr := 5, codes := [(0, 1)] }
     s.windowOpen && (match Tab.get? s.queues 7 with | some k => k.state == .faulted | none => false)) = true
    ∧ (let s : State := queueIn .armed fun k => { k with rptr := 2, cptr := 1 }
     s.windowOpen && (match Tab.get? s.queues 7 with | some k => k.state != .faulted && k.state != .destroyed && !k.desc.feed && decide (k.rptr ≤ 2 ∧ 2 ≤ k.cptr + 2 ^ k.desc.size.toNat) | none => false)) = true
    ∧ (let s : State := queueIn .armed fun k => { k with rptr := 2, cptr := 1 }
     s.windowOpen && (match Tab.get? s.queues 7 with | some k => k.state != .faulted && k.state != .destroyed && !k.desc.feed && decide (k.rptr ≤ 17 ∧ 17 ≤ k.cptr + 2 ^ k.desc.size.toNat) | none => false)) = true
    ∧ (([1, 18] : List Nat).all fun w =>
     let s : State := queueIn .armed fun k => { k with rptr := 2, cptr := 1 }
     s.windowOpen && (match Tab.get? s.queues 7 with
       | some k => k.state != .faulted && k.state != .destroyed && !k.desc.feed && decide (w < k.rptr ∨ k.cptr + 2 ^ k.desc.size.toNat < w)
       | none => false)) = true := by decide +kernel

/-- Queue 7 holds records and nothing more in its ring. -/
def queueWith (state : QState) (rs : List Record) : State :=
  { quiet with queues := [(7, { queueOf false state with records := mapFrom (fun n (x : Nat × Record) => (n, { x.2 with pos := n })) 0 (rs.map fun r => (0, r)), wptr := rs.length, rptr := rs.length })] }

/-- Queue 7 may start records, and its head meets `ok` after the ready events. -/
def startsB (s : State) (ok : State → Queue → Record → Bool) : Bool :=
  match Tab.get? s.queues 7 with
  | some k => !k.draining && (k.state == .running || k.state == .blocked) && s.ctxStarts k.desc.ctx.toNat
      && match k.head with | some r => ok (s.postReady 7 k) k r | none => false
  | none => false

/-- The ring of queue 7 holds one record more, at position 1. -/
def ringScene (state : QState) (flags : Nat) : State :=
  State.put { quiet with queues := [(7, { queueOf false state with wptr := 2, rptr := 1 })] } 0x6040 (fieldBytes 64 [(0, 2), (1, flags)])

def ringB (s : State) (ok : Taken → Bool) : Bool :=
  match Tab.get? s.queues 7 with
  | some k => !k.desc.feed && !k.draining && (k.state == .running || k.state == .blocked || k.state == .suspended) && decide (k.rptr < k.wptr) && s.canBuffer 7
      && ok (s.takeRecord (b2n k.desc.home) k.desc.ctx.toNat 0 (k.desc.base.toNat + 64 * (k.rptr % 2 ^ k.desc.size.toNat))).1
  | none => false

def heldVer (s : State) : State := { s with versions := [(0x11, verOf 0x11 0)] }

/-- A record may be dispatched by the host. -/
def dispatchB (s : State) (pos : Nat) (now : Bool) : Bool :=
  let s : State := { s with manage := winScene.manage, port := winScene.port }
  s.windowOpen && match Tab.get? s.queues 7 with
  | some k => !k.draining && (k.state == .running || k.state == .blocked) && s.ctxStarts k.desc.ctx.toNat
      && (match Tab.get? k.records pos with
          | some r => (s.deps r).isSome && !r.started && r.ready && !s.dying r.version && (s.orderMet 7 k r && k.head == some r) == now
          | none => false)
  | none => false

def endsB (s : State) (posted : Bool) : Bool :=
  let s := ({ s with grids := [], teams := [], groups := [] } : State)
  let t := (s.markerDone 7).childrenDone
  match Tab.get? t.queues 7 with
  | some k => k.owing == [] && (match k.records.find? fun r => t.recordDone 7 r.2 with | some (_, r) => r.posted == posted | none => false)
  | none => false

def wideScene : State := quiet.updGrid 1 fun g => { g with gx := 2 }

theorem pickSlots_port (n : Nat) : ∀ (s : State) (fs : List Nat), (s.pickSlots n fs).2.port = s.port := by
  induction n with
  | zero => intro s fs; rfl
  | succ n ih => intro s fs; simp only [State.pickSlots, ih]; rfl

theorem witness_RecordsAndTeams :
    ringB (ringScene .running 0) isOk = true
    ∧ ringB (ringScene .suspended 0) isOk = true
    ∧ ringB (ringScene .running 16) isBad = true
    ∧ (match (ringScene .running 0).queues.find? fun k => b2n k.2.desc.home == 0 && !k.2.desc.feed && !k.2.draining
        && (k.2.state == .running || k.2.state == .blocked || k.2.state == .suspended) && decide (k.2.rptr < k.2.wptr) && (ringScene .running 0).canBuffer k.1 with
       | some (q, _) => q == 7 | none => false) = true
    ∧ startsB (queueWith .running [{ recordOf with started := true }, recordOf]) (fun t k r => !t.orderMet 7 k r) = true
    ∧ startsB (heldVer (queueWith .running [{ recordOf with vdep := 0x11 }])) (fun t k r => t.orderMet 7 k r && (t.deps r).isNone) = true
    ∧ startsB (queueWith .running [recordOf]) (fun t k r => t.orderMet 7 k r && (t.deps r).isSome && !(t.dying r.version || (t.schedOf r && !r.go))) = true
    ∧ startsB (queueWith .blocked [recordOf, recordOf]) (fun t k r => t.orderMet 7 k r && (t.deps r).isSome && !(t.dying r.version || (t.schedOf r && !r.go))) = true
    ∧ startsB { queueWith .running [{ recordOf with ready := true }] with fnmode := 2 } (fun t k r => t.orderMet 7 k r && (t.deps r).isSome && t.schedOf r && !r.go) = true
    ∧ startsB { queueWith .running [{ recordOf with version := 0x11 }] with squashes := [{ ctx := 0, vers := [0x11], grids := [], rule := 0 }] }
        (fun t k r => t.orderMet 7 k r && (t.deps r).isSome && t.dying r.version) = true
    -- heads of a queue that drains, and of one whose context is halted
    ∧ (([heldVer (queueWith .running [{ recordOf with vdep := 0x11 }]), queueWith .blocked [recordOf]] : List State).all fun s =>
       ([s.updQueue 7 fun k => { k with draining := true }, s.updCtx 0 fun c => { c with state := .preempting }] : List State).all fun s =>
         match Tab.get? s.queues 7 with
         | some k => (k.state == .running || k.state == .blocked) && (k.draining || !s.ctxStarts k.desc.ctx.toNat) && k.head.isSome
         | none => false) = true
    ∧ dispatchB (queueWith .running [{ recordOf with ready := true }]) 0 true = true
    ∧ dispatchB (queueWith .running [recordOf, { recordOf with ready := true }]) 1 false = true
    ∧ endsB (queueWith .running [{ recordOf with started := true }]) false = true
    ∧ endsB (queueWith .running [{ recordOf with started := true, posted := true }]) true = true
    ∧ (let s : State := quiet
       let s : State := { s with queues := [(7, { queueOf false .running with owing := [(3, zeros 32, true), (4, zeros 32, false)] })] }
       match Tab.get? (s.markerDone 7).childrenDone.queues 7 with | some k => k.owing == [(3, zeros 32, true), (4, zeros 32, false)] | none => false) = true
    ∧ (let s : State := { (queueIn .running fun k => { k with records := [(0, { recordOf with started := true })], wptr := 1, rptr := 1 }).updGrid 1 fun g => { g with queue := 7 } with fnmode := 4 }
     (match Tab.get? s.queues 7 with
      | some k => (match k.records.find? fun r => r.2.started && !r.2.posted && !r.2.timed && k.desc.tlimit.toNat != 0 && decide (k.desc.tlimit.toNat ≤ r.2.ranUs) with | some (pos, r) => pos == 0 && r == { recordOf with started := true } | none => false)
      | none => false) && bitOf s.fnmode.toNat 2) = true
    ∧ (let s : State := wideScene
     (match Tab.get? s.grids 1 with
      | some g => s.gridPlaces g != [] && (s.grids.all fun x => x.1 == 1 || !s.goesBefore x.2 g || s.gridPlaces x.2 == [])
      | none => false)) = true
    ∧ (∀ (g : Grid) (n : Nat) (fs : List Nat), (wideScene.draw.2.pickSlots n fs).1.findSome? ((wideScene.draw.2.pickSlots n fs).2.countHeld g) = none)
    ∧ (let s : State := { quiet with groups := [] }
     (match Tab.get? s.teams 2 with | some t => t.resident && !s.teamBusy t && (Tab.get? s.grids t.grid).isSome
         && (([s, storePending s] : List State).all fun s => (s.performAll (s.before fun _ x => x.inL1 && x.core == t.core)).2) | none => false)) = true := by
  refine ⟨?_, ?_, ?_, ?_, ?_, ?_, ?_, ?_, ?_, ?_, ?_, ?_, ?_, ?_, ?_, ?_, ?_, ?_, fun g n fs => ?_, ?_⟩
  case refine_19 =>
    have h : (wideScene.draw.2.pickSlots n fs).2.port.lines = [] := by rw [pickSlots_port]; rfl
    exact List.findSome?_eq_none_iff.mpr fun x _ => by simp [State.countHeld, h]
  all_goals decide +kernel

/-- A notice of peer 1 has come, and leaves this. -/
def noteB (s : State) (c : Cargo) (ok : State → Bool) : Bool := s.arrived 1 c && ok (s.takeIn 1 c)

def marks16 (n : Nat) : List Nat := List.replicate 16 n

theorem witness_VersionEvents :
    ((List.range 8).all fun n =>
      let s := squashScene n
      match s.squashes.find? fun q => q.ctx == 0 with
      | some q => q.rule == n && (s.slotsHeld (s.frames.filter fun f => q.vers.contains f.ver)).isNone
      | none => false) = true
    ∧ (([1, 2] : List Nat).all fun n =>
      match Tab.get? ({ quiet with versions := [(0x11, verOf 7 n)] } : State).versions 0x11 with | some x => x.state == n | none => false) = true
    ∧ noteB (foreignScene [.request (reqOf (.read 8) 9), .version 0x15 9 [0x13, 0]]) (.version 0x15 9 [0x13, 0]) (fun s =>
        decide (s.foreign.length + ((0x15 :: [0x13, 0]).filter fun v => (Tab.get? s.foreign v).isNone && v != 0).length ≤ 255)) = true
    ∧ noteB (foreignScene [.commit 0x13 0 (marks16 65535)]) (.commit 0x13 0 (marks16 65535)) (fun t =>
        Tab.get? t.foreign 0x13 == some foreignOf && t.marksPassed 1 (marks16 65535) && !t.joinSealed 0x13 0 && (t.joinHeld 0x13 0).isNone && ((t.join 0x13 0).retagAll 0x13 0).noFrame 0x13) = true
    -- a commit of a line whose home half the host holds; and marks while requests from before a reset of the link are there
    ∧ (let at_ := physLoc 0 (2 ^ 30 + 0x4000)
       let s : State := foreignScene [.commit 0x13 0 (marks16 65535)]
       noteB { s with vlines := [{ ver := 0x13, line := at_ / 128, bytes := [(3, 7)], spilled := false, used := 1 }], port := { s.port with lines := [(at_ / 128, bridgeOf true 0)] } }
         (.commit 0x13 0 (marks16 65535)) fun t => Tab.get? t.foreign 0x13 == some foreignOf && t.marksPassed 1 (marks16 65535) && !t.joinSealed 0x13 0 && (t.joinHeld 0x13 0).isSome) = true
    -- a commit of a line that is sealed; and targets whose writes have and have not joined another's
    ∧ noteB (sealedJoin (foreignScene [.commit 0x13 0 (marks16 65535)]) 0x13) (.commit 0x13 0 (marks16 65535)) (fun t =>
        Tab.get? t.foreign 0x13 == some foreignOf && t.marksPassed 1 (marks16 65535) && t.effForeign 16 0 == 0 && t.joinSealed 0x13 0) = true
    ∧ (([true, false] : List Bool).all fun joined =>
      let s := foreignScene [.commit 0x13 0x15 (marks16 65535)]
      noteB { s with foreign := (0x15, { foreignOf with commits := some (0, marks16 65535), joined }) :: s.foreign } (.commit 0x13 0x15 (marks16 65535)) fun t =>
        (Tab.get? t.foreign 0x15 == some { foreignOf with commits := some (0, marks16 65535), joined }) && (Tab.get? t.foreign 0).isNone) = true
    ∧ (let s : State := { foreignScene [.commit 0x13 0 (marks16 65535)] with streams := [{ peer := 1, stream := 15, next := 0, owed := [], expect := 0, old := 1 }] }
       noteB s (.commit 0x13 0 (marks16 65535)) fun t => (t.stream 1 15).old != 0) = true
    ∧ noteB (foreignScene [.commit 0x13 3 (marks16 3)]) (.commit 0x13 3 (marks16 3)) (fun t =>
        Tab.get? t.foreign 0x13 == some foreignOf && !t.marksPassed 1 (marks16 3)) = true
    ∧ noteB (foreignScene [.commit 0x13 0x99 (marks16 65535)]) (.commit 0x13 0x99 (marks16 65535)) (fun t =>
        Tab.get? t.foreign 0x13 == some foreignOf && t.marksPassed 1 (marks16 65535) && (Tab.get? t.foreign 0x99).isNone && (t.dropView 0x13).noFrame 0x13) = true
    ∧ noteB (foreignScene [.commit 0x16 0 (marks16 3)]) (.commit 0x16 0 (marks16 3)) (fun t => (Tab.get? t.foreign 0x16).isNone) = true
    ∧ noteB (foreignScene [.dead 0x13 (marks16 65535)]) (.dead 0x13 (marks16 65535)) (fun t => Tab.get? t.foreign 0x13 == some foreignOf && foreignOf.dead.isNone) = true
    ∧ noteB (foreignScene [.dead 0x16 (marks16 3)]) (.dead 0x16 (marks16 3)) (fun t => (Tab.get? t.foreign 0x16).isNone) = true
    ∧ (([[1], [1, 2]] : List (List Nat)).all fun owed =>
      noteB { foreignScene [.ack 0x11 false] with versions := [(0x11, { verOf 7 1 with owed })] } (.ack 0x11 false) fun t =>
        match Tab.get? t.versions 0x11 with | some x => x.state == 1 | none => false) = true
    ∧ noteB { foreignScene [.ack 0x11 true] with versions := [(0x11, { verOf 7 4 with owed := [1] })] } (.ack 0x11 true) (fun t =>
        match Tab.get? t.versions 0x11 with | some x => x.state == 4 | none => false) = true := by
  refine ⟨?_, ?_, ?_, ?_, ?_, ?_, ?_, ?_, ?_, ?_, ?_, ?_, ?_⟩ <;> decide +kernel

def flitOf (fseq ty : Nat) (chunks : List Chunk) : Flit := { fseq, ack := 3, ty, nak := false, chunks }

/-- Both directions of the link to device 1. -/
def linkOf (k : Link) (i : InLink) : State := { winScene with links := [(1, k)], inLinks := [(1, i)], pod := 2 }

def linkB (s : State) (ok : Link → InLink → Bool) : Bool := ok (s.link 1) (s.inLink 1)

def sendsB (k : Link) : Bool := (k.state == .up || k.state == .degraded) && (!k.enc || decide (k.sealedCount < 2 ^ 32 - 1))

theorem witness_LinkEvents :
    (([.up, .degraded, .retraining] : List LState).all fun x =>
      linkB (linkOf linkUp { inUp [] with state := x }) fun _ i => chanAnd (0x8001 : BitVec 16).toNat i.mask != 0 && i.state.carries) = true
    ∧ (([.degraded, .retraining] : List LState).all fun x =>
      linkB (linkOf linkUp { inUp [] with state := x, mask := 0x7FFF, lost := 2 ^ 14 }) fun _ i => !bitOf i.mask 15 && bitOf i.lost 14 && i.state == x) = true
    ∧ linkB (linkOf linkUp (inUp [])) (fun k _ => chanAnd 0x8001 k.mask != 0 && k.state.carries) = true
    ∧ linkB (linkOf linkUp (inUp [])) (fun k _ => k.state != .retraining && !bitOf winScene.fnmode.toNat 4) = true
    ∧ linkB (linkOf { linkUp with state := .retraining, mask := 0x7F, lost := 7 } (inUp [])) (fun k _ =>
        k.state == .retraining && !k.byHost && decide (4 ≤ popN 16 (chanOr (chanDiff k.mask k.lost) k.retrained))
          && chanDiff k.mask (chanOr (chanDiff k.mask k.lost) k.retrained) != 0) = true
    ∧ (([(1, 0x80), (1, 1)] : List (Nat × Nat)).all fun x =>
      linkB (linkOf { linkUp with state := .retraining, mask := 0x7F, lost := x.1 - x.1, retrained := x.2 } (inUp [])) fun k _ =>
        let new := chanOr (chanDiff k.mask k.lost) k.retrained
        k.state == .retraining && !k.byHost && decide (4 ≤ popN 16 new) && chanDiff k.mask new == 0 && (chanDiff new k.mask == 0) == (x.2 == 1)) = true
    ∧ linkB (linkOf { linkUp with state := .retraining, mask := 0x7F, lost := 15 } (inUp [])) (fun k _ =>
        k.state == .retraining && !k.byHost && decide (popN 16 (chanOr (chanDiff k.mask k.lost) k.retrained) < 4)) = true
    ∧ (([7, 15] : List Nat).all fun lost => linkB (linkOf linkUp { inUp [] with state := .retraining, mask := 0x7F, lost }) fun _ i => i.state == .retraining) = true
    ∧ (let s := linkOf linkUp { inUp [] with state := .retraining }
       (1 : Nat) ≠ s.device ∧ s.agreedMask { peer := 1, incoming := true, mask := 0x7F } = some 0x7F)
    ∧ (let s : State := { linkOf linkUp (inUp []) with links := [((linkOf linkUp (inUp [])).device, linkUp)] }
       (s.link s.device).state != .retraining) = true
    ∧ linkB (linkOf { linkUp with state := .degraded } (inUp [])) (fun k _ => k.state.carries) = true
    ∧ (([.ack 0x11 false, .version 0x15 9 [0x13]] : List Cargo).all fun c => cargoSize c == 0) = true
    ∧ linkB (linkOf { Link.dark with state := .training } { InLink.dark with state := .training }) (fun k i => k.state == .training && i.state == .training
        && decide (4 ≤ popN 16 (0xF : BitVec 16).toNat ∧ popN 16 (7 : BitVec 16).toNat < 4)) = true
    ∧ linkB (linkOf { linkUp with state := .retraining, byHost := true } (inUp [])) (fun k _ => winScene.windowOpen && k.state == .retraining && k.byHost) = true
    ∧ linkB (linkOf { linkUp with state := .quarantined, epoch := 4 } (inUp [])) (fun k _ => winScene.windowOpen && k.state == .quarantined) = true
    ∧ (bitOf (linkOf linkUp (inUp [])).pod.toNat 1 = true ∧ (1 : Nat) ≠ (linkOf linkUp (inUp [])).device ∧ (linkOf linkUp (inUp [])).manage.perigee = false)
    ∧ (withManage fun m => { m with perigee := true }).manage.perigee = true
    ∧ ((({ linkOf linkUp (inUp []) with streams := [{ peer := 1, stream := 2, next := 6, owed := [], expect := 4, old := 0 }] } : State).restartStreams 1).streams.all fun y =>
        y.peer == 1) = true
    ∧ (([.up, .degraded] : List LState).all fun x =>
      linkB (linkOf { linkUp with state := x, enc := true, epoch := 2 ^ 32 - 1, sealedCount := 5 } (inUp [])) fun k _ => k.enc && k.state == x) = true
    -- a flit in order, one taken before, one too far on, of both types that carry a payload; an ACK or idle one; and with a direction down
    ∧ (([(0, 0, 65535), (0, 2, 65535), (65535, 0, 65534)] : List (Nat × Nat × Nat)).all fun x => linkB (linkOf linkUp { inUp [] with rx := x.2.2 }) fun _ i =>
        i.state.carries && (let f := flitOf x.1 x.2.1 [{ cargo := .ack 0x11 false, start := 0, len := 0 }]
          f.ty != 1 && f.ty != 3 && f.fseq == (i.rx + 1) % 65536)) = true
    ∧ (([5, 4, 32774] : List Nat).all fun n => linkB (linkOf linkUp { inUp [] with rx := 5 }) fun _ i =>
        i.state.carries && (let f := flitOf n 0 []; f.fseq != (i.rx + 1) % 65536 && decide ((i.rx + 65536 - f.fseq) % 65536 < 32768))) = true
    ∧ (([7, 32773] : List Nat).all fun n => linkB (linkOf linkUp { inUp [] with rx := 5 }) fun _ i =>
        i.state.carries && (let f := flitOf n 0 []; f.fseq != (i.rx + 1) % 65536 && decide (32768 ≤ (i.rx + 65536 - f.fseq) % 65536))) = true
    ∧ (([1, 3] : List Nat).all fun ty => linkB (linkOf linkUp (inUp [])) fun _ i => i.state.carries && ((flitOf 0 ty []).ty == 1 || (flitOf 0 ty []).ty == 3)) = true
    ∧ linkB (linkOf linkUp { inUp [] with state := .dark }) (fun _ i => !i.state.carries) = true
    ∧ (([(false, 0), (true, 2 ^ 32 - 2)] : List (Bool × Nat)).all fun x =>
      linkB (linkOf { linkUp with notes := [.ack 0x11 false], outbox := [.request (reqOf (.read 8) 9)], enc := x.1, sealedCount := x.2, fseq := 65535 } (inUp [])) fun k _ =>
        sendsB k && k.resendFrom.isNone && decide (k.replay.length < 4096) && k.notes == [.ack 0x11 false]) = true
    ∧ linkB (linkOf { linkUp with outbox := [.request (reqOf (.write (zeros 240) []) 9), .request (reqOf (.read 8) 9)] } (inUp [])) (fun k _ =>
        sendsB k && k.resendFrom.isNone && decide (k.replay.length < 4096) && k.notes == []
          && k.outbox == [.request (reqOf (.write (zeros 240) []) 9), .request (reqOf (.read 8) 9)]) = true
    ∧ (([(true, false), (false, true)] : List (Bool × Bool)).all fun x => linkB (linkOf linkUp { inUp [] with nak := x.1, ackDue := x.2 }) fun k i =>
        sendsB k && k.resendFrom.isNone && k.notes == [] && k.outbox == [] && (i.nak || i.ackDue)) = true
    ∧ (let kept : List Kept := [{ flit := flitOf 3 0 [], times := 0 }, { flit := flitOf 4 0 [], times := 14 }, { flit := flitOf 5 0 [], times := 0 }]
       linkB (linkOf { linkUp with replay := kept, resendFrom := some 4 } (inUp [])) fun k _ =>
        (k.state == .up || k.state == .degraded) && k.resendFrom == some 4 && (k.replay.dropWhile fun x => x.flit.fseq != 4) == kept.drop 1 && decide (14 + 1 < 16)) = true
    ∧ (0 < 240 ∧ cargoSize (.request (reqOf (.write (zeros 216) []) 9)) ≤ 240 ∧ 240 < cargoSize (.request (reqOf (.write (zeros 217) []) 9))) := by
  refine ⟨?_, ?_, ?_, ?_, ?_, ?_, ?_, ?_, ?_, ?_, ?_, ?_, ?_, ?_, ?_, ?_, ?_, ?_, ?_, ?_, ?_, ?_, ?_, ?_, ?_, ?_, ?_, ?_⟩ <;> decide +kernel

/-- A request of peer 1 has its turn, and `remoteDo` gives `ok`. -/
def turnB (s : State) (r : Req) (ok : RDone → Bool) : Bool :=
  s.reqTurn r && !s.deadHere r.version && (match s.fctxCtx r.fctx with | some ctx => ctx == 0 && ok (s.remoteDo r ctx).1 | none => false)

def isAnswer : RDone → Bool | .answer _ _ => true | _ => false

def isPart : RDone → Bool | .part _ => true | _ => false

def isStop : RDone → Bool | .stop => true | _ => false

def inboxOf (r : Req) : State := foreignScene [.request r]

/-- A reply of peer 1 has come, and request 5 of stream 2 waits for it. -/
def replyB (s : State) (c : Cargo) (ok : Owed → Bool) : Bool :=
  s.arrived 1 c && match ((s.takeIn 1 c).stream 1 2).owed.find? fun o => o.seq == 5 with | some o => ok o | none => false

theorem witness_RemoteEvents :
    turnB (inboxOf (reqOf (.read 8) 9)) (reqOf (.read 8) 9) isAnswer = true
    ∧ turnB (inboxOf (reqOf (.write [1, 2] [true, false]) 9)) (reqOf (.write [1, 2] [true, false]) 9) isAnswer = true
    ∧ turnB (inboxOf (reqOf (.release 5) 9)) (reqOf (.release 5) 9) isAnswer = true
    ∧ (let r := reqOf (.write (zeros 16) (List.replicate 16 true)) 9; turnB (inboxOf r) r isPart) = true
    ∧ (let r := reqOf (.read 8) 9
       let s := inboxOf r
       turnB { s with port := { s.port with lines := [(physLoc 0 (2 ^ 30 + 0x4000) / 128, bridgeOf true 0)] } } r isStop) = true
    ∧ (let r := reqOf (.read 8) 8
       (inboxOf r).reqTurn r && !(inboxOf r).deadHere r.version && ((inboxOf r).fctxCtx r.fctx).isNone) = true
    -- these come in their turn; and ones from before a reset of the link
    ∧ ((inboxOf (reqOf (.read 8) 9)).stream 1 2).old = 0
    ∧ (let late := fun (r : Req) => ({ inboxOf r with streams := [{ peer := 1, stream := 2, next := 0, owed := [], expect := 0, old := 1 }] } : State)
       turnB (late (reqOf (.read 8) 9)) (reqOf (.read 8) 9) isAnswer && (late (reqOf (.read 8) 8)).reqTurn (reqOf (.read 8) 8)
         && ((late (reqOf (.read 8) 8)).fctxCtx 8).isNone && ((late (reqOf (.read 8) 8)).stream 1 2).old != 0) = true
    ∧ (let r : Req := { reqOf (.write [1] [true]) 9 with version := 0x13 }
       let s : State := { inboxOf r with foreign := [(0x13, { foreignOf with dead := some (marks16 9) })] }
       s.reqTurn r && s.deadHere r.version && s.fctxCtx r.fctx == some 0) = true
    ∧ (let r : Req := { reqOf (.read 8) 9 with seq := 1 }
       !(inboxOf r).reqTurn r) = true
    ∧ (let r := reqOf (.read 8) 9
       !(winScene).reqTurn r) = true
    ∧ (let r := reqOf (.read 8) 9
       ((inboxOf r).stream r.peer r.stream).half.isNone && !reqParts r && (match ((inboxOf r).remoteCheck r 0).1 with | .inl _ => true | .inr _ => false)) = true
    ∧ (let r := reqOf (.read 16) 9
       let h : Half := { odd := false, loc := physLoc 0 (2 ^ 30 + 0x4000), ov := none, bytes := zeros 16, size := 16 }
       let s : State := { inboxOf r with streams := [{ peer := 1, stream := 2, next := 0, owed := [], expect := 0, old := 0, half := some h }] }
       (match (s.stream 1 2).half with | some h => !s.hostErrors h.loc h.size && (s.heldAll r { loc := h.loc, ov := h.ov }).isNone | none => false)
         && turnB s r isAnswer) = true
    -- the other half of one in host memory, after the loss of the port
    ∧ (let r := reqOf (.read 16) 9
       let h : Half := { odd := false, loc := hostBase + 0x4000, ov := none, bytes := zeros 16, size := 16 }
       let t := inboxOf r
       let s : State := { t with port := { t.port with up := false }, streams := [{ peer := 1, stream := 2, next := 0, owed := [], expect := 0, old := 0, half := some h }] }
       (match (s.stream 1 2).half with | some h => s.hostErrors h.loc h.size | none => false) && turnB s r isAnswer) = true
    -- a request of the module itself, of a version that is DEAD, in its window
    ∧ (let r : Req := { reqOf (.read 8) 9 with peer := winScene.device, version := 0x13 }
       let s : State := { winScene with streams := [{ peer := winScene.device, stream := 2, next := 1, owed := [{ owedOf 0 .b64 with seq := 0 }], expect := 0, old := 0 }] }
       ((((s.seqOn r).fed r.version (.request r.peer r.stream)).stream r.peer r.stream).owed.find? fun o => o.seq == r.seq).isSome) = true
    ∧ (([0, 1, 4] : List Nat).all fun status => ([(0, .b64), (2, .b32)] : List (Nat × Sz)).all fun k =>
       let c : Cargo := .reply 1 2 5 status (zeros 8)
       replyB (owedScene (owedOf k.1 k.2) c) c fun o => o.kind % 2 == 0 && o.copy.isNone) = true
    ∧ (let c : Cargo := .reply 1 2 5 2 []
       replyB (owedScene (owedOf 1 .b64) c) c fun o => o.kind % 2 == 1 && o.copy.isNone) = true := by
  refine ⟨?_, ?_, ?_, ?_, ?_, ?_, ?_, ?_, ?_, ?_, ?_, ?_, ?_, ?_, ?_⟩ <;> decide +kernel

def hostP : Nat := 2 ^ 30 + 0x1000

/-- A host access of `hostP` has its turn, and may be had. -/
def minedB (s : State) (ok : Bridge → Nat → Bool) : Bool :=
  let b := s.bridge (halfOf hostP).1
  s.port.held == [] && s.hasMem && decide (hostP < 2 ^ 39) && !b.closed && ok b (halfOf hostP).2.2

/-- A line whose recall has yielded four times. -/
def shutBridge : Bridge := { bridgeOf true 1 with stale := 1, yields0 := 4 }

def busyScene : State := { hostScene (bridgeOf false 0) false with
  flights := [(9, flightOf none)]
  stores := [(20, { storeOf none [{ pieceOf none 0x1000 (leBytes 4 0) with loc := physLoc 0 hostP }] with load := some (.b32, .v 2, 9) })] }

def withHeld (s : State) (is_ : List Instr) : State := { s with port := { s.port with held := is_ } }

theorem witness_HostAccesses :
    minedB (hostScene (bridgeOf false 0) true) (fun _ loc =>
      let r := (hostScene (bridgeOf false 0) true).loadsFirst loc 64
      r.1 && (r.2.answer hostP [] 0).lineSealed (halfOf hostP).1) = true
    ∧ (([hostScene (bridgeOf false 0) false, hostScene (bridgeOf true 2) false, busyScene] : List State).all fun s => minedB s fun _ loc =>
      let r := s.loadsFirst loc 64
      r.1 && !(r.2.answer hostP [] 0).lineSealed (halfOf hostP).1) = true
    ∧ minedB (hostScene (bridgeOf true 0) false) (fun b _ => b.holds (halfOf hostP).2.1) = true
    ∧ (([hostScene (bridgeOf false 0) false, busyScene] : List State).all fun s => minedB s fun _ loc =>
      !s.lineSealed (halfOf hostP).1 && (s.loadsFirstAll (placesFrom (loc + hostP % 64) (min 2 (64 - hostP % 64)))).1) = true
    ∧ minedB (hostScene (bridgeOf false 0) true) (fun _ _ => (hostScene (bridgeOf false 0) true).lineSealed (halfOf hostP).1) = true
    -- a request is kept apart by its line, waits behind one of its own, or is served as one that waited
    ∧ (let is_ : List Instr := [.hostRead (hostP + 128) true, .bar2Access 5 none]
       (withHeld (hostScene (bridgeOf false 0) false) is_).port.held.all fun j => hostTurn j != hostTurn (.hostRead hostP false)) = true
    ∧ (let s := hostScene shutBridge false
       s.port.held == [] && s.hasMem && decide (hostP < 2 ^ 39) && (s.bridge (halfOf hostP).1).closed && (s.bridge (halfOf hostP).1).holds (halfOf hostP).2.1) = true
    ∧ ((hostScene (bridgeOf true 1) false).hasMem && bitOf ((hostScene (bridgeOf true 1) false).bridge (halfOf hostP).1).recalled (b2n (halfOf hostP).2.1)) = true
    ∧ ((hostScene shutBridge false).hasMem && bitOf ((hostScene shutBridge false).bridge (halfOf hostP).1).recalled (b2n (halfOf hostP).2.1)) = true
    ∧ (([bridgeOf true 1, { bridgeOf true 3 with stale := 3 }, { shutBridge with upper := true, recalled := 3 }] : List Bridge).all fun c =>
      decide (c.recalled < 4) && decide (c.stale < 4) && bitOf c.recalled (b2n false)) = true
    ∧ (let s : State := hostScene (bridgeOf false 0) false
       s.port.up && decide (s.port.mode < 3) && s.port.l2host.contains (383 / 64)) = true
    ∧ (let s : State := hostScene (bridgeOf false 0) false
       s.port.up && !s.port.l2host.contains (384 / 64)) = true
    ∧ (let s : State := hostScene (bridgeOf false 0) false
       s.port.held == [] && s.port.up && decide ((2 ^ 39 - 8 : Nat) + 8 ≤ 2 ^ 39) && !s.manage.perigee && !s.manage.recovery
         && (List.range 8).all fun k => !s.heldHalf (physLoc 0 (2 ^ 39 - 8 + k)) 1) = true
    ∧ (let s : State := hostScene (bridgeOf false 0) false
       s.port.held == [] && s.port.up && decide ((2 ^ 39 - 2 : Nat) + [(1 : Byte), 2].length ≤ 2 ^ 39) && !s.manage.perigee && !s.manage.recovery
         && (List.range 2).all fun k => !s.heldHalf (physLoc 0 (2 ^ 39 - 2 + k)) 1 && !s.lineSealed (physLoc 0 (2 ^ 39 - 2 + k) / 128)) = true := by
  refine ⟨?_, ?_, ?_, ?_, ?_, ?_, ?_, ?_, ?_, ?_, ?_, ?_, ?_, ?_⟩ <;> decide +kernel

/-- Slot images: one whose signature is none, one that is older than the floor of 5, and one that runs. -/
def imageBad : Image := { Image.good0 with sigR := 0, version := 9 }

def imageOld : Image := { Image.good0 with version := 2 }

/-- A module before its start, with slot images that run where `a` and `b` say so. -/
def startIn (a b : Image) (f : Manage → Manage) : State :=
  withManage fun m => f { m with slotA := a, slotB := b, floor := 5, ready := false, failed := false, hang := none, badStacks := [], hostAccepts := 0x41 }

def imageRuns : Image := { Image.good0 with version := 5 }

/-- What the image of a slot gives a start. -/
def slotGives (s : State) (b : Bool) : Nat := imageCheck s.manage.rootKey (if b then s.manage.slotB else s.manage.slotA) s.manage.floor

/-- The other facts that a start goes by: a stack that fails, and the mode of its port. -/
def startsAs (s : State) (found : Option Nat) (mode : Option Nat) : Bool :=
  let m := s.manage
  m.hang.isNone && (m.badStacks.find? fun k => decide (k < (if m.perigee then 4 else 8))) == found && portMode m.hostAccepts m.perigee == mode

theorem verifies_good : ecVerify Manage.key0 (sha512 Image.good0.code) Image.good0.sigR Image.good0.sigS = true := by decide +kernel
theorem gives_runs : imageCheck Manage.key0 imageRuns 5 = 0 := by simp only [imageCheck, imageRuns, verifies_good]; decide
theorem gives_old : imageCheck Manage.key0 imageOld 5 = 2 := by simp only [imageCheck, imageOld, verifies_good]; decide
theorem gives_bad : imageCheck Manage.key0 imageBad 5 = 1 := by decide +kernel

/-- A start in Perigee with a stack 7 that fails and a host that accepts what `accepts` says. -/
def perigeeStart (accepts : Nat) : State := startIn imageRuns imageBad fun m => { m with badStacks := [7], perigee := true, hostAccepts := accepts }

theorem witness_StartImages :
    ecVerify Manage.key0 (sha512 imageBad.code) imageBad.sigR imageBad.sigS = false
    ∧ (ecVerify Manage.key0 (sha512 imageOld.code) imageOld.sigR imageOld.sigS = true ∧ imageOld.version < 5)
    ∧ (ecVerify Manage.key0 (sha512 imageRuns.code) imageRuns.sigR imageRuns.sigS = true ∧ 5 ≤ imageRuns.version)
    ∧ (slotGives (startIn imageBad imageOld id) false = 1 ∧ slotGives (startIn imageBad imageOld id) true = 2)
    ∧ slotGives (startIn imageBad imageRuns fun m => { m with badStacks := [7] }) true = 0
    ∧ (∀ accepts, slotGives (perigeeStart accepts) false = 0)
    ∧ slotGives (startIn imageRuns imageRuns id) false = 0
    ∧ (∀ n, slotGives (startIn imageRuns imageBad fun m => { m with hang := some n }) false = 0) :=
  ⟨by decide +kernel, ⟨verifies_good, by decide⟩, ⟨verifies_good, by decide⟩, ⟨gives_bad, gives_old⟩, gives_runs, fun _ => gives_runs, gives_runs, fun _ => gives_runs⟩

theorem witness_StartTrustPower :
    startsAs (startIn imageBad imageOld id) none (some 0) = true
    ∧ startsAs (startIn imageBad imageRuns fun m => { m with badStacks := [7] }) (some 7) (some 0) = true
    ∧ startsAs (perigeeStart 0x41) none none = true
    ∧ startsAs (perigeeStart 0x50) none (some 4) = true
    ∧ startsAs (startIn imageRuns imageRuns id) none (some 0) = true
    ∧ (0 < 64 ∧ 0 / 8 = winScene.device / 8) ∧ (63 < 64 ∧ 63 / 8 ≠ winScene.device / 8)
    ∧ (([1, 2, 3, 4, 5, 6] : List Nat).all fun n =>
      let m := (startIn imageRuns imageBad fun m => { m with hang := some n }).manage
      m.hang == some n && decide (1 ≤ n) && decide (n ≤ 6) && !m.ready && !m.failed
        && (m.badStacks.find? fun k => decide (k < 8)).isNone && (portMode m.hostAccepts m.perigee).isSome) = true
    ∧ (!quiet.manage.ready && !quiet.manage.failed && quiet.manage.stopping.isNone && quiet.manage.powered) = true
    ∧ (withManage fun m => { m with stopping := some 5 }).manage.stopping ≠ none
    ∧ ((perigeeStart 0x50).manage.perigee && !(startIn imageRuns imageRuns id).manage.perigee) = true
    -- a full start that no mode of its host ends
    ∧ startsAs (startIn imageRuns imageRuns fun m => { m with hostAccepts := 0 }) none none = true
    ∧ (let s : State := withManage fun m => { m with perigee := true }
     s.windowOpen && s.manage.perigee) = true
    ∧ (let s : State := withManage fun m => { m with recovery := true }
     s.manage.recovery && s.port.up) = true
    ∧ (winScene.windowOpen && winScene.ctxLive 0 && (List.all [0x10000, 0x20000] fun f => (List.range 2).any fun d => frameOk d f) && decide (12 ≤ 12)) = true
    ∧ (let s : State := { winScene with contexts := winScene.contexts ++ (winScene.contexts.map fun (c : Nat × Context) => (5, c.2)) }
     s.windowOpen && s.ctxLive 5 && decide ((4095 < 4096) ∧ 5 ≠ 0 ∧ (2 ^ 49 - 64) % 64 = 0 ∧ 2 ^ 49 - 64 < 2 ^ 49 ∧ (2 ^ 39 - 256) % 128 = 0 ∧ 2 ^ 39 - 256 + 256 ≤ 2 ^ 39)) = true
    ∧ (let s : State := withManage fun m => { m with ready := false }
     !s.windowOpen) = true
    ∧ (let s : State := (withManage fun m => { m with startCount := 255 }).updCtx 0 fun c => { c with state := .ready }
     stopReason ({ Readings.nominal with inlet := 46 }) == some 6 && s.manage.stopping == none && s.manage.powered) = true
    ∧ (let s : State := ctxIn .running id
     stopReason ({ Readings.nominal with supply := 621 }) == some 7 && s.manage.stopping == none && s.manage.powered) = true
    ∧ (stopReason { Readings.nominal with inlet := 41 } == none && tooHot { Readings.nominal with inlet := 41 } && winScene.manage.stepMs != some winScene.manage.ms) = true
    ∧ (let s : State := withManage fun m => { m with goodMs := 10, ms := 8, stepMs := some 7 }
     allGood Readings.nominal && decide (10 ≤ s.manage.goodMs) && s.manage.stepMs != some s.manage.ms) = true
    ∧ (let s : State := withManage fun m => { m with ms := 8, stepMs := some 8 }
     s.manage.stepMs == some s.manage.ms) = true
    ∧ (let s : State := (withManage fun m => { m with stopping := some 5, ms := 105 }).updCtx 0 fun c => { c with state := .running }
     s.manage.stopping == some 5 && (s.stopRunning.contexts.any fun c => c.2.state == .preempting) && decide (5 + 100 ≤ s.stopRunning.manage.ms)) = true
    ∧ (let s : State := (withManage fun m => { m with stopping := some 5, ms := 6 }).updCtx 0 fun c => { c with state := .saved }
     s.manage.stopping == some 5 && (s.stopRunning.contexts.all fun c => c.2.state != .preempting)) = true := by
  refine ⟨?_, ?_, ?_, ?_, ?_, ?_, ?_, ?_, ?_, ?_, ?_, ?_, ?_, ?_, ?_, ?_, ?_, ?_, ?_, ?_, ?_⟩ <;> decide +kernel

end Sys2Proof.Machine
end

section
/-! SUPPORT. The start by the step it ends at (spec/23_bringup.md R428 to R430): one equation for each end of `State.start`, and what a
failed start and the links of a start hold. -/

namespace Sys2Proof.Machine

/-! ### The links of a start -/

/-- A table of the keys below `n` holds each of them. -/
theorem Tab.get?_map_range {α : Type} (f : Nat → α) {n d : Nat} (h : d < n) : Tab.get? ((List.range n).map fun k => (k, f k)) d = some (f d) := by
  suffices below : ∀ k lo, lo ≤ d → d < lo + k → Tab.get? ((List.range' lo k).map fun k => (k, f k)) d = some (f d) by
    rw [List.range_eq_range']; exact below n 0 (Nat.zero_le d) (by omega)
  intro k
  induction k with
  | zero => intro lo _ _; omega
  | succ k ih =>
    intro lo hlo hd
    rw [List.range'_succ, List.map_cons, Tab.get?_cons]
    by_cases hk : lo = d
    · rw [if_pos hk, hk]
    · rw [if_neg hk, if_neg (by omega), ih (lo + 1) (by omega) (by omega)]

/-- The state in which a start leaves a link, of either direction. -/
def State.startState (s : State) (d : Nat) : LState := if s.trains d then .training else .dark

theorem State.startState_eq (s : State) (d : Nat) :
    s.startState d = if s.manage.perigee = false ∧ bitOf s.pod.toNat d = true then .training else .dark := by
  simp [State.startState, State.trains]

theorem State.startLinks_link (s : State) {d : Nat} (h : d < 64) : s.startLinks.link d =
    { Link.dark with state := s.startState d, enc := d / 8 != s.device / 8 && Config.enc (d / 8) } := by
  unfold State.link Tab.get
  exact congrArg (·.getD Link.dark) (Tab.get?_map_range _ h)

theorem State.startLinks_inLink (s : State) {d : Nat} (h : d < 64) : s.startLinks.inLink d = { InLink.dark with state := s.startState d } := by
  unfold State.inLink Tab.get
  exact congrArg (·.getD InLink.dark) (Tab.get?_map_range _ h)

/-- R411: within the module's own group nothing is encrypted. -/
theorem State.startLinks_enc_own (s : State) {d : Nat} (h : d < 64) (own : d / 8 = s.device / 8) : (s.startLinks.link d).enc = false := by
  simp [s.startLinks_link h, own]

/-- R401: the links of a start go by the mode of the start, the pod and the module's place in it, and by nothing that a step sets. -/
theorem State.startLinks_links_congr {s t : State} (perigee : t.manage.perigee = s.manage.perigee) (pod : t.pod = s.pod) (device : t.device = s.device) :
    t.startLinks.links = s.startLinks.links := by
  simp [State.startLinks, State.trains, perigee, pod, device]

/-! ### A start that fails -/

theorem State.failStart_port_full {s : State} (h : s.manage.perigee = false) (reason stack : Nat) : (s.failStart reason stack).port = s.port := by
  simp [State.failStart, h]

theorem State.failStart_port_up {s : State} (h : s.manage.perigee = true) (reason stack : Nat) :
    (s.failStart reason stack).port.up = (reason != 4 && bitOf s.manage.hostAccepts 4) := by
  simp [State.failStart, h]

/-! ### The check of an image -/

theorem imageCheck_unsigned {key : Nat × Nat} {x : Image} (floor : Nat) (h : ecVerify key (sha512 x.code) x.sigR x.sigS = false) :
    imageCheck key x floor = 1 := by
  simp only [imageCheck, h, Bool.not_false, if_true]

theorem imageCheck_signed {key : Nat × Nat} {x : Image} (floor : Nat) (h : ecVerify key (sha512 x.code) x.sigR x.sigS = true) :
    imageCheck key x floor = if x.version < floor then 2 else 0 := by
  simp only [imageCheck, h, Bool.not_true, Bool.false_eq_true, if_false]

/-! ### The steps in order -/

/-- R428, step 1: what the check of a slot's image gives, 0 where it runs. -/
def Manage.checkA (m : Manage) : Nat := imageCheck m.rootKey m.slotA m.floor
def Manage.checkB (m : Manage) : Nat := imageCheck m.rootKey m.slotB m.floor
/-- R428, step 1: the image that runs is slot A's unless its check fails. -/
def Manage.image (m : Manage) : Image := if m.checkA = 0 then m.slotA else m.slotB
/-- R428, step 3, and R430: the first stack that does not train among those that are asked. -/
def Manage.stackFails (m : Manage) : Option Nat := m.badStacks.find? fun k => decide (k < (if m.perigee then 4 else 8))

/-- After step 2: the two measurements are recorded. -/
def State.measured (s : State) : State :=
  { s with manage := { s.manage with
      step := 2, measured := BitVec.ofNat 512 (sha512 s.manage.image.code), measuredCfg := BitVec.ofNat 512 (sha512 s.manage.image.config) } }
/-- After step 3: the stacks have trained. -/
def State.stacksTrained (s : State) : State := { s.measured with manage := { s.measured.manage with step := 3 } }
/-- After step 4: the port has trained to a mode. -/
def State.portTrained (s : State) (mode : Nat) : State :=
  { s.stacksTrained with port := { s.port with mode, width := portWidth s.manage.hostAccepts, up := true } }
/-- After step 6: the links train and the window is open. -/
def State.opened (s : State) (mode : Nat) : State :=
  let t := (s.portTrained mode).startLinks
  { t with manage := { t.manage with step := 6, ready := true, startCount := if s.manage.perigee then s.manage.startCount else 0 } }
/-- A start that stays at step `n`. -/
def State.stuckAt (s : State) (n : Nat) : State := { s with manage := { s.manage with step := n } }

/-- The start, with its states by name: each step is reached when those before it have ended. -/
theorem State.start_eq (s : State) : s.start =
    if s.manage.hang = some 1 then s.stuckAt 1
    else if s.manage.checkA ≠ 0 ∧ s.manage.checkB ≠ 0 then s.failStart s.manage.checkB 0
    else if s.manage.hang = some 2 then s.stuckAt 2
    else if s.manage.hang = some 3 then s.measured.stuckAt 3
    else match s.manage.stackFails with
      | some k => s.measured.failStart 3 k
      | none =>
        if s.manage.hang = some 4 then s.stacksTrained.stuckAt 4
        else match portMode s.manage.hostAccepts s.manage.perigee with
          | none => s.stacksTrained.failStart 4 0
          | some mode =>
            if s.manage.hang = some 5 then (s.portTrained mode).stuckAt 5
            else if s.manage.hang = some 6 then (s.portTrained mode).startLinks.stuckAt 6
            else s.opened mode := by
  simp only [State.start, State.stuckAt, State.measured, State.stacksTrained, State.portTrained, State.opened, Manage.stackFails, Manage.image,
    Manage.checkA, Manage.checkB, beq_iff_eq, bne_iff_ne, Bool.and_eq_true] <;> rfl

/-- R428: one of the two slots holds an image that runs. -/
def Manage.runs (m : Manage) : Prop := m.checkA = 0 ∨ m.checkB = 0

theorem Manage.runs_iff (m : Manage) : m.runs ↔ ¬(m.checkA ≠ 0 ∧ m.checkB ≠ 0) := by unfold Manage.runs; omega

section ends
variable {s : State} (free : s.manage.hang = none)
include free

theorem State.start_no_image (a : s.manage.checkA ≠ 0) (b : s.manage.checkB ≠ 0) : s.start = s.failStart s.manage.checkB 0 := by
  simp [s.start_eq, free, a, b]

variable (runs : s.manage.runs)
include runs

theorem State.start_bad_stack {k : Nat} (found : s.manage.stackFails = some k) : s.start = s.measured.failStart 3 k := by
  simp [s.start_eq, free, (Manage.runs_iff _).1 runs, found]

theorem State.start_no_mode (found : s.manage.stackFails = none) (mode : portMode s.manage.hostAccepts s.manage.perigee = none) :
    s.start = s.stacksTrained.failStart 4 0 := by
  simp [s.start_eq, free, (Manage.runs_iff _).1 runs, found, mode]

theorem State.start_opens {n : Nat} (found : s.manage.stackFails = none) (mode : portMode s.manage.hostAccepts s.manage.perigee = some n) :
    s.start = s.opened n := by
  simp [s.start_eq, free, (Manage.runs_iff _).1 runs, found, mode]

/-- R428, step 2: what a start measures stands also where a later step fails. -/
theorem State.start_measures : s.start.manage.measured = s.measured.manage.measured ∧ s.start.manage.measuredCfg = s.measured.manage.measuredCfg := by
  cases found : s.manage.stackFails with
  | some k => rw [State.start_bad_stack free runs found]; exact ⟨rfl, rfl⟩
  | none =>
    cases mode : portMode s.manage.hostAccepts s.manage.perigee with
    | none => rw [State.start_no_mode free runs found mode]; exact ⟨rfl, rfl⟩
    | some n => rw [State.start_opens free runs found mode]; exact ⟨rfl, rfl⟩

end ends

/-- R428: a start that reaches a step that does not end stays in it, whichever it is: it neither opens the window nor fails. -/
theorem State.start_hangs {s : State} {n : Nat} (hang : s.manage.hang = some n) (lo : 1 ≤ n) (hi : n ≤ 6) (image : n = 1 ∨ s.manage.runs)
    (trained : n ≤ 3 ∨ s.manage.stackFails = none) (mode : n ≤ 4 ∨ portMode s.manage.hostAccepts s.manage.perigee ≠ none) :
    s.start.manage.ready = s.manage.ready ∧ s.start.manage.failed = s.manage.failed := by
  suffices stays : ∃ t : State, s.start = t.stuckAt n ∧ t.manage.ready = s.manage.ready ∧ t.manage.failed = s.manage.failed by
    obtain ⟨t, start, ready, failed⟩ := stays
    rw [start]; exact ⟨ready, failed⟩
  rw [s.start_eq, hang]
  by_cases one : n = 1
  · subst one; exact ⟨s, by simp, rfl, rfl⟩
  have runs := (Manage.runs_iff _).1 (image.resolve_left one)
  by_cases two : n = 2
  · subst two; exact ⟨s, by simp [runs], rfl, rfl⟩
  by_cases three : n = 3
  · subst three; exact ⟨s.measured, by simp [runs], rfl, rfl⟩
  have found := trained.resolve_left (by omega)
  by_cases four : n = 4
  · subst four; exact ⟨s.stacksTrained, by simp [runs, found], rfl, rfl⟩
  obtain ⟨k, trainsTo⟩ := Option.ne_none_iff_exists'.1 (mode.resolve_left (by omega))
  by_cases five : n = 5
  · subst five; exact ⟨s.portTrained k, by simp [runs, found, trainsTo], rfl, rfl⟩
  · obtain rfl : n = 6 := by omega
    exact ⟨(s.portTrained k).startLinks, by simp [runs, found, trainsTo], rfl, rfl⟩

end Sys2Proof.Machine
end

section
/-! SUPPORT. What the host does through the window (spec/23_bringup.md R430 to R433), and the power, cooling and telemetry of the module
(R434, R435): one equation for each way that an event goes. -/

namespace Sys2Proof.Machine

/-! ### The window -/

theorem State.windowed_open {s : State} (h : s.windowOpen = true) (r : State) : s.windowed r = .next r := by
  rw [State.windowed, if_pos h]

theorem State.windowed_closed {s : State} (h : s.windowOpen = false) (r : State) : s.windowed r = .next s := by
  rw [State.windowed, h]; rfl

/-- R431: the field of a context that is not destroyed takes a value that it admits. -/
theorem State.ctxField_admits {s : State} {ctx : Nat} {ok : Bool} (f : Context → Context) (admits : ok = true) (live : s.ctxLive ctx = true) :
    s.ctxField ctx ok f = s.accept.updCtx ctx f := by
  simp [State.ctxField, admits, live]

section fields
variable {s : State} {ctx : Nat}

theorem State.windowWrite_freeFrames {die : Nat} {fs : List Nat} (live : s.ctxLive ctx = true) (hd : die < 2) (hf : ∀ f ∈ fs, frameOk die f = true) :
    s.windowWrite (.freeFrames ctx die fs) =
      s.accept.updCtx ctx fun c => if die = 0 then { c with frames0 := fs } else { c with frames1 := fs } := by
  rw [State.windowWrite, State.ctxField_admits _ (by simpa [hd] using hf) live]
  simp only [beq_iff_eq]

theorem State.windowWrite_spillPool {base size : Nat} (live : s.ctxLive ctx = true) (hb : base % 128 = 0) (hs : base + size ≤ 2 ^ 39) :
    s.windowWrite (.spillPool ctx base size) = s.accept.updCtx ctx fun c => { c with spillBase := base, spillSize := size } :=
  State.ctxField_admits _ (by rw [hb, decide_eq_true hs]; rfl) live

theorem State.windowWrite_overlayDir {va : Nat} (live : s.ctxLive ctx = true) (ha : va % 64 = 0) (hv : va < 2 ^ 49) :
    s.windowWrite (.overlayDir ctx va) = s.accept.updCtx ctx fun c => { c with ovlDir := va } :=
  State.ctxField_admits _ (by rw [ha, decide_eq_true hv]; rfl) live

theorem State.windowWrite_vways {die n : Nat} (hd : die < 2) (hn : n ≤ 12) :
    s.windowWrite (.vways die n) = { s.accept with vways := s.vways.set die n } := by
  simp [State.windowWrite, hd, hn]

theorem State.windowWrite_fabricCtx {n : Nat} (hn : n < 4096) (hc : ctx ≠ 0) (live : s.ctxLive ctx = true) :
    s.windowWrite (.fabricCtx n ctx) = { s.accept with fabricCtx := Tab.set s.fabricCtx n ctx } := by
  simp [State.windowWrite, Nat.not_le.2 hn, hc, live]

theorem State.windowWrite_fabricCtx_none {n : Nat} (hn : n < 4096) :
    s.windowWrite (.fabricCtx n 0) = { s.accept with fabricCtx := Tab.del s.fabricCtx n } := by
  simp [State.windowWrite, Nat.not_le.2 hn]

theorem State.windowWrite_linkQueue {base size : Nat} (hb : base % 32 = 0) (lo : 4 ≤ size) (hi : size ≤ 20) :
    s.windowWrite (.linkQueue base size) = { s.accept with linkQueue := { LinkQueue.reset with base, size, msix := s.linkQueue.msix } } := by
  simp [State.windowWrite, hb, Nat.not_lt.2 lo, Nat.not_lt.2 hi]

theorem State.windowWrite_msix_ctx {vector : Nat} (live : s.ctxLive ctx = true) (hv : vector < 64) :
    s.windowWrite (.msix (some ctx) vector) = s.accept.updCtx ctx fun c => { c with msix := vector } :=
  State.ctxField_admits _ (decide_eq_true hv) live

theorem State.windowWrite_msix_links {vector : Nat} (hv : vector < 64) :
    s.windowWrite (.msix none vector) = { s.accept with linkQueue := { s.linkQueue with msix := vector } } :=
  if_pos hv

end fields

theorem exec_windowRegisterWrite (w : WinReg) (s : State) : exec (.windowRegisterWrite w) s = s.windowed (s.windowWrite w) := rfl

/-- R431: while the window is open a write does what its field says. -/
theorem exec_windowRegisterWrite_open {s t : State} {w : WinReg} (field : s.windowWrite w = t) (h : s.windowOpen = true) :
    exec (.windowRegisterWrite w) s = .next t := by
  rw [exec_windowRegisterWrite, State.windowed_open h, field]

/-- R430: the full-start request clears the count and resets the module. -/
theorem exec_fullStartRequest_perigee {s : State} (h : s.windowOpen = true) (perigee : s.manage.perigee = true) :
    exec .fullStartRequest s = .next (State.start (State.powerOn { s with manage := { s.manage with startCount := 0 } })) := by
  change s.windowed (if !s.manage.perigee then s.refuse else _) = _
  rw [State.windowed_open h, perigee]; rfl

/-- R430: the recovery function takes an image for slot B. -/
theorem exec_recoveryImageWrite_up {s : State} (x : Image) (recovery : s.manage.recovery = true) (up : s.port.up = true) :
    exec (.recoveryImageWrite x) s = .next { s with manage := { s.manage with slotB := x } } :=
  if_pos (by rw [recovery, up]; rfl)

/-! ### The time limit of a start -/

theorem exec_startTimeout (s : State) : exec .startTimeout s =
    if s.manage.ready || s.manage.failed || s.manage.stopping.isSome || !s.manage.powered then .next s else .next (s.failStart 8 0) := rfl

theorem exec_startTimeout_late {s : State} (ready : s.manage.ready = false) (failed : s.manage.failed = false) (stopping : s.manage.stopping = none)
    (powered : s.manage.powered = true) : exec .startTimeout s = .next (s.failStart 8 0) := by
  simp [exec_startTimeout, ready, failed, stopping, powered]

/-- R434: a stop has ended the start already. -/
theorem exec_startTimeout_stopping {s : State} (h : s.manage.stopping ≠ none) : exec .startTimeout s = .next s := by
  rw [exec_startTimeout, Option.isSome_iff_ne_none.2 h, Bool.or_true, Bool.true_or, if_pos rfl]

/-! ### Power and cooling -/

theorem exec_thermalStop_stops {s : State} {r : Readings} {reason : Nat} (why : stopReason r = some reason) (stopping : s.manage.stopping = none)
    (powered : s.manage.powered = true) : exec (.thermalStop r) s = .next { s.stopRunning with manage := { s.stopRunning.manage with
      readings := r, stopping := some s.stopRunning.manage.ms, reason, lastReason := reason
      startCount := if s.stopRunning.manage.failed then s.stopRunning.manage.startCount else min 255 (s.stopRunning.manage.startCount + 1) } } := by
  change execThermalStop r s = _
  simp only [execThermalStop, why, stopping, powered, Option.isSome_none, Bool.not_true, Bool.or_false, Bool.false_eq_true, if_false]

theorem State.clockStill_iff (s : State) : s.clockStill = true ↔ s.manage.stepMs = some s.manage.ms := beq_iff_eq

theorem State.clockStill_false {s : State} (moves : ¬s.manage.stepMs = some s.manage.ms) : s.clockStill = false :=
  Bool.eq_false_iff.2 (moves ∘ s.clockStill_iff.1)

theorem exec_clockThrottle (r : Readings) (s : State) : exec (.clockThrottle r) s =
    if (stopReason r).isNone && tooHot r && !s.clockStill then
      let t := s.setClock r (max 1000 (s.manage.clock - 100))
      .next { t with manage := { t.manage with goodMs := 0 } }
    else .next s := rfl

theorem exec_clockRaise (r : Readings) (s : State) : exec (.clockRaise r) s =
    if allGood r && decide (10 ≤ s.manage.goodMs) && !s.clockStill then .next (s.setClock r (min 2000 (s.manage.clock + 100))) else .next s := rfl

theorem exec_clockThrottle_hot {s : State} {r : Readings} (runs : stopReason r = none) (hot : tooHot r = true)
    (moves : ¬s.manage.stepMs = some s.manage.ms) : exec (.clockThrottle r) s = .next { s with manage := { s.manage with
      readings := r, clock := max 1000 (s.manage.clock - 100), stepMs := some s.manage.ms, goodMs := 0 } } := by
  rw [exec_clockThrottle, runs, hot, State.clockStill_false moves]; rfl

theorem exec_clockRaise_good {s : State} {r : Readings} (good : allGood r = true) (long : 10 ≤ s.manage.goodMs)
    (moves : ¬s.manage.stepMs = some s.manage.ms) : exec (.clockRaise r) s = .next { s with manage := { s.manage with
      readings := r, clock := min 2000 (s.manage.clock + 100), stepMs := some s.manage.ms } } := by
  rw [exec_clockRaise, good, decide_eq_true long, State.clockStill_false moves]; rfl

/-- R434: the clock that has changed in this millisecond stays. -/
theorem exec_clock_still {s : State} (r : Readings) (still : s.manage.stepMs = some s.manage.ms) :
    exec (.clockThrottle r) s = .next s ∧ exec (.clockRaise r) s = .next s := by
  have still := s.clockStill_iff.2 still
  exact ⟨by simp [exec_clockThrottle, still], by simp [exec_clockRaise, still]⟩

/-- R434: the module powers off once no context is being saved, or 100 ms after the stop. -/
theorem exec_powerOff_ends {s : State} {since : Nat} (stopping : s.manage.stopping = some since)
    (ended : (∀ c ∈ s.stopRunning.contexts, c.2.state ≠ .preempting) ∨ since + 100 ≤ s.stopRunning.manage.ms) :
    exec .powerOff s = .next { s.stopRunning.powerOn with
      agenda := [], manage := { s.stopRunning.powerOn.manage with powered := false, perigee := false } } := by
  have waits : ((s.stopRunning.contexts.any fun c => c.2.state == .preempting) && decide (s.stopRunning.manage.ms < since + 100)) = false := by
    rw [Bool.and_eq_false_iff]
    exact ended.imp (fun saved => by simpa using saved) (fun late => by simpa using late)
  change execPowerOff s = _
  simp only [execPowerOff, stopping, waits, Bool.false_eq_true, if_false]

end Sys2Proof.Machine
end

section
/-! The obligation about start, trust and power, from the equations above. -/

namespace Sys2Proof.Machine

/-- Settles O60: every clause is one end of the start, one field of the window or one row of the power table. -/
theorem startTrustPower : Obligations.StartTrustPower := by
  unfold Obligations.StartTrustPower
  refine ⟨?start, ?window, ?power⟩
  case start =>
    intro s k mode d x m a b img runs found r
    refine ⟨rfl, rfl, rfl, rfl, ⟨imageCheck_unsigned k, ?older, ?newer⟩, State.start_no_image, ?measures, ?stack, ?noMode, ?opens,
      ⟨rfl, fun full => State.failStart_port_full full k 0, ?recovery⟩, ?links, ?hangs, exec_startTimeout_late, exec_startTimeout_stopping,
      exec_fullStartRequest_perigee, exec_recoveryImageWrite_up x⟩
    case older => intro signed below; rw [imageCheck_signed k signed, if_pos below]
    case newer => intro signed above; rw [imageCheck_signed k signed, if_neg (Nat.not_lt.2 above)]
    case measures => rintro ⟨free, runs⟩; exact State.start_measures free runs
    case stack =>
      rintro ⟨free, runs⟩ found
      rw [show r = _ from State.start_bad_stack free runs found]
      exact ⟨rfl, rfl, rfl, rfl, rfl, rfl⟩
    case noMode =>
      rintro ⟨free, runs⟩ found noMode
      rw [show r = _ from State.start_no_mode free runs found noMode]
      refine ⟨rfl, rfl, rfl, rfl, fun perigee => ?_, fun full => ?_⟩
      · exact State.failStart_port_up (s := s.stacksTrained) perigee 4 0
      · exact State.failStart_port_full (s := s.stacksTrained) full 4 0
    case opens =>
      rintro ⟨free, runs⟩ found trainsTo
      rw [show r = _ from State.start_opens free runs found trainsTo]
      exact ⟨rfl, rfl, rfl, rfl, rfl, rfl, rfl, State.startLinks_links_congr rfl rfl rfl⟩
    case recovery =>
      intro perigee
      rw [State.failStart_port_up perigee]
      simp [m]
    case links =>
      intro hd
      refine ⟨?_, s.startLinks_enc_own hd, ?_⟩
      · rw [s.startLinks_link hd]; exact s.startState_eq d
      · rw [s.startLinks_link hd, s.startLinks_inLink hd]
    case hangs =>
      intro n hang lo hi ready failed image trained mode
      have kept := State.start_hangs hang lo hi image trained mode
      exact ⟨kept.1.trans ready, kept.2.trans failed⟩
  case window =>
    intro s ctx die base size va n vector fs avg dmin dmax _ _
    refine ⟨fun live hd hf => exec_windowRegisterWrite_open (State.windowWrite_freeFrames live hd hf),
      fun live hb hs => exec_windowRegisterWrite_open (State.windowWrite_spillPool live hb hs),
      fun live ha hv => exec_windowRegisterWrite_open (State.windowWrite_overlayDir live ha hv),
      fun hd hn => exec_windowRegisterWrite_open (State.windowWrite_vways hd hn),
      fun hn hc live => exec_windowRegisterWrite_open (State.windowWrite_fabricCtx hn hc live),
      fun hn => exec_windowRegisterWrite_open (State.windowWrite_fabricCtx_none hn),
      fun hb lo hi => exec_windowRegisterWrite_open (State.windowWrite_linkQueue hb lo hi),
      fun live => exec_windowRegisterWrite_open (State.ctxField_admits _ rfl live),
      fun live => exec_windowRegisterWrite_open (State.ctxField_admits _ rfl live),
      fun live hv => exec_windowRegisterWrite_open (State.windowWrite_msix_ctx live hv),
      fun hv => exec_windowRegisterWrite_open (State.windowWrite_msix_links hv),
      fun w closed => State.windowed_closed closed (s.windowWrite w)⟩
  case power =>
    intro s nonce v r reason at_ _
    exact ⟨fun h => State.windowed_open h _, fun h => State.windowed_open h _, exec_thermalStop_stops, exec_clockThrottle_hot,
      exec_clockRaise_good, exec_clock_still r, rfl, exec_powerOff_ends⟩

end Sys2Proof.Machine
end

section
/-! SUPPORT. The encoder and the decoder of spec/03_encoding.md against each other (R56 to R68, R79 to R81): the words of an instruction as
bytes, the decoder on them, and what the decoder has checked of an instruction that it gives. -/

namespace Sys2Proof.Laws
open Sys2Proof Sys2Proof.Machine

/-! ### Words as bytes (R56) -/

theorem wordAt_leBytes {w : Nat} (h : w < 2 ^ 32) (bs : List Byte) : wordAt (leBytes 4 w ++ bs) 0 = w := by
  simp only [leBytes, List.cons_append, wordAt, leNat, List.getD_cons_zero, List.getD_cons_succ, Nat.zero_add, BitVec.toNat_ofNat]
  omega

theorem wordAt_leBytes_add_four (w : Nat) (bs : List Byte) (k : Nat) : wordAt (leBytes 4 w ++ bs) (k + 4) = wordAt bs k := rfl

/-- A list of words stored as R56 says reads back word by word, whatever stands behind it. -/
theorem wordAt_flatMap_leBytes {ws : List Nat} (h : ∀ w ∈ ws, w < 2 ^ 32) (rest : List Byte) {k : Nat} (hk : k < ws.length) :
    wordAt (ws.flatMap (leBytes 4) ++ rest) (4 * k) = ws[k] := by
  induction ws generalizing k with
  | nil => exact absurd hk (Nat.not_lt_zero k)
  | cons w ws ih =>
    rw [List.flatMap_cons, List.append_assoc]
    cases k with
    | zero => exact wordAt_leBytes (h w (List.mem_cons_self ..)) _
    | succ k =>
      rw [Nat.mul_succ, wordAt_leBytes_add_four, List.getElem_cons_succ]
      exact ih (fun x hx => h x (List.mem_cons_of_mem _ hx)) (Nat.lt_of_succ_lt_succ hk)

/-! ### The words of fields in their places (R57, R58) -/

theorem Fields.len_bounds {f : Fields} {len : Nat} (h : f.inPlace len) : 2 ≤ len ∧ len ≤ 4 := by
  obtain ⟨-, -, -, -, -, -, -, -, lo, hi, -⟩ := h
  exact ⟨lo, hi⟩

theorem Fields.words_eq_take {f : Fields} {len : Nat} (h : f.inPlace len) : f.words len = [f.w0 len, f.w1, f.w2, f.lit].take len := by
  obtain ⟨lo, hi⟩ := Fields.len_bounds h
  obtain rfl | rfl | rfl : len = 2 ∨ len = 3 ∨ len = 4 := by omega
  all_goals rfl

theorem Fields.word_lt {f : Fields} {len : Nat} (h : f.inPlace len) : ∀ w ∈ [f.w0 len, f.w1, f.w2, f.lit], w < 2 ^ 32 := by
  obtain ⟨opc, d, a, moda, b, c, modb, lit, lo, hi, -⟩ := h
  have := f.hdr.stall.isLt; have := b2n_le f.hdr.y; have := f.hdr.gp.isLt; have := b2n_le f.hdr.gn; have := f.hdr.wsb.isLt; have := f.hdr.wait.isLt
  simp only [List.forall_mem_cons, Fields.w0, Fields.w1, Fields.w2]
  exact ⟨by omega, by omega, by omega, lit, List.forall_mem_nil _⟩

/-- LEN of word 0 counts the words (R57). -/
theorem lenWords_w0 {f : Fields} {len : Nat} (h : f.inPlace len) : lenWords (f.w0 len) = len := by
  have low := w0_len h
  obtain ⟨lo, hi⟩ := Fields.len_bounds h
  simp only [lenWords, beq_iff_eq]
  split <;> omega

theorem w0_not_pad {f : Fields} {len : Nat} (h : f.inPlace len) : f.w0 len % 4 ≠ 3 := by
  have low := w0_len h
  obtain ⟨lo, hi⟩ := Fields.len_bounds h
  omega

/-! ### Every instruction's fields -/

/-- R79: the round trip through the fields, for every row of the opcode map; an event has no fields. -/
theorem RoundTrip.all (i : Instr) : RoundTrip.Statement i := by
  cases i
  case nop h => exact RoundTrip.nop h
  case bra h off => exact RoundTrip.bra h off
  case brx h a => exact RoundTrip.brx h a
  case call h off => exact RoundTrip.call h off
  case callx h a => exact RoundTrip.callx h a
  case ret h => exact RoundTrip.ret h
  case exit h => exact RoundTrip.exit h
  case jset h j add => exact RoundTrip.jset h j add
  case join h j => exact RoundTrip.join h j
  case jpush h j => exact RoundTrip.jpush h j
  case jpop h j => exact RoundTrip.jpop h j
  case brk h off j n1 => exact RoundTrip.brk h off j n1
  case yield h a => exact RoundTrip.yield h a
  case monw h a => exact RoundTrip.monw h a
  case mwait h d a => exact RoundTrip.mwait h d a
  case gsync h => exact RoundTrip.gsync h
  case spmat h => exact RoundTrip.spmat h
  case gfold h => exact RoundTrip.gfold h
  case spform h d src => exact RoundTrip.spform h d src
  case rgnld h base mask offs => exact RoundTrip.rgnld h base mask offs
  case rshrink h a s => exact RoundTrip.rshrink h a s
  case rgrow h a s => exact RoundTrip.rgrow h a s
  case plop h pd pa pb lut => exact RoundTrip.plop h pd pa pb lut
  case pmov h pd pa neg => exact RoundTrip.pmov h pd pa neg
  case trap h tag => exact RoundTrip.trap h tag
  case bpt h tag => exact RoundTrip.bpt h tag
  case srd h d a => exact RoundTrip.srd h d a
  case swr h d a => exact RoundTrip.swr h d a
  case cyc h d hi => exact RoundTrip.cyc h d hi
  case bar h b => exact RoundTrip.bar h b
  case bara h d b => exact RoundTrip.bara h d b
  case barw h b a => exact RoundTrip.barw h b a
  case barinit h b a => exact RoundTrip.barinit h b a
  case cbar h => exact RoundTrip.cbar h
  case gbar h => exact RoundTrip.gbar h
  case launch h d a nb => exact RoundTrip.launch h d a nb
  case enq h d a b nb => exact RoundTrip.enq h d a b nb
  case qstat h d a child => exact RoundTrip.qstat h d a child
  case splnch h d a b c slot ps nb lit => exact RoundTrip.splnch h d a b c slot ps nb lit
  case resolve h d a b slot => exact RoundTrip.resolve h d a b slot
  case vqry h d a drops => exact RoundTrip.vqry h d a drops
  case vabort h d a => exact RoundTrip.vabort h d a
  case iadd h m d a b => exact RoundTrip.iadd h m d a b
  case isub h m d a b => exact RoundTrip.isub h m d a b
  case imul h m d a b => exact RoundTrip.imul h m d a b
  case imulh h m d a b => exact RoundTrip.imulh h m d a b
  case imad h m d a b c => exact RoundTrip.imad h m d a b c
  case imadw h m d a b c => exact RoundTrip.imadw h m d a b c
  case addc h m cy d a b => exact RoundTrip.addc h m cy d a b
  case subb h m cy d a b => exact RoundTrip.subb h m cy d a b
  case madc h m hi cy d a b c => exact RoundTrip.madc h m hi cy d a b c
  case imin h m d a b => exact RoundTrip.imin h m d a b
  case imax h m d a b => exact RoundTrip.imax h m d a b
  case iabs h m d a => exact RoundTrip.iabs h m d a
  case shl h m wrap d a b => exact RoundTrip.shl h m wrap d a b
  case shr h m wrap d a b => exact RoundTrip.shr h m wrap d a b
  case shra h m wrap d a b => exact RoundTrip.shra h m wrap d a b
  case shf h m right wrap d a b c => exact RoundTrip.shf h m right wrap d a b c
  case bitfn h m fn d a b c => exact RoundTrip.bitfn h m fn d a b c
  case popc h m d a => exact RoundTrip.popc h m d a
  case clz h m d a => exact RoundTrip.clz h m d a
  case brev h m d a => exact RoundTrip.brev h m d a
  case bfe h m d a b => exact RoundTrip.bfe h m d a b
  case bfi h m d a b c => exact RoundTrip.bfi h m d a b c
  case bysel h m d a b c => exact RoundTrip.bysel h m d a b c
  case isetp h m cmp bop pd a b pc => exact RoundTrip.isetp h m cmp bop pd a b pc
  case sel h m d a b pc => exact RoundTrip.sel h m d a b pc
  case mov h m d a => exact RoundTrip.mov h m d a
  case movi h m d lit => exact RoundTrip.movi h m d lit
  case lea h m sh d a b => exact RoundTrip.lea h m sh d a b
  case rqnt h dst rm pos shift pack d a b c => exact RoundTrip.rqnt h dst rm pos shift pack d a b c
  case idp4 h m bsgn d a b c => exact RoundTrip.idp4 h m bsgn d a b c
  case idp8 h m bsgn d a b c => exact RoundTrip.idp8 h m bsgn d a b c
  case fadd h m d a b => exact RoundTrip.fadd h m d a b
  case fmul h m d a b => exact RoundTrip.fmul h m d a b
  case ffma h m d a b c => exact RoundTrip.ffma h m d a b c
  case fmin h m d a b => exact RoundTrip.fmin h m d a b
  case fmax h m d a b => exact RoundTrip.fmax h m d a b
  case fsetp h m pd a b pc => exact RoundTrip.fsetp h m pd a b pc
  case frnd h rnd f64 d a => exact RoundTrip.frnd h rnd f64 d a
  case fclass h f64 d a => exact RoundTrip.fclass h f64 d a
  case dadd h m d a b => exact RoundTrip.dadd h m d a b
  case dmul h m d a b => exact RoundTrip.dmul h m d a b
  case dfma h m d a b c => exact RoundTrip.dfma h m d a b c
  case dsetp h m pd a b pc => exact RoundTrip.dsetp h m pd a b pc
  case hfma2 h m d a b c => exact RoundTrip.hfma2 h m d a b c
  case bfma2 h m d a b c => exact RoundTrip.bfma2 h m d a b c
  case frcp h rnd f64 d a => exact RoundTrip.frcp h rnd f64 d a
  case frsq h d a => exact RoundTrip.frsq h d a
  case fsqrt h rnd f64 d a => exact RoundTrip.fsqrt h rnd f64 d a
  case fex2 h d a => exact RoundTrip.fex2 h d a
  case flg2 h d a => exact RoundTrip.flg2 h d a
  case fsin h d a => exact RoundTrip.fsin h d a
  case fcos h d a => exact RoundTrip.fcos h d a
  case fcvt h rnd cv d a => exact RoundTrip.fcvt h rnd cv d a
  case cvtn h rnd from_ std n4 pos d a k => exact RoundTrip.cvtn h rnd from_ std n4 pos d a k
  case qnt h rnd n4 d a k => exact RoundTrip.qnt h rnd n4 d a k
  case scacc h rnd nega d a b c => exact RoundTrip.scacc h rnd nega d a b c
  case fmtset h k a => exact RoundTrip.fmtset h k a
  case lnget h m wrap d a b c => exact RoundTrip.lnget h m wrap d a b c
  case lnxor h m wrap d a b c => exact RoundTrip.lnxor h m wrap d a b c
  case lnsub h m wrap d a b c => exact RoundTrip.lnsub h m wrap d a b c
  case lnadd h m wrap d a b c => exact RoundTrip.lnadd h m wrap d a b c
  case redx h m op d a => exact RoundTrip.redx h m op d a
  case scan h m excl op d a c => exact RoundTrip.scan h m excl op d a c
  case pcons h sw dst pa => exact RoundTrip.pcons h sw dst pa
  case matchv h m d a => exact RoundTrip.matchv h m d a
  case bcast h m first d a b c => exact RoundTrip.bcast h m first d a b c
  case ldg h sz pol d a b => exact RoundTrip.ldg h sz pol d a b
  case stg h sz pol a b c => exact RoundTrip.stg h sz pol a b c
  case ldsh h sz d a b => exact RoundTrip.ldsh h sz d a b
  case stsh h sz a b c => exact RoundTrip.stsh h sz a b c
  case ldts h sz d a b => exact RoundTrip.ldts h sz d a b
  case stts h sz a b c => exact RoundTrip.stts h sz a b c
  case ldl h sz d a b => exact RoundTrip.ldl h sz d a b
  case stl h sz a b c => exact RoundTrip.stl h sz a b c
  case atomg h m d a b c off => exact RoundTrip.atomg h m d a b c off
  case atomsh h m d a b c off => exact RoundTrip.atomsh h m d a b c off
  case pref h l2 a => exact RoundTrip.pref h l2 a
  case cctl h op a => exact RoundTrip.cctl h op a
  case fence h scope kind => exact RoundTrip.fence h scope kind
  case sealq h d a => exact RoundTrip.sealq h d a
  case ldsc h sz scope ord sh d a b => exact RoundTrip.ldsc h sz scope ord sh d a b
  case stsc h sz scope ord sh a b c => exact RoundTrip.stsc h sz scope ord sh a b c
  case pgq h d a => exact RoundTrip.pgq h d a
  case copy h m lens hd a b c lit => exact RoundTrip.copy h m lens hd a b c lit
  case copy2d h m hd a b c lit => exact RoundTrip.copy2d h m hd a b c lit
  case fwait h d hn => exact RoundTrip.fwait h d hn
  case ftest h d hn => exact RoundTrip.ftest h d hn
  case fcancel h hn => exact RoundTrip.fcancel h hn
  case fwp h d hn => exact RoundTrip.fwp h d hn
  case fmovOut h d hn => exact RoundTrip.fmovOut h d hn
  case fmovIn h hd a => exact RoundTrip.fmovIn h hd a
  case tsalloc h d a nb => exact RoundTrip.tsalloc h d a nb
  case tsfree h a => exact RoundTrip.tsfree h a
  case amset h am a w mem => exact RoundTrip.amset h am a w mem
  case amget h d am w => exact RoundTrip.amget h d am w
  case gang h a => exact RoundTrip.gang h a
  case azero h an f64 => exact RoundTrip.azero h an f64
  case ald h hd f64 an am b c => exact RoundTrip.ald h hd f64 an am b c
  case ast h hd f64 an am b c => exact RoundTrip.ast h hd f64 an am b c
  case ard h m d an => exact RoundTrip.ard h m d an
  case awr h m an a => exact RoundTrip.awr h m an a
  case tld h hd tots dst am rows1 b c => exact RoundTrip.tld h hd tots dst am rows1 b c
  case mma h m ad ta tb => exact RoundTrip.mma h m ad ta tb
  case arel h f64 t n => exact RoundTrip.arel h f64 t n
  case asca h ad ap ts row => exact RoundTrip.asca h ad ap ts row
  case kvtr h vhalf d a b => exact RoundTrip.kvtr h vhalf d a b
  case atts h m causal aset tq src c tp window => exact RoundTrip.atts h m causal aset tq src c tp window
  case attv h m aset tp src c => exact RoundTrip.attv h m aset tp src c
  case attmrg h nh ad asrc b => exact RoundTrip.attmrg h nh ad asrc b
  case attfin h nh aset => exact RoundTrip.attfin h nh aset
  case arset h nh aset => exact RoundTrip.arset h nh aset
  case rld h sz ns stream d a b off => exact RoundTrip.rld h sz ns stream d a b off
  case rst h sz stream a b c off => exact RoundTrip.rst h sz stream a b c off
  case ratom h op sgn x64 ns stream d a b c off => exact RoundTrip.ratom h op sgn x64 ns stream d a b c off
  case rcopy h ssp lens stream hd a b c lit => exact RoundTrip.rcopy h ssp lens stream hd a b c lit
  case srel h stream value a => exact RoundTrip.srel h stream value a
  case rjoin h j => exact RoundTrip.rjoin h j
  case lnkq h str d a => exact RoundTrip.lnkq h str d a
  any_goals exact .event rfl
  -- the two that are left are named by keywords, which `case` does not take
  next h d a b => exact RoundTrip.seal h d a b
  next h d a => exact RoundTrip.unseal h d a

/-- What an instruction with fields is: its opcode gives its length, its fields are in their places, and its encoding is their words. -/
theorem encode_of_fields {i : Instr} {f : Fields} (wf : i.wf = true) (hf : i.fields = some f) :
    build f = some i ∧ opcWords f.opc = some i.words ∧ f.inPlace i.words ∧ encode i = [f.w0 i.words, f.w1, f.w2, f.lit].take i.words := by
  obtain ⟨built, len, opc, place⟩ := RoundTrip.all i f hf wf
  obtain rfl : i.words = len := by simp [Instr.words, hf, opc]
  refine ⟨built, opc, place, ?_⟩
  rw [← Fields.words_eq_take place]
  simp [encode, hf, opc]

/-! ### The decoder on an encoding -/

/-- The words that `decodeWords` looks at are those of the instruction's length. -/
theorem decodeWords_encode {i : Instr} {f : Fields} (wf : i.wf = true) (hf : i.fields = some f) {w2 w3 : Nat}
    (h2 : 3 ≤ i.words → w2 = f.w2) (h3 : 4 ≤ i.words → w3 = f.lit) : decodeWords (f.w0 i.words) f.w1 w2 w3 = .ok i := by
  obtain ⟨built, opc, place, enc⟩ := encode_of_fields wf hf
  have e2 : (if 3 ≤ i.words then w2 else 0) = if 3 ≤ i.words then f.w2 else 0 := ite_congr rfl h2 fun _ => rfl
  have e3 : (if 4 ≤ i.words then w3 else 0) = if 4 ≤ i.words then f.lit else 0 := ite_congr rfl h3 fun _ => rfl
  have same : encode i = [f.w0 i.words, f.w1, w2, w3].take i.words := by
    rw [enc]
    obtain ⟨lo, hi⟩ := Fields.len_bounds place
    obtain e | e | e : i.words = 2 ∨ i.words = 3 ∨ i.words = 4 := by omega
    · rw [e]; rfl
    · rw [h2 (by omega), e]; rfl
    · rw [h2 (by omega), h3 (by omega)]
  simp only [decodeWords, w0_opc place, opc, e2, e3, fieldsOf_words place, built, wf, ← same, beq_self_eq_true, Bool.and_self, if_true]

theorem decodeAt_encode {i : Instr} {f : Fields} (wf : i.wf = true) (hf : i.fields = some f) {off w2 w3 : Nat} (fits : off + 4 * i.words ≤ 32)
    (h2 : 3 ≤ i.words → w2 = f.w2) (h3 : 4 ≤ i.words → w3 = f.lit) : decodeAt off (f.w0 i.words) f.w1 w2 w3 = .ok i := by
  obtain ⟨-, -, place, -⟩ := encode_of_fields wf hf
  rw [decodeAt, lenWords_w0 place, if_neg (by omega), if_neg (by simpa using w0_not_pad place), decodeWords_encode wf hf h2 h3]

/-! ### What the decoder has checked -/

theorem opcWords_bounds {n len : Nat} (h : opcWords n = some len) : 2 ≤ len ∧ len ≤ 4 := by
  revert len
  unfold opcWords
  repeat' refine iteInduction (motive := fun o : Option Nat => ∀ {len}, o = some len → 2 ≤ len ∧ len ≤ 4) (fun _ => ?_) fun _ => ?_
  all_goals rintro _ ⟨⟩
  all_goals split_ifs <;> decide

/-- R67, R80: the decoder gives an instruction only where it is well formed and its encoding is as many of the words as its opcode says. -/
theorem decodeWords_ok {w0 w1 w2 w3 : Nat} {i : Instr} (h : decodeWords w0 w1 w2 w3 = .ok i) :
    ∃ len, 2 ≤ len ∧ len ≤ 4 ∧ i.wf = true ∧ encode i = [w0, w1, w2, w3].take len := by
  unfold decodeWords at h
  split at h
  · cases h
  next len opc =>
    split at h
    · cases h
    split at h
    next checked =>
      cases h
      rw [Bool.and_eq_true, beq_iff_eq] at checked
      obtain ⟨lo, hi⟩ := opcWords_bounds opc
      exact ⟨len, lo, hi, checked⟩
    · cases h

theorem decodeAt_ok {off w0 w1 w2 w3 : Nat} {i : Instr} (h : decodeAt off w0 w1 w2 w3 = .ok i) :
    off + 4 * lenWords w0 ≤ 32 ∧ decodeWords w0 w1 w2 w3 = .ok i := by
  unfold decodeAt at h
  split_ifs at h with far pad
  exact ⟨Nat.not_lt.1 far, h⟩

/-- An encoding that is not empty comes from fields. -/
theorem fields_of_encode {i : Instr} (h : encode i ≠ []) : ∃ f, i.fields = some f := by
  cases hf : i.fields with
  | none => simp [encode, hf] at h
  | some f => exact ⟨f, rfl⟩

end Sys2Proof.Laws
end

section
/-! The obligations about the encoding, from the laws above. -/

namespace Sys2Proof.Laws
open Sys2Proof Sys2Proof.Machine

/-- Settles O6: the bytes of the encoding hold its words, which the decoder takes for the fields that they were made of. -/
theorem encodeDecode : Obligations.EncodeDecode := by
  unfold Obligations.EncodeDecode
  intro i f off rest wf hf fits
  obtain ⟨-, -, place, enc⟩ := encode_of_fields wf hf
  obtain ⟨lo, hi⟩ := Fields.len_bounds place
  have word : ∀ k, k < i.words → wordAt ((encode i).flatMap (leBytes 4) ++ rest) (4 * k) = [f.w0 i.words, f.w1, f.w2, f.lit].getD k 0 := by
    intro k hk
    have below : ∀ w ∈ encode i, w < 2 ^ 32 := fun w hw => Fields.word_lt place w (List.mem_of_mem_take (enc ▸ hw))
    have inside : k < (encode i).length := by rw [enc, List.length_take]; simp; omega
    rw [wordAt_flatMap_leBytes below rest inside, List.getD_eq_getElem _ _ (by simp; omega)]
    simp only [enc, List.getElem_take]
  rw [decodeBytes, show wordAt _ 0 = f.w0 i.words from word 0 (by omega), show wordAt _ 4 = f.w1 from word 1 (by omega)]
  exact decodeAt_encode wf hf fits (fun three => word 2 three) fun four => word 3 four

/-- Settles O5: an instruction that is given has passed the decoder's comparison with its own encoding, and the words of an encoding say its
length. -/
theorem decodeExact : Obligations.DecodeExact := by
  unfold Obligations.DecodeExact
  intro off bs i h
  obtain ⟨fits, h⟩ := decodeAt_ok h
  obtain ⟨len, lo, hi, wf, enc⟩ := decodeWords_ok h
  have size : (encode i).length = len := by rw [enc, List.length_take]; simp; omega
  obtain ⟨f, hf⟩ := fields_of_encode (i := i) (List.ne_nil_of_length_pos (by omega))
  obtain ⟨-, -, place, words⟩ := encode_of_fields wf hf
  have short := (Fields.len_bounds place).2
  obtain rfl : len = i.words := by rw [← size, words, List.length_take]; simp; omega
  have first : wordAt bs 0 = f.w0 i.words := by
    have heads := congrArg (·[0]?) (enc.symm.trans words)
    simpa [List.getElem?_take, show 0 < i.words by omega] using heads
  rw [first, lenWords_w0 place] at fits
  refine ⟨wf, fits, lo, enc.trans ?_⟩
  obtain e | e | e : i.words = 2 ∨ i.words = 3 ∨ i.words = 4 := by omega
  all_goals rw [e]; rfl

end Sys2Proof.Laws
end

section
/-! SUPPORT. Every instruction of the opcode map runs through `issue`; what an issue under the never guard comes to (spec/03_encoding.md R68). -/

namespace Sys2Proof.Laws
open Sys2Proof Sys2Proof.Machine

/-- What has an encoding runs through `issue`, under a rule for spans and with a body of its own; an event of the part has no fields. -/
theorem exec_issue (i : Instr) : i.fields = none ∨ ∃ rule body, ∀ s, exec i s = issue i rule body s := by
  cases i
  case pcons h sw dst pa => cases dst <;> exact .inr ⟨_, _, fun _ => rfl⟩
  any_goals exact .inl rfl
  all_goals exact .inr ⟨_, _, fun _ => rfl⟩

theorem exec_issue_of_hdr {i : Instr} {h : Hdr} (hdr : i.hdr? = some h) : ∃ rule body, ∀ s, exec i s = issue i rule body s := by
  refine (exec_issue i).resolve_left fun event => ?_
  rw [Instr.hdr?, event] at hdr
  cases hdr

theorem Tab.set_set {α : Type} (t : Tab α) (n : Nat) (a b : α) : Tab.set (Tab.set t n a) n b = Tab.set t n b := by
  induction t with
  | nil => simp [Tab.set]
  | cons x t ih =>
    obtain ⟨k, c⟩ := x
    simp only [Tab.set, beq_iff_eq]
    split_ifs with h1 h2 <;> simp [Tab.set, *]

section never
variable {s : State} {i : Instr} {h : Hdr} (hdr : i.hdr? = some h) (never : h.never = true)
include hdr never

/-- The lanes are marked, without the yield bit, and go on; the WAIT field covers nothing. -/
theorem issue_group_never {lanes w : Nat} {pc next : BitVec 49} {chk : Bool} {e : Env}
    (cur : s.cur = some { who := .group e.g.uid lanes, pc, next, word := w, chk }) (env : ({ s with cur := none } : State).env? e.g.uid = some e)
    (rule : SpanRule) (body : Body) :
    issue i rule body s = .next (({ s with cur := none, free := s.free + 1 } : State).updGroup e.g.uid fun g =>
      (g.mark lanes (e.c.now + e.c.passes + h.stall.toNat) false).advance lanes next) := by
  simp only [issue, cur, State.groupIssue, env, hdr, never, if_true, Bool.not_true, Bool.and_false, State.updGroup_updGroup]

/-- The span is marked and goes on, whatever the rule of the instruction. -/
theorem issue_span_never {w : Nat} {pc next : BitVec 49} {chk : Bool} {p : Span} {gr : Grid}
    (cur : s.cur = some { who := .span p.uid, pc, next, word := w, chk }) (span : Tab.get? s.spans p.uid = some p)
    (grid : Tab.get? s.grids p.grid = some gr) (rule : SpanRule) (body : Body) :
    issue i rule body s = .next ({ s with
      cur := none, spans := Tab.set s.spans p.uid { p with pc := next, readyAt := (s.core (s.spanCore p)).now + 1, block := .free } } : State) := by
  have marked : ∀ (t : State) (q : Span) (f : Span → Span), (t.setSpan q).updSpan q.uid f = { t with spans := Tab.set t.spans q.uid (f q) } := by
    intro t q f
    simp only [State.setSpan, State.updSpan, Tab.upd, Tab.get?_set_same, Tab.set_set]
  simp only [issue, cur, span, State.spanIssue, hdr, grid, never, if_true, marked]
  rfl

end never

/-- Settles O18: an instruction with a header runs through `issue`, which looks at the never guard before anything else of it. -/
theorem neverGuard : Obligations.NeverGuard := by
  unfold Obligations.NeverGuard
  intro s i h lanes pc next w chk e hdr never
  obtain ⟨rule, body, run⟩ := exec_issue_of_hdr hdr
  simp only [run]
  exact ⟨fun cur env => issue_group_never hdr never cur env rule body, fun p gr cur span grid => issue_span_never hdr never cur span grid rule body⟩

end Sys2Proof.Laws
end

section
/-! SUPPORT. Fetch and step (spec/03_encoding.md R60, R61, R81): one equation for each way that a fetch goes, and what a step does next. -/

namespace Sys2Proof.Laws
open Sys2Proof Sys2Proof.Machine

/-! ### What the bytes of a fetch block hold -/

/-- R60: a word 0 with LEN = 0b11 inside its fetch block. -/
theorem decodeAt_pad {off w0 : Nat} (w1 w2 w3 : Nat) (len : w0 % 4 = 3) (fits : off + 4 ≤ 32) :
    decodeAt off w0 w1 w2 w3 = .error (if w0 = 3 then .padWord else .badPad) := by
  have one : lenWords w0 = 1 := by simp [lenWords, len]
  simp only [decodeAt, one, len, Nat.mul_one, Nat.not_lt.2 fits, beq_self_eq_true, beq_iff_eq, if_true, if_false]
  split <;> rfl

theorem fetchedOf_ok {pc : Nat} {bs : List Byte} {i : Instr} (h : decodeBytes (pc % 32) bs = .ok i) :
    fetchedOf pc bs = .ok i (leNat (bs.take 16)) := by simp only [fetchedOf, h]

theorem fetchedOf_padWord {pc : Nat} {bs : List Byte} (h : decodeBytes (pc % 32) bs = .error .padWord) : fetchedOf pc bs = .pad := by
  simp only [fetchedOf, h]

theorem fetchedOf_badPad {pc : Nat} {bs : List Byte} (h : decodeBytes (pc % 32) bs = .error .badPad) :
    fetchedOf pc bs = .bad .illegalEnc pc none := by simp only [fetchedOf, h]

/-- R81, step 1: a block that is there, whole and in no half of the host's is read as memory stands. -/
theorem fetch_pass {s t : State} {core ctx ver pc : Nat} {p : Tr} (page : s.checkPage core ctx ver (pc / 32 * 32) .fetch 2 = (.pass p, t))
    (whole : t.torn p.loc = false) (home : t.viewHeld ver p 32 false = none) :
    s.fetch core ctx ver pc = (fetchedOf pc (t.viewBytes ver (p.add (pc % 32)) (min 16 (32 - pc % 32))).1, t) := by
  simp only [State.fetch, page, whole, home, Bool.false_eq_true, if_false]

/-! ### Past pad words (R61) -/

theorem skipPads_pad {s t : State} {core ctx ver : Nat} {pc : BitVec 49} (n : Nat) (h : s.fetch core ctx ver pc.toNat = (.pad, t)) :
    s.skipPads core ctx ver pc (n + 1) = t.skipPads core ctx ver (pc + 4) n := by
  simp only [State.skipPads, h]

theorem skipPads_stop {s : State} {core ctx ver : Nat} {pc : BitVec 49} (n : Nat) (h : (s.fetch core ctx ver pc.toNat).1 ≠ .pad) :
    s.skipPads core ctx ver pc (n + 1) = (pc, s) := by
  unfold State.skipPads
  split
  next t pad => exact absurd (congrArg Prod.fst pad) h
  · rfl

/-! ### The fetch of an issue to lanes of a group -/

section group
variable {s t : State} {x : Issue} {uid lanes : Nat} {e : Env} (who : x.who = .group uid lanes) (env : s.env? uid = some e)
include who env

theorem fetchFor_ok {i : Instr} {w : Nat} (h : s.fetch e.t.core e.gr.ctx e.gr.version x.pc.toNat = (.ok i w, t)) :
    s.fetchFor x =
      let past := t.skipPads e.t.core e.gr.ctx e.gr.version (x.pc + BitVec.ofNat 49 i.bytes) padFuel
      (some i, { past.2 with cur := some { x with word := w, next := past.1 } }) := by
  simp only [State.fetchFor, who, env, h]

theorem fetchFor_pad (h : s.fetch e.t.core e.gr.ctx e.gr.version x.pc.toNat = (.pad, t)) : s.fetchFor x = (none, t) := by
  simp only [State.fetchFor, who, env, h]

theorem fetchFor_bad {code : TrapCode} {addr : Nat} {absent : Option AbsentAt}
    (h : s.fetch e.t.core e.gr.ctx e.gr.version x.pc.toNat = (.bad code addr absent, t)) :
    s.fetchFor x = (none, (t.updGroup uid fun g => g.mark lanes (e.c.now + e.c.passes) false).takeTrap uid x.pc x.pc 0
      ((lanesOf lanes).map fun l => { lane := l, code, addr, absent })) := by
  simp only [State.fetchFor, who, env, h]

end group

/-! ### What a step does -/

theorem step_issues {s t : State} {x : Issue} {rest : List Issue} {i : Instr} (issuing : s.issuing = x :: rest)
    (fetched : ({ s with issuing := rest } : State).fetchFor x = (some i, t)) : step s = exec i t := by
  simp only [step, issuing, fetched]

theorem step_fetches_none {s t : State} {x : Issue} {rest : List Issue} (issuing : s.issuing = x :: rest)
    (fetched : ({ s with issuing := rest } : State).fetchFor x = (none, t)) : step s = .next t := by
  simp only [step, issuing, fetched]

theorem step_agenda {s : State} {i : Instr} {more : List Instr} (issuing : s.issuing = []) (agenda : s.agenda = i :: more) :
    step s = exec i { s with agenda := more } := by
  simp only [step, issuing, agenda]

theorem step_duty {s : State} {i : Instr} (issuing : s.issuing = []) (agenda : s.agenda = [])
    (duty : s.duties[s.turn % s.duties.length]? = some i) : step s = exec i (({ s with turn := s.turn + 1 } : State).takeHeld i) := by
  simp only [step, issuing, agenda, duty]

/-- Settles O2: the step is what its fetch gives; a fetch block that is there gives what its bytes decode to. -/
theorem stepRuns : Obligations.StepRuns := by
  unfold Obligations.StepRuns
  intro s t x rest uid lanes e p i more code pc s0 bytes fetched past
  refine ⟨?decodes, ?fails, step_agenda, step_duty⟩
  case decodes =>
    rintro ⟨issuing, who, env, page, whole, home⟩ decoded
    have fetch := fetch_pass page whole home
    rw [fetchedOf_ok decoded] at fetch
    exact step_issues issuing (fetchFor_ok who env fetch)
  case fails =>
    rintro ⟨issuing, who, env, page, whole, home⟩ bad
    have fetch := fetch_pass page whole home
    rw [bad] at fetch
    exact step_fetches_none issuing (fetchFor_bad who env fetch)

/-- Settles O3: a pad word is told by LEN alone; a fetch that finds one gives no instruction, and the PC passes over it. -/
theorem padWords : Obligations.PadWords := by
  unfold Obligations.PadWords
  intro off w0 w1 w2 w3 pc core ctx ver n bs s t at_ x
  exact ⟨decodeAt_pad w1 w2 w3, fetchedOf_padWord, fetchedOf_badPad, skipPads_pad n, skipPads_stop n, fun uid lanes e => fetchFor_pad⟩

end Sys2Proof.Laws
end

section
/-! SUPPORT. What a vote chooses (spec/08_group.md R153, R154; spec/03_encoding.md R78): the order of the sets, the promoted set, and the sets
that issue. -/

namespace Sys2Proof.Laws
open Sys2Proof Sys2Proof.Machine

theorem mem_voteOrder (prog : Bool) (rs : List Ready) (r : Ready) : r ∈ voteOrder prog rs ↔ r ∈ rs := by
  unfold voteOrder
  split
  · simp only [List.mem_append, List.mem_filter, ← and_or_left, Bool.not_eq_true', and_iff_left_iff_imp]
    exact fun _ => (Bool.eq_false_or_eq_true r.yielding).symm
  · rfl

/-! ### The promoted set -/

/-- What the search for the promoted set holds after the sets of `rs`: one of them that none has a greater count than. -/
def Greatest (rs : List Ready) : Option Ready → Prop
  | none => rs = []
  | some p => p ∈ rs ∧ ∀ x ∈ rs, x.count ≤ p.count

/-- One step of the search: the set of greater count stays, at a tie that of the lower PC. -/
def promote (best : Option Ready) (r : Ready) : Option Ready :=
  match best with
  | none => some r
  | some x => if x.count < r.count || (x.count == r.count && r.pc.toNat < x.pc.toNat) then some r else some x

theorem promoted_eq (fairt : Nat) (rs : List Ready) : promoted fairt rs = (rs.filter fun r => decide (fairt ≤ r.count)).foldl promote none := rfl

theorem Greatest.promote {rs : List Ready} {best : Option Ready} (h : Greatest rs best) (r : Ready) : Greatest (rs ++ [r]) (promote best r) := by
  cases best with
  | none =>
    obtain rfl : rs = [] := h
    simp [Laws.promote, Greatest]
  | some x =>
    obtain ⟨mem, most⟩ := h
    simp only [Laws.promote]
    split
    next better =>
      have up : x.count ≤ r.count := by
        simp only [Bool.or_eq_true, Bool.and_eq_true, decide_eq_true_eq, beq_iff_eq] at better
        omega
      refine ⟨by simp, fun y hy => ?_⟩
      rcases List.mem_append.1 hy with hy | hy
      · exact (most y hy).trans up
      · rw [List.mem_singleton.1 hy]
    next worse =>
      have down : r.count ≤ x.count := by
        simp only [Bool.or_eq_true, Bool.and_eq_true, decide_eq_true_eq, beq_iff_eq] at worse
        omega
      refine ⟨by simp [mem], fun y hy => ?_⟩
      rcases List.mem_append.1 hy with hy | hy
      · exact most y hy
      · rw [List.mem_singleton.1 hy]; exact down

theorem Greatest.foldl {rs : List Ready} {best : Option Ready} (h : Greatest rs best) (more : List Ready) :
    Greatest (rs ++ more) (more.foldl Laws.promote best) := by
  induction more generalizing rs best with
  | nil => simpa using h
  | cons r more ih => simpa using ih (h.promote r)

/-- R153: the promoted set has the greatest count of those that are overdue; there is none where none is overdue. -/
theorem greatest_promoted (fairt : Nat) (rs : List Ready) : Greatest (rs.filter fun r => decide (fairt ≤ r.count)) (promoted fairt rs) := by
  rw [promoted_eq]
  exact Greatest.foldl (rs := []) (best := none) rfl _

theorem promoted_none {fairt : Nat} {rs : List Ready} (h : promoted fairt rs = none) : ∀ x ∈ rs, x.count < fairt := by
  have none := greatest_promoted fairt rs
  rw [h] at none
  simpa [Greatest, List.filter_eq_nil_iff] using none

theorem promoted_some {fairt : Nat} {rs : List Ready} {p : Ready} (h : promoted fairt rs = some p) :
    p ∈ rs ∧ fairt ≤ p.count ∧ ∀ x ∈ rs, fairt ≤ x.count → x.count ≤ p.count := by
  have most := greatest_promoted fairt rs
  rw [h] at most
  simpa [Greatest, and_assoc] using most

/-! ### The sets that issue -/

/-- The sets of a choice are `r`, and another only where the ports admit it beside `r`. -/
structure Pairs (rs : List Ready) (r : Ready) (more : List Ready) : Prop where
  mem : r ∈ rs
  one : more.length ≤ 1
  admits : ∀ y ∈ more, y ∈ rs ∧ r.seen.admits y.seen = true

theorem Pairs.alone {rs : List Ready} {r : Ready} (h : r ∈ rs) : Pairs rs r [] := ⟨h, by simp, by simp⟩

theorem Pairs.both {rs : List Ready} {r y : Ready} (h : r ∈ rs) (hy : y ∈ rs) (admits : r.seen.admits y.seen = true) : Pairs rs r [y] :=
  ⟨h, le_rfl, by simp [hy, admits]⟩

/-- With no set promoted the first set in order issues. -/
theorem chosen_unpromoted {prog : Bool} {fairt : Nat} {rs : List Ready} (h : rs ≠ []) (none : prog = true → promoted fairt rs = none) :
    ∃ r more, chosen prog fairt rs = r :: more ∧ Pairs rs r more ∧ (voteOrder prog rs).head? = some r := by
  have mem := mem_voteOrder prog rs
  have pick : (if prog then promoted fairt rs else Option.none) = Option.none := by cases prog <;> simp_all
  unfold chosen
  rw [pick]
  cases order : voteOrder prog rs with
  | nil => exact absurd (List.eq_nil_iff_forall_not_mem.2 fun r hr => by simpa [order] using (mem r).2 hr) h
  | cons p1 rest =>
    have first : p1 ∈ rs := (mem p1).1 (by simp [order])
    cases rest with
    | nil => exact ⟨p1, [], rfl, .alone first, rfl⟩
    | cons p2 rest =>
      by_cases admits : p1.seen.admits p2.seen = true
      · exact ⟨p1, [p2], if_pos admits, .both first ((mem p2).1 (by simp [order])) admits, rfl⟩
      · exact ⟨p1, [], if_neg admits, .alone first, rfl⟩

/-- A promoted set issues, beside the first set where the ports admit it there, else before another that they admit beside it. -/
theorem chosen_promoted {fairt : Nat} {rs : List Ready} {p : Ready} (h : promoted fairt rs = some p) :
    ∃ r more, chosen true fairt rs = r :: more ∧ Pairs rs r more ∧ p ∈ r :: more := by
  have mem := mem_voteOrder true rs
  have inside : p ∈ rs := (promoted_some h).1
  unfold chosen
  rw [if_pos rfl, h]
  cases order : voteOrder true rs with
  | nil => exact absurd ((mem p).2 inside) (by simp [order])
  | cons p1 rest =>
    have within : ∀ r ∈ p1 :: rest, r ∈ rs := fun r hr => (mem r).1 (order ▸ hr)
    by_cases beside : (p.pc != p1.pc && p1.seen.admits p.seen) = true
    · exact ⟨p1, [p], if_pos beside, .both (within p1 (by simp)) inside (Bool.and_eq_true_iff.1 beside).2, by simp⟩
    · refine ⟨p, _, if_neg beside, ?_, List.mem_cons_self ..⟩
      cases found : (p1 :: rest).find? fun r => r.pc != p.pc && p.seen.admits r.seen with
      | none => exact .alone inside
      | some y =>
        refine .both inside (within y (List.mem_of_find?_eq_some found)) ?_
        have fits := List.find?_some found
        exact (Bool.and_eq_true_iff.1 fits).2

/-! ### The event -/

theorem exec_vote_core {s : State} {core : Nat} (h : core < 256) : exec (.vote core) s = .next (
    let s := (s.cycle core).syncTeams core
    let s := (s.voters core).foldl (fun s e => s.pastPads e) s
    let s := ((s.voters core).map (·.g.uid)).foldl (fun s g => s.raiseFailures g) s
    let s := (s.spanVoters core).foldl (fun s p => s.spanPads p) s
    (s.slotTurn core).spanTurn core) :=
  (if_neg (by omega)).trans (if_neg (by omega))

theorem exec_vote_orrery {s : State} {die : Nat} (h : die < 2) : exec (.vote (256 + die)) s = .next (
    let s := (s.cycle (256 + die)).tickOrrery die
    let s := (s.grids.map (·.1)).foldl (fun s g => if (s.grids.any fun x => x.1 == g && x.2.home == die) then s.joinsOfGrid g else s) s
    let s := (s.spanVoters (256 + die)).foldl (fun s p => s.spanPads p) s
    s.spanTurn (256 + die)) := by
  refine (if_neg (by omega)).trans ((if_pos (by omega)).trans ?_)
  rw [Nat.add_sub_cancel_left]

theorem exec_vote_none {s : State} {core : Nat} (h : 258 ≤ core) : exec (.vote core) s = .fault .noSuchUnit := if_pos h

/-- Settles O48: the vote is its cycle and its turns; what it chooses is settled by whether a set is promoted. -/
theorem voting : Obligations.Voting := by
  unfold Obligations.Voting
  refine ⟨fun s core => ⟨exec_vote_core, fun die => exec_vote_orrery, exec_vote_none⟩, ?chooses⟩
  intro prog fairt rs ready
  by_cases promotes : prog = true ∧ ∃ p, promoted fairt rs = some p
  case pos =>
    obtain ⟨rfl, p, hp⟩ := promotes
    obtain ⟨mem, overdue, most⟩ := promoted_some hp
    obtain ⟨r, more, eq, pairs, issues⟩ := chosen_promoted hp
    refine ⟨r, more, eq, pairs.mem, pairs.one, pairs.admits, fun none => ?_, fun _ x hx late => ⟨p, issues, overdue, most x hx late⟩⟩
    rcases none with off | none
    · cases off
    · exact absurd overdue (Nat.not_le.2 (none p mem))
  case neg =>
    have none : prog = true → promoted fairt rs = none := fun on => Option.eq_none_iff_forall_ne_some.2 fun p hp => promotes ⟨on, p, hp⟩
    obtain ⟨r, more, eq, pairs, first⟩ := chosen_unpromoted ready none
    exact ⟨r, more, eq, pairs.mem, pairs.one, pairs.admits, fun _ => first, fun on x hx late =>
      absurd late (Nat.not_le.2 (promoted_none (none on) x hx))⟩

end Sys2Proof.Laws
end

section
/-! SUPPORT. What an atomic comes to when no lane of it fails or waits (spec/14_memory.md R270 to R272, spec/15_ordering.md R287, R288). -/

namespace Sys2Proof.Laws
open Sys2Proof Sys2Proof.Machine

/-- Active lanes are in the list of lanes. -/
theorem lanesOf_ne_nil {act : Nat} (lanes : LaneSet act) (some_lane : act ≠ 0) : lanesOf act ≠ [] := by
  have low := lowLane_mem lanes some_lane
  exact List.ne_nil_of_mem ((mem_lanesOf act _).2 ⟨lanes _ low, low⟩)

/-- Every lane that is treated leaves one entry, in order. -/
theorem lanesMade_lanes {α : Type} {f : State → Nat → Made α} {s t : State} {ls : List Nat} {made : List (Nat × α)}
    (h : lanesMade f s ls = some (t, made)) : made.map (·.1) = ls := by
  induction ls generalizing s made with
  | nil => cases h; rfl
  | cons l ls ih =>
    rw [lanesMade] at h
    split at h
    · obtain ⟨r, rest, made_eq⟩ := Option.map_eq_some_iff.1 h
      cases made_eq
      rw [List.map_cons, ih rest]
    · cases h

section body
variable {e : Env} {m : AMod} {sp : Space} {addr : Nat → Nat} {b c : Opnd} {act : Nat} {s t u v : State} {ps : List Piece}

/-- R288: an instruction that releases performs on the state that the release leaves, and acquires after it. -/
theorem ordered_of_releases {ord : Order} {scope : Scope} (rel : e.releases ord scope = some u) (body : Body) :
    ordered ord scope body e.st e act = { body u e act with s := e.acquires ord scope (body u e act).s } := by
  unfold Env.releases at rel
  split_ifs at rel with releasing
  · split at rel
    · next s released => cases rel; simp [ordered, Order.isRel, Order.isAcq, Env.acquires, releasing, released]; split_ifs <;> rfl
    · cases rel
  · cases rel
    simp [ordered, Order.isRel, Order.isAcq, Env.acquires, releasing]; split_ifs <;> rfl

/-- R287: what acquires performs once the group's earlier accesses have been. -/
theorem ready_of_readies {ord : Order} (rdy : e.readies ord u = some v) (body : Body) : ready ord body u e act = body v e act := by
  unfold Env.readies at rdy
  split_ifs at rdy with acquiring
  · split at rdy
    · next s drained => cases rdy; simp [ready, Order.isAcq, acquiring, drained]
    · cases rdy
  · cases rdy
    simp [ready, Order.isAcq, acquiring]

/-- R270: when every lane passes its checks, the pieces are those of the lanes in turn. -/
theorem atomPieces_of_atomics (made : e.atomics m sp addr b c s act = some (t, ps)) : atomPieces e m sp addr b c s act = ({ s := t }, ps) := by
  obtain ⟨r, done, eq⟩ := Option.map_eq_some_iff.1 made
  cases eq
  suffices general : ∀ (ls : List Nat) (s : State) (r : State × List (Nat × Piece)) (before : List Piece),
      lanesMade (fun s l => s.atomLane e m l sp (addr l) (e.atomB m l b) (if m.op == .cas then e.word64 m.x64 l c else 0)) s ls = some r →
      ls.foldl (fun (r : Out × List Piece) l =>
        match r.1.s.atomLane e m l sp (addr l) (e.atomB m l b) (if m.op == .cas then e.word64 m.x64 l c else 0) with
        | .done p s => ({ r.1 with s }, r.2 ++ [p])
        | .fail code a absent s => ({ r.1 with s, raises := r.1.raises ++ [{ lane := l, code, addr := a, absent }] }, r.2)
        | .wait s => ({ r.1 with s, waits := maskOr r.1.waits (2 ^ l) }, r.2)) ({ s }, before) = ({ s := r.1 }, before ++ r.2.map (·.2)) by
    have all := general (lanesOf act) s r [] done
    rw [List.nil_append] at all
    exact all
  intro ls
  induction ls with
  | nil => intro s r before done; cases done; simp
  | cons l ls ih =>
    intro s r before done
    rw [lanesMade] at done
    split at done
    · next p s' one =>
      obtain ⟨rest, tail, eq⟩ := Option.map_eq_some_iff.1 done
      cases eq
      rw [List.foldl_cons]
      simp only [one]
      rw [ih s' rest _ tail]
      simp
    · cases done

theorem pieces_ne_nil (made : e.atomics m sp addr b c s act = some (t, ps)) (lanes : lanesOf act ≠ []) : ps.isEmpty = false := by
  obtain ⟨r, done, eq⟩ := Option.map_eq_some_iff.1 made
  cases eq
  have names := lanesMade_lanes done
  cases hr : r.2 with
  | nil => rw [hr] at names; exact absurd names.symm lanes
  | cons x xs => rfl

/-- R271, R272, R287, R288: an atomic whose lanes all pass leaves its operation pending and its result owed; one that acquires is performed
and then acquires. -/
theorem atomBody_of_passes {h : Hdr} {d : Opnd} {r : Reg} (addr : Env → Nat → Nat) (dest : (Opnd.regs d 1).head? = some r)
    (rel : e.releases m.ord m.scope = some u) (rdy : e.readies m.ord u = some v)
    (made : e.atomics m sp (addr e) b c v act = some (t, ps)) (lanes : lanesOf act ≠ []) :
    atomBody h m d sp addr b c e.st e act =
      { s := e.acquiresAll m.ord m.scope
          ((t.owe e.g h (pieceLanes ps) d (b2w m.x64)).pend e sp .l1 m.scope (some (m, r, t.uids)) none none (pieceLanes ps) ps) } := by
  rw [atomBody, ordered_of_releases rel, ready_of_readies rdy]
  simp only [atomPieces_of_atomics made, dest, pieces_ne_nil made lanes, Env.acquires, Env.acquiresAll, Order.isAcq]
  split_ifs <;> rfl

end body

/-- R469: of the accesses to a core's shared memory, or to its tile store, each is preceded by those that entered before it. -/
theorem precedes_of_sameStore {n k : Nat} {x y : PStore} (earlier : n < k) (inTeam : x.inTeam.isSome = true) (core : x.core = y.core)
    (store : x.inTeam.map (·.2) = y.inTeam.map (·.2)) (notHalves : PStore.halves n x k y = false) : PStore.precedes n x k y = true := by
  simp [PStore.precedes, earlier, notHalves, inTeam, core, store]

/-- Settles O29: the issue of either atomic, and what comes before an access to its space. -/
theorem atomics : Obligations.Atomics := by
  unfold Obligations.Atomics
  intro h m d a b c off t u v ps r dest
  refine ⟨fun s lanes pc next e0 e issues ⟨rel, rdy, made⟩ => ?_, fun s lanes pc next e0 e issues ⟨rel, rdy, made⟩ => ?_,
    fun s n k x y _ earlier inTeam core store notHalves => precedes_of_sameStore earlier inTeam core store notHalves⟩
  all_goals have lanesActive := lanesOf_ne_nil (laneSet_act e0 h lanes) issues.some_lane
  · rw [exec, execAtomg, issue_group issues, atomBody_of_passes _ dest rel rdy made lanesActive]
  · rw [exec, execAtomsh, issue_group issues, atomBody_of_passes _ dest rel rdy made lanesActive]

end Sys2Proof.Laws
end

section
/-! SUPPORT. What performing one pending access comes to, by what it is (spec/14_memory.md R265, R271, R286, R469). -/

namespace Sys2Proof.Laws
open Sys2Proof Sys2Proof.Machine

theorem Tab.mem_of_get? {α : Type} {t : Tab α} {n : Nat} {a : α} (h : Tab.get? t n = some a) : (n, a) ∈ t := by
  induction t with
  | nil => cases h
  | cons x t ih =>
    obtain ⟨k, b⟩ := x
    rw [Tab.get?_cons] at h
    split_ifs at h with same before
    · cases h
      rw [same]
      exact List.mem_cons_self
    · exact List.mem_cons_of_mem _ (ih h)

section pending
variable {s : State} {n k : Nat} {p q : PStore}

/-- R287: an access waits for each that must be performed before it. -/
theorem mayPerform_of_precedes (stored : Tab.get? s.stores n = some p) (other : Tab.get? s.stores k = some q)
    (before : PStore.precedes k q n p = true) : s.mayPerform n = false := by
  have notAll : (s.stores.all fun x => !PStore.precedes x.1 x.2 n p) = false :=
    List.all_eq_false.2 ⟨_, Tab.mem_of_get? other, by simp [before]⟩
  simp only [State.mayPerform, stored, notAll, Bool.and_false]

/-- R286: a load that may be performed has not read the bytes of its half. -/
theorem beside_of_mayPerform (stored : Tab.get? s.stores n = some p) (may : s.mayPerform n = true) (load : p.load.isSome = true) :
    p.beside.isEmpty = true := by
  have notStore : p.load.isNone = false := by simpa using load
  simp only [State.mayPerform, stored, notStore, Bool.false_or, Bool.and_eq_true] at may
  exact may.1

section free
variable (stored : Tab.get? s.stores n = some p) (ours : s.pieceHeld p = none)
include stored ours

theorem perform1_store (load : p.load = none) (atomic : p.atomic = none) :
    (s.perform1 n).1 =
      let t := p.pieces.foldl (fun s x => s.storePiece p x) ({ s with stores := Tab.del s.stores n } : State)
      let t := match p.twin with
        | some k => { t with stores := Tab.upd t.stores k fun q => { q with beside := piecePlaces p.pieces } }
        | none => t
      (if p.inTeam.isSome then t else t.clearWhole p.core p.version p.pol (p.beside ++ piecePlaces p.pieces)).spanOn p.group := by
  simp only [State.perform1, stored, ours, load, atomic] <;> rfl

theorem perform1_load {sz : Sz} {d : Reg} {fl : Nat} (load : p.load = some (sz, d, fl)) (group : Tab.get? s.spans p.group = none) :
    (s.perform1 n).1 = p.pieces.foldl (fun s x => s.loadPiece p sz d fl x) { s with stores := Tab.del s.stores n } := by
  simp only [State.perform1, stored, ours, load, group]

theorem perform1_spanLoad {sz : Sz} {d : Reg} {fl : Nat} {x : Piece} {more : List Piece} (load : p.load = some (sz, d, fl))
    (span : (Tab.get? s.spans p.group).isSome = true) (pieces : p.pieces = x :: more) (unread : p.beside.isEmpty = true) :
    (s.perform1 n).1 = s.spanHalf n p d x := by
  obtain ⟨sp, span⟩ := Option.isSome_iff_exists.1 span
  simp only [State.perform1, stored, ours, load, span, pieces, unread, if_true]

theorem perform1_atomic {m : AMod} {d : Reg} {fl : Nat} (load : p.load = none) (atomic : p.atomic = some (m, d, fl)) :
    (s.perform1 n).1 = p.pieces.foldl (fun s x =>
      match s.atomicPiece p m x with
      | (some old, s) => s.deliverN p.group d x.lane fl old (b2w m.x64)
      | (none, s) => s.failLanes fl (2 ^ x.lane) .dataPoison fun _ => x.va) { s with stores := Tab.del s.stores n } := by
  simp only [State.perform1, stored, ours, load, atomic] <;> rfl

end free

theorem exec_storePerformed (may : s.mayPerform n = true) : exec (.storePerformed n) s = .next (s.perform1 n).1 := by
  rw [exec, execStorePerformed, if_pos may]

theorem exec_storePerformed_waits (may : s.mayPerform n = false) : exec (.storePerformed n) s = .next s := by
  rw [exec, execStorePerformed, if_neg (by simp [may])]

end pending

/-! ### Results, limits and grants -/

theorem exec_variableResultLands {s : State} {n : Nat} {f : Flight} (flight : Tab.get? s.flights n = some f) (variable_ : f.due = none)
    (pending : f.landed = false) (performed : s.owedFlight n = false) : exec (.variableResultLands f.group n) s = .next (s.land n) := by
  simp [exec, execVariableResultLands, flight, variable_, pending, performed]

theorem exec_mwaitTimeout {s : State} {group lane limit b : Nat} {r : Reg} {e : Env} (env : s.env? group = some e)
    (block : (e.g.lane lane).block = .mwait (some limit) r b) (passed : limit ≤ e.c.now + 1) :
    exec (.mwaitTimeout group lane) s = .next (s.wakeMwait group lane 1) := by
  have due : s.mwaitDue group lane = true := by simp only [State.mwaitDue, env, block, passed, decide_true]
  rw [exec, execMwaitTimeout, if_pos due]

theorem exec_yieldWake {s : State} {group lane limit : Nat} {e : Env} (env : s.env? group = some e)
    (block : (e.g.lane lane).block = .yield limit) (passed : limit ≤ e.c.now + 1) :
    exec (.yieldWake group lane) s = .next (s.updGroup group fun g => g.updLanes (2 ^ lane) fun _ x => { x with block := .free }) := by
  have due : s.yieldDue group lane = true := by simp only [State.yieldDue, env, block, passed, decide_true]
  rw [exec, execYieldWake, if_pos due]

/-- Settles O47: performing an access by what it is, and each other event from its own definition. -/
theorem resultsLand : Obligations.ResultsLand := by
  unfold Obligations.ResultsLand
  refine ⟨fun s n group lane f p e at_ r b => ⟨?inOrder, exec_variableResultLands, ?store, ?load, ?spanLoad, ?atomic, exec_mwaitTimeout, exec_yieldWake⟩,
    fun s core uid lanes v k pc team rest more t => ⟨?rgrow, ?tsalloc, ?quiet, ?tsfree, ?accumulator⟩⟩
  case inOrder =>
    intro k q stored other earlier inTeam core store otherInTeam notHalves
    exact exec_storePerformed_waits (mayPerform_of_precedes stored other (precedes_of_sameStore earlier otherInTeam core store notHalves))
  case store =>
    intro ⟨stored, may, ours⟩ load atomic
    exact (exec_storePerformed may).trans (congrArg _ (perform1_store stored ours load atomic))
  case load =>
    intro sz d fl ⟨stored, may, ours⟩ load group
    rw [exec_storePerformed may, perform1_load stored ours load group]
  case spanLoad =>
    intro sz d fl x more ⟨stored, may, ours⟩ load span pieces
    rw [exec_storePerformed may,
      perform1_spanLoad stored ours load span pieces (beside_of_mayPerform stored may (Option.isSome_of_eq_some load))]
  case atomic =>
    intro m d fl ⟨stored, may, ours⟩ load atomic
    exact (exec_storePerformed may).trans (congrArg _ (perform1_atomic stored ours load atomic))
  case rgrow =>
    intro queue room
    simp only [exec, execRgrowGrant, State.rgrowTry, queue, if_pos room]
    rfl
  case tsalloc =>
    intro waits room
    simp only [exec, execTsallocGrant, waits, if_neg (Nat.not_lt.2 room)]
  case quiet =>
    intro present none_quiet
    simp only [exec, execTsfreeRelease, present, none_quiet, List.foldl_nil]
  case tsfree =>
    intro first n present one_quiet
    simp only [exec, execTsfreeRelease, present, one_quiet, List.foldl_cons, List.foldl_nil]
    rfl
  case accumulator =>
    intro head tiles
    simp only [exec, execAccumulatorTileGrant, head, beq_iff_eq, if_neg tiles]

end Sys2Proof.Laws
end

section
/-! SUPPORT. What the host asks of a context (spec/05_context.md R97, R98, R110, R468): one equation for each way that a request goes
that its state admits, while the window is open. -/

namespace Sys2Proof.Laws
open Sys2Proof Sys2Proof.Machine

section ways
variable {s t u : State} {ctx : Nat} {c : Context}

/-! ### Pre-emption and destruction of a context by its state -/

section found
variable (present : Tab.get? s.contexts ctx = some c)
include present

theorem preempt_running (running : c.state = .running) :
    s.preempt ctx = s.updCtx ctx fun c => { c with state := .preempting, halted := false } := by
  simp only [State.preempt, present, running, beq_self_eq_true, if_true]

theorem preempt_ready_saves (ready : c.state = .ready) (may : s.partReady 0 ctx c.desc.savebase.toNat 16 true = (.ok, t))
    (stored : t.partStore ctx c.desc.savebase.toNat (zeros 16) = some u) :
    s.preempt ctx = u.updCtx ctx fun c =>
      { c with state := .saved, slots := [], savedSpans := [], saveEnd := some (c.firstRecord 0), heldPreempt := false } := by
  simp only [State.preempt, present, ready, may, stored]
  rfl

/-- Log entry 53: while the empty save cannot be written the request is held. -/
theorem preempt_ready_waits {x : PartEnd} (ready : c.state = .ready)
    (answer : s.partReady 0 ctx c.desc.savebase.toNat 16 true = (x, t)) (waits : x ≠ .ok) :
    s.preempt ctx = t.updCtx ctx fun c => { c with heldPreempt := true } := by
  simp only [State.preempt, present, ready, answer]
  cases x with
  | ok => exact absurd rfl waits
  | _ => rfl

theorem heldRequests_held (held : c.state = .preempting ∨ c.state = .restoring) : s.heldRequests ctx = s := by
  have notYet : (!c.heldDestroy || c.state == .preempting || c.state == .restoring) = true := by
    obtain state | state := held <;> simp [state]
  simp only [State.heldRequests, present, notYet, if_true]

theorem heldRequests_destroys (asked : c.heldDestroy = true) (notPreempting : c.state ≠ .preempting) (notRestoring : c.state ≠ .restoring)
    (free : s.slotsHeld (s.frames.filter fun f => f.ctx == ctx) = none) : s.heldRequests ctx = s.destroyCtx ctx := by
  have now : (!c.heldDestroy || c.state == .preempting || c.state == .restoring) = false := by simp [asked, notPreempting, notRestoring]
  simp only [State.heldRequests, present, now, free, Bool.false_eq_true, if_false]

/-! ### The requests -/

/-- R98, log entry 53: the event of a READY context whose pre-emption is held tries it again. -/
theorem exec_preemptHalt_retries (ready : c.state = .ready) (held : c.heldPreempt = true) (kept : c.heldDestroy = false) :
    exec (.preemptHalt ctx) s = .next (s.preempt ctx) := by
  simp [exec, execPreemptHalt, present, ready, held, kept]

variable (isOpen : s.windowOpen = true)
include isOpen

theorem exec_contextActivate_open (created : c.state = .created) (root : c.desc.ptroot ≠ 0) (aligned : c.desc.ptroot.toNat % 8192 = 0)
    (below : c.desc.ptroot.toNat < 2 ^ 39) (area : c.desc.savebase ≠ 0) (room : (s.contexts.filter fun x => x.2.state.counts).length < 64) :
    exec (.contextActivate ctx) s = .next (s.accept.updCtx ctx fun c => { c with state := .ready }) := by
  simp only [exec, execContextActivate, State.windowed_open isOpen, present]
  rw [if_pos (by simp only [created, aligned, decide_eq_true below, decide_eq_true room, bne_iff_ne.2 root, bne_iff_ne.2 area]; rfl)]

theorem exec_preemptRequest_open (admits : c.state = .running ∨ c.state = .ready) :
    exec (.preemptRequest ctx) s = .next (s.accept.preempt ctx) := by
  simp only [exec, execPreemptRequest, State.windowed_open isOpen, present]
  rw [if_pos (by simpa only [Bool.or_eq_true, beq_iff_eq] using admits)]

theorem exec_preemptRequest_restoring (restoring : c.state = .restoring) :
    exec (.preemptRequest ctx) s = .next (s.accept.updCtx ctx fun c => { c with heldPreempt := true }) := by
  simp only [exec, execPreemptRequest, State.windowed_open isOpen, present, restoring]
  rfl

theorem exec_trapAreaReset_open (notPreempting : c.state ≠ .preempting) (notRestoring : c.state ≠ .restoring) :
    exec (.trapAreaReset ctx) s = .next (s.accept.updCtx ctx fun c => { c with trapLow := none }) := by
  simp only [exec, execTrapAreaReset, State.windowed_open isOpen, present]
  rw [if_pos (by simp [notPreempting, notRestoring])]

theorem exec_resumeRequest_open (admits : c.state = .saved ∨ c.state = .faulted) :
    exec (.resumeRequest ctx) s = .next (s.accept.updCtx ctx fun c => { c with state := .restoring }) := by
  simp only [exec, execResumeRequest, State.windowed_open isOpen, present]
  rw [if_pos (by simpa only [Bool.or_eq_true, beq_iff_eq] using admits)]

theorem exec_erptrWrite_context {count : Nat} (lo : c.erptr ≤ count) (hi : count ≤ c.ewptr) :
    exec (.erptrWrite (some ctx) count) s = .next ((s.accept.updCtx ctx fun c => { c with erptr := count }).evqFlush ctx c.evqHeld) := by
  simp only [exec, execErptrWrite, State.windowed_open isOpen, present]
  rw [if_neg (by simp [lo, hi])]

/-- R98: a destroy request is marked in the context, and taken at once where the state permits it. -/
theorem exec_contextDestroy_open :
    exec (.contextDestroy ctx) s = .next ((s.accept.updCtx ctx fun c => { c with heldDestroy := true }).heldRequests ctx) := by
  simp only [exec, execContextDestroy, State.windowed_open isOpen, present]

end found

theorem accept_updCtx_get? (f : Context → Context) (present : Tab.get? s.contexts ctx = some c) :
    Tab.get? (s.accept.updCtx ctx f).contexts ctx = some (f c) := by
  have kept : s.accept.contexts = s.contexts := rfl
  rw [State.updCtx_contexts, Tab.get?_upd_same, kept, present, Option.map_some]

theorem exec_erptrWrite_links {count : Nat} (isOpen : s.windowOpen = true) (lo : s.linkQueue.rptr ≤ count) (hi : count ≤ s.linkQueue.wptr) :
    exec (.erptrWrite none count) s =
      .next (({ s.accept with linkQueue := { s.linkQueue with rptr := count } } : State).linkFlush s.linkQueue.held) := by
  simp only [exec, execErptrWrite, State.windowed_open isOpen]
  rw [if_neg (by simp [lo, hi])]

theorem exec_contextDescriptorWrite_open {d : CtxDesc} (isOpen : s.windowOpen = true) (number : d.ctx ≠ 0)
    (area : d.savebase.toNat % 128 = 0) (queue : d.evq.toNat % 32 = 0) (lo : 4 ≤ d.evqsz.toNat) (hi : d.evqsz.toNat ≤ 20)
    (free : ∀ c, Tab.get? s.contexts d.ctx.toNat = some c → c.state = .created ∨ c.state = .destroyed) :
    exec (.contextDescriptorWrite d) s =
      .next { s.accept with contexts := Tab.set s.contexts d.ctx.toNat (Context.new d) } := by
  simp only [exec, execContextDescriptorWrite, State.windowed_open isOpen]
  have wellFormed : (d.ctx == 0 || d.savebase.toNat % 128 != 0 || d.evq.toNat % 32 != 0 || decide (d.evqsz.toNat < 4)
      || decide (20 < d.evqsz.toNat)) = false := by
    rw [beq_false_of_ne number, area, queue, decide_eq_false (Nat.not_lt.2 lo), decide_eq_false (Nat.not_lt.2 hi)]
    rfl
  rw [wellFormed]
  cases found : Tab.get? s.contexts d.ctx.toNat with
  | none => rfl
  | some c => obtain state | state := free c found <;> simp only [state] <;> rfl

end ways

/-- Settles O52: each request by the state of its context, through what a pre-emption and a destruction do in that state. -/
theorem contextRequests : Obligations.ContextRequests := by
  unfold Obligations.ContextRequests
  intro s d ctx count c isOpen
  refine ⟨exec_contextDescriptorWrite_open isOpen, fun present => exec_contextActivate_open present isOpen, ?preempts, ?saves, ?waits,
    exec_preemptHalt_retries, fun present => exec_preemptRequest_restoring present isOpen, fun present => exec_trapAreaReset_open present isOpen,
    fun present => exec_resumeRequest_open present isOpen, fun present => exec_erptrWrite_context present isOpen,
    exec_erptrWrite_links isOpen, ?destroys, ?heldDestroy⟩
  case preempts =>
    intro present running
    have accepted : Tab.get? s.accept.contexts ctx = some c := present
    rw [exec_preemptRequest_open present isOpen (.inl running), preempt_running accepted running]
  case saves =>
    intro t u present ready may stored
    have accepted : Tab.get? s.accept.contexts ctx = some c := present
    rw [exec_preemptRequest_open present isOpen (.inr ready), preempt_ready_saves accepted ready may stored]
  case waits =>
    intro x t present ready answer waits
    have accepted : Tab.get? s.accept.contexts ctx = some c := present
    rw [exec_preemptRequest_open present isOpen (.inr ready), preempt_ready_waits accepted ready answer waits]
  case destroys =>
    intro t present notPreempting notRestoring free
    rw [exec_contextDestroy_open present isOpen,
      heldRequests_destroys (accept_updCtx_get? _ present) rfl notPreempting notRestoring free]
  case heldDestroy =>
    intro present held
    rw [exec_contextDestroy_open present isOpen, heldRequests_held (accept_updCtx_get? _ present) held]

end Sys2Proof.Laws
end

section
/-! SUPPORT. LAUNCH, ENQ and QSTAT (spec/06_queue.md R125, R127, R128): one equation for each answer that LAUNCH and ENQ give. -/

namespace Sys2Proof.Laws
open Sys2Proof Sys2Proof.Machine

/-- An instruction that issues with a body does to its active lanes what the body comes to on them. -/
theorem does_of_issue {i : Instr} {h : Hdr} {rule : SpanRule} {body : Body} {ok : Env → Nat → Prop} {out : Env → Nat → Out}
    (runs : ∀ s, exec i s = issue i rule body s) (effect : ∀ e act, ok e act → body e.st e act = out e act) : Does i h ok out := by
  intro s lanes pc next e0 e issues holds
  rw [runs, issue_group issues, effect e _ holds]

theorem launchWord_taken (tag : Nat) : launchWord 0 tag = tag := Nat.zero_add tag

theorem launchWord_refused {status : Nat} (tag : Nat) (refused : status ≠ 0) : launchWord status tag = 2 ^ 56 * status := by
  simp [launchWord, refused]

section answers
variable {s t u : State} {e : Env} {h : Hdr} {d : Opnd} {nb launch : Bool} {va q act fl : Nat} {r : Record} {k : Queue}

theorem launchBody_misaligned (misaligned : va % 64 ≠ 0) :
    launchBody h d nb va q launch s e act = { s, raises := e.raiseAt act .misaligned (some va) } := by
  simp only [launchBody, bne_iff_ne, ne_eq, misaligned, not_false_eq_true, if_true]

section released
variable (aligned : va % 64 = 0) (released : s.release e.g.uid .device = (t, true))
include aligned released

theorem launchBody_recordError (taken : t.takeRecord e.gr.home e.gr.ctx e.gr.version va = (.bad fl, u)) :
    launchBody h d nb va q launch s e act = { s := scalarOut h d 2 u e act (2 ^ 56 * 2) } := by
  simp only [launchBody, aligned, released, taken, bne_self_eq_false, Bool.false_eq_true, if_false, launchWord_refused 0 (Nat.succ_ne_zero 1)]

variable (taken : t.takeRecord e.gr.home e.gr.ctx e.gr.version va = (.ok r, u))
include taken

theorem launchBody_noQueue (absent : Tab.get? u.queues q = none) :
    launchBody h d nb va q launch s e act = { s := scalarOut h d 2 u e act (2 ^ 56 * 3) } := by
  simp only [launchBody, aligned, released, taken, absent, bne_self_eq_false, Bool.false_eq_true, if_false, if_true,
    launchWord_refused 0 (Nat.succ_ne_zero 2)]

variable (present : Tab.get? u.queues q = some k)
include present

theorem launchBody_closed (closed : k.closed = true ∨ k.desc.ctx.toNat ≠ e.gr.ctx ∨ launch = false ∧ k.desc.feed = false) :
    launchBody h d nb va q launch s e act = { s := scalarOut h d 2 u e act (2 ^ 56 * 3) } := by
  have shut : (k.closed || k.desc.ctx.toNat != e.gr.ctx || (!launch && !k.desc.feed)) = true := by
    simpa only [Bool.or_eq_true, bne_iff_ne, Bool.and_eq_true, Bool.not_eq_true', or_assoc] using closed
  simp only [launchBody, aligned, released, taken, present, shut, bne_self_eq_false, Bool.false_eq_true, if_false, if_true,
    launchWord_refused 0 (Nat.succ_ne_zero 2)]

variable (admits : k.closed = false) (own : k.desc.ctx.toNat = e.gr.ctx)
include admits own

theorem launchBody_tooDeep (deep : 4 ≤ e.gr.level) :
    launchBody h d nb va q true s e act = { s := scalarOut h d 2 u e act (2 ^ 56 * 4) } := by
  simp only [launchBody, aligned, released, taken, present, admits, own, deep, bne_self_eq_false, Bool.not_true, Bool.false_and, Bool.or_false,
    decide_true, Bool.and_self, Bool.false_eq_true, if_false, if_true, launchWord_refused 0 (Nat.succ_ne_zero 3)]

theorem launchBody_full (fed : launch = true ∨ k.desc.feed = true) (shallow : launch = true → e.gr.level < 4) (full : u.canBuffer q = false) :
    launchBody h d true va q launch s e act = { s := scalarOut h d 2 u e act (2 ^ 56) } := by
  have feeds : (!launch && !k.desc.feed) = false := by
    obtain launches | hasFeed := fed
    · rw [launches]; rfl
    · rw [hasFeed, Bool.not_true, Bool.and_false]
  have notDeep : (launch && decide (4 ≤ e.gr.level)) = false := by
    cases launch with
    | false => rfl
    | true => exact decide_eq_false (Nat.not_le.2 (shallow rfl))
  simp only [launchBody, aligned, released, taken, present, admits, own, feeds, notDeep, full, bne_self_eq_false, Bool.or_false, Bool.not_false,
    Bool.false_eq_true, if_false, if_true, launchWord_refused 0 Nat.one_ne_zero, Nat.mul_one]

variable (room : u.canBuffer q = true)
include room

theorem launchBody_starts (shallow : e.gr.level < 4) : launchBody h d nb va q true s e act =
    { s := scalarOut h d 2 (u.startChild e.gr r e.gr.version).2 e act (u.startChild e.gr r e.gr.version).1 } := by
  simp only [launchBody, aligned, released, taken, present, admits, own, room, Nat.not_le.2 shallow, bne_self_eq_false, Bool.not_true,
    Bool.false_and, Bool.or_false, decide_false, Bool.and_false, Bool.false_eq_true, if_false, if_true, launchWord_taken]

theorem launchBody_appends (fed : k.desc.feed = true) : launchBody h d nb va q false s e act =
    { s := scalarOut h d 2 ((u.updQueue q fun y => { y with
        records := Tab.set y.records k.wptr { r with pos := k.wptr, version := e.gr.version }, wptr := k.wptr + 1, rptr := k.wptr + 1 }).settle q)
        e act k.wptr } := by
  simp only [launchBody, aligned, released, taken, present, admits, own, room, fed, bne_self_eq_false, Bool.not_true, Bool.and_false,
    Bool.false_and, Bool.or_false, Bool.false_eq_true, if_false, launchWord_taken, Option.map_some, Option.getD_some]

end released
end answers

theorem fld_zero (x w : Nat) : fld x 0 w = x % 2 ^ w := by rw [fld, pow_zero, Nat.div_one]

section instructions
variable {h : Hdr} {d a b : Opnd} {nb : Bool} {ok : Env → Nat → Prop} {out : Env → Nat → Out}

theorem does_launch (answer : ∀ e act, ok e act → launchBody h d nb (e.w64 (lowLane act) a) e.gr.queue true e.st e act = out e act) :
    Does (.launch h d a nb) h ok out :=
  does_of_issue (fun _ => rfl) answer

theorem does_enq (answer : ∀ e act, ok e act →
    launchBody h d nb (e.w64 (lowLane act) b) (e.w64 (lowLane act) a % 2 ^ 12) false e.st e act = out e act) : Does (.enq h d a b nb) h ok out := by
  refine does_of_issue (fun _ => rfl) fun e act holds => ?_
  rw [fld_zero]
  exact answer e act holds

end instructions

/-- Settles O42: each clause is one answer of the body that LAUNCH and ENQ share; the register of QSTAT names a queue or a child. -/
theorem launches : Obligations.Launches := by
  unfold Obligations.Launches
  intro h d a b nb child t u r k fl takes tells opened rec_ qn
  refine ⟨does_launch ?starts, does_launch ?recordError, does_launch ?closed, does_launch ?tooDeep, does_launch ?full, does_launch ?misaligned,
    does_enq ?appends, does_enq ?enqClosed, does_enq ?noQueue, does_enq ?enqRecordError, does_enq ?enqFull, does_enq ?enqMisaligned, ?qstat⟩
  case starts =>
    intro e act ⟨⟨aligned, released, taken⟩, ⟨present, admits, own⟩, shallow, room⟩
    exact launchBody_starts aligned released taken present admits own room shallow
  case recordError =>
    intro e act ⟨aligned, released, taken⟩
    exact launchBody_recordError aligned released taken
  case closed =>
    intro e act ⟨⟨aligned, released, taken⟩, present, closed⟩
    exact launchBody_closed aligned released taken present (.inl closed)
  case tooDeep =>
    intro e act ⟨⟨aligned, released, taken⟩, ⟨present, admits, own⟩, deep⟩
    exact launchBody_tooDeep aligned released taken present admits own deep
  case full =>
    intro e act ⟨⟨aligned, released, taken⟩, ⟨present, admits, own⟩, shallow, full⟩
    exact launchBody_full aligned released taken present admits own (.inl rfl) (fun _ => shallow) full
  case misaligned => exact fun e act => launchBody_misaligned
  case appends =>
    intro e act ⟨⟨aligned, released, taken⟩, ⟨present, admits, own⟩, fed, room⟩
    exact launchBody_appends aligned released taken present admits own room fed
  case enqClosed =>
    intro e act ⟨⟨aligned, released, taken⟩, present, closed⟩
    exact launchBody_closed aligned released taken present (closed.imp_right (Or.imp_right (And.intro rfl)))
  case noQueue =>
    intro e act ⟨⟨aligned, released, taken⟩, absent⟩
    exact launchBody_noQueue aligned released taken absent
  case enqRecordError =>
    intro e act ⟨aligned, released, taken⟩
    exact launchBody_recordError aligned released taken
  case enqFull =>
    intro e act ⟨⟨aligned, released, taken⟩, ⟨present, admits, own⟩, fed, full⟩
    exact launchBody_full aligned released taken present admits own (.inr fed) (fun launches => nomatch launches) full
  case enqMisaligned => exact fun e act => launchBody_misaligned
  case qstat =>
    refine does_of_issue (fun _ => rfl) fun e act _ => ?_
    simp only [fld_zero]
    rfl

end Sys2Proof.Laws
end

section
/-! SUPPORT. What the host asks of a queue (spec/06_queue.md R115 to R117, R122): one equation for each request that the queue's state
admits, while the window is open. -/

namespace Sys2Proof.Laws
open Sys2Proof Sys2Proof.Machine

section requests
variable {s : State} {queue wptr : Nat} {k : Queue}

theorem exec_queueDescriptorWrite_open {d : QueueDesc} {c : Context} (isOpen : s.windowOpen = true)
    (context : Tab.get? s.contexts d.ctx.toNat = some c) (alive : c.state ≠ .destroyed)
    (free : ∀ k, Tab.get? s.queues d.qnum.toNat = some k → k.state = .destroyed ∧ k.records = [] ∧ k.owing = [])
    (base : d.feed = false → d.base.toNat % 64 = 0) (cbase : d.cbase.toNat % 32 = 0) (lo : 4 ≤ d.size.toNat) (hi : d.size.toNat ≤ 20)
    (cls : d.cls ≠ 3) (range : d.qmin.toNat ≤ d.qcap.toNat)
    (room : sumN ((s.queues.filter fun k => k.2.desc.home == d.home && k.2.state != .destroyed).map fun k => k.2.desc.qmin.toNat)
      + d.qmin.toNat ≤ 8192) :
    exec (.queueDescriptorWrite d) s = .next { s.accept with queues := Tab.set s.queues d.qnum.toNat {
      desc := d, state := .idle, left := .idle, draining := false, wptr := 0, rptr := 0, cptr := 0, records := [], codes := [], faultAddr := 0,
      faultPos := none, owing := [], served := 0 } } := by
  have baseOk : (!d.feed && d.base.toNat % 64 != 0) = false := by
    cases fed : d.feed with
    | true => rfl
    | false => simp [base fed]
  have listed : d.cls ≠ 3#2 := cls
  have cap : d.qcap.toNat ≤ 8192 := by omega
  simp only [exec, execQueueDescriptorWrite, State.windowed_open isOpen, context]
  refine congrArg Host.Outcome.next (if_neg ?_)
  cases found : Tab.get? s.queues d.qnum.toNat with
  | none => simp [alive, baseOk, cbase, lo, hi, listed, range, cap, room]
  | some k =>
    obtain ⟨destroyed, noRecords, nothingOwed⟩ := free k found
    simp [destroyed, noRecords, nothingOwed, alive, baseOk, cbase, lo, hi, listed, range, cap, room]

variable (present : Tab.get? s.queues queue = some k)
include present

theorem queueRequest_admitted {on : QState → Bool} (f : Queue → Queue) (admits : on k.state = true) :
    s.queueRequest queue on f = (s.accept.updQueue queue f).settle queue := by
  simp only [State.queueRequest, present, admits, if_true]

variable (isOpen : s.windowOpen = true)
include isOpen

theorem windowed_queueRequest {on : QState → Bool} (f : Queue → Queue) (admits : on k.state = true) :
    s.windowed (s.queueRequest queue on f) = .next ((s.accept.updQueue queue f).settle queue) := by
  rw [State.windowed_open isOpen, queueRequest_admitted present f admits]

theorem exec_queueDestroy_live (live : k.state ≠ .destroyed) :
    exec (.queueDestroy queue) s = .next ((s.accept.destroyQueue queue).ctxIdle k.desc.ctx.toNat) := by
  simp only [exec, execQueueDestroy, State.windowed_open isOpen, present, beq_iff_eq, live, if_false]

theorem exec_queueDestroy_destroyed (destroyed : k.state = .destroyed) : exec (.queueDestroy queue) s = .next s.accept := by
  simp only [exec, execQueueDestroy, State.windowed_open isOpen, present, destroyed, beq_self_eq_true, if_true]

section doorbell
variable (sound : k.state ≠ .faulted) (live : k.state ≠ .destroyed) (hostFed : k.desc.feed = false)
include sound live hostFed

theorem exec_doorbellWrite_inRange (lo : k.rptr ≤ wptr) (hi : wptr ≤ k.cptr + 2 ^ k.desc.size.toNat) :
    exec (.doorbellWrite queue wptr) s = .next ((s.accept.updQueue queue fun k => { k with wptr }).settle queue) := by
  simp [exec, execDoorbellWrite, State.windowed_open isOpen, present, sound, live, hostFed, Nat.not_lt.2 lo, Nat.not_lt.2 hi]

/-- R116: a doorbell out of range faults the queue at RPTR. -/
theorem exec_doorbellWrite_outOfRange (out : wptr < k.rptr ∨ k.cptr + 2 ^ k.desc.size.toNat < wptr) :
    exec (.doorbellWrite queue wptr) s =
      .next (s.refuse.faultQueue queue k.rptr 0xF1 (completionBytes k.desc.ctx.toNat 0xF1 queue k.rptr 0 0) false) := by
  simp [exec, execDoorbellWrite, State.windowed_open isOpen, present, sound, live, hostFed, out]

end doorbell
end requests

/-- Settles O54: every request but three is a change of the queue in the states that permit it. -/
theorem queueRequests : Obligations.QueueRequests := by
  unfold Obligations.QueueRequests
  intro s d queue wptr k c done isOpen
  refine ⟨exec_queueDescriptorWrite_open isOpen, ?enable, ?suspend, ?resume, ?resumeDrained, ?drain, ?reset,
    fun present => exec_queueDestroy_live present isOpen, fun present => exec_queueDestroy_destroyed present isOpen,
    fun present => exec_doorbellWrite_inRange present isOpen, fun present => exec_doorbellWrite_outOfRange present isOpen⟩
  case suspend | drain =>
    intro present admits
    exact windowed_queueRequest present isOpen _ (by simpa only [Bool.or_eq_true, beq_iff_eq, or_assoc] using admits)
  case enable | reset | resume | resumeDrained =>
    intro present state
    exact windowed_queueRequest present isOpen _ (by rw [state]; rfl)

end Sys2Proof.Laws
end

section
/-! SUPPORT. What Orrery does with the records and teams of a queue (spec/06_queue.md R118 to R126, spec/07_kernel.md R132 to R135,
spec/09_barrier.md R177): one equation for each way that an event goes. -/

namespace Sys2Proof.Laws
open Sys2Proof Sys2Proof.Machine

section queue
variable {s t : State} {queue die pos code fl : Nat} {k : Queue} {r : Record}

/-! ### Taking a record -/

theorem exec_queueBufferGrant_found
    (first : (s.queues.find? fun k => b2n k.2.desc.home == die && !k.2.desc.feed && !k.2.draining
      && (k.2.state == .running || k.2.state == .blocked || k.2.state == .suspended) && decide (k.2.rptr < k.2.wptr) && s.canBuffer k.1) =
        some (queue, k)) :
    exec (.queueBufferGrant die) s = .next (s.takeNext queue) := by
  simp only [exec, execQueueBufferGrant, first]

/-- R117, R125: a queue that is fed by the host and active, with a record in its ring and a buffer for it. -/
structure TakesRecords (s : State) (queue : Nat) (k : Queue) : Prop where
  hostFed : k.desc.feed = false
  notDraining : k.draining = false
  active : k.state = .running ∨ k.state = .blocked ∨ k.state = .suspended
  waits : k.rptr < k.wptr
  room : s.canBuffer queue = true

theorem TakesRecords.passes (h : TakesRecords s queue k) :
    (k.desc.feed || k.draining || !(k.state == .running || k.state == .blocked || k.state == .suspended) || decide (k.wptr ≤ k.rptr)
      || !s.canBuffer queue) = false := by
  obtain ⟨hostFed, notDraining, active, waits, room⟩ := h
  have state : (k.state == .running || k.state == .blocked || k.state == .suspended) = true := by
    simpa only [Bool.or_eq_true, beq_iff_eq, or_assoc] using active
  rw [hostFed, notDraining, state, decide_eq_false (Nat.not_le.2 waits), room]
  rfl

section take
variable (present : Tab.get? s.queues queue = some k) (takes : TakesRecords s queue k)
include present takes

theorem exec_recordTake_ok
    (taken : s.takeRecord (b2n k.desc.home) k.desc.ctx.toNat 0 (k.desc.base.toNat + 64 * (k.rptr % 2 ^ k.desc.size.toNat)) = (.ok r, t)) :
    exec (.recordTake queue) s =
      .next (t.updQueue queue fun k => { k with records := Tab.set k.records k.rptr { r with pos := k.rptr }, rptr := k.rptr + 1 }) := by
  simp only [exec, execRecordTake, State.takeNext, present, takes.passes, Bool.false_eq_true, if_false, taken]

theorem exec_recordTake_bad
    (taken : s.takeRecord (b2n k.desc.home) k.desc.ctx.toNat 0 (k.desc.base.toNat + 64 * (k.rptr % 2 ^ k.desc.size.toNat)) = (.bad fl, t)) :
    exec (.recordTake queue) s =
      .next (t.faultQueue queue k.rptr 0xF1 (completionBytes k.desc.ctx.toNat 0xF1 queue k.rptr 0 0) (bitOf fl 0)) := by
  simp only [exec, execRecordTake, State.takeNext, present, takes.passes, Bool.false_eq_true, if_false, taken]

end take

/-! ### Starting a record -/

/-- R117: what Orrery asks of the state of a queue before it looks at the head. -/
theorem beq_running_or_blocked (looks : k.state = .running ∨ k.state = .blocked) : (k.state == .running || k.state == .blocked) = true := by
  simpa only [Bool.or_eq_true, beq_iff_eq] using looks

section start
variable (present : Tab.get? s.queues queue = some k) (looks : k.state = .running ∨ k.state = .blocked)
include present looks

/-- R117, log entries 72 and 91: where none of its records starts, the head still blocks the queue and unblocks it. -/
theorem exec_recordStart_holds (held : ¬(k.draining = false ∧ s.ctxStarts k.desc.ctx.toNat = true)) (head : k.head = some r) :
    exec (.recordStart queue) s = .next (s.blockQueue queue (s.orderMet queue k r && (s.deps r).isNone)) := by
  have no : (!k.draining && s.ctxStarts k.desc.ctx.toNat) = false := by
    simpa only [Bool.not_eq_true', Bool.and_eq_true, ← Bool.not_eq_true (_ && _)] using held
  simp only [exec, execRecordStart, present, beq_running_or_blocked looks, no, head, Bool.not_true, Bool.false_eq_true, if_false]
  cases s.orderMet queue k r with
  | false => rfl
  | true => cases s.deps r <;> rfl

section posts
variable (notDraining : k.draining = false) (ready : s.ctxStarts k.desc.ctx.toNat = true) (posted : s.postReady queue k = t)
  (head : k.head = some r)
include notDraining ready posted head

theorem exec_recordStart_outOfOrder (order : t.orderMet queue k r = false) : exec (.recordStart queue) s = .next (t.blockQueue queue false) := by
  simp only [exec, execRecordStart, present, beq_running_or_blocked looks, notDraining, ready, posted, head, order, Bool.not_true,
    Bool.not_false, Bool.and_self, Bool.false_eq_true, if_false, if_true]

variable (order : t.orderMet queue k r = true)
include order

theorem exec_recordStart_blocks (unmet : t.deps r = none) : exec (.recordStart queue) s = .next (t.blockQueue queue true) := by
  simp only [exec, execRecordStart, present, beq_running_or_blocked looks, notDraining, ready, posted, head, order, unmet, Bool.not_true,
    Bool.not_false, Bool.and_self, Bool.false_eq_true, if_false, if_true]

theorem exec_recordStart_met (met : t.deps r = some code) : exec (.recordStart queue) s =
    .next (if t.dying r.version || (t.schedOf r && !r.go) then t.blockQueue queue false else t.startRecord queue k r code) := by
  simp only [exec, execRecordStart, present, beq_running_or_blocked looks, notDraining, ready, posted, head, order, met, Bool.not_true,
    Bool.not_false, Bool.and_self, Bool.false_eq_true, Bool.false_or, if_false, if_true]
  split_ifs <;> rfl

end posts

theorem exec_dispatchRegisterWrite_admitted (isOpen : s.windowOpen = true) (notDraining : k.draining = false)
    (ready : s.ctxStarts k.desc.ctx.toNat = true) (record : Tab.get? k.records pos = some r) (met : s.deps r = some code)
    (notStarted : r.started = false) (reported : r.ready = true) (alive : s.dying r.version = false) :
    exec (.dispatchRegisterWrite queue pos) s = .next (if s.orderMet queue k r && k.head == some r then s.accept.startRecord queue k r code
      else s.accept.updQueue queue fun k => { k with records := Tab.upd k.records pos fun r => { r with go := true } }) := by
  simp only [exec, execDispatchRegisterWrite, State.windowed_open isOpen, present, record, met, notStarted, reported, alive, notDraining,
    beq_running_or_blocked looks, ready, Bool.not_true, Bool.or_self, Bool.false_eq_true, if_false]

end start

/-! ### Completing a record -/

section complete
variable (marked : (s.markerDone queue).childrenDone = t) (present : Tab.get? t.queues queue = some k)
include marked present

theorem exec_recordComplete_owed {entry : List Byte} {irq : Bool} {rest : List (Nat × List Byte × Bool)}
    (owing : k.owing = (pos, entry, irq) :: rest) :
    exec (.recordComplete queue) s = .next ((t.updQueue queue fun k => { k with owing := rest }).writeEntry queue pos entry irq) := by
  simp only [exec, execRecordComplete, marked, present, owing]

theorem exec_recordComplete_done (owing : k.owing = []) (done : (k.records.find? fun r => t.recordDone queue r.2) = some (pos, r)) :
    exec (.recordComplete queue) s = .next (
      if r.posted then (t.updQueue queue fun k => { k with records := Tab.del k.records pos }).settle queue
      else t.completeRecord queue r r.code) := by
  simp only [exec, execRecordComplete, marked, present, owing, done]
  split_ifs <;> rfl

end complete

/-! ### The time limit -/

/-- R110: with no record to write, nothing is asked of the trap area. -/
theorem trapReady_nil (home ctx : Nat) : s.trapReady home ctx [] = (true, s) := by
  unfold State.trapReady
  cases Tab.get? s.contexts ctx <;> rfl

end queue

/-! ### Teams -/

section teams
variable {s u : State} {grid team : Nat} {g : Grid} {t : Team}

theorem exec_teamRetire_done (present : Tab.get? s.teams team = some t) (resident : t.resident = true) (idle : s.teamBusy t = false)
    (ofGrid : Tab.get? s.grids t.grid = some g) (performed : s.performAll (s.before fun _ x => x.inL1 && x.core == t.core) = (u, true)) :
    exec (.teamRetire team) s = .next (((u.removeTeam t).ctxIdle t.ctx).settle g.queue) := by
  simp only [exec, execTeamRetire, present, resident, idle, ofGrid, performed, Bool.not_true, Bool.or_self, Bool.false_eq_true, if_false,
    Option.map_some, Option.getD_some]

/-- R126: a grid that has a place goes when no grid with a place goes before it. -/
theorem dispatch_goes (places : s.gridPlaces g ≠ [])
    (first : ∀ x ∈ s.grids, x.1 ≠ grid → s.goesBefore x.2 g = true → s.gridPlaces x.2 = []) :
    ((s.gridPlaces g).isEmpty || s.grids.any fun x => x.1 != grid && s.goesBefore x.2 g && !(s.gridPlaces x.2).isEmpty) = false := by
  rw [Bool.or_eq_false_iff, List.isEmpty_eq_false_iff, List.any_eq_false]
  refine ⟨places, fun x mem => ?_⟩
  simp only [Bool.and_eq_true, bne_iff_ne, Bool.not_eq_true', List.isEmpty_eq_false_iff]
  exact fun ⟨⟨other, before⟩, place⟩ => place (first x mem other before)

end teams

/-- Settles O55: each clause is one way of its event; in host-assisted mode a time limit puts no record of a group into the trap area. -/
theorem recordsAndTeams : Obligations.RecordsAndTeams := by
  unfold Obligations.RecordsAndTeams
  constructor
  · intro s t queue die pos code fl k r va takes looks goes starts
    refine ⟨?takesOk, ?takesBad, exec_queueBufferGrant_found, ?outOfOrder, ?blocks, ?met, ?held, ?dispatched, exec_recordComplete_done,
      fun entry irq rest marked present => exec_recordComplete_owed marked present, ?timesOut⟩
    case takesOk => exact fun present ⟨hostFed, notDraining, active, waits, room⟩ =>
      exec_recordTake_ok present ⟨hostFed, notDraining, active, waits, room⟩
    case takesBad => exact fun present ⟨hostFed, notDraining, active, waits, room⟩ =>
      exec_recordTake_bad present ⟨hostFed, notDraining, active, waits, room⟩
    case outOfOrder => exact fun ⟨⟨present, state⟩, notDraining, ready⟩ => exec_recordStart_outOfOrder present state notDraining ready
    case blocks => exact fun ⟨⟨present, state⟩, notDraining, ready⟩ => exec_recordStart_blocks present state notDraining ready
    case met => exact fun ⟨⟨present, state⟩, notDraining, ready⟩ => exec_recordStart_met present state notDraining ready
    case held => exact fun ⟨present, state⟩ => exec_recordStart_holds present state
    case dispatched => exact fun isOpen ⟨⟨present, state⟩, notDraining, ready⟩ =>
      exec_dispatchRegisterWrite_admitted present state isOpen notDraining ready
    case timesOut =>
      intro present late assisted timed
      have kept : t.fnmode = s.fnmode := by rw [timed, State.updQueue_fnmode]
      have number : TrapCode.ktimeout.num = 0x13 := rfl
      cases item : (s.timeItem queue pos).group with
      | none => simp only [exec, execKtimeout, present, late, assisted, trapReady_nil, item, number, ← timed, kept, if_true]
      | some x =>
        simp only [exec, execKtimeout, present, late, assisted, trapReady_nil, item, number, ← timed, kept, State.updGroup_fnmode, if_true]
  · intro s u grid team g t
    refine ⟨?dispatch, exec_teamRetire_done⟩
    intro cores goes r present places first free
    simp only [r, goes, cores] at free
    simp only [exec, execTeamDispatch, present, dispatch_goes places first, Bool.false_eq_true, if_false, State.draw_fst, free]
    rfl

end Sys2Proof.Laws
end

section
/-! SUPPORT. Effects on units of which nothing is absent, and the divergence stack as rows of V registers (spec/08_group.md R160 to R163). -/

namespace Sys2Proof.Laws
open Sys2Proof Sys2Proof.Machine

/-- What an issue sees is its state, and there the group under its number, its team and its grid. -/
theorem env?_eq_some {s : State} {uid : Nat} {e : Env} (env : s.env? uid = some e) :
    e.st = s ∧ Tab.get? s.groups uid = some e.g ∧ Tab.get? s.teams e.g.team = some e.t ∧ Tab.get? s.grids e.g.grid = some e.gr := by
  unfold State.env? at env
  split at env
  · cases env
  · split at env
    · cases env
      exact ⟨rfl, ‹_›, ‹_›, ‹_›⟩
    · cases env

/-- An instruction does to its active lanes what its body comes to wherever it reaches its effect. -/
theorem does_of_issues {i : Instr} {h : Hdr} {rule : SpanRule} {body : Body} {ok : Env → Nat → Prop} {out : Env → Nat → Out}
    (runs : ∀ s, exec i s = issue i rule body s)
    (effect : ∀ s lanes pc next e0 e, Issues s i h lanes pc next e0 e → ok e (e0.act h lanes) →
      body e.st e (e0.act h lanes) = out e (e0.act h lanes)) : Does i h ok out := by
  intro s lanes pc next e0 e issues holds
  rw [runs, issue_group issues, effect s lanes pc next e0 e issues holds]

theorem issues_present {s : State} {i : Instr} {h : Hdr} {lanes : Nat} {pc next : BitVec 49} {e0 e : Env}
    (issues : Issues s i h lanes pc next e0 e) : ∀ c ∈ e.st.contexts, c.2.absent = [] := by
  rw [(env?_eq_some issues.after).1]
  exact issues.present

theorem withUnits_present {s : State} (present : ∀ c ∈ s.contexts, c.2.absent = []) (e : Env) (act : Nat) (us : List (Nat × Nat × Nat))
    (f : State → Out) : withUnits s e act us f = f s := by
  rw [withUnits, presentAll_none present]

/-- The mask of `n` lanes from lane `b` on. -/
theorem inMask_block (b n l : Nat) : inMask (2 ^ b * (2 ^ n - 1)) l = (decide (b ≤ l) && decide (l - b < n)) := by
  rw [inMask, bitOf_testBit, Nat.testBit_two_pow_mul, Nat.testBit_two_pow_sub_one]

theorem Group.setV_congr (g : Group) (n : Nat) {m : Nat} {f f' : Nat → Word} (agree : ∀ l, inMask m l = true → f l = f' l) :
    g.setV n m f = g.setV n m f' := by
  rw [Group.setV, Group.setV, mergeRow_congr _ agree]

/-- R162: an entry of the divergence stack is a half of a row; its first three words hold the mask and the register. -/
theorem Group.setDiv_eq (g : Group) (k mask j : Nat) :
    g.setDiv k mask j = g.setV (g.vlim + k / 2) ((2 ^ 32 - 1) * 2 ^ (32 * (k % 2))) fun l =>
      if l % 32 = 0 then BitVec.ofNat 32 mask else if l % 32 = 1 then BitVec.ofNat 32 (mask / 2 ^ 32)
      else if l % 32 = 2 then BitVec.ofNat 32 j else 0 := by
  rw [Nat.mul_comm (2 ^ 32 - 1)]
  refine Group.setV_congr g _ fun l half => ?_
  simp only [inMask_block, Bool.and_eq_true, decide_eq_true_eq] at half
  have word : ∀ n < 3, l = 32 * (k % 2) + n ↔ l % 32 = n := fun n small => by omega
  simp only [beq_iff_eq, word 1 (by omega), word 2 (by omega), show l = 32 * (k % 2) ↔ l % 32 = 0 from word 0 (by omega)]

end Sys2Proof.Laws
end

section
/-! The obligation about the rejoin masks, from the equations above. -/

namespace Sys2Proof.Laws
open Sys2Proof Sys2Proof.Machine

/-- Settles O20: each clause is what the body of its instruction comes to on units that are present. -/
theorem rejoinMasks : Obligations.RejoinMasks := by
  unfold Obligations.RejoinMasks
  intro h j n1 off add t
  refine ⟨does_of_issue (fun _ => rfl) ?jset, does_of_issue (fun _ => rfl) ?join, does_of_issue (fun _ => rfl) ?gsync,
    does_of_issues (fun _ => rfl) ?jpush, does_of_issue (fun _ => rfl) ?overflow, does_of_issues (fun _ => rfl) ?jpop,
    does_of_issues (fun _ => rfl) ?brk⟩
  case jset => exact fun e act _ => rfl
  case join => exact fun e act _ => rfl
  case gsync =>
    intro e act performed
    simp only [performed]
    rfl
  case jpush =>
    intro s lanes pc next e0 e issues room
    simp only [beq_iff_eq, room, if_false, withUnits_present (issues_present issues), Group.setDiv_eq]
  case overflow =>
    intro e act full
    simp only [beq_iff_eq, full, if_true]
  case jpop =>
    intro s lanes pc next e0 e issues _
    simp only [withUnits_present (issues_present issues), beq_iff_eq]
    rfl
  case brk =>
    intro s lanes pc next e0 e issues _
    rw [withUnits_present (issues_present issues)]
    exact forLanes_stay _ _ (laneSet_act e0 h lanes) fun l x => { x with pc := relTarget (e.pc l) off }

end Sys2Proof.Laws
end

section
/-! SUPPORT. The group that stands under a number bears it, and keeps it while accesses are performed and results land: what of these
operations leaves the groups alone, and what changes a group under its number (spec/14_memory.md R265, spec/15_ordering.md R287). -/

namespace Sys2Proof.Laws
open Sys2Proof Sys2Proof.Machine

/-- What every step of a fold leaves, the fold leaves. -/
theorem foldl_proj {α β γ : Type} (get : β → γ) (f : β → α → β) (keeps : ∀ b a, get (f b a) = get b) (l : List α) (b : β) :
    get (l.foldl f b) = get b :=
  List.foldlRecOn (motive := fun x => get x = get b) l f rfl fun _ same a _ => (keeps _ a).trans same

/-! ### Operations that leave the groups alone -/

theorem poke_groups (s : State) (loc : Nat) (b : Byte) : (s.poke loc b).groups = s.groups := by
  unfold State.poke; split <;> rfl

theorem pokeN_groups (bs : List Byte) (s : State) (loc : Nat) : (s.pokeN loc bs).groups = s.groups := by
  induction bs generalizing s loc with
  | nil => rfl
  | cons b bs ih => rw [State.pokeN, ih, poke_groups]

theorem touchWalk_groups (s : State) (w : Walk) (acc : Acc) : (s.touchWalk w acc).groups = s.groups := by
  unfold State.touchWalk
  split
  · rfl
  · exact pokeN_groups ..

theorem touchLeaf_groups (s : State) (ctx va : Nat) (acc : Acc) : (s.touchLeaf ctx va acc).groups = s.groups := by
  unfold State.touchLeaf
  extract_lets w
  split
  · exact touchWalk_groups ..
  · rfl

theorem looked_groups (e : Env) (act : Nat) (s : State) : (e.looked act s).groups = s.groups := by
  unfold Env.looked
  exact foldl_proj State.groups _ (fun s l => touchLeaf_groups s e.gr.ctx (localVa e.t.localSlot e.g.gid l 0) .load) _ s

theorem withFrames_groups (s : State) (fs : List Frame) : ({ s with frames := fs } : State).groups = s.groups := rfl

theorem viewPoke_groups (s : State) (v : Nat) (t : Tr) (b : Byte) : (s.viewPoke v t b).groups = s.groups := by
  unfold State.viewPoke
  extract_lets v
  split
  · exact poke_groups ..
  · split
    · split
      next f _ => rw [withFrames_groups, poke_groups]
      next => rfl
    · rfl

theorem viewPokeN_groups (bs : List Byte) (s : State) (v : Nat) (t : Tr) : (s.viewPokeN v t bs).groups = s.groups := by
  induction bs generalizing s t with
  | nil => rfl
  | cons b bs ih => rw [State.viewPokeN, ih, viewPoke_groups]

theorem hostUse_groups (s : State) (pol : Pol) (loc n : Nat) : (s.hostUse pol loc n).groups = s.groups := by
  unfold State.hostUse; split <;> rfl

theorem returnLine_groups {s t : State} {x : VLine} (back : s.returnLine x = some t) : t.groups = s.groups := by
  simp only [State.returnLine] at back
  split_ifs at back
  · cases back; rfl
  · cases back; rfl
  · split at back
    · cases back; rfl
    · split_ifs at back
      cases back; rfl

theorem useLine?_groups {s t : State} {v line : Nat} (used : s.useLine? v line = some t) : t.groups = s.groups := by
  simp only [State.useLine?] at used
  split at used
  · cases used; rfl
  · split_ifs at used
    · exact (returnLine_groups used).trans rfl
    · cases used; rfl

theorem useLine_groups (s : State) (v line : Nat) : (s.useLine v line).groups = s.groups := by
  unfold State.useLine
  cases used : s.useLine? v line with
  | none => rfl
  | some t => exact useLine?_groups used

theorem useView_groups (s : State) (v : Nat) (t : Tr) (n : Nat) : (s.useView v t n).groups = s.groups := by
  simp only [State.useView]
  split_ifs
  · rfl
  · exact foldl_proj State.groups _ (fun s _ => useLine_groups s _ _) _ s

theorem clearView_groups (s : State) (ver : Nat) (locs : List Nat) : (s.clearView ver locs).groups = s.groups := by
  simp only [State.clearView, State.clearPoison, State.markWhole]
  split_ifs <;> rfl

theorem clearWhole_groups (s : State) (core ver : Nat) (pol : Pol) (locs : List Nat) : (s.clearWhole core ver pol locs).groups = s.groups := by
  simp only [State.clearWhole, State.clearL1Poison]
  split_ifs <;> exact clearView_groups ..

theorem spanOn_groups (s : State) (uid : Nat) : (s.spanOn uid).groups = s.groups := by
  unfold State.spanOn; split <;> rfl

/-! ### Each group under its own number -/

/-- The group that stands under a number bears it. -/
structure Named (u : Nat) (s : State) : Prop where
  uid_eq : ∀ g, Tab.get? s.groups u = some g → g.uid = u

section named
variable {u : Nat} {s : State}

theorem Named.congr {t : State} (named : Named u s) (same : t.groups = s.groups) : Named u t := ⟨same ▸ named.uid_eq⟩

theorem Named.updGroup (named : Named u s) (v : Nat) {f : Group → Group} (keeps : ∀ g, (f g).uid = g.uid) : Named u (s.updGroup v f) := by
  refine ⟨fun g present => ?_⟩
  rw [State.updGroup_groups, Tab.get?_upd] at present
  split_ifs at present with own
  · obtain ⟨k, found, rfl⟩ := Option.map_eq_some_iff.1 present
    rw [keeps, named.uid_eq k (own ▸ found)]
  · exact named.uid_eq g present

theorem Named.setGroup (named : Named u s) (g : Group) : Named u (s.setGroup g) := by
  refine ⟨fun k present => ?_⟩
  rw [State.setGroup_groups, Tab.get?_set] at present
  split_ifs at present with own
  · cases present
    exact own.symm
  · exact named.uid_eq k present

theorem Named.foldl {α : Type} {f : State → α → State} (named : Named u s) (keeps : ∀ s a, Named u s → Named u (f s a)) (l : List α) :
    Named u (l.foldl f s) :=
  List.foldlRecOn l f named fun s named a _ => keeps s a named

/-! ### Results -/

theorem pokeWord_uid (g : Group) (r : Reg) (k : Nat) (w : Word) : (g.pokeWord r k w).uid = g.uid := by
  cases r with
  | p n => exact Group.setP_uid ..
  | _ => rfl

theorem Named.deliver (named : Named u s) (group : Nat) (r : Reg) (k l n : Nat) (w : Word) : Named u (s.deliver group r k l n w) := by
  unfold State.deliver
  split
  · exact named.congr rfl
  · exact named.updGroup _ fun g => pokeWord_uid g r k w

theorem Named.deliverN (group : Nat) (r : Reg) (l fl x n : Nat) {s : State} (named : Named u s) : Named u (s.deliverN group r l fl x n) := by
  induction n generalizing s with
  | zero => exact named
  | succ n ih => exact ih (named.deliver ..)

theorem Named.sinkWord (named : Named u s) (n : Nat) (f : Flight) (r : Reg) (k l : Nat) : Named u (s.sinkWord n f r k l) := by
  simp only [State.sinkWord]
  split
  · split
    · exact named.congr rfl
    · refine Named.setGroup ?_ _
      exact named.congr rfl
  · exact named

theorem Named.land (named : Named u s) (n : Nat) : Named u (s.land n) := by
  unfold State.land
  split
  · exact named
  next f _ =>
    split
    · exact named
    · extract_lets sunk owed flagged
      have sunkNamed : Named u sunk := named.foldl (fun s x named => by
        split
        case h_1 | h_2 | h_3 | h_4 => exact named.foldl (fun s l named => named.sinkWord ..) _
        case h_5 => exact (named.sinkWord ..).sinkWord ..
        case h_6 => exact named.sinkWord ..
        case h_7 => exact named) _
      have owedNamed : Named u owed := sunkNamed.updGroup _ fun g => by cases f.sb <;> rfl
      split <;> exact owedNamed.congr rfl

theorem Named.unwind (named : Named u s) (n m : Nat) : Named u (s.unwind n m) := by
  unfold State.unwind
  split
  · exact named
  next f _ =>
    extract_lets mm low back fallen rest
    have backNamed : Named u back := named.foldl (fun s x named => by
      split
      case h_1 | h_2 | h_3 => exact named.foldl (fun s l named => named.deliver ..) _
      case h_4 =>
        split
        · exact (named.deliver ..).deliver ..
        · exact named
      case h_5 =>
        split
        · exact named.deliver ..
        · exact named
      case h_6 => exact named) _
    have fallenNamed : Named u fallen := backNamed.updGroup _ fun g => by cases f.sb <;> rfl
    exact fallenNamed.congr rfl

theorem Named.failLanes (named : Named u s) (flight m : Nat) (code : TrapCode) (addr : Nat → Nat) : Named u (s.failLanes flight m code addr) := by
  unfold State.failLanes
  split
  · exact named
  · exact (named.unwind ..).updGroup _ fun g => rfl

/-! ### Watches and the lines of an L1 -/

theorem Named.wakeMwait (named : Named u s) (uid l status : Nat) : Named u (s.wakeMwait uid l status) := by
  unfold State.wakeMwait
  split
  · exact ((named.deliver ..).land _).updGroup _ fun g => rfl
  · exact named

theorem Named.fireLine (named : Named u s) (line : Nat) (on : Nat → Bool) : Named u (s.fireLine line on) := by
  unfold State.fireLine
  extract_lets hit fired
  have firedNamed : Named u fired := named.foldl (fun s x named => named.updGroup x.1 (f := fun g => g.fire line) fun g => rfl) hit
  exact firedNamed.foldl (fun s x named => named.foldl (fun s l named => named.wakeMwait ..) _) _

theorem Named.dropL1 (named : Named u s) (core : Nat) (p : L1Line → Bool) : Named u (s.dropL1 core p) := by
  unfold State.dropL1
  exact (named.congr (State.updCore_groups ..)).foldl (fun s x named => named.fireLine ..) _

theorem Named.fillL1 (named : Named u s) (core ctx va loc n : Nat) : Named u (s.fillL1 core ctx va loc n) := by
  have used : Named u (s.hostUse .l1 loc n) := named.congr (hostUse_groups ..)
  simp only [State.fillL1]
  split
  · exact used.congr rfl
  · refine Named.congr ?_ (State.updCore_groups ..)
    split
    · exact used
    · exact used.dropL1 ..

theorem Named.loadAt (named : Named u s) (core ctx ver va n : Nat) (pol : Pol) (t : Tr) : Named u (s.loadAt core ctx ver va n pol t).2 := by
  unfold State.loadAt
  split
  · extract_lets s1
    have filled : Named u s1 := by
      unfold s1
      split
      · exact named
      · exact named.fillL1 ..
    split <;> exact filled
  · exact named.congr ((hostUse_groups ..).trans (useView_groups ..))

theorem Named.storeL1 (named : Named u s) (core : Nat) (pol : Pol) (loc : Nat) (bs : List Byte) : Named u (s.storeL1 core pol loc bs) := by
  unfold State.storeL1
  split
  · exact named.congr (State.updCore_groups ..)
  · exact named.dropL1 ..

theorem Named.storeAt (named : Named u s) (core ver : Nat) (pol : Pol) (t : Tr) (bs : List Byte) : Named u (s.storeAt core ver pol t bs) := by
  have poked : Named u ((s.hostUse pol t.loc bs.length).viewPokeN ver t bs) := named.congr ((viewPokeN_groups ..).trans (hostUse_groups ..))
  unfold State.storeAt
  refine Named.fireLine ?_ _ _
  split
  · exact poked.storeL1 ..
  · exact poked

/-! ### Pending accesses -/

theorem Named.giveLoad (named : Named u s) (group lanes : Nat) (sz : Sz) (d : Reg) (fl l : Nat) (bs : List Byte) :
    Named u (s.giveLoad group lanes sz d fl l bs) := by
  unfold State.giveLoad
  extract_lets owed v
  split
  · split
    · exact (named.deliver ..).deliver ..
    · exact named
  · split
    · exact named.deliverN ..
    · exact named

theorem Named.readPiece (named : Named u s) (p : PStore) (x : Piece) : Named u (s.readPiece p x).2 := by
  unfold State.readPiece
  split
  · exact named
  · exact named.loadAt ..

theorem Named.loadPiece (named : Named u s) (p : PStore) (sz : Sz) (d : Reg) (fl : Nat) (x : Piece) : Named u (s.loadPiece p sz d fl x) := by
  have read := named.readPiece p x
  unfold State.loadPiece
  split
  next got => rw [got] at read; exact read.failLanes ..
  next got => rw [got] at read; exact read.giveLoad ..

theorem Named.storePiece (named : Named u s) (p : PStore) (x : Piece) : Named u (s.storePiece p x) := by
  unfold State.storePiece
  split
  · exact named.congr rfl
  · exact named.storeAt ..

theorem Named.spanHalf (named : Named u s) (n : Nat) (p : PStore) (d : Reg) (x : Piece) : Named u (s.spanHalf n p d x) := by
  have read := named.readPiece p x
  unfold State.spanHalf
  split
  next got =>
    rw [got] at read
    exact read.congr rfl
  next got =>
    rw [got] at read
    split
    · split
      · split
        · exact read.congr rfl
        · exact read.congr (spanOn_groups ..)
      · exact read
    · exact read

theorem Named.atomicPiece (named : Named u s) (p : PStore) (m : AMod) (x : Piece) : Named u (s.atomicPiece p m x).2 := by
  unfold State.atomicPiece
  split
  · exact named.congr rfl
  · unfold State.atomicAt
    split
    · exact named
    · exact Named.storeAt (named.congr (useView_groups ..)) ..

theorem Named.perform1 (named : Named u s) (n : Nat) : Named u (s.perform1 n).1 := by
  simp only [State.perform1]
  split
  · exact named
  next p _ =>
    have taken : Named u { s with stores := Tab.del s.stores n } := named.congr rfl
    split
    · exact named.congr rfl
    · split
      · split
        · split
          · exact named.spanHalf ..
          · exact named
        · exact taken.foldl (fun s x named => named.loadPiece ..) _
      · have stored := taken.foldl (fun s x named => named.storePiece p x) p.pieces
        refine Named.congr ?_ (spanOn_groups ..)
        split
        · split
          · exact stored.congr rfl
          · exact stored
        · refine Named.congr ?_ (clearWhole_groups ..)
          split
          · exact stored.congr rfl
          · exact stored
      next m d fl _ _ =>
        refine taken.foldl (fun s x named => ?_) _
        have performed := named.atomicPiece p m x
        split
        next got => rw [got] at performed; exact performed.deliverN ..
        next got => rw [got] at performed; exact performed.failLanes ..

theorem Named.performAll (ns : List Nat) {s : State} (named : Named u s) : Named u (s.performAll ns).1 := by
  induction ns generalizing s with
  | nil => exact named
  | cons n ns ih =>
    have one := named.perform1 n
    unfold State.performAll
    split
    next got => rw [got] at one; exact ih one
    next => exact one

theorem Named.drainTeam (named : Named u s) (group : Nat) : Named u (s.drainTeam group).1 := Named.performAll _ (named.congr rfl)

theorem Named.performed (named : Named u s) (e : Env) (act group : Nat) {t : State} (performed : (e.looked act s).drainTeam group = (t, true)) :
    Named u t := by
  have drained := (named.congr (looked_groups e act s)).drainTeam group
  rwa [performed] at drained

end named

theorem issues_named {s : State} {i : Instr} {h : Hdr} {lanes : Nat} {pc next : BitVec 49} {e0 e : Env}
    (issues : Issues s i h lanes pc next e0 e) : Named e.g.uid e.st := by
  have before : Named e0.g.uid s := ⟨fun g found => by
    rw [show Tab.get? s.groups e0.g.uid = some e0.g from (env?_eq_some issues.before).2.1] at found
    exact Option.some.inj found ▸ rfl⟩
  have marked : Named e0.g.uid (s.atIssue e0 h lanes) :=
    Named.congr (Named.updGroup (before.congr (t := { s with cur := none, free := s.free + 1 }) rfl) _ fun g => Group.mark_uid ..) rfl
  obtain ⟨st, group, -, -⟩ := env?_eq_some issues.after
  rwa [st, marked.uid_eq _ group]

end Sys2Proof.Laws
end

section
/-! The obligation about GFOLD and EXIT, from the equations above (spec/07_kernel.md R147, R149). -/

namespace Sys2Proof.Laws
open Sys2Proof Sys2Proof.Machine

/-! ### GFOLD -/

/-- R149: the lanes `act` of a group may fold, and `f` is what the fold sees once the group's accesses are performed. -/
structure MayFold (e : Env) (act : Nat) (t : State) (f : Env) : Prop where
  ours : ∀ l ∈ lanesOf act, e.st.spillHeld e l = none
  may : e.mayFold act = true
  performed : (e.looked act e.st).drainTeam e.g.uid = (t, true)
  present : ∀ c ∈ t.contexts, c.2.absent = []
  env : t.env? e.g.uid = some f

section fold
variable {s : State} {e : Env} {act : Nat}

theorem fold_stays (unfit : ∀ sp, e.fold? act (e.nextPc (lowLane act) 8) s.uids = some sp → s.fresh.2.spanRoom sp = false) :
    s.fold e act = { s } := by
  unfold State.fold
  cases fits : e.fold? act (e.nextPc (lowLane act) 8) s.uids with
  | none => simp only [State.fresh, fits]
  | some sp =>
    have full := unfit sp fits
    simp only [State.fresh] at full
    simp only [State.fresh, fits, full, Bool.not_false, if_true]

theorem fold_leaves {sp : Span} (fits : e.fold? act (e.nextPc (lowLane act) 8) s.uids = some sp) (room : s.fresh.2.spanRoom sp = true) :
    s.fold e act =
      { s := (((s.fresh.2.setSpan sp).shareFlags e.g.uid s.uids).dropGroup e.g.uid).mergeBeside sp, stays := act } := by
  simp only [State.fresh] at room
  simp only [State.fold, State.fresh, fits, room, Bool.not_true, Bool.false_eq_true, if_false]

end fold

section gfold
variable {h : Hdr} {ok : Env → Nat → Prop} {out : Env → Nat → Out}

theorem does_gfold_not (refused : ∀ e act, ok e act → (∀ l ∈ lanesOf act, e.st.spillHeld e l = none) ∧ e.mayFold act = false) :
    Does (.gfold h) h ok fun e act => { s := e.looked act e.st } := by
  refine does_of_issue (fun _ => rfl) fun e act holds => ?_
  obtain ⟨ours, may⟩ := refused e act holds
  simp only [List.findSome?_eq_none_iff.2 ours, may, Bool.not_false, if_true]

/-- A group that may fold folds from the state in which its accesses are performed, where it still bears its number. -/
theorem does_gfold {t : State} {f : Env} (folds : ∀ e act, ok e act → MayFold e act t f ∧ (f.g.uid = e.g.uid → t.fold f act = out e act)) :
    Does (.gfold h) h ok out := by
  refine does_of_issues (fun _ => rfl) fun s lanes pc next e0 e issues holds => ?_
  obtain ⟨⟨ours, may, performed, present, env⟩, fold⟩ := folds e _ holds
  have uid : f.g.uid = e.g.uid := ((issues_named issues).performed e _ _ performed).uid_eq _ (env?_eq_some env).2.1
  simp only [List.findSome?_eq_none_iff.2 ours, may, performed, withUnits_present present, env, Bool.not_true, Bool.false_eq_true, if_false,
    fold uid]

end gfold

/-! ### EXIT -/

/-- R175, R179: where the team has a barrier in CLUSTER or GRID mode an exit counts at the home. -/
theorem exitFirst_performed {s u : State} {uid : Nat} {t : Team} (home : (∃ b ∈ t.bars, 2 ≤ b.mode) → s.drain uid = (u, true))
    (team : (¬ ∃ b ∈ t.bars, 2 ≤ b.mode) → s.drainTeam uid = (u, true)) : s.exitFirst uid (some t) = (u, true) := by
  have wide : t.wide = true ↔ ∃ b ∈ t.bars, 2 ≤ b.mode := by simp only [Team.wide, List.any_eq_true, decide_eq_true_eq]
  simp only [State.exitFirst, Option.any_some, wide]
  split
  · exact home ‹_›
  · exact team ‹_›

/-- Settles O25: the clauses of GFOLD are its refusal and the two ends of its fold; EXIT has performed what its team's barriers ask for. -/
theorem groupEnds : Obligations.GroupEnds := by
  unfold Obligations.GroupEnds
  constructor
  · intro h sp t f ours may
    refine ⟨does_gfold_not fun e act => id, does_gfold (t := t) (f := f) ?stays, does_gfold (t := t) (f := f) ?leaves⟩
    case stays =>
      intro e act ⟨⟨own, fit, performed, present, env⟩, unfit⟩
      refine ⟨⟨own, fit, performed, present, env⟩, fun _ => fold_stays fun q fits => ?_⟩
      obtain none_ | ⟨some_, full⟩ := unfit
      · rw [none_] at fits
        cases fits
      · rw [some_] at fits
        cases fits
        exact full
    case leaves =>
      intro e act ⟨⟨own, fit, performed, present, env⟩, fits, room⟩
      exact ⟨⟨own, fit, performed, present, env⟩, fun uid => by rw [fold_leaves fits room, uid]⟩
  · intro h t wide
    refine does_of_issue (fun _ => rfl) fun e act ⟨home, team⟩ => ?_
    simp only [exitFirst_performed home team]

end Sys2Proof.Laws
end

section
/-! SUPPORT. Lowering into a group that exists, and what it leaves of V registers above the group's allotment (spec/07_kernel.md R143,
spec/08_group.md R169). -/

namespace Sys2Proof.Laws
open Sys2Proof Sys2Proof.Machine

/-- Two groups with the same VLIM and the same row in V register `n`. -/
def Group.SameRow (g : Group) (n : Nat) (k : Group) : Prop := k.rowV n = g.rowV n ∧ k.vlim = g.vlim

theorem Group.SameRow.setV {g k : Group} {n : Nat} (same : Group.SameRow g n k) {r : Nat} (other : n ≠ r) (m : Nat) (f : Nat → Word) :
    Group.SameRow g n (k.setV r m f) := by
  obtain ⟨row, vlim⟩ := same
  refine ⟨?_, vlim⟩
  rw [← row]
  exact Tab.get_set_ne k.v _ _ other

theorem Group.SameRow.setP {g k : Group} {n : Nat} (same : Group.SameRow g n k) (r m : Nat) (f : Nat → Bool) :
    Group.SameRow g n (k.setP r m f) := by
  obtain ⟨row, vlim⟩ := same
  constructor
  · rw [← row, Group.rowV, Group.setP_v, Group.setP_uid]
    rfl
  · rw [← vlim, Group.vlim, Group.setP_vallot, Group.setP_reserve]
    rfl

/-- R169: a group that exists takes no value above its allotment: a lowering leaves the V registers from VLIM on as they were. -/
theorem Group.takeItems_rowV_of_vlim_le {g : Group} {n : Nat} (above : g.vlim ≤ n) (sp : Span) (base m : Nat) :
    (g.takeItems sp base m false).rowV n = g.rowV n := by
  unfold Group.takeItems
  extract_lets regs row g1 g2 g3 g4 fpctl keep stamp
  have below : ∀ r, Reg.v r ∈ regs → r < g.vlim := by
    intro r mem
    simp only [regs, Bool.false_eq_true, if_false, List.mem_append, List.mem_map, List.mem_filter, List.mem_cons, List.not_mem_nil,
      decide_eq_true_eq, Reg.v.injEq, reduceCtorEq, and_false, exists_false, or_false] at mem
    obtain ⟨x, ⟨-, small⟩, rfl⟩ := mem
    exact small
  have values : Group.SameRow g n g1 := List.foldlRecOn regs row ⟨rfl, rfl⟩ fun k same r mem => by
    cases r with
    | v r => exact same.setV (Nat.ne_of_gt (Nat.lt_of_lt_of_le (below r mem) above)) m _
    | _ => exact same
  have zeros : Group.SameRow g n g2 := List.foldlRecOn _ _ values fun k same r mem => by
    have small : r < g.vlim := by
      rw [← values.2]
      exact Nat.lt_of_lt_of_le (List.mem_range.1 (List.mem_filter.1 mem).1) (Nat.min_le_right ..)
    exact same.setV (Nat.ne_of_gt (Nat.lt_of_lt_of_le small above)) m _
  have preds : Group.SameRow g n g3 := List.foldlRecOn _ _ zeros fun k same r _ => same.setP r m _
  have masks : Group.SameRow g n g4 := List.foldlRecOn _ _ preds fun k same r _ => same
  clear_value g4
  exact masks.1

end Sys2Proof.Laws
end

section
/-! The obligation about spans and forms, from a lowering into a group with fewer registers than the span. -/

namespace Sys2Proof.Laws
open Sys2Proof Sys2Proof.Machine

/-- A group that gave back V8 to V15 with RSHRINK: VLIM is 8, and from V8 on stands its divergence stack (R162, R169). -/
def shrunkGroup : Group :=
  { team := 2, grid := 1, gid := 0, v := [(8, rowOf 0)], o := [], z := [], s := [], p := [], j := [], h := [], fmt := [], vallot := 16, reserve := 8,
    slim := 16, divdepth := 16, depth := 0, fpctl := 0, fpstat := 0, gctl := 0, rowprog := 0, trapcode := 0, trapaddr := 0,
    lanes := List.replicate 64 Lane.none, gang := 1, stamps := [], uid := 3 }

/-- A span of the same team that has kept its 16 V registers; V8 is 5 in every item. -/
def unshrunkSpan : Span :=
  { uid := 40, grid := 1, team := some 2, first := 0, last := 63, pc := 0x1000, v := [(8, Form.u 5)], o := [], z := [], p := [], s := [], j := [],
    vlim := 16, slim := 16, gctl := 0, fpctl := 0, fpstat := 0, fmt := [], rowprog := 0, block := .free, readyAt := 0, stamps := [] }

/-- Refutes O17: a lowering is to give every V register below the span's VLIM the span's value, also in a group that exists and has given some
back. There V8 stays 0, where the span holds 5. -/
theorem not_spansAndForms : ¬ Obligations.SpansAndForms := by
  unfold Obligations.SpansAndForms
  intro ⟨_, _, _, _, _, _, _, lowered, _, _⟩
  have taken := (lowered shrunkGroup unshrunkSpan 0 1 0 8 false (by decide) (by decide) (by decide)).1 (by decide)
  rw [Group.words, Group.takeItems_rowV_of_vlim_le (by decide)] at taken
  exact absurd taken (by decide)

end Sys2Proof.Laws
end

section
/-! SUPPORT. Lanes in turn when each ends in one way, and the return stack of a lane (spec/08_group.md R158, R159, spec/05_context.md R108). -/

namespace Sys2Proof.Laws
open Sys2Proof Sys2Proof.Machine

/-! ### Lanes in turn -/

theorem lanesOf_pow {l : Nat} (small : l < 64) : lanesOf (2 ^ l) = [l] := by
  have one : (List.range 64).count l = 1 := List.count_eq_one_of_mem List.nodup_range (List.mem_range.2 small)
  calc lanesOf (2 ^ l) = (List.range 64).filter (· == l) := List.filter_congr fun k _ => (inMask_pow l k).trans (decide_eq_decide.2 eq_comm)
    _ = [l] := by rw [List.filter_beq, one, List.replicate_one]

section forLanes
variable {s t : State} {act l : Nat} {f f' : State → Nat → State × LaneEnd}

/-- Only what the active lanes do matters. -/
theorem forLanes_congr (agree : ∀ s l, inMask act l = true → f s l = f' s l) : forLanes s act f = forLanes s act f' :=
  List.foldl_ext _ _ _ fun o l mem => by simp only [agree o.s l ((mem_lanesOf act l).1 mem).2]

theorem forLanes_pow_stay (small : l < 64) (one : f s l = (t, .stay)) : forLanes s (2 ^ l) f = { s := t, stays := 2 ^ l } := by
  simp only [forLanes, lanesOf_pow small, List.foldl_cons, List.foldl_nil, one, maskOr, Nat.lor_eq, Nat.zero_or]

theorem forLanes_pow_raised {code : TrapCode} {addr : Nat} {absent : Option AbsentAt} (small : l < 64)
    (one : f s l = (t, .raised code addr absent)) : forLanes s (2 ^ l) f = { s := t, raises := [{ lane := l, code, addr, absent }] } := by
  simp only [forLanes, lanesOf_pow small, List.foldl_cons, List.foldl_nil, one, List.nil_append]

/-- Active lanes that all trap leave the state as it is. -/
theorem forLanes_raised {code : TrapCode} {addr : Nat → Nat} (each : ∀ s l, inMask act l = true → f s l = (s, .raised code (addr l) none)) :
    forLanes s act f = { s, raises := (lanesOf act).map fun l => { lane := l, code, addr := addr l, absent := none } } := by
  suffices general : ∀ (ls : List Nat) (o : Out),
      ls.foldl (fun o l => ({ o with raises := o.raises ++ [{ lane := l, code, addr := addr l, absent := none }] } : Out)) o
        = { o with raises := o.raises ++ ls.map fun l => { lane := l, code, addr := addr l, absent := none } } from
    (forLanes_congr each).trans (general (lanesOf act) { s })
  intro ls
  induction ls with
  | nil => intro o; simp
  | cons l ls ih => intro o; rw [List.foldl_cons, ih]; simp

/-- Lanes that all complete end in the state that they make in turn. -/
theorem forLanes_made {α : Type} {g : State → Nat → Made α} {xs : List (Nat × α)}
    (each : ∀ s l a t, inMask act l = true → g s l = .done a t → f s l = (t, .ok)) (made : lanesMade g s (lanesOf act) = some (t, xs)) :
    forLanes s act f = { s := t } := by
  suffices general : ∀ (ls : List Nat) (o : Out) (xs : List (Nat × α)), (∀ l ∈ ls, inMask act l = true) → lanesMade g o.s ls = some (t, xs) →
      ls.foldl (fun o l =>
        let r := f o.s l
        match r.2 with
        | .ok => { o with s := r.1 }
        | .stay => { o with s := r.1, stays := maskOr o.stays (2 ^ l) }
        | .raised code addr absent => { o with s := r.1, raises := o.raises ++ [{ lane := l, code, addr, absent }] }
        | .waits => { o with s := r.1, waits := maskOr o.waits (2 ^ l) }) o = { o with s := t } from
    general (lanesOf act) { s } xs (fun l mem => ((mem_lanesOf act l).1 mem).2) made
  intro ls
  induction ls with
  | nil => intro o xs _ made; cases made; rfl
  | cons l ls ih =>
    intro o xs active made
    rw [lanesMade] at made
    split at made
    next a s' one =>
      obtain ⟨rest, tail, eq⟩ := Option.map_eq_some_iff.1 made
      cases eq
      rw [List.foldl_cons]
      simp only [each o.s l a s' (active l List.mem_cons_self) one]
      exact ih { o with s := s' } rest.2 (fun k mem => active k (List.mem_cons_of_mem l mem)) tail
    next => cases made

end forLanes

/-! ### Lanes of a group changed twice -/

theorem updLanes_updLanes (g : Group) (m : Nat) (f f' : Nat → Lane → Lane) :
    (g.updLanes m f).updLanes m f' = g.updLanes m fun l x => f' l (f l x) := by
  simp only [Group.updLanes]
  congr 1
  refine List.ext_getElem? fun i => ?_
  simp only [getElem?_mapFrom, Option.map_map]
  congr 1
  funext x
  simp only [Function.comp_apply]
  split <;> rfl

/-- A change of one lane depends on that lane alone. -/
theorem updLanes_pow (g : Group) (l : Nat) (f : Nat → Lane → Lane) : g.updLanes (2 ^ l) f = g.updLanes (2 ^ l) fun _ x => f l x :=
  Group.updLanes_congr g _ fun k x own => by
    rw [inMask_pow, decide_eq_true_eq] at own
    rw [own]

theorem jump_pow (s : State) (uid l : Nat) (target : Nat → BitVec 49) : s.jump uid (2 ^ l) target = s.goTo uid l (target l) := by
  simp only [State.jump, State.goTo, updLanes_pow _ l]

/-! ### Targets -/

theorem badTarget_false {t : Nat} (small : t < 2 ^ 49) (aligned : t % 4 = 0) : badTarget t = false := by
  simp only [badTarget, Nat.not_le.2 small, aligned, decide_false, bne_self_eq_false, Bool.or_self]

theorem badTarget_true {t : Nat} (bad : 2 ^ 49 ≤ t ∨ t % 4 ≠ 0) : badTarget t = true := by
  simpa [badTarget] using bad

/-! ### The return stack of a lane -/

section stack
variable {s t u v : State} {e : Env} {l c : Nat} {x : DWord} {bs fr : List Byte}

/-- The entries that a lane holds become those of a list. -/
def setStack (s : State) (e : Env) (l : Nat) (st : List DWord) : State :=
  s.updGroup e.g.uid fun g => g.updLanes (2 ^ l) fun _ k => { k with rstack := st }

theorem push_room (room : (e.g.lane l).rstack.length < 8) : s.push e l x = .done () (setStack s e l ((e.g.lane l).rstack ++ [x])) :=
  if_pos room

theorem push_spill (full : (e.g.lane l).rstack.length = 8) (count : s.localLoad e l 0 8 = .done bs t) (frames : leNat bs = c)
    (frame : t.localStore e l (64 * (c + 1)) ((e.g.lane l).rstack.flatMap fun y => le 8 y.toNat) = .done () u)
    (counted : u.localStore e l 0 (le 8 (c + 1)) = .done () v) : s.push e l x = .done () (setStack v e l [x]) := by
  subst frames
  simp only [State.push, full, Nat.lt_irrefl, if_false, count, frame, counted, setStack]

theorem pop_entry (top : (e.g.lane l).rstack.getLast? = some x) : s.pop e l = .done (some x) (setStack s e l (e.g.lane l).rstack.dropLast) := by
  simp only [State.pop, top, setStack]

/-- The entries of a frame. -/
def frameEntries (fr : List Byte) : List DWord := (List.range 8).map fun k => BitVec.ofNat 64 (leNat ((fr.drop (8 * k)).take 8))

theorem frameEntries_getLast? (fr : List Byte) : (frameEntries fr).getLast? = some ((frameEntries fr).getD 7 0) := rfl

theorem frameEntries_dropLast (fr : List Byte) : (frameEntries fr).dropLast = (frameEntries fr).take 7 := rfl

theorem pop_fill (empty : (e.g.lane l).rstack = []) (count : s.localLoad e l 0 8 = .done bs t) (frames : leNat bs = c) (some_frame : 0 < c)
    (frame : t.localLoad e l (64 * c) 64 = .done fr u) (counted : u.localStore e l 0 (le 8 (c - 1)) = .done () v) :
    s.pop e l = .done (some ((frameEntries fr).getD 7 0)) (setStack v e l ((frameEntries fr).take 7)) := by
  subst frames
  rw [← frameEntries_getLast?, ← frameEntries_dropLast]
  simp only [State.pop, empty, List.getLast?_nil, count, beq_iff_eq, some_frame.ne', if_false, frame, counted, setStack, frameEntries]

end stack

/-! ### Calls and returns of a lane -/

section transfer
variable {s t : State} {e : Env} {l bytes : Nat} {x : DWord} {pc : BitVec 49}

theorem callLane_pushed (pushed : s.push e l (BitVec.ofNat 64 (e.nextPc l bytes).toNat) = .done () t) :
    callLane bytes e s l pc = (t.goTo e.g.uid l pc, .stay) := by
  simp only [callLane, pushed]

/-- R158: what RET does for a lane. -/
def retLane (e : Env) (s : State) (l : Nat) : State × LaneEnd :=
  match s.pop e l with
  | .done (some x) t =>
    let pc := x.toNat % 2 ^ 49
    if badTarget pc then (s, .raised .misaligned pc none)
    else
      let t := if bitOf x.toNat 63 then t.updGroup e.g.uid fun g => g.leaveHandler (2 ^ l) else t
      (t.goTo e.g.uid l (BitVec.ofNat 49 pc), .stay)
  | .done none s => (s, .raised .retUnderflow (e.pc l).toNat none)
  | .fail c x p s => (s, .raised c x p)
  | .wait s => (s, .waits)

theorem exec_ret (h : Hdr) (s : State) : exec (.ret h) s = issue (.ret h) .lower (fun s e act => forLanes s act (retLane e)) s := rfl

theorem bitOf_mark (x : DWord) : bitOf x.toNat 63 = x.getLsbD 63 := bitOf_testBit ..

theorem ofNat_returnPc (x : DWord) : BitVec.ofNat 49 (x.toNat % 2 ^ 49) = BitVec.ofNat 49 x.toNat := by
  apply BitVec.eq_of_toNat_eq
  simp

theorem retLane_popped (popped : s.pop e l = .done (some x) t) (aligned : x.toNat % 4 = 0) :
    retLane e s l = ((if x.getLsbD 63 then t.updGroup e.g.uid fun g => g.leaveHandler (2 ^ l) else t).goTo e.g.uid l (BitVec.ofNat 49 x.toNat),
      .stay) := by
  have good : badTarget (x.toNat % 2 ^ 49) = false := badTarget_false (by omega) (by omega)
  simp only [retLane, popped, good, Bool.false_eq_true, if_false, bitOf_mark, ofNat_returnPc]

theorem retLane_misaligned (popped : s.pop e l = .done (some x) t) (misaligned : x.toNat % 4 ≠ 0) :
    retLane e s l = (s, .raised .misaligned (x.toNat % 2 ^ 49) none) := by
  have bad : badTarget (x.toNat % 2 ^ 49) = true := badTarget_true (by omega)
  simp only [retLane, popped, bad, if_true]

theorem retLane_underflow (popped : s.pop e l = .done none t) : retLane e s l = (t, .raised .retUnderflow (e.pc l).toNat none) := by
  simp only [retLane, popped]

end transfer

end Sys2Proof.Laws
end

section
/-! The obligation about branches, calls and returns, from the equations above. -/

namespace Sys2Proof.Laws
open Sys2Proof Sys2Proof.Machine

/-- Active lanes that go where their registers say, each past the check of its target. -/
theorem forLanes_targets {s : State} {act : Nat} {f : State → Nat → State × LaneEnd} {target : Nat → Nat}
    (good : ∀ l, inMask act l = true → target l < 2 ^ 49 ∧ target l % 4 = 0) :
    (forLanes s act fun s l => if badTarget (target l) then (s, .raised .misaligned (target l) none) else f s l) = forLanes s act f :=
  forLanes_congr fun s l active => by
    obtain ⟨small, aligned⟩ := good l active
    simp only [badTarget_false small aligned, Bool.false_eq_true, if_false]

/-- Active lanes whose registers all hold bad targets trap. -/
theorem forLanes_bad_targets {s : State} {act : Nat} {f : State → Nat → State × LaneEnd} {target : Nat → Nat}
    (bad : ∀ l, inMask act l = true → 2 ^ 49 ≤ target l ∨ target l % 4 ≠ 0) :
    (forLanes s act fun s l => if badTarget (target l) then (s, .raised .misaligned (target l) none) else f s l)
      = { s, raises := (lanesOf act).map fun l => { lane := l, code := .misaligned, addr := target l, absent := none } } :=
  forLanes_raised fun s l active => by simp only [badTarget_true (bad l active), if_true]

theorem forLanes_goTo {s : State} {act : Nat} (lanes : LaneSet act) (uid : Nat) (target : Nat → BitVec 49) :
    (forLanes s act fun s l => (s.goTo uid l (target l), .stay)) = { s := s.jump uid act target, stays := act } :=
  forLanes_stay s uid lanes fun l x => { x with pc := target l }

/-- The lanes' entries change and they go to their targets. -/
theorem forLanes_restack {s : State} {e : Env} {act : Nat} {f : State → Nat → State × LaneEnd} (lanes : LaneSet act)
    {stack : Nat → List DWord} {target : Nat → BitVec 49}
    (each : ∀ s l, inMask act l = true → f s l = ((setStack s e l (stack l)).goTo e.g.uid l (target l), .stay)) :
    forLanes s act f =
      { s := s.updGroup e.g.uid fun g => g.updLanes act fun l x => { x with rstack := stack l, pc := target l }, stays := act } := by
  rw [forLanes_congr each, ← forLanes_stay s e.g.uid lanes]
  simp only [setStack, State.goTo, State.updGroup_updGroup, updLanes_updLanes]

theorem forLanes_calls {s : State} {e : Env} {act : Nat} (bytes : Nat) (target : Nat → BitVec 49) (lanes : LaneSet act)
    (room : ∀ l, inMask act l = true → (e.g.lane l).rstack.length < 8) :
    (forLanes s act fun s l => callLane bytes e s l (target l)) =
      { s := s.updGroup e.g.uid fun g => g.updLanes act fun l x =>
          { x with rstack := (e.g.lane l).rstack ++ [BitVec.ofNat 64 (e.nextPc l bytes).toNat], pc := target l }
        stays := act } :=
  forLanes_restack lanes fun _ l active => callLane_pushed (push_room (room l active))

theorem forLanes_pow_call {s t : State} {e : Env} {l : Nat} (bytes : Nat) (target : Nat → BitVec 49) (small : l < 64)
    (pushed : s.push e l (BitVec.ofNat 64 (e.nextPc l bytes).toNat) = .done () t) :
    (forLanes s (2 ^ l) fun s l => callLane bytes e s l (target l)) = { s := t.jump e.g.uid (2 ^ l) target, stays := 2 ^ l } := by
  rw [jump_pow]
  exact forLanes_pow_stay small (callLane_pushed pushed)

/-- Settles O19: each clause is what the lanes do in turn; a push or a pop of a lane is one of its ways. -/
theorem transfers : Obligations.Transfers := by
  unfold Obligations.Transfers
  refine ⟨fun h off a => ⟨does_of_issues (fun _ => rfl) ?bra, does_of_issues (fun _ => rfl) ?brx, does_of_issues (fun _ => rfl) ?call,
      does_of_issues (fun _ => rfl) ?callx, fun top => does_of_issues (exec_ret h) ?ret⟩,
    fun s t u v e l c x bs fr count frames => ⟨fun full => push_spill full count frames, fun empty => pop_fill empty count frames⟩,
    fun h off a l top t => ⟨does_of_issue (fun _ => rfl) ?callOne, does_of_issue (fun _ => rfl) ?callxOne, ?bad,
      does_of_issue (exec_ret h) ?fill, does_of_issue (exec_ret h) ?leave, does_of_issue (exec_ret h) ?misaligned,
      does_of_issue (exec_ret h) ?underflow⟩⟩
  case bra => exact fun s lanes pc next e0 e _ _ => forLanes_goTo (laneSet_act e0 h lanes) _ _
  case brx =>
    intro s lanes pc next e0 e _ good
    exact (forLanes_targets good).trans (forLanes_goTo (laneSet_act e0 h lanes) _ _)
  case call => exact fun s lanes pc next e0 e _ room => forLanes_calls 12 _ (laneSet_act e0 h lanes) room
  case callx =>
    intro s lanes pc next e0 e _ holds
    exact (forLanes_targets fun l active => (holds l active).2).trans
      (forLanes_calls 8 _ (laneSet_act e0 h lanes) fun l active => (holds l active).1)
  case ret =>
    intro s lanes pc next e0 e _ holds
    refine forLanes_restack (laneSet_act e0 h lanes) fun s l active => ?_
    obtain ⟨last, unmarked, aligned⟩ := holds l active
    simp only [retLane_popped (pop_entry last) aligned, unmarked, Bool.false_eq_true, if_false]
  case callOne =>
    rintro e act ⟨rfl, small, pushed⟩
    exact forLanes_pow_call 12 _ small pushed
  case callxOne =>
    rintro e act ⟨rfl, small, low, aligned, pushed⟩
    refine (forLanes_targets fun k own => ?_).trans (forLanes_pow_call 8 _ small pushed)
    rw [inMask_pow, decide_eq_true_eq] at own
    exact own ▸ ⟨low, aligned⟩
  case bad =>
    rintro i (rfl | rfl)
    all_goals exact does_of_issue (fun _ => rfl) fun e act bad => forLanes_bad_targets bad
  case fill =>
    rintro e act ⟨rfl, small, -, popped, unmarked, aligned⟩
    rw [jump_pow]
    refine forLanes_pow_stay small ?_
    simp only [retLane_popped popped aligned, unmarked, Bool.false_eq_true, if_false]
  case leave =>
    rintro e act ⟨rfl, small, last, marked, aligned⟩
    refine forLanes_pow_stay small ?_
    simp only [retLane_popped (pop_entry last) aligned, marked, if_true, setStack, State.goTo, State.updGroup_updGroup]
  case misaligned =>
    rintro e act ⟨rfl, small, last, misaligned⟩
    exact forLanes_pow_raised small (retLane_misaligned (pop_entry last) misaligned)
  case underflow =>
    rintro e act ⟨rfl, small, popped⟩
    rw [Env.raiseAll, lanesOf_pow small]
    exact forLanes_pow_raised small (retLane_underflow popped)

end Sys2Proof.Laws
end

section
/-! The obligation about YIELD, MONW and MWAIT (spec/08_group.md R165 to R167). -/

namespace Sys2Proof.Laws
open Sys2Proof Sys2Proof.Machine

/-- Settles O21: MONW lets its lanes pass their checks in turn; YIELD and MWAIT treat them all at once. -/
theorem waiting : Obligations.Waiting := by
  unfold Obligations.Waiting
  refine fun h d a t xs => ⟨does_of_issue (fun _ => rfl) ?yield, does_of_issue (fun _ => rfl) ?monw,
    fun r dest => does_of_issue (fun _ => rfl) ?mwait⟩
  case yield =>
    intro e act _
    simp only [onceBody, fld_zero, beq_iff_eq]
  case monw =>
    rintro e act ⟨low, made⟩
    refine forLanes_made (fun s l _ u active one => ?_) made
    simp only [Nat.not_le.2 (low l active), if_false]
    split at one
    next passed => cases one; simp only [passed]
    next => cases one
  case mwait =>
    intro e act _
    simp only [dest, beq_iff_eq]

end Sys2Proof.Laws
end

section
/-! The obligation about RGNLD, RSHRINK and RGROW (spec/08_group.md R168, R169). -/

namespace Sys2Proof.Laws
open Sys2Proof Sys2Proof.Machine

/-- R105: what is released is released without a fill; with nothing absent nothing is dropped. -/
theorem updCtx_filter_absent {s : State} (present : ∀ c ∈ s.contexts, c.2.absent = []) (ctx : Nat) (p : Absent → Bool) :
    (s.updCtx ctx fun c => { c with absent := c.absent.filter p }) = s := by
  unfold State.updCtx Tab.upd
  cases found : Tab.get? s.contexts ctx with
  | none => rfl
  | some c =>
    have kept : { c with absent := c.absent.filter p } = c := by
      rw [present _ (Tab.mem_of_get? found), List.filter_nil, ← present _ (Tab.mem_of_get? found)]
    simp only [kept, Tab.set_get? _ _ _ found]

/-- R169: a result that is under way to a register that RSHRINK releases. -/
def Env.owesAbove (e : Env) (v k : Nat) : Bool :=
  e.flights.any fun f => f.2.regs.any fun r => match r.1 with
    | .v n => decide (e.g.vlim - 8 * v ≤ n)
    | .s n => decide (e.g.slim - 16 * k ≤ n)
    | _ => false

theorem Env.owesAbove_false {e : Env} {v k : Nat} (landed : ∀ f ∈ e.flights, ∀ r ∈ f.2.regs,
    (∀ n, r.1 = .v n → n < e.g.vlim - 8 * v) ∧ ∀ n, r.1 = .s n → n < e.g.slim - 16 * k) : Env.owesAbove e v k = false := by
  refine List.any_eq_false.2 fun f flight => Bool.not_eq_true _ ▸ List.any_eq_false.2 fun r reg => ?_
  obtain ⟨below, belowS⟩ := landed f flight r reg
  split
  next n isV => rw [decide_eq_true_eq]; exact Nat.not_le.2 (below n isV)
  next n isS => rw [decide_eq_true_eq]; exact Nat.not_le.2 (belowS n isS)
  next => exact Bool.false_ne_true

/-- Settles O22: each instruction by whether its sizes keep to the limits; all units are present. -/
theorem allotment : Obligations.Allotment := by
  unfold Obligations.Allotment
  refine fun h base mask offs a k => ⟨does_of_issue (fun _ => rfl) fun _ _ _ => rfl, does_of_issues (fun _ => rfl) ?shrinks,
    does_of_issue (fun _ => rfl) ?tooSmall, does_of_issues (fun _ => rfl) ?grows, does_of_issue (fun _ => rfl) ?tooLarge⟩
  case shrinks =>
    intro s lanes pc next e0 e issues ⟨keepsV, keepsS, landed⟩
    have fits : ¬(decide (e.g.vlim < 8 * e.w32 (lowLane (e0.act h lanes)) a + 8) || decide (e.g.slim < 16 * k.toNat + 16)) = true := by
      rw [Bool.or_eq_true, decide_eq_true_eq, decide_eq_true_eq]
      omega
    refine (if_neg fits).trans ((if_neg (Bool.eq_false_iff.1 (Env.owesAbove_false landed))).trans ?_)
    rw [withUnits_present (issues_present issues), updCtx_filter_absent]
    exact issues_present issues
  case tooSmall =>
    intro e act small
    simp only [Bool.or_eq_true, decide_eq_true_eq, small, if_true]
  case grows =>
    intro s lanes pc next e0 e issues ⟨fitsV, fitsS⟩
    have fits : ¬(640 < e.g.vallot + 8 * e.w32 (lowLane (e0.act h lanes)) a ∨ 256 < e.g.slim + 16 * k.toNat) := by omega
    simp only [Bool.or_eq_true, decide_eq_true_eq, fits, if_false, withUnits_present (issues_present issues), beq_iff_eq]
    rfl
  case tooLarge =>
    intro e act large
    simp only [Bool.or_eq_true, decide_eq_true_eq, large, if_true]

end Sys2Proof.Laws
end

section
/-! SUPPORT. The frame of an instruction that changes its own group alone (spec/08_group.md R158 to R165): what each change of a group keeps. -/

namespace Sys2Proof.Laws
open Sys2Proof Sys2Proof.Machine

/-- The group `k` is the group `g`, changed in the lanes of a mask and in the registers that `wr` names. -/
structure Group.Frame (lanes : Nat) (wr : Reg → Prop) (g k : Group) : Prop where
  keeps : g.Keeps k wr
  lanes : ∀ l, inMask lanes l = false → k.lane l = g.lane l
  vlim : k.vlim = g.vlim

section frame
variable {lanes : Nat} {wr : Reg → Prop} {g k : Group}

theorem Group.Frame.refl (lanes : Nat) (wr : Reg → Prop) (g : Group) : Group.Frame lanes wr g g :=
  ⟨⟨fun _ _ => rfl, fun _ _ => rfl, fun _ _ => rfl, ⟨rfl, rfl, rfl, rfl⟩, ⟨rfl, rfl⟩, ⟨rfl, rfl, rfl, rfl⟩⟩, fun _ _ => rfl, rfl⟩

theorem lane_updLanes_of_not (g : Group) {m l : Nat} (f : Nat → Lane → Lane) (out : inMask m l = false) : (g.updLanes m f).lane l = g.lane l := by
  simp only [Group.lane, Group.updLanes, List.getD_eq_getElem?_getD, getElem?_mapFrom, Nat.zero_add]
  cases g.lanes[l]? <;> simp [out]

theorem Group.Frame.updLanes (frame : Group.Frame lanes wr g k) {m : Nat} (inside : ∀ l, inMask m l = true → inMask lanes l = true)
    (f : Nat → Lane → Lane) : Group.Frame lanes wr g (k.updLanes m f) := by
  obtain ⟨⟨words, masks, handles, specials, traps, sizes⟩, same, vlim⟩ := frame
  refine ⟨⟨fun r => by cases r <;> exact words _, masks, handles, specials, traps, sizes⟩, fun l out => ?_, vlim⟩
  have notIn : inMask m l = false := Bool.eq_false_iff.2 fun mem => Bool.false_ne_true (out.symm.trans (inside l mem))
  rw [lane_updLanes_of_not k f notIn, same l out]

theorem Group.Frame.setJ (frame : Group.Frame lanes wr g k) {n : Nat} (writes : wr (.j n)) (m : Nat) : Group.Frame lanes wr g (k.setJ n m) := by
  obtain ⟨⟨words, masks, handles, specials, traps, sizes⟩, same, vlim⟩ := frame
  refine ⟨⟨fun r => by cases r <;> exact words _, fun i kept => ?_, handles, specials, traps, sizes⟩, same, vlim⟩
  have other : i ≠ n := fun eq => kept (eq ▸ writes)
  exact (Tab.get_set_ne k.j m 0 other).trans (masks i kept)

theorem Group.Frame.setV (frame : Group.Frame lanes wr g k) {n : Nat} (writes : wr (.v n)) (m : Nat) (f : Nat → Word) :
    Group.Frame lanes wr g (k.setV n m f) := by
  obtain ⟨⟨words, masks, handles, specials, traps, sizes⟩, same, vlim⟩ := frame
  refine ⟨⟨fun r kept => ?_, masks, handles, specials, traps, sizes⟩, same, vlim⟩
  rw [← words r kept]
  cases r with
  | v i =>
    have other : i ≠ n := fun eq => kept (eq ▸ writes)
    exact Tab.get_set_ne k.v _ _ other
  | _ => rfl

/-- R162: the depth of the divergence stack is no register. -/
theorem Group.Frame.setDepth (frame : Group.Frame lanes wr g k) (d : Nat) : Group.Frame lanes wr g { k with depth := d } := by
  obtain ⟨⟨words, masks, handles, specials, traps, sizes⟩, same, vlim⟩ := frame
  exact ⟨⟨fun r => by cases r <;> exact words _, masks, handles, specials, traps, sizes⟩, same, vlim⟩

/-- R145: nor are the arrivals of spans at a set of lanes. -/
theorem Group.Frame.newJ (frame : Group.Frame lanes wr g k) {n : Nat} (writes : wr (.j n)) (m : Nat) : Group.Frame lanes wr g (k.newJ n m) := by
  obtain ⟨⟨words, masks, handles, specials, traps, sizes⟩, same, vlim⟩ := frame.setJ writes m
  exact ⟨⟨fun r => by cases r <;> exact words _, masks, handles, specials, traps, sizes⟩, same, vlim⟩

/-! ### The divergence stack (R162, R163) -/

/-- The places of the divergence stack are among the registers that are written. -/
def WritesStack (g : Group) (wr : Reg → Prop) : Prop := ∀ n, g.vlim ≤ n → wr (.v n)

theorem WritesStack.divReg (stack : WritesStack g wr) (frame : Group.Frame lanes wr g k) (i : Nat) : wr (.v (k.divReg i)) :=
  stack _ (frame.vlim ▸ Nat.le_add_right ..)

theorem Group.Frame.brkPop (n : Nat) {k : Group} (frame : Group.Frame lanes wr g k) : Group.Frame lanes wr g (k.brkPop n) := by
  induction n generalizing k with
  | zero => exact frame
  | succ n ih =>
    rw [Group.brkPop]
    split
    · exact frame
    · split
      · exact ih (frame.setDepth _)
      · exact frame

theorem Group.Frame.brk (frame : Group.Frame lanes wr g k) {j : Nat} (writes : wr (.j j)) (stack : WritesStack g wr) (n m : Nat) :
    Group.Frame lanes wr g (k.brk j n m) := by
  unfold Group.brk
  refine Group.Frame.brkPop _ ?_
  exact List.foldlRecOn _ _ (frame.setJ writes _) fun k frame i _ => frame.setV (stack.divReg frame _) _ _

end frame

/-! ### From the group to the state -/

theorem lanes_of_act {e : Env} {h : Hdr} {lanes l : Nat} (active : inMask (e.act h lanes) l = true) : inMask lanes l = true := by
  simp only [Env.act, inMask_maskDiff, inMask_laneMask, Bool.and_eq_true] at active
  obtain ⟨-, ⟨-, issued, -⟩, -⟩ := active
  exact issued

section state
variable {s : State} {i : Instr} {h : Hdr} {lanes : Nat} {pc next : BitVec 49} {e0 e : Env} {wr : Reg → Prop}

/-- The state that an effect sees is that of the issue. -/
theorem issues_st (issues : Issues s i h lanes pc next e0 e) : e.st = s.atIssue e0 h lanes := (env?_eq_some issues.after).1

/-- An issue marks the group that it goes to. -/
theorem atIssue_get? (issues : Issues s i h lanes pc next e0 e) : Tab.get? (s.atIssue e0 h lanes).groups e0.g.uid =
    some (e0.g.mark lanes (e0.c.now + e0.c.passes + h.stall.toNat) (h.y && !h.never)) := by
  have before : Tab.get? s.groups e0.g.uid = some e0.g := (env?_eq_some issues.before).2.1
  calc Tab.get? (s.atIssue e0 h lanes).groups e0.g.uid
      = (Tab.get? s.groups e0.g.uid).map fun g => g.mark lanes (e0.c.now + e0.c.passes + h.stall.toNat) (h.y && !h.never) := Tab.get?_upd_same ..
    _ = _ := by rw [before, Option.map_some]

/-- The group that an effect sees is the one that issued, with the marks of the issue. -/
theorem issues_g (issues : Issues s i h lanes pc next e0 e) :
    e.g = e0.g.mark lanes (e0.c.now + e0.c.passes + h.stall.toNat) (h.y && !h.never) :=
  Option.some.inj ((env?_eq_some issues.after).2.1.symm.trans (atIssue_get? issues))

theorem issues_uid (issues : Issues s i h lanes pc next e0 e) : e.g.uid = e0.g.uid := by
  rw [issues_g issues, Group.mark_uid]

/-- What follows an effect in which no lane traps or waits: lanes go on. -/
def Group.goOn (g : Group) (lanes stays : Nat) (next : BitVec 49) : Group :=
  (g.advance (maskDiff lanes (maskOr (maskOr (raiseMask []) 0) stays)) next).updLanes 0 fun _ x => { x with block := .retry }

theorem Group.Frame.goOn {g k : Group} (frame : Group.Frame lanes wr g k) (stays : Nat) (next : BitVec 49) :
    Group.Frame lanes wr g (Group.goOn k lanes stays next) := by
  refine (frame.updLanes (fun l moved => ?_) _).updLanes (fun l waits => ?_) _
  · rw [inMask_maskDiff, Bool.and_eq_true, Bool.and_eq_true] at moved
    obtain ⟨-, issued, -⟩ := moved
    exact issued
  · rw [inMask_zero] at waits
    cases waits

/-- The state after an effect that changes its own group alone, and in it what is not as it was before the issue. -/
theorem ends_of_updGroup (issues : Issues s i h lanes pc next e0 e) (stays : Nat) (f : Group → Group) :
    ({ s := e.st.updGroup e.g.uid f, stays } : Out).ends e0 lanes pc next = .next { s with
      groups := Tab.upd (Tab.upd (s.atIssue e0 h lanes).groups e0.g.uid f) e0.g.uid fun g => Group.goOn g lanes stays next
      flights := (s.atIssue e0 h lanes).flights, free := s.free + 1, cur := none } := by
  rw [issues_st issues, issues_uid issues]
  rfl

/-- An effect that changes its own group alone, within the frame, keeps everything else. -/
theorem keeps_of_updGroup (issues : Issues s i h lanes pc next e0 e) (stays : Nat) {f : Group → Group}
    (frame : ∀ k, Group.Frame lanes wr e0.g k → Group.Frame lanes wr e0.g (f k)) :
    ∃ t, ({ s := e.st.updGroup e.g.uid f, stays } : Out).ends e0 lanes pc next = .next t ∧ s.Keeps t e0.g.uid lanes wr := by
  refine ⟨_, ends_of_updGroup issues stays f, fun _ => rfl, fun u other => ?_, fun g found => ?_, rfl⟩
  · rw [Tab.get?_upd_ne _ _ other, Tab.get?_upd_ne _ _ other]
    exact Tab.get?_upd_ne _ _ other
  · have before : Tab.get? s.groups e0.g.uid = some e0.g := (env?_eq_some issues.before).2.1
    cases found.symm.trans before
    have marked : Group.Frame lanes wr e0.g (e0.g.mark lanes (e0.c.now + e0.c.passes + h.stall.toNat) (h.y && !h.never)) :=
      (Group.Frame.refl lanes wr e0.g).updLanes (fun _ mem => mem) _
    obtain ⟨keeps, same, -⟩ := (frame _ marked).goOn stays next
    refine ⟨_, ?_, keeps, same⟩
    rw [Tab.get?_upd_same, Tab.get?_upd_same, atIssue_get? issues, Option.map_some, Option.map_some]

/-- The frame of an instruction whose effect changes its own group alone. -/
theorem keeps_of_does {ok : Env → Nat → Prop} {f : Env → Nat → Group → Group} {stays : Nat → Nat}
    (does : Does i h ok fun e act => { s := e.st.updGroup e.g.uid (f e act), stays := stays act })
    (issues : Issues s i h lanes pc next e0 e) (holds : ok e (e0.act h lanes))
    (frame : ∀ k, Group.Frame lanes wr e0.g k → Group.Frame lanes wr e0.g (f e (e0.act h lanes) k)) :
    ∃ t, exec i s = .next t ∧ s.Keeps t e0.g.uid lanes wr := by
  rw [does s lanes pc next e0 e issues holds]
  exact keeps_of_updGroup issues _ frame

end state
end Sys2Proof.Laws
end

section
/-! The obligation about the frame of the control instructions, from what each of them does to its group. -/

namespace Sys2Proof.Laws
open Sys2Proof Sys2Proof.Machine

section control
variable {s : State} {h : Hdr} {lanes : Nat} {pc next : BitVec 49} {e0 e : Env} {i : Instr} {wr : Reg → Prop}

/-- The frame of an instruction that changes its active lanes alone. -/
theorem keeps_of_does_updLanes {ok : Env → Nat → Prop} {f : Env → Nat → Nat → Lane → Lane} {stays : Nat → Nat}
    (does : Does i h ok fun e act => { s := e.st.updGroup e.g.uid fun g => g.updLanes act (f e act), stays := stays act })
    (issues : Issues s i h lanes pc next e0 e) (holds : ok e (e0.act h lanes)) :
    ∃ t, exec i s = .next t ∧ s.Keeps t e0.g.uid lanes wr :=
  keeps_of_does does issues holds fun _ frame => frame.updLanes (fun _ => lanes_of_act) _

/-- The frame of an instruction that leaves its group as it is. -/
theorem keeps_of_does_nothing (does : Does i h always fun e _ => { s := e.st }) (issues : Issues s i h lanes pc next e0 e) :
    ∃ t, exec i s = .next t ∧ s.Keeps t e0.g.uid lanes wr := by
  refine keeps_of_does (f := fun _ _ => id) (stays := fun _ => 0) (ok := always) ?_ issues trivial fun _ frame => frame
  simp only [State.updGroup_id _ _ fun g => id_eq g]
  exact does

end control

/-- GSYNC of a group nothing of which waits to be performed at TEAM scope. -/
theorem does_gsync_performed (h : Hdr) : Does (.gsync h) h (fun e _ => e.st.drainTeam e.g.uid = (e.st, true)) fun e act =>
    { s := e.st.updGroup e.g.uid fun g => g.updLanes act fun _ x => { x with block := .gsync }, stays := act } :=
  does_of_issue (fun _ => rfl) fun e act performed => by simp only [performed]; rfl

/-- R163: BRK changes its masks and moves its lanes at once. -/
theorem does_brk (h : Hdr) (off : BitVec 32) (j n1 : BitVec 4) : Does (.brk h off j n1) h always fun e act =>
    { s := e.st.updGroup e.g.uid fun g => (g.brk j.toNat n1.toNat act).updLanes act fun l x => { x with pc := relTarget (e.pc l) off }
      stays := act } := by
  obtain ⟨-, -, -, -, -, -, brk⟩ := rejoinMasks h j n1 off false State.reset
  simpa only [State.jump, State.updGroup_updGroup, relTarget] using brk

/-- Settles O11: each instruction changes its own group alone; what it does there is what O19, O20 and O21 say of it. -/
theorem controlFrame : Obligations.ControlFrame := by
  unfold Obligations.ControlFrame
  intro s i h lanes pc next e0 e wr issues control room performed
  have hdr := issues.hdr
  cases i <;> cases control
  all_goals obtain rfl := Option.some.inj hdr
  case nop => exact keeps_of_does_nothing (does_of_issue (fun _ => rfl) fun _ _ _ => rfl) issues
  case spmat => exact keeps_of_does_nothing (does_of_issue (fun _ => rfl) fun _ _ _ => rfl) issues
  case bra off =>
    obtain ⟨does, -⟩ := transfers.1 _ off (.imm 0)
    exact keeps_of_does_updLanes does issues trivial
  case yield a =>
    obtain ⟨does, -⟩ := waiting _ a a s []
    exact keeps_of_does_updLanes (stays := fun _ => 0) does issues trivial
  case rjoin j => exact keeps_of_does_updLanes (ok := always) (does_of_issue (fun _ => rfl) fun _ _ _ => rfl) issues trivial
  case join j =>
    obtain ⟨-, does, -⟩ := rejoinMasks _ j 0 0 false s
    exact keeps_of_does_updLanes does issues trivial
  case gsync => exact keeps_of_does_updLanes (does_gsync_performed _) issues (performed rfl)
  case jset j add =>
    obtain ⟨does, -⟩ := rejoinMasks _ j 0 0 add s
    refine keeps_of_does (stays := fun _ => 0) does issues trivial fun k frame => ?_
    cases add
    case false => exact frame.newJ rfl _
    case true => exact frame.setJ rfl _
  case jpush j =>
    obtain ⟨-, -, -, does, -⟩ := rejoinMasks _ j 0 0 false s
    have fits : e.g.depth ≠ e.g.divdepth := by
      rw [issues_g issues, Group.mark_depth, Group.mark_divdepth]
      exact room j rfl
    have stack : WritesStack e0.g fun r => ∃ n, e0.g.vlim ≤ n ∧ r = .v n := fun n above => ⟨n, above, rfl⟩
    exact keeps_of_does (stays := fun _ => 0) does issues fits fun k frame => (frame.setV (stack.divReg frame k.depth) _ _).setDepth _
  case jpop j =>
    obtain ⟨-, -, -, -, -, does, -⟩ := rejoinMasks _ j 0 0 false s
    refine keeps_of_does (stays := fun _ => 0) does issues trivial fun k frame => ?_
    dsimp only
    split
    · exact frame.newJ rfl _
    · exact (frame.newJ rfl _).setDepth _
  case brk off j n1 =>
    have stack : WritesStack e0.g fun r => r = .j j.toNat ∨ ∃ n, e0.g.vlim ≤ n ∧ r = .v n := fun n above => .inr ⟨n, above, rfl⟩
    exact keeps_of_does (does_brk _ off j n1) issues trivial fun k frame =>
      (frame.brk (.inl rfl) stack _ _).updLanes (fun _ => lanes_of_act) _

end Sys2Proof.Laws
end

section
/-! SUPPORT. Lanes in turn that all stay where they put themselves, and arrivals at a barrier from accesses that are performed
(spec/09_barrier.md R173, R179). -/

namespace Sys2Proof.Laws
open Sys2Proof Sys2Proof.Machine

/-- Active lanes that all stay leave the state that they make in turn. -/
theorem forLanes_all_stay (s : State) {act : Nat} (lanes : LaneSet act) (make : State → Nat → State) :
    forLanes s act (fun s l => (make s l, .stay)) = { s := (lanesOf act).foldl make s, stays := act } := by
  suffices general : ∀ (ls : List Nat) (o : Out),
      ls.foldl (fun o l => ({ o with s := make o.s l, stays := maskOr o.stays (2 ^ l) } : Out)) o
        = { o with s := ls.foldl make o.s, stays := ls.foldl (fun m l => maskOr m (2 ^ l)) o.stays } by
    refine (general (lanesOf act) { s }).trans ?_
    rw [foldl_maskOr lanes]
  intro ls
  induction ls with
  | nil => exact fun _ => rfl
  | cons l ls ih => exact fun o => ih _

/-- Arrivals of lanes in turn, as a fold over the lanes. -/
theorem foldl_arrive (uid team b : Nat) (ls : List Nat) (s : State) :
    ls.foldl (fun s l => (s.hold uid (2 ^ l) (.bar b (s.barOf team b).phase)).arrive team b 1) s = s.arriveLanes uid team b ls := by
  induction ls generalizing s with
  | nil => rfl
  | cons l ls ih => exact ih _

section performed
variable {s t : State} {e : Env} {act b : Nat} {scope : Scope}

/-- A release of accesses that are performed goes on at once. -/
theorem released_performed {f : State → Out} (performed : s.release e.g.uid scope = (t, true)) : released s e act scope f = f t := by
  simp only [released, performed]

/-- R173: after the release the active lanes arrive in turn, and all wait. -/
theorem arriveWait_performed (lanes : LaneSet act) (performed : s.release e.g.uid scope = (t, true)) :
    arriveWait s e b act scope = { s := t.arriveLanes e.g.uid e.t.uid b (lanesOf act), stays := act } := by
  rw [arriveWait, released_performed performed, ← foldl_arrive]
  exact forLanes_all_stay t lanes _

end performed

end Sys2Proof.Laws
end

section
/-! The obligation about the barriers, from the equations above. -/

namespace Sys2Proof.Laws
open Sys2Proof Sys2Proof.Machine

/-- R178: a grid with at most as many teams as can be resident may use GBAR. -/
theorem tooWide_eq_false {gr : Grid} (fits : gr.nteams ≤ gr.coresident) : gr.tooWide = false := decide_eq_false (Nat.not_lt.2 fits)

/-- Settles O26: each instruction by what R180 asks of its barrier's mode and count; an arrival starts where the group's accesses are
performed. -/
theorem barriers : Obligations.Barriers := by
  unfold Obligations.Barriers
  refine fun h b a t => ⟨does_of_issues (fun _ => rfl) ?bar, does_of_issue (fun _ => rfl) ?barBad, does_of_issue (fun _ => rfl) ?bara,
    does_of_issue (fun _ => rfl) ?baraBad, does_of_issue (fun _ => rfl) ?barw, does_of_issue (fun _ => rfl) ?barwBad,
    does_of_issue (fun _ => rfl) ?barinit, does_of_issue (fun _ => rfl) ?barinitBad, does_of_issues (fun _ => rfl) ?cbar,
    does_of_issue (fun _ => rfl) ?cbarBad, does_of_issues (fun _ => rfl) ?gbar, does_of_issue (fun _ => rfl) ?gbarBad⟩
  case bar =>
    intro s lanes pc next e0 e _ ⟨narrow, performed⟩
    exact (if_neg (Nat.not_le.2 narrow)).trans (arriveWait_performed (laneSet_act e0 h lanes) performed)
  case barBad => exact fun e act wide => if_pos wide
  case bara =>
    intro e act ⟨counts, performed⟩
    simp only [counts, bne_self_eq_false, Bool.false_eq_true, if_false]
    exact released_performed performed
  case baraBad =>
    intro e act other
    simp only [bne_iff_ne, ne_eq, other, not_false_eq_true, if_true]
  case barw =>
    intro e act narrow
    simp only [Nat.not_le.2 narrow, if_false, beq_iff_eq]
    rfl
  case barwBad => exact fun e act wide => if_pos wide
  case barinit =>
    intro e act ⟨idle, small, narrow⟩
    have fits : ¬((e.t.bar b.toNat).arrived ≠ 0 ∨ 2048 < e.w32 (lowLane act) a ∨ 2 ≤ (e.t.bar b.toNat).mode) := by omega
    simp only [bne_iff_ne, Bool.or_eq_true, decide_eq_true_eq, or_assoc, fits, if_false, beq_iff_eq]
    split <;> rfl
  case barinitBad =>
    intro e act bad
    simp only [bne_iff_ne, Bool.or_eq_true, decide_eq_true_eq, or_assoc, bad, if_true]
  case cbar =>
    intro s lanes pc next e0 e _ ⟨usable, performed⟩
    exact (if_pos usable).trans (arriveWait_performed (laneSet_act e0 h lanes) performed)
  case cbarBad => exact fun e act unusable => if_neg (Bool.eq_false_iff.1 unusable)
  case gbar =>
    intro s lanes pc next e0 e _ ⟨usable, fits, performed⟩
    simp only [usable, tooWide_eq_false fits, Bool.not_false, Bool.and_self, if_true]
    exact arriveWait_performed (laneSet_act e0 h lanes) performed
  case gbarBad =>
    rintro e act (unusable | tooMany)
    · simp only [unusable, Bool.false_and, Bool.false_eq_true, if_false]
    · simp only [Grid.tooWide, tooMany, decide_true, Bool.not_true, Bool.and_false, Bool.false_eq_true, if_false]

end Sys2Proof.Laws
end

section
/-! The obligation about the narrow formats: what the check of the format registers comes to where it is met or fails on every lane, then
each instruction by what its body does (spec/10_numbers.md R191, spec/12_float.md R234 to R238). -/

namespace Sys2Proof.Laws
open Sys2Proof Sys2Proof.Machine

theorem maskDiff_zero {act : Nat} (lanes : LaneSet act) : maskDiff act 0 = act :=
  mask_ext fun l => by
    rw [inMask_maskDiff, inMask_zero, Bool.not_false, Bool.and_true, Bool.and_eq_right_iff_imp, decide_eq_true_eq]
    exact lanes l

theorem maskDiff_self (act : Nat) : maskDiff act act = 0 :=
  mask_ext fun l => by rw [inMask_maskDiff, Bool.and_not_self, Bool.and_false, inMask_zero]

/-- The lanes of a mask that a test takes, where it takes all of them. -/
theorem laneMask_and_of_all {act : Nat} {p : Nat → Bool} (lanes : LaneSet act) (all : ∀ l, inMask act l = true → p l = true) :
    laneMask (fun l => inMask act l && p l) = act :=
  mask_ext fun l => by
    rw [inMask_laneMask, Bool.and_eq_left_iff_imp.2 (all l), Bool.and_eq_right_iff_imp, decide_eq_true_eq]
    exact lanes l

/-- The lanes of a mask that a test takes, where it takes none of them. -/
theorem laneMask_and_of_none {act : Nat} {p : Nat → Bool} (never : ∀ l, inMask act l = true → p l = false) :
    laneMask (fun l => inMask act l && p l) = 0 :=
  mask_ext fun l => by
    cases active : inMask act l with
    | false => rw [inMask_laneMask, active, Bool.false_and, Bool.and_false, inMask_zero]
    | true => rw [inMask_laneMask, never l active, Bool.and_false, Bool.and_false, inMask_zero]

/-- R191: the classes of four bits and of a byte, by the width of the format. -/
theorem fmtFits_four (x : Nat) : fmtFits true x = true ↔ x % 16 = 4 := by
  rw [fmtFits, fld_zero, if_pos rfl, beq_iff_eq]
  rfl

theorem fmtFits_byte (x : Nat) : fmtFits false x = true ↔ 5 ≤ x % 16 ∧ x % 16 ≤ 8 := by
  rw [fmtFits, fld_zero, if_neg Bool.false_ne_true, decide_eq_true_eq]
  rfl

section checked
variable {n4 : Bool} {k : BitVec 3} {body : Body} {s : State} {e : Env} {act : Nat}

theorem fmtChecked_fits (lanes : LaneSet act) (some_lane : act ≠ 0)
    (fits : ∀ l, inMask act l = true → fmtFits n4 (e.fmt k.toNat l) = true) : fmtChecked n4 k body s e act = body s e act := by
  have good : laneMask (fun l => inMask act l && !fmtFits n4 (e.fmt k.toNat l)) = 0 :=
    laneMask_and_of_none fun l active => by rw [fits l active, Bool.not_true]
  simp only [fmtChecked, good, maskDiff_zero lanes, beq_iff_eq, some_lane, if_false, Env.raiseAll, lanesOf_zero, List.map_nil,
    List.append_nil]

theorem fmtChecked_misfits (lanes : LaneSet act) (misfits : ∀ l, inMask act l = true → fmtFits n4 (e.fmt k.toNat l) = false) :
    fmtChecked n4 k body s e act = { s, raises := e.raiseAll act .illegalEnc } := by
  have bad : laneMask (fun l => inMask act l && !fmtFits n4 (e.fmt k.toNat l)) = act :=
    laneMask_and_of_all lanes fun l active => by rw [misfits l active, Bool.not_false]
  simp only [fmtChecked, bad, maskDiff_self, beq_self_eq_true, if_true, List.nil_append]

variable {i : Instr} {h : Hdr} {rule : SpanRule} (runs : ∀ s, exec i s = issue i rule (fmtChecked n4 k body) s)
include runs

/-- R191: where the format fits every active lane, an instruction under the check does what it does without it. -/
theorem does_of_fits {out : Env → Nat → Out} (effect : ∀ e act, LaneSet act → act ≠ 0 → body e.st e act = out e act) :
    Does i h (fun e act => ∀ l, inMask act l = true → fmtFits n4 (e.fmt k.toNat l) = true) out :=
  does_of_issues runs fun _ lanes _ _ e0 e issues fits =>
    have active := laneSet_act e0 h lanes
    (fmtChecked_fits active issues.some_lane fits).trans (effect e _ active issues.some_lane)

/-- R191: where the format fits no active lane, all of them raise ILLEGAL_ENC and nothing else happens. -/
theorem does_of_misfits : Does i h (fun e act => ∀ l, inMask act l = true → fmtFits n4 (e.fmt k.toNat l) = false) fun e act =>
    { s := e.st, raises := e.raiseAll act .illegalEnc } :=
  does_of_issues runs fun _ lanes _ _ e0 _ _ misfits => fmtChecked_misfits (laneSet_act e0 h lanes) misfits

end checked

/-- Settles O41: CVTN and QNT by the check of the format register, then by what CVTN gives each lane and QNT each block of lanes;
FMTSET by whether the word is a valid descriptor. -/
theorem narrowFormats : Obligations.NarrowFormats := by
  unfold Obligations.NarrowFormats
  refine fun h rnd std n4 pos d a k => ⟨fun x => ⟨fmtFits_four x, fmtFits_byte x⟩, does_of_fits (fun _ => rfl) ?cvtnFrom,
    does_of_fits (fun _ => rfl) ?cvtnTo, does_of_fits (fun _ => rfl) ?qnt, fun _ => does_of_misfits fun _ => rfl,
    does_of_misfits fun _ => rfl, does_of_issue (fun _ => rfl) ?fmtset, does_of_issue (fun _ => rfl) ?fmtsetBad⟩
  case cvtnFrom => exact fun e _ => aluBody_out h .var (some (d, 1)) none _ e.st e
  case cvtnTo => exact fun e _ => aluBody_out h .var (some (d, 1)) none _ e.st e
  case qnt => exact fun _ _ _ _ => rfl
  case fmtset => exact fun _ _ valid => if_pos valid
  case fmtsetBad => exact fun _ _ invalid => if_neg (Bool.eq_false_iff.1 invalid)

end Sys2Proof.Laws
end

section
/-! SUPPORT. What an instruction that computes in each lane by itself gives its lanes (spec/11_integer.md R203 to R206): one rule for
each kind of result, whatever the rule of the instruction for spans. -/

namespace Sys2Proof.Laws
open Sys2Proof Sys2Proof.Machine

section laneByLane
variable {i : Instr} {k : Hdr} (hdr : i.hdr? = some k) (h : Hdr)
include hdr

/-- R9, R205: all lanes' results are formed, then written; an instruction issues under its own header alone. -/
theorem does_aluBody {rule : SpanRule} {lat : Machine.Lat} {d : Option (Opnd × Nat)} {pd : Option (BitVec 3)} {f : Env → Nat → Lres}
    (runs : ∀ s, exec i s = issue i rule (aluBody k lat d pd f) s) :
    Does i h always fun e act => ({ lat, dst := d, pd, f := fun e _ l => f e l } : LaneOp).out h e.st e act := by
  refine does_of_issues runs fun s lanes pc next e0 e issues _ => ?_
  obtain rfl : k = h := Option.some.inj (hdr.symm.trans issues.hdr)
  exact aluBody_out k lat d pd f e.st e (laneSet_act e0 k lanes) issues.some_lane

/-- R203 to R206: one value. -/
theorem does_intLane {rule : SpanRule} {lat n : Nat} {d : Opnd} {f : Env → Nat → Nat}
    (runs : ∀ s, exec i s = issue i rule (aluBody k (.fixed lat) (some (d, n)) none fun e l => { val := f e l }) s) :
    Does i h always fun e act => (intLane lat d n f).out h e.st e act :=
  does_aluBody hdr h runs

/-- R209: the word and the carry of an exact sum. -/
theorem does_carryLane {lat : Nat} {cy : Carry} {d : Opnd} {f : Env → Nat → Int} (runs : ∀ s, exec i s = carryOp i k lat cy d f s) :
    Does i h always fun e act => (carryLane lat cy d f).out h e.st e act :=
  does_aluBody hdr h runs

/-- R170, R216, R227: a predicate, with flags where the instruction has some. -/
theorem does_predLane {rule : SpanRule} {lat : Nat} {p : BitVec 3} {f : Env → Nat → Bool} {fl : Env → Nat → Nat}
    (runs : ∀ s, exec i s = issue i rule (aluBody k (.fixed lat) none (some p) fun e l => { pred := f e l, flags := fl e l }) s) :
    Does i h always fun e act => (predLane lat p f fl).out h e.st e act :=
  does_aluBody hdr h runs

end laneByLane

/-- R214: the position and the length of a field are the two low bytes of the control operand. -/
theorem fld_low_byte (x : Nat) : fld x 0 8 = x % 256 := fld_zero x 8
theorem fld_next_byte (x : Nat) : fld x 8 8 = x / 256 % 256 := rfl

end Sys2Proof.Laws
end

section
/-! The obligations about the integer results, the carry chains and the predicate results, from the rules above. -/

namespace Sys2Proof.Laws
open Sys2Proof Sys2Proof.Machine

/-- Settles O13: each instruction gives its lanes one value, by a body that says of a lane what the rule of the instruction says; BFE and
BFI name the two bytes of their control operand as fields of it. -/
theorem integerResults : Obligations.IntegerResults := by
  unfold Obligations.IntegerResults
  intro i h o given
  cases i <;> cases given
  case bfe k m d a b => simpa only [fld_low_byte, fld_next_byte] using does_intLane (i := .bfe k m d a b) rfl h fun _ => rfl
  case bfi k m d a b c => simpa only [fld_low_byte, fld_next_byte] using does_intLane (i := .bfi k m d a b c) rfl h fun _ => rfl
  all_goals exact does_intLane rfl h fun _ => rfl

/-- Settles O14: the carry chains write the word and the carry of the exact sum that each forms, the others the predicate that each gives. -/
theorem carryAndPredicateResults : Obligations.CarryAndPredicateResults := by
  unfold Obligations.CarryAndPredicateResults
  refine ⟨fun i h o given => ?carries, fun i h o given => ?predicates⟩
  case carries =>
    cases i <;> cases given
    case addc k m cy d a b =>
      simpa only [Int.natCast_add] using does_carryLane (i := .addc k m cy d a b) rfl h fun _ => rfl
    case subb => exact does_carryLane rfl h fun _ => rfl
    case madc k m hi cy d a b c =>
      simpa only [Int.natCast_add] using does_carryLane (i := .madc k m hi cy d a b c) rfl h fun _ => rfl
  case predicates =>
    cases i <;> cases given
    case plop k pd pa pb lut =>
      simpa only [Nat.add_comm (2 * _)] using does_predLane (i := .plop k pd pa pb lut) (fl := fun _ _ => 0) rfl h fun _ => rfl
    case isetp | fsetp | dsetp | pmov => exact does_predLane rfl h fun _ => rfl

end Sys2Proof.Laws
end

section
/-! The obligation about the floating-point results (spec/12_float.md R222 to R233, R239). -/

namespace Sys2Proof.Laws
open Sys2Proof Sys2Proof.Machine

/-- R222, R224: one floating-point value, with its flags. -/
theorem does_fpLane {i : Instr} {k : Hdr} (hdr : i.hdr? = some k) (h : Hdr) {lat : Machine.Lat} {n : Nat} {d : Opnd}
    {f : Env → Nat → Nat × Nat} (runs : ∀ s, exec i s = fpOp i k lat d n f s) :
    Does i h always fun e act => (fpLane lat d n f).out h e.st e act :=
  does_aluBody hdr h runs

/-- Settles O15: each instruction gives its lanes one value and its flags, by a body that says of a lane what the rule of the instruction
says; SCACC names its two scales as fields of their operand, and FCVT, which may step the LFSRs, has a span rule of its own. -/
theorem floatResults : Obligations.FloatResults := by
  unfold Obligations.FloatResults
  intro i h o given
  cases i <;> cases given
  case scacc =>
    refine does_fpLane rfl h fun s => ?_
    simp only [exec, execScacc, fld_low_byte, fld_next_byte]
    rfl
  case fcvt => exact does_aluBody rfl h fun _ => rfl
  case fadd | fmul | ffma | fmin | fmax | dadd | dmul | dfma | hfma2 | bfma2 => exact does_fpLane rfl h fun _ => rfl
  case frnd | fclass | frcp | fsqrt | frsq | fex2 | flg2 | fsin | fcos => exact does_fpLane rfl h fun _ => rfl

end Sys2Proof.Laws
end

section
/-! The obligations about the state after reset and about words of the encoding tables, each a closed evaluation but for links and cores. -/

namespace Sys2Proof.Laws
open Sys2Proof Sys2Proof.Machine

/-- Settles O1: what reset lists no entry for reads as its default: every link is dark, every core as before its first cycle. -/
theorem resetHolds : Obligations.ResetHolds := by
  unfold Obligations.ResetHolds
  exact ⟨rfl, rfl, rfl, rfl, rfl, rfl, rfl, rfl, rfl, rfl, rfl, rfl, rfl, rfl, fun _ => rfl, fun _ => ⟨rfl, rfl, rfl⟩, rfl⟩

/-- Settles O4: the decoder evaluates on each word. -/
theorem decodeWordsHold : Obligations.DecodeWords := by
  unfold Obligations.DecodeWords
  exact ⟨rfl, rfl, rfl, rfl, rfl, rfl⟩

end Sys2Proof.Laws
end

section
/-! The obligation about the cross-lane results (spec/13_crosslane.md R240 to R250). -/

namespace Sys2Proof.Laws
open Sys2Proof Sys2Proof.Machine

/-- R242: the base of a lane's sub-group is the lane's number less its place in the sub-group. -/
theorem subBase_eq (w l : Nat) : subBase w l = l - l % w := by
  rw [subBase, Nat.mul_div_self_eq_mod_sub_self]

theorem sub_sub_mod (w l : Nat) : l - (l - l % w) = l % w := Nat.sub_sub_self (Nat.mod_le l w)

/-- The first lane of a sub-group is at the sub-group's base. -/
theorem beq_base (w l : Nat) : (l == l - l % w) = (l % w == 0) := by
  have := Nat.mod_le l w
  rw [Bool.eq_iff_iff, beq_iff_eq, beq_iff_eq]
  omega

/-- R244: a position that is a lane number is not below the sub-group. -/
theorem gather_natCast (m : XMod) (a c : Opnd) (e : Env) (act l j : Nat) : gather m a c e act l (j : Int) =
    { val := if decide (j < m.sw.w) && inMask act (l - l % m.sw.w + j) then e.word m.x64 (l - l % m.sw.w + j) a else e.word m.x64 l c } := by
  simp only [gather, subBase_eq, Int.natCast_nonneg, Int.ofNat_lt, Int.toNat_natCast, decide_true, Bool.true_and]

/-- R244: the source position that a lane gather looks up is that of the lane's place in its sub-group. -/
theorem gather_eq_shuffled (m : XMod) (wrap : Bool) (a b c : Opnd) (pos : Nat → Nat → Int) :
    (fun e act l => gather m a c e act l (wrapPos wrap m.sw.w (pos (l - subBase m.sw.w l) (e.w32 l b)))) = shuffled m wrap a b c pos := by
  funext e act l
  simp only [gather, wrapPos, subBase_eq, sub_sub_mod, shuffled]

section participants
variable {i : Instr} {k : Hdr} (hdr : i.hdr? = some k) (h : Hdr)
include hdr

/-- R240, R242: an instruction that gives every participant a value writes those values; it issues under its own header alone. -/
theorem does_crossLane {d : Opnd} {n : Nat} {f f' : XFun} (runs : ∀ s, exec i s = crossOp i k (some (d, n)) none f' s) (same : f' = f)
    (noStep : ∀ e act l, (f e act l).lfsr = none) : Does i h always fun e act => (crossLane d n f).out h e.st e act := by
  intro s lanes pc next e0 e issues _
  obtain rfl : k = h := Option.some.inj (hdr.symm.trans issues.hdr)
  rw [runs, same]
  exact crossOp_out issues _ _ f (noStep e _)

/-- R249: the same of one that gives a predicate. -/
theorem does_crossPred {p : BitVec 3} {f f' : Env → Nat → Nat → Bool}
    (runs : ∀ s, exec i s = crossOp i k none (some p) (fun e act l => { pred := f' e act l }) s) (same : f' = f) :
    Does i h always fun e act => (crossPred p f).out h e.st e act := by
  intro s lanes pc next e0 e issues _
  obtain rfl : k = h := Option.some.inj (hdr.symm.trans issues.hdr)
  rw [runs, same]
  exact crossOp_out issues none (some p) _ fun _ => rfl

/-- R244: the lane gathers differ in the position they look up alone. -/
theorem does_laneGather {m : XMod} {wrap : Bool} {d a b c : Opnd} {pos : Nat → Nat → Int}
    (runs : ∀ s, exec i s = laneGather i k m wrap d a b c pos s) :
    Does i h always fun e act => (crossLane d m.n (shuffled m wrap a b c pos)).out h e.st e act :=
  does_crossLane hdr h runs (gather_eq_shuffled m wrap a b c pos) fun _ _ _ => rfl

end participants

/-- Settles O16: each instruction gives its participants one value or predicate, by a body that says of a lane what the rule of the
instruction says, once the sub-group's base is the lane less its place in it. -/
theorem crossLaneResults : Obligations.CrossLaneResults := by
  unfold Obligations.CrossLaneResults
  intro i h o given
  cases i
  case pcons k sw dst pa =>
    cases dst <;> cases given
    case every => exact does_crossPred rfl h (fun _ => rfl) (by funext e act l; simp only [beq_true])
    case some => exact does_crossPred rfl h (fun _ => rfl) (by funext e act l; simp only [beq_true])
    case same => exact does_crossPred rfl h (fun _ => rfl) (by funext e act l; simp only [beq_true, beq_false])
    case mask => exact does_crossLane rfl h (fun _ => rfl) rfl fun _ _ _ => rfl
  all_goals cases given
  case lnget | lnxor | lnsub | lnadd => exact does_laneGather rfl h fun _ => rfl
  case bcast =>
    refine does_crossLane rfl h (fun _ => rfl) ?_ fun _ _ _ => rfl
    funext e act l
    simp only [gather_natCast, subBase_eq]
  case redx =>
    refine does_crossLane rfl h (fun _ => rfl) ?_ fun _ _ _ => rfl
    funext e act l
    simp only [subBase_eq]
  case scan =>
    refine does_crossLane rfl h (fun _ => rfl) ?_ fun _ _ _ => rfl
    funext e act l
    simp only [subBase_eq, sub_sub_mod, beq_base]
  case matchv => exact does_crossLane rfl h (fun _ => rfl) rfl fun _ _ _ => rfl

end Sys2Proof.Laws
end

section
/-! SUPPORT. Loads and stores whose lanes all pass their checks (spec/14_memory.md R265 to R269): the lanes in turn, what they leave
pending, and what they are owed. -/

namespace Sys2Proof.Laws
open Sys2Proof Sys2Proof.Machine

/-- Lanes of a list in turn, each of which completes and adds what it made to a list. -/
theorem foldl_of_lanesMade {α β : Type} {f : State → Nat → Made α} {g : Nat → α → β} {step : Out × List β → Nat → Out × List β}
    (one : ∀ r l a s, f r.1.s l = .done a s → step r l = ({ r.1 with s }, r.2 ++ [g l a])) {ls : List Nat} {s t : State} {xs : List (Nat × α)}
    (made : lanesMade f s ls = some (t, xs)) : ls.foldl step ({ s }, []) = ({ s := t }, xs.map fun x => g x.1 x.2) := by
  suffices general : ∀ (ls : List Nat) (s : State) (xs : List (Nat × α)) (before : List β), lanesMade f s ls = some (t, xs) →
      ls.foldl step ({ s }, before) = ({ s := t }, before ++ xs.map fun x => g x.1 x.2) from general ls s xs [] made
  intro ls
  induction ls with
  | nil => intro s xs before made; cases made; simp
  | cons l ls ih =>
    intro s xs before made
    rw [lanesMade] at made
    split at made
    next a s' done =>
      obtain ⟨rest, tail, eq⟩ := Option.map_eq_some_iff.1 made
      cases eq
      rw [List.foldl_cons, one _ l a s' done, ih s' rest.2 _ tail]
      simp
    next => cases made

/-- What lanes made in turn is not empty where some lane is active. -/
theorem made_ne_nil {α : Type} {f : State → Nat → Made α} {s t : State} {act : Nat} {xs : List (Nat × α)} (lanes : LaneSet act)
    (some_lane : act ≠ 0) (made : lanesMade f s (lanesOf act) = some (t, xs)) : xs ≠ [] := by
  rintro rfl
  exact lanesOf_ne_nil lanes some_lane (lanesMade_lanes made).symm

section passes
variable {e : Env} {h : Hdr} {d c : Opnd} {sp : Space} {sz : Sz} {pol : Pol} {scope : Scope} {addr : Env → Nat → Nat} {act : Nat} {s t : State}

theorem loadPieces_made {xs : List (Nat × Piece)}
    (made : lanesMade (fun s l => s.loadPass e l sp sz.bytes pol (addr e l)) s (lanesOf act) = some (t, xs)) :
    loadPieces e sp sz pol addr s act = ({ s := t }, xs.map fun x => x.2) :=
  foldl_of_lanesMade (g := fun _ p => p) (fun _ _ _ _ done => by simp only [done]) made

theorem loadLanes_made {xs : List (Nat × List Byte)}
    (made : lanesMade (fun s l => s.loadLane e l sp sz.bytes pol (addr e l)) s (lanesOf act) = some (t, xs)) :
    loadLanes e sp sz pol addr s act = ({ s := t }, xs.map fun x => (x.1, extend sz x.2)) :=
  foldl_of_lanesMade (g := fun l bs => (l, extend sz bs)) (fun _ _ _ _ done => by simp only [done]) made

/-- Values given to the lanes of a mask are values of that mask. -/
theorem maskOfVals_eq {vs : List (Nat × Nat)} (lanes : LaneSet act) (names : vs.map (·.1) = lanesOf act) : maskOfVals vs = act := by
  refine mask_ext fun l => ?_
  have given : (vs.any fun x => x.1 == l) = true ↔ l ∈ lanesOf act := by rw [← names]; simp
  rw [maskOfVals, inMask_laneMask, Bool.eq_iff_iff, Bool.and_eq_true, given, mem_lanesOf, decide_eq_true_iff]
  exact ⟨fun holds => holds.2.2, fun active => ⟨lanes l active, lanes l active, active⟩⟩

/-- R265, R471: a group's load whose lanes all pass is owed what it reads. -/
theorem lateBody_of_loadsLater (lanes : LaneSet act) (some_lane : act ≠ 0) (group : Tab.get? s.spans e.g.uid = none)
    (passes : e.loadsLater h d sp sz pol scope addr s act = some t) : lateBody h d sp sz pol scope addr s e act = { s := t } := by
  obtain ⟨⟨u, xs⟩, made, eq⟩ := Option.map_eq_some_iff.1 passes
  have some_piece : (xs.map fun x => x.2).isEmpty = false := by simpa using made_ne_nil lanes some_lane made
  simp only [lateBody, group, Option.isSome_none, Bool.false_eq_true, if_false, loadPieces_made made, some_piece]
  exact congrArg (fun s => ({ s := s } : Out)) eq

/-- R265: a load that is performed as it issues writes what its lanes read. -/
theorem loadBody_of_loads (lanes : LaneSet act) (passes : e.loads h d sp sz pol addr s act = some t) :
    loadBody h d sp sz pol addr s e act = { s := t } := by
  obtain ⟨⟨u, xs⟩, made, eq⟩ := Option.map_eq_some_iff.1 passes
  have names : (xs.map fun x => (x.1, extend sz x.2)).map (·.1) = lanesOf act := by
    rw [List.map_map]; exact lanesMade_lanes made
  simp only [loadBody, loadLanes_made made, maskOfVals_eq lanes names]
  exact congrArg (fun s => ({ s := s } : Out)) eq

/-- R260, R265: a store whose lanes all pass leaves what they store pending. -/
theorem storeBody_of_storesTo (passes : e.storesTo sp sz pol scope addr c s act = some t) :
    storeBody sp sz pol scope addr c s e act = { s := t } := by
  obtain ⟨⟨u, xs⟩, made, eq⟩ := Option.map_eq_some_iff.1 passes
  have pieces := foldl_of_lanesMade (step := fun (r : Out × List Piece) l =>
    match r.1.s.storeLane e l sp (addr e l) (e.stData sz c l) with
    | .done p s => ({ r.1 with s }, r.2 ++ [p])
    | .fail code a absent s => ({ r.1 with s, raises := r.1.raises ++ [{ lane := l, code, addr := a, absent }] }, r.2)
    | .wait s => ({ r.1 with s, waits := maskOr r.1.waits (2 ^ l) }, r.2))
    (g := fun _ p => p) (fun _ _ _ _ done => by simp only [done]) made
  refine (congrArg (fun r : Out × List Piece => ({ r.1 with s := r.1.s.pendStores e sp sz pol scope r.2 } : Out)) pieces).trans ?_
  exact congrArg (fun s => ({ s := s } : Out)) eq

end passes
end Sys2Proof.Laws
end

section
/-! The obligations about loads and stores, from the equations above. -/

namespace Sys2Proof.Laws
open Sys2Proof Sys2Proof.Machine

/-- An instruction that issues does what its body comes to on lanes of a group of which some are active. -/
theorem does_of_lanes {i : Instr} {h : Hdr} {rule : SpanRule} {body : Body} {ok : Env → Nat → Prop} {out : Env → Nat → Out}
    (runs : ∀ s, exec i s = issue i rule body s)
    (effect : ∀ e act, LaneSet act → act ≠ 0 → ok e act → body e.st e act = out e act) : Does i h ok out :=
  does_of_issues runs fun _ lanes _ _ e0 e issues => effect e _ (laneSet_act e0 h lanes) issues.some_lane

section orders
variable {ord : Order}

theorem isAcq_of (acq : ord = .acq ∨ ord = .ar) : Order.isAcq ord = true := by obtain rfl | rfl := acq <;> rfl

theorem isAcq_of_not (weak : ¬(ord = .acq ∨ ord = .ar)) : Order.isAcq ord = false := by
  rw [Bool.eq_false_iff]
  simpa [Order.isAcq] using weak

theorem acquires_of_isAcq_false {e : Env} {scope : Scope} {s : State} (weak : Order.isAcq ord = false) : e.acquires ord scope s = s :=
  if_neg (by simpa only [Order.isAcq, Bool.eq_false_iff] using weak)

end orders

/-- Settles O27: a weak load is owed what it reads; a strong one releases first, and reads as it issues where it acquires. -/
theorem loads : Obligations.Loads := by
  unfold Obligations.Loads
  intro h sz pol scope ord d a b t u
  have later : ∀ {i : Instr} {rule : SpanRule} {sp : Space} {pol : Pol} {scope : Scope} {addr : Env → Nat → Nat},
      (∀ s, exec i s = issue i rule (lateBody h d sp sz pol scope addr) s) →
      Does i h (fun e act => Tab.get? e.st.spans e.g.uid = none ∧ e.loadsLater h d sp sz pol scope addr e.st act = some t) fun _ _ => { s := t } :=
    fun runs => does_of_lanes runs fun _ _ lanes some_lane ⟨group, passes⟩ => lateBody_of_loadsLater lanes some_lane group passes
  have strong : ∀ {i : Instr} {sp : Space} {pol : Pol} {addr : Env → Nat → Nat},
      (∀ s, exec i s = issue i .lower (ordered ord scope (strongLoad h d sp sz pol scope ord addr)) s) →
      ((ord = .acq ∨ ord = .ar) → Does i h (fun e act => e.releases ord scope = some u ∧ e.loads h d sp sz pol addr u act = some t) fun e _ =>
        { s := e.acquires ord scope t })
      ∧ (¬(ord = .acq ∨ ord = .ar) → Does i h (fun e act => e.releases ord scope = some u ∧ Tab.get? u.spans e.g.uid = none
          ∧ e.loadsLater h d sp sz pol scope addr u act = some t) fun _ _ => { s := t }) := by
    intro i sp pol addr runs
    constructor
    · refine fun acq => does_of_lanes runs fun e act lanes _ ⟨released, passes⟩ => ?_
      rw [ordered_of_releases released, strongLoad, if_pos (isAcq_of acq), loadBody_of_loads lanes passes]
    · refine fun weak => does_of_lanes runs fun e act lanes some_lane ⟨released, group, passes⟩ => ?_
      have weak := isAcq_of_not weak
      rw [ordered_of_releases released, strongLoad, if_neg (Bool.eq_false_iff.1 weak), lateBody_of_loadsLater lanes some_lane group passes,
        acquires_of_isAcq_false weak]
  have global := strong (i := .ldsc h sz scope ord false d a b) fun _ => rfl
  have shared := strong (i := .ldsc h sz scope ord true d a b) fun _ => rfl
  exact ⟨later fun _ => rfl, later fun _ => rfl, later fun _ => rfl, later fun _ => rfl, global.1, shared.1, global.2, shared.2⟩

/-- Settles O28: a store leaves its pieces pending; a strong one releases before and acquires after. -/
theorem stores : Obligations.Stores := by
  unfold Obligations.Stores
  intro h sz pol scope ord a b c t u
  have weak : ∀ {i : Instr} {rule : SpanRule} {sp : Space} {pol : Pol} {scope : Scope} {addr : Env → Nat → Nat},
      (∀ s, exec i s = issue i rule (storeBody sp sz pol scope addr c) s) →
      Does i h (fun e act => e.storesTo sp sz pol scope addr c e.st act = some t) fun _ _ => { s := t } :=
    fun runs => does_of_issue runs fun _ _ passes => storeBody_of_storesTo passes
  have strong : ∀ {i : Instr} {sp : Space} {pol : Pol} {addr : Env → Nat → Nat},
      (∀ s, exec i s = issue i .lower (ordered ord scope (storeBody sp sz pol scope addr c)) s) →
      Does i h (fun e act => e.releases ord scope = some u ∧ e.storesTo sp sz pol scope addr c u act = some t) fun e _ =>
        { s := e.acquires ord scope t } :=
    fun runs => does_of_issue runs fun _ _ ⟨released, passes⟩ => by
      rw [ordered_of_releases released, storeBody_of_storesTo passes]
  exact ⟨weak fun _ => rfl, weak fun _ => rfl, weak fun _ => rfl, weak fun _ => rfl, strong fun _ => rfl, strong fun _ => rfl⟩

end Sys2Proof.Laws
end

section
/-! The obligation about prefetches, cache control and fences (spec/14_memory.md R273 to R275, spec/21_link.md R415). -/

namespace Sys2Proof.Laws
open Sys2Proof Sys2Proof.Machine

/-- R274: what CCTL of a line does in a lane whose address passes. -/
theorem does_cctl {h : Hdr} {op : CctlOp} {a : Opnd} {t : State} {xs : List (Nat × Unit)} (line : op ≠ .ivall) :
    Does (.cctl h op a) h (fun e act => (∀ l, inMask act l = true → e.w64 l a < 2 ^ 49) ∧
      lanesMade (fun s l => match s.checkPage e.t.core e.gr.ctx e.gr.version (e.w64 l a) .load 0 with
        | (.pass p, s) => .done () (if op = .iv then s.dropL1 e.t.core fun x => x.line == p.loc / 128 else s)
        | (_, s) => .wait s) e.st (lanesOf act) = some (t, xs)) fun _ _ => { s := t } := by
  refine does_of_issue (fun _ => rfl) fun e act ⟨small, made⟩ => ?_
  simp only [beq_eq_false_iff_ne.2 line, Bool.false_eq_true, if_false]
  refine forLanes_made (fun s l x u active done => ?_) made
  simp only [Nat.not_le.2 (small l active), if_false]
  split at done
  next p s' page => cases done; simp only [page, beq_iff_eq]
  next => cases done

section fence
variable {h : Hdr} {scope : Scope} {kind : FenceKind}

/-- R415: a fence that releases at POD scope or wider reports the oldest latch of its context. -/
theorem does_fence_latch {x : ErrLatch} (wide : scope.atLeastPod = true) (releases : kind ≠ .acq) :
    Does (.fence h scope kind) h (fun e _ => (e.st.latches.find? fun x => x.ctx == e.gr.ctx) = some x) fun e act =>
      { s := e.st, raises := (lanesOf act).map fun l => { lane := l, code := .remoteError, addr := x.addr, absent := none, latch := some x } } := by
  refine does_of_issue (fun _ => rfl) fun e act found => ?_
  simp only [bne_iff_ne.2 releases, wide, Bool.and_self, if_true, found, Env.raiseAt, List.map_map]
  rfl

/-- R275, R288: a fence that has nothing left to wait for performs what comes before it, then acquires. -/
theorem does_fence {t : State} : Does (.fence h scope kind) h (fun e act =>
      e.st.fenceFirst e.g.uid scope kind = (t, true)
      ∧ (scope.atLeastPod = true → kind ≠ .acq → e.st.owes e.gr.uid (e.itemRanges act) = false ∧ ∀ x ∈ e.st.latches, x.ctx ≠ e.gr.ctx)
      ∧ (scope.atLeastPod = true → kind = .acq → e.st.owesLoads e.gr.uid (e.itemRanges act) = false)) fun e _ =>
    { s := e.acquires (fenceOrder kind) scope t } := by
  refine does_of_issue (fun _ => rfl) fun e act ⟨first, rels, acqs⟩ => ?_
  have noLatch : (if (kind != .acq && scope.atLeastPod) = true then e.st.latches.find? fun x => x.ctx == e.gr.ctx else none) = none := by
    split_ifs with releasing
    · rw [Bool.and_eq_true, bne_iff_ne] at releasing
      exact List.find?_eq_none.2 fun x mem => by simpa using (rels releasing.2 releasing.1).2 x mem
    · rfl
  have answered : (scope.atLeastPod && (if (kind != .acq && scope.atLeastPod) = true then e.st.owes e.gr.uid (e.itemRanges act)
      else e.st.owesLoads e.gr.uid (e.itemRanges act))) = false := by
    cases wide : scope.atLeastPod with
    | false => rfl
    | true =>
      by_cases acquiring : kind = .acq
      · simpa [acquiring] using acqs wide acquiring
      · simpa [acquiring] using (rels wide acquiring).1
  simp only [noLatch, answered, Bool.false_eq_true, if_false, first]
  cases kind <;> rfl

end fence

/-- Settles O30: PREF is its lanes in turn; CCTL of all lines is one change of the L1, of a line its lanes in turn; a fence waits, reports a
latch, or performs what comes before it. -/
theorem cacheControl : Obligations.CacheControl := by
  unfold Obligations.CacheControl
  refine ⟨fun h l2 op a scope kind t xs => ⟨does_of_issue (fun _ => rfl) fun _ _ lanes => lanes, does_of_issue (fun _ => rfl) fun _ _ _ => rfl,
    does_cctl, does_fence⟩, fun h scope kind x => does_fence_latch⟩

end Sys2Proof.Laws
end

section
/-! The obligation about SEAL, UNSEAL, SEALQ and PGQ (spec/14_memory.md R276 to R281, spec/17_page.md R334). -/

namespace Sys2Proof.Laws
open Sys2Proof Sys2Proof.Machine

/-- R277: a base and a number of lines that SEAL takes. -/
def Sealable (base lines : Nat) : Prop := base % 128 = 0 ∧ base < 2 ^ 49 ∧ 0 < lines ∧ lines ≤ 2 ^ 24

theorem Sealable.base {base lines : Nat} (fits : Sealable base lines) : (base % 128 != 0 || decide (2 ^ 49 ≤ base)) = false := by
  obtain ⟨aligned, small, -⟩ := fits
  rw [aligned, decide_eq_false (Nat.not_le.2 small)]
  rfl

theorem Sealable.lines {base lines : Nat} (fits : Sealable base lines) : (lines == 0 || decide (2 ^ 24 < lines)) = false := by
  obtain ⟨-, -, some_line, few⟩ := fits
  rw [beq_eq_false_iff_ne.2 (Nat.pos_iff_ne_zero.1 some_line), decide_eq_false (Nat.not_lt.2 few)]
  rfl

theorem result_spans (s : State) (uid : Nat) (h : Hdr) (m : Nat) (lat : Machine.Lat) (rs : List Res) (flags : Nat) :
    (s.result uid h m lat rs flags).spans = s.spans := by
  unfold State.result
  cases Tab.get? s.groups uid with
  | none => rfl
  | some g => dsimp only; split <;> rfl

section seals
variable {h : Hdr} {d a b : Opnd} {hn : BitVec 4} {t u : State} {k : Seal}

theorem does_seal : Does (.seal h d a b) h (fun e act =>
      Sealable (e.w64 (lowLane act) a) (e.w32 (lowLane act) b)
      ∧ (∃ p, e.st.checkRange e.t.core e.gr.ctx (pieces4k (e.w64 (lowLane act) a) (e.w32 (lowLane act) b)) = (.pass p, t))
      ∧ t.walksHeld e.gr.ctx (pieces4k (e.w64 (lowLane act) a) (e.w32 (lowLane act) b) ++ t.sealPieces e.gr.ctx) = none
      ∧ t.sealStatus e.gr.ctx e.gr.version (e.w64 (lowLane act) a) (e.w32 (lowLane act) b) = 0
      ∧ t.release e.g.uid .device = (u, true) ∧ Tab.get? u.spans e.g.uid = none) fun e act =>
    let r := u.result e.g.uid h act .var (resOf d 2 (lowLane act) fun _ => 0) 0
    { s := { r with seals := r.seals ++ [{ ctx := e.gr.ctx, base := e.w64 (lowLane act) a, lines := e.w32 (lowLane act) b,
                                           sealing := some u.uids, unsealing := false, handles := [] }] } } := by
  refine does_of_issue (fun _ => rfl) fun e act ⟨fits, ⟨p, pages⟩, free, status, released, group⟩ => ?_
  have stays : Tab.get? (u.result e.g.uid h act .var (resOf d 2 (lowLane act) fun _ => 0) 0).spans e.g.uid = none := by
    rw [result_spans, group]
  simp only [fits.base, fits.lines, pages, free, status, released, scalarOut, stays, bne_self_eq_false, Option.isSome_none, Bool.false_eq_true,
    if_false]

theorem does_seal_refused {x : Nat} (refused : x ≠ 0) : Does (.seal h d a b) h (fun e act =>
      Sealable (e.w64 (lowLane act) a) (e.w32 (lowLane act) b)
      ∧ (∃ p, e.st.checkRange e.t.core e.gr.ctx (pieces4k (e.w64 (lowLane act) a) (e.w32 (lowLane act) b)) = (.pass p, t))
      ∧ t.walksHeld e.gr.ctx (pieces4k (e.w64 (lowLane act) a) (e.w32 (lowLane act) b) ++ t.sealPieces e.gr.ctx) = none
      ∧ t.sealStatus e.gr.ctx e.gr.version (e.w64 (lowLane act) a) (e.w32 (lowLane act) b) = x) fun e act =>
    { s := t.result e.g.uid h act .var (resOf d 2 (lowLane act) fun _ => x) 0 } := by
  refine does_of_issue (fun _ => rfl) fun e act ⟨fits, ⟨p, pages⟩, free, status⟩ => ?_
  simp only [fits.base, fits.lines, pages, free, status, bne_iff_ne.2 refused, scalarOut, Bool.false_eq_true, if_false, if_true]

/-- No walk of the ranges in the seal tables of the group's context reads a half that the host holds. -/
def Env.tablesHere (e : Env) : Prop := e.st.walksHeld e.gr.ctx (e.st.sealPieces e.gr.ctx) = none

/-- The entry of the group's context that UNSEAL of an address names. -/
def Env.sealEntry (e : Env) (base : Nat) : Option Seal := e.st.seals.find? fun k => k.ctx == e.gr.ctx && k.base == base

theorem does_unseal_none : Does (.unseal h (.status d) a) h (fun e act => Env.tablesHere e ∧ Env.sealEntry e (e.w64 (lowLane act) a) = none)
    fun e act => { s := e.st.result e.g.uid h act .var (resOf d 2 (lowLane act) fun _ => 1) 0 } := by
  refine does_of_issue (fun _ => rfl) fun e act ⟨here, entry⟩ => ?_
  unfold Env.tablesHere at here
  unfold Env.sealEntry at entry
  simp only [here, entry, scalarOut]

theorem does_unseal {n : BitVec 8} : Does (.unseal h (.status (.s n)) a) h
    (fun e act => Env.tablesHere e ∧ Env.sealEntry e (e.w64 (lowLane act) a) = some k) fun e act =>
    let s := e.st.dropEvery fun x => (e.st.sealLines k).contains x.line
    let s : State := { s with seals := s.seals.map fun x => if x == k then { k with unsealing := true } else x }
    { s := (s.owe e.g h act (.s n) 2).hold e.g.uid act (.unseal (e.w64 (lowLane act) a) n.toNat s.uids), stays := act } := by
  refine does_of_issue (fun _ => rfl) fun e act ⟨here, entry⟩ => ?_
  unfold Env.tablesHere at here
  unfold Env.sealEntry at entry
  simp only [here, entry, List.append_nil]

theorem does_unseal_handle : Does (.unseal h (.handle hn) a) h
    (fun e act => Env.tablesHere e ∧ e.createWaits hn.toNat = false ∧ Env.sealEntry e (e.w64 (lowLane act) a) = some k) fun e _ =>
    let r := e.st.newFuture e hn.toNat 4 0
    let s := r.2.dropEvery fun x => (r.2.sealLines k).contains x.line
    { s := { s with seals := s.seals.map fun x => if x == k then { k with unsealing := true, handles := k.handles ++ [(e.t.uid, r.1)] } else x } } := by
  refine does_of_issue (fun _ => rfl) fun e act ⟨here, ready, entry⟩ => ?_
  unfold Env.tablesHere at here
  unfold Env.sealEntry at entry
  simp only [here, ready, entry, Bool.false_eq_true, if_false]

theorem does_unseal_handle_none {f : Future} : Does (.unseal h (.handle hn) a) h
    (fun e act => Env.tablesHere e ∧ e.createWaits hn.toNat = false ∧ Env.sealEntry e (e.w64 (lowLane act) a) = none
      ∧ (e.st.newFuture e hn.toNat 4 0).2.futureOf e.t.uid (e.st.newFuture e hn.toNat 4 0).1 = some f) fun e _ =>
    let r := e.st.newFuture e hn.toNat 4 0
    { s := r.2.setFuture e.t.uid r.1 { f with state := 3, code := 1 } } := by
  refine does_of_issue (fun _ => rfl) fun e act ⟨here, ready, entry, future⟩ => ?_
  unfold Env.tablesHere at here
  unfold Env.sealEntry at entry
  simp only [here, ready, entry, future, Bool.false_eq_true, if_false]

theorem does_sealq : Does (.sealq h d a) h
    (fun e act => e.w64 (lowLane act) a < 2 ^ 49 ∧ e.st.walksHeld e.gr.ctx (e.w64 (lowLane act) a :: e.st.sealPieces e.gr.ctx) = none) fun e act =>
    let va := e.w64 (lowLane act) a
    let die := match e.st.placeOf e.gr.ctx va with | some p => locDie p | none => 0
    let x := match e.st.sealAt e.gr.ctx va with
      | some k => 1 + 2 * b2n k.unsealing + 2 ^ 8 * min (e.st.sealCount k die) (2 ^ 24 - 1)
      | none => 0
    { s := e.st.result e.g.uid h act .var (resOf d 2 (lowLane act) fun _ => x + 2 ^ 32 * e.st.sealFree e.gr.ctx die) 0 } := by
  refine does_of_issue (fun _ => rfl) fun e act ⟨small, here⟩ => ?_
  simp only [Nat.not_le.2 small, if_false, here, scalarOut] <;> rfl

/-- No lane of a mask is taken out of it by lanes of which none is active. -/
theorem laneMask_false {p : Nat → Bool} (none : ∀ l, p l = false) : laneMask p = 0 := by
  refine mask_ext fun l => ?_
  rw [inMask_laneMask, none, Bool.and_false, inMask_zero]

theorem does_pgq : Does (.pgq h d a) h
    (fun e act => ∀ l, inMask act l = true → e.w64 l a < 2 ^ 49 ∧ e.st.pgqHeld e.t.core e.gr.ctx (e.w64 l a) = false) fun e act =>
    { s := e.st.result e.g.uid h act .var (resOf d (if d.isS then 2 else 1) (lowLane act) fun l => e.st.pgq e.t.core e.gr.ctx (e.w64 l a)) 0 } := by
  refine does_of_lanes (fun _ => rfl) fun e act lanes _ each => ?_
  have noBad : (laneMask fun l => inMask act l && decide (2 ^ 49 ≤ e.w64 l a)) = 0 := laneMask_false fun l => by
    cases active : inMask act l with
    | false => rfl
    | true => simpa using (each l active).1
  have noLate : (laneMask fun l => inMask act l && !inMask 0 l && e.st.pgqHeld e.t.core e.gr.ctx (e.w64 l a)) = 0 := laneMask_false fun l => by
    cases active : inMask act l with
    | false => rfl
    | true => simpa using (each l active).2
  simp only [noBad, noLate, maskDiff_zero lanes, lanesOf_zero, List.foldl_nil, List.map_nil]

end seals

/-- What an instruction does where some condition holds it does where a stronger one does. -/
theorem does_mono {i : Instr} {h : Hdr} {ok ok' : Env → Nat → Prop} {out : Env → Nat → Out} (does : Does i h ok out)
    (weaker : ∀ e act, ok' e act → ok e act) : Does i h ok' out :=
  fun s lanes pc next e0 e issues holds => does s lanes pc next e0 e issues (weaker e _ holds)

/-- Settles O31: SEAL by its status, UNSEAL by its form and whether the range has an entry, SEALQ and PGQ by the word that each forms. -/
theorem seals : Obligations.Seals := by
  unfold Obligations.Seals
  intro h d a b n hn t u k ours
  refine ⟨does_mono (does_seal (t := t)) ?seals, fun x refused => does_mono (does_seal_refused (t := t) refused) ?refuses, does_unseal_none, does_unseal,
    does_unseal_handle, fun f => does_unseal_handle_none, does_sealq, does_pgq⟩
  case seals => exact fun e act ⟨aligned, small, some_line, few, more⟩ => ⟨⟨aligned, small, some_line, few⟩, more⟩
  case refuses => exact fun e act ⟨aligned, small, some_line, few, more⟩ => ⟨⟨aligned, small, some_line, few⟩, more⟩

end Sys2Proof.Laws
end

section
/-! The obligations about copies and future instructions (spec/16_future.md R305 to R320). -/

namespace Sys2Proof.Laws
open Sys2Proof Sys2Proof.Machine

/-- R299, R312, R316: an operation that may begin takes its future, its locks and its place on the channel. -/
theorem startCopy_of_mayCopy {m : CopyMod} {hd : BitVec 4} {o : CopyOp} {two : Bool} {e : Env} {act : Nat} {t : State}
    (may : e.mayCopy o two hd.toNat t) : startCopy m hd o two e.st e act =
      { s := t.beginCopy e o (if m.fix then m.ch.toNat else t.pickChannel e.t.core) hd.toNat } := by
  obtain ⟨passes, ready, unlocked, performed⟩ := may
  simp only [startCopy, passes, ready, unlocked, performed, Bool.or_self, Bool.false_eq_true, if_false]
  rfl

/-- Settles O32: both instructions lay out their operation and start it. -/
theorem copiesBegin : Obligations.CopiesBegin := by
  unfold Obligations.CopiesBegin
  intro h m lens hd a b c lit t one two
  refine ⟨does_of_issue (fun _ => rfl) fun e act may => startCopy_of_mayCopy may, does_of_issue (fun _ => rfl) fun e act may => ?_⟩
  simp only [fld_zero]
  exact startCopy_of_mayCopy may

section futures
variable {h : Hdr} {d a : Opnd} {hn : BitVec 4} {f : Future}

theorem does_fcancel : Does (.fcancel h hn) h (fun e _ => e.future hn.toNat = some f ∧ f.state < 3 ∧ f.kind < 2) fun e _ =>
    let fid := hFid (e.g.hreg hn.toNat)
    let mine := (e.st.cores.flatMap fun c => c.2.channels.flatMap (·.2) ++ c.2.fabric).filter fun o => o.team == e.t.uid && o.fid == fid
    { s := (mine.foldl (fun s o => s.unparkOp o.op) e.st).setFuture e.t.uid fid { f with cancel := true } } := by
  refine does_of_issue (fun _ => rfl) fun e act ⟨names, live, engine⟩ => ?_
  simp only [onceBody, names, Future.final, Nat.not_le.2 live, engine, decide_false, decide_true, Bool.not_false, Bool.and_self, if_true]

/-- R319: a future that has ended, or is of no engine, is left as it is. -/
theorem does_fcancel_nothing : Does (.fcancel h hn) h
    (fun e _ => e.future hn.toNat = none ∨ ∃ f, e.future hn.toNat = some f ∧ (3 ≤ f.state ∨ 2 ≤ f.kind)) fun e _ => { s := e.st } := by
  refine does_of_issue (fun _ => rfl) fun e act names => ?_
  obtain none | ⟨f, names, past⟩ := names
  · simp only [onceBody, none]
  · have stays : (!f.final && decide (f.kind < 2)) = false := by
      rw [Bool.and_eq_false_iff, Bool.not_eq_false', decide_eq_false_iff_not, Nat.not_lt, Future.final, decide_eq_true_iff]
      exact past
    simp only [onceBody, names, stays, Bool.false_eq_true, if_false]

theorem does_fmovOut : Does (.fmovOut h d hn) h (fun e _ => e.future hn.toNat = some f ∧ f.state < 4) fun e act =>
    let fid := hFid (e.g.hreg hn.toNat)
    { s := ((e.st.setFuture e.t.uid fid { f with token := true }).putHandle e.g hn.toNat 0).result e.g.uid h act .var
        (resOf d 2 (lowLane act) fun _ => fid + 2 ^ 16 * (e.t.index % 2 ^ 16) + 2 ^ 63) 0 } := by
  refine does_of_issue (fun _ => rfl) fun e act ⟨names, good⟩ => ?_
  simp only [names, Nat.not_le.2 good, if_false, scalarOut, tokenOf]

theorem does_fmovOut_dead : Does (.fmovOut h d hn) h (fun e _ => e.future hn.toNat = some f ∧ 4 ≤ f.state) fun e act =>
    { s := e.st, raises := e.raiseAll act .futureDead } := by
  refine does_of_issue (fun _ => rfl) fun e act ⟨names, dead⟩ => ?_
  simp only [names, dead, if_true]

theorem does_fmovIn : Does (.fmovIn h hn a) h (fun e act => hLive (e.g.hreg hn.toNat) = false ∧ e.w64 (lowLane act) a ≠ 0
      ∧ e.w64 (lowLane act) a = tokenOf (e.w64 (lowLane act) a % 2 ^ 10) e.t.index
      ∧ Tab.get? e.t.futures (e.w64 (lowLane act) a % 2 ^ 10) = some f ∧ f.token = true) fun e act =>
    let fid := e.w64 (lowLane act) a % 2 ^ 10
    { s := (e.st.putHandle e.g hn.toNat (f.word fid)).setFuture e.t.uid fid { f with token := false } } := by
  refine does_of_issue (fun _ => rfl) fun e act ⟨free, some_token, token, names, held⟩ => ?_
  have good : (e.w64 (lowLane act) a != 0 && (e.w64 (lowLane act) a != tokenOf (e.w64 (lowLane act) a % 2 ^ 10) e.t.index || !f.token)) = false := by
    rw [← token, held, bne_self_eq_false]; exact Bool.and_false _
  simp only [fld_zero, names, good, free, beq_eq_false_iff_ne.2 some_token, Bool.false_eq_true, if_false]

/-- R320: the token 0 empties a handle. -/
theorem does_fmovIn_zero : Does (.fmovIn h hn a) h (fun e act => e.w64 (lowLane act) a = 0 ∧ hLive (e.g.hreg hn.toNat) = false) fun e _ =>
    { s := e.st.putHandle e.g hn.toNat 0 } := by
  refine does_of_issue (fun _ => rfl) fun e act ⟨zero, free⟩ => ?_
  simp only [zero, free, bne_self_eq_false, Bool.false_and, beq_self_eq_true, Bool.false_eq_true, if_false, if_true]

end futures

/-- Settles O33: each instruction by the state of the future that its handle names. -/
theorem futures : Obligations.Futures := by
  unfold Obligations.Futures
  intro h d a hn f
  refine ⟨does_of_issue (fun _ => rfl) ?ended, does_of_issue (fun _ => rfl) ?sleeps, does_of_issue (fun _ => rfl) ?ftest,
    does_of_issue (fun _ => rfl) fun _ _ _ => rfl, does_fcancel, does_fcancel_nothing, does_fmovOut, does_of_issue (fun _ => rfl) ?empty,
    does_fmovOut_dead, does_fmovIn, does_fmovIn_zero⟩
  case ended => intro e act ended; simp only [ended, Bool.false_eq_true, if_false, scalarOut]
  case sleeps => intro e act live; simp only [live, if_true]
  case ftest => intro e act _; simp only [onceBody, hState, fld_zero, scalarOut]; rfl
  case empty => intro e act none; simp only [none, scalarOut]

end Sys2Proof.Laws
end

section
/-! The obligation about gang masks (spec/18_tile.md R349). -/

namespace Sys2Proof.Laws
open Sys2Proof Sys2Proof.Machine

/-- Settles O35: GANG decides the four conditions. -/
theorem gangMasks : Obligations.GangMasks := by
  unfold Obligations.GangMasks
  intro h a uid team gid gr legal
  have decides : ∀ e m, (decide (1 ≤ popN 32 m) && decide (popN 32 m ≤ 6) && bitOf m e.g.gid && decide (m < 2 ^ e.gr.kernel.ngroups)) = true
      ↔ legal e m := by
    intro e m
    simp only [Bool.and_eq_true, decide_eq_true_eq, and_assoc, legal]
  refine ⟨rfl, does_of_issue (fun _ => rfl) fun e act holds => ?_, does_of_issue (fun _ => rfl) fun e act fails => ?_⟩
  · exact if_pos ((decides _ _).2 holds)
  · exact if_neg (mt (decides _ _).1 fails)

end Sys2Proof.Laws
end

section
/-! SUPPORT. The gate of the instructions on tile state, once nothing makes one wait (spec/18_tile.md R335, R336, R346, R347, R355). -/

namespace Sys2Proof.Laws
open Sys2Proof Sys2Proof.Machine

section gate
variable {s : State} {e f : Env} {act : Nat} {rd wr : List TReg} {ren need : List Nat}

/-- R346: no register of a list lacks a tile where the list of those that do is empty. -/
theorem all_inuse_eq (t : Team) (need : List Nat) :
    (need.all fun n => (t.acc n).inuse) = ((need.filter fun n => !(t.acc n).inuse).length == 0) := by
  rw [Bool.eq_iff_iff, List.all_eq_true, beq_iff_eq, List.length_eq_zero_iff, List.filter_eq_nil_iff]
  simp

/-- R346: an instruction that has its tiles need not wait for one. -/
theorem tilesHere (has : e.hasTiles act need) :
    ((need.filter fun n => !(e.t.acc n).inuse).length != 0
      && (!(match e.st.accHead e.t.core with | some x => x == (e.g.uid, (e.pc (lowLane act)).toNat) | none => true)
        || decide (e.st.accFree e.t.core < (need.filter fun n => !(e.t.acc n).inuse).length))) = false := by
  obtain inuse | ⟨turn, room⟩ := has
  · have all : (need.filter fun n => !(e.t.acc n).inuse).length = 0 := by
      rw [List.length_eq_zero_iff, List.filter_eq_nil_iff]
      intro n mem
      rw [inuse n mem]
      decide
    rw [all]
    rfl
  · have first : (match e.st.accHead e.t.core with | some x => x == (e.g.uid, (e.pc (lowLane act)).toNat) | none => true) = true := by
      obtain none | me := turn
      · rw [none]
      · rw [me]; exact beq_self_eq_true _
    rw [first, decide_eq_false (Nat.not_lt.2 room), Bool.not_true, Bool.or_self, Bool.and_false]

/-- An instruction on tile state that nothing makes wait performs on what it then sees. -/
theorem tileGate_of_tiles (present : ∀ c ∈ e.st.contexts, c.2.absent = []) (tiles : e.Tiles act rd wr ren need f) (k : State → Env → Out) :
    tileGate e.st e act rd wr ren need k = k f.st f := by
  obtain ⟨⟨team, renamed, idle, ended, good⟩, has, env⟩ := tiles
  have after := (env?_eq_some env).1
  have here := tilesHere has
  unfold Env.tileState at env after
  rw [all_inuse_eq] at env after
  simp only [tileGate, renamed, List.isEmpty_nil, Bool.not_true, Bool.false_and, Bool.false_eq_true, if_false, team, idle, ended, good, Bool.or_self,
    withUnits_present present]
  refine (if_neg (Bool.eq_false_iff.1 here)).trans ?_
  rw [after]
  simp only [env]

/-- The same of a gate inside a gang operation. -/
theorem gangGate_of_tiles (present : ∀ c ∈ e.st.contexts, c.2.absent = []) (tiles : e.Tiles act rd wr ren need f) (k : State → Env → GangEnd) :
    gangGate e.st e act rd wr ren need k = k f.st f := by
  have env : f.st.env? e.g.uid = some f := by
    rw [(env?_eq_some tiles.2.2).1]
    exact tiles.2.2
  simp only [gangGate, tileGate_of_tiles present tiles, bne_self_eq_false, Bool.false_eq_true, if_false, env]

end gate
end Sys2Proof.Laws
end

section
/-! The obligation about tile-store granules, tile registers and address maps (spec/18_tile.md R338 to R343, R348). -/

namespace Sys2Proof.Laws
open Sys2Proof Sys2Proof.Machine

section granules
variable {h : Hdr} {d a : Opnd} {nb : Bool}

theorem does_tsalloc_full : Does (.tsalloc h d a nb) h
    (fun e act => e.t.freeing = [] ∧ (e.w32 (lowLane act) a = 0 ∨ 64 < e.t.granules + e.w32 (lowLane act) a)) fun e act =>
    { s := e.st.result e.g.uid h act .var (resOf d 2 (lowLane act) fun _ => 2 ^ 57) 0 } := by
  refine does_of_issue (fun _ => rfl) fun e act ⟨settled, bad⟩ => ?_
  have refused : (e.w32 (lowLane act) a == 0 || decide (64 < e.t.granules + e.w32 (lowLane act) a)) = true := by
    rwa [Bool.or_eq_true, beq_iff_eq, decide_eq_true_iff]
  simp only [settled, refused, List.isEmpty_nil, Bool.not_true, Bool.false_eq_true, if_false, if_true, scalarOut]

/-- R339: a TSALLOC asks for a number of granules that the team may have. -/
def Env.mayAlloc (e : Env) (n : Nat) : Prop := e.t.freeing = [] ∧ 0 < n ∧ e.t.granules + n ≤ 64

theorem mayAlloc_passes {e : Env} {n : Nat} (may : Env.mayAlloc e n) : (n == 0 || decide (64 < e.t.granules + n)) = false := by
  obtain ⟨-, some_granule, fits⟩ := may
  rw [beq_eq_false_iff_ne.2 (Nat.pos_iff_ne_zero.1 some_granule), decide_eq_false (Nat.not_lt.2 fits)]
  rfl

theorem does_tsalloc_busy : Does (.tsalloc h d a true) h
    (fun e act => Env.mayAlloc e (e.w32 (lowLane act) a) ∧ e.granulesFor act < e.w32 (lowLane act) a) fun e act =>
    { s := e.st.result e.g.uid h act .var (resOf d 2 (lowLane act) fun _ => 2 ^ 56) 0 } := by
  refine does_of_issue (fun _ => rfl) fun e act ⟨may, few⟩ => ?_
  unfold Env.granulesFor at few
  simp only [may.1, mayAlloc_passes may, few, List.isEmpty_nil, Bool.not_true, Bool.false_eq_true, if_false, decide_true, Bool.and_self, if_true, scalarOut]

theorem does_tsalloc_grants : Does (.tsalloc h d a nb) h
    (fun e act => Env.mayAlloc e (e.w32 (lowLane act) a) ∧ e.w32 (lowLane act) a ≤ e.granulesFor act) fun e act =>
    { s := ((e.st.updCore e.t.core fun c => { c with tsallocq := (e.st.tsWaits e.t.core).filter fun x =>
              !(x.1 == e.g.uid && x.2.1 == (e.pc (lowLane act)).toNat) }).updTeam
          e.t.uid fun t => { t with granules := t.granules + e.w32 (lowLane act) a }).result e.g.uid h act .var
            (resOf d 2 (lowLane act) fun _ => 16384 * e.t.granules) 0 } := by
  refine does_of_issue (fun _ => rfl) fun e act ⟨may, enough⟩ => ?_
  unfold Env.granulesFor at enough
  simp only [may.1, mayAlloc_passes may, Nat.not_lt.2 enough, List.isEmpty_nil, Bool.not_true, Bool.false_eq_true, if_false, decide_false, Bool.and_false,
    scalarOut]

theorem does_tsalloc_waits : Does (.tsalloc h d a false) h
    (fun e act => Env.mayAlloc e (e.w32 (lowLane act) a) ∧ e.granulesFor act < e.w32 (lowLane act) a) fun e act =>
    { s := (e.st.updCore e.t.core fun c => { c with tsallocq :=
        (if ((e.st.tsWaits e.t.core).any fun x => x.1 == e.g.uid && x.2.1 == (e.pc (lowLane act)).toNat) then e.st.tsWaits e.t.core
        else e.st.tsWaits e.t.core ++ [(e.g.uid, (e.pc (lowLane act)).toNat, e.w32 (lowLane act) a)]) }).hold e.g.uid act (.tsalloc d.sNum)
      stays := act } := by
  refine does_of_issue (fun _ => rfl) fun e act ⟨may, few⟩ => ?_
  unfold Env.granulesFor at few
  simp only [may.1, mayAlloc_passes may, few, List.isEmpty_nil, Bool.not_true, Bool.false_eq_true, if_false, Bool.false_and, if_true]

theorem does_tsfree : Does (.tsfree h a) h (fun e act => 0 < e.w32 (lowLane act) a ∧ e.w32 (lowLane act) a ≤ e.t.granules) fun e act =>
    { s := (e.st.updTeam e.t.uid fun t => { t with
          granules := t.granules - e.w32 (lowLane act) a
          freeing := t.freeing ++ [(t.granules - e.w32 (lowLane act) a, e.w32 (lowLane act) a, e.g.uid, act)] }).updGroup e.g.uid fun g =>
        g.updLanes act fun _ x => { x with block := .tsfree }
      stays := act } := by
  refine does_of_issue (fun _ => rfl) fun e act ⟨some_granule, has⟩ => ?_
  simp only [Nat.not_lt.2 has, beq_eq_false_iff_ne.2 (Nat.pos_iff_ne_zero.1 some_granule), Bool.false_eq_true, if_false]
  rfl

theorem does_tsfree_none : Does (.tsfree h a) h (fun e act => e.w32 (lowLane act) a = 0) fun e _ => { s := e.st } := by
  refine does_of_issue (fun _ => rfl) fun e act zero => ?_
  simp only [zero, Nat.not_lt_zero, if_false, beq_self_eq_true, if_true]

theorem does_tsfree_tooMany : Does (.tsfree h a) h (fun e act => e.t.granules < e.w32 (lowLane act) a) fun e act =>
    { s := e.st, raises := (lanesOf act).map fun l => { lane := l, code := .pageProt, addr := 16384 * e.t.granules, absent := none } } :=
  does_of_issue (fun _ => rfl) fun _ _ more => if_pos more

end granules

section release
variable {h : Hdr} {f64 : Bool} {n : BitVec 4}

/-- R348: registers let go, of either kind, and the masks that ATTS left for them. -/
def Team.released (t : Team) (isT : Bool) (rs : List Nat) : Team :=
  { t with t := if isT then rs.foldl (fun a n => Tab.del a n) t.t else t.t
           a := if isT then t.a else rs.foldl (fun a n => Tab.del a n) t.a
           blockMask := t.blockMask.filter fun x => !rs.contains (if isT then x.2.tp else x.1) }

theorem letGo_eq {s : State} (present : ∀ c ∈ s.contexts, c.2.absent = []) (t : Team) (ctx : Nat) (isT : Bool) (rs : List Nat) :
    s.letGo t ctx isT rs = s.updTeam t.uid fun t => Team.released t isT rs := by
  refine (updCtx_filter_absent (s := s.updTeam t.uid _) present ctx _).trans (congrArg (s.updTeam t.uid) (funext fun t => ?_))
  induction rs generalizing t with
  | nil => cases isT <;> simp [Team.released]
  | cons n rs ih =>
    rw [List.foldl_cons, ih]
    cases isT <;> simp [Team.released, Team.unmask, List.filter_filter, Bool.and_comm, bne, beq_eq_decide]

theorem updTeam_id (s : State) (uid : Nat) {f : Team → Team} (same : ∀ t, f t = t) : s.updTeam uid f = s := by
  rw [State.updTeam, Tab.upd_id _ _ _ same]

/-- R336: no operation under way uses the tile register of AREL. -/
def Env.tileIdle (e : Env) (n : Nat) : Prop := e.tileBound [n] [] = false ∧ e.t.tileBusy [] [(true, n)] = false

theorem does_arel_tile (inuse : Bool) : Does (.arel h f64 true n) h
    (fun e _ => Env.tileIdle e n.toNat ∧ (e.t.treg n.toNat).inuse = inuse) fun e _ =>
    { s := e.st.updTeam e.t.uid fun t => Team.released t true (if inuse then [n.toNat] else []) } := by
  refine does_of_issues (fun _ => rfl) fun s lanes pc next e0 e issues ⟨⟨bound, idle⟩, used⟩ => ?_
  have present := issues_present issues
  simp only [if_true, bound, idle, Bool.false_eq_true, if_false, List.filter_cons, List.filter_nil, used, letGo_eq present]

theorem tileBusy_of_noOps {t : Team} (none : t.ops = []) (rd wr : List TReg) : t.tileBusy rd wr = false := by rw [Team.tileBusy, none]; rfl

theorem does_arel_acc : Does (.arel h f64 false n) h (fun e _ => e.tileBound [] (accRegs f64 n.toNat) = false ∧ e.t.ops = []) fun e _ =>
    let used := (accRegs f64 n.toNat).filter fun n => (e.t.acc n).inuse
    { s := (e.st.detach e.t.uid used).updTeam e.t.uid fun t => Team.released t false used } := by
  refine does_of_issues (fun _ => rfl) fun s lanes pc next e0 e issues ⟨bound, noOps⟩ => ?_
  have present := issues_present issues
  have idle : (e.t.detach (accRegs f64 n.toNat)).tileBusy [] (aRegs (accRegs f64 n.toNat)) = false :=
    tileBusy_of_noOps (by rw [Team.detach, noOps]; rfl) _ _
  simp only [bound, idle, Bool.false_eq_true, if_false]
  rw [letGo_eq (s := e.st.detach e.t.uid _) present]

end release

section maps
variable {h : Hdr} {d a : Opnd} {am : BitVec 4} {w : BitVec 3}

theorem does_amset_mem {bs : List Byte} {t : State} : Does (.amset h am a w true) h
    (fun e act => e.st.loadLane e (lowLane act) .global 64 .l1 (e.w64 (lowLane act) a) = .done bs t) fun e _ =>
    { s := t.updTeam e.t.uid fun t => { t with am := Tab.set t.am am.toNat bs } } := by
  refine does_of_issue (fun _ => rfl) fun e act read => ?_
  simp only [if_true, read]

end maps

/-- An instruction that does one thing does what is the same. -/
theorem does_congr {i : Instr} {h : Hdr} {ok : Env → Nat → Prop} {out out' : Env → Nat → Out} (does : Does i h ok out)
    (same : ∀ e act, out e act = out' e act) : Does i h ok out' := by
  rwa [← show out = out' from funext fun e => funext (same e)]

/-- Settles O34: TSALLOC and TSFREE by the granules that there are, AREL by what is in use, the address maps by their words. -/
theorem tileResources : Obligations.TileResources := by
  unfold Obligations.TileResources
  refine ⟨fun h d a nb => ?granules, fun h n f64 => ⟨?tile, ?unused, does_arel_acc⟩,
    fun h d a am w bs t => ⟨does_of_issue (fun _ => rfl) fun _ _ _ => rfl, does_amset_mem, does_of_issue (fun _ => rfl) fun _ _ _ => rfl⟩⟩
  case granules =>
    intro n pc
    refine ⟨does_tsalloc_full, does_mono does_tsalloc_busy ?busy, does_mono does_tsalloc_grants ?grants, does_mono does_tsalloc_waits ?waits,
      does_tsfree_none, does_tsfree, does_tsfree_tooMany⟩
    case busy | grants | waits => exact fun e act ⟨settled, some_granule, fits, more⟩ => ⟨⟨settled, some_granule, fits⟩, more⟩
  case tile =>
    refine does_congr (does_arel_tile true) fun e act => ?_
    simp only [Team.released, if_true, List.foldl_cons, List.foldl_nil, List.contains_cons, List.contains_nil, Bool.or_false, bne]
  case unused =>
    refine does_congr (does_arel_tile false) fun e act => ?_
    exact congrArg (fun s => ({ s := s } : Out)) (updTeam_id e.st e.t.uid fun t => by simp [Team.released])
end Sys2Proof.Laws
end

section
/-! The obligation about the rendezvous of a gang (spec/18_tile.md R350). -/

namespace Sys2Proof.Laws
open Sys2Proof Sys2Proof.Machine

section gang
variable {i : Instr} {run : State → Env → List (Nat × Nat) → GangEnd} {s u : State} {e f : Env} {act : Nat}

/-- The arrival of the issuing group. -/
def Env.arrival (e : Env) (i : Instr) (act : Nat) : Latch := { group := e.g.uid, lanes := act, mask := e.g.gang, instr := i, pc := e.pc (lowLane act) }

/-- The team with that arrival at the latch. -/
def Env.latched (e : Env) (i : Instr) (act : Nat) : Team := { e.t with latches := e.t.latches ++ [Env.arrival e i act] }

/-- R350: a group that is its own gang performs at once. -/
theorem gangOp_alone (alone : e.g.gang = 2 ^ e.g.gid) : gangOp i run s e act = match run s e [(e.g.uid, act)] with
    | .done s => { s }
    | .held s => { s, stays := act }
    | .waits s => { s, waits := act }
    | .trap s code addr => { s, raises := e.raiseAt act code addr } := by
  simp only [gangOp, alone, beq_self_eq_true, if_true] <;> rfl

section together
variable (shared : e.g.gang ≠ 2 ^ e.g.gid) (first : ∀ x ∈ e.t.latches, x.group ≠ e.g.uid)
include shared first

theorem notAlone : (e.g.gang == 2 ^ e.g.gid) = false ∧ (e.t.latches.any fun x => x.group == e.g.uid) = false :=
  ⟨beq_eq_false_iff_ne.2 shared, List.any_eq_false.2 fun x mem => by simpa using first x mem⟩

/-- R350: a group that others are still to join waits at the latch. -/
theorem gangOp_waits (incomplete : ((Env.latched e i act).latches.findSome? fun x => s.gangSet (Env.latched e i act) x.mask) = none) :
    gangOp i run s e act = { s := (s.setTeam (Env.latched e i act)).hold e.g.uid act .gang, stays := act } := by
  obtain ⟨together, first⟩ := notAlone shared first
  unfold Env.latched Env.arrival at incomplete
  simp only [gangOp, together, first, incomplete, Bool.false_eq_true, if_false]
  rfl

variable {xs : List Latch} (complete : ((Env.latched e i act).latches.findSome? fun x => s.gangSet (Env.latched e i act) x.mask) = some xs)
include complete

/-- R350: where arrivals differ, every member traps. -/
theorem gangOp_differs (differ : ∃ x ∈ xs, s.gangAgree (Env.arrival e i act) x = false) : gangOp i run s e act =
    { s := (xs.filter fun x => x != Env.arrival e i act).foldl (fun s x => s.gangTrap x .gangMismatch none)
        (s.dropLatches e.t.uid (xs.filter fun x => x != Env.arrival e i act))
      raises := e.raiseAll act .gangMismatch } := by
  obtain ⟨together, first⟩ := notAlone shared first
  have disagree : (xs.all fun x => s.gangAgree (Env.arrival e i act) x) = false := by
    obtain ⟨x, mem, other⟩ := differ
    exact List.all_eq_false.2 ⟨x, mem, by simpa using other⟩
  unfold Env.latched Env.arrival at complete
  unfold Env.arrival at disagree
  simp only [gangOp, together, first, complete, disagree, Bool.false_eq_true, if_false]
  rfl

variable (agree : ∀ x ∈ xs, s.gangAgree (Env.arrival e i act) x = true)
  (leads : s.env? (s.gangLead e.t.core (Env.arrival e i act) xs) = some f)
include agree leads

/-- R350: the last arrival performs for all of them. -/
theorem gangOp_done (performs : run (s.dropLatches e.t.uid (xs.filter fun x => x != Env.arrival e i act)) f (xs.map fun x => (x.group, x.lanes)) = .done u) :
    gangOp i run s e act = { s := (xs.filter fun x => x != Env.arrival e i act).foldl (fun s x => s.gangGo x) u } := by
  obtain ⟨together, first⟩ := notAlone shared first
  have agree := List.all_eq_true.2 agree
  unfold Env.latched Env.arrival at complete
  unfold Env.arrival at agree leads performs
  simp only [gangOp, together, first, complete, agree, leads, performs, Bool.false_eq_true, if_false, if_true]
  rfl

/-- R346, R350: one that waits for a tile keeps the arrivals of its members. -/
theorem gangOp_held (waits : run (s.dropLatches e.t.uid (xs.filter fun x => x != Env.arrival e i act)) f (xs.map fun x => (x.group, x.lanes)) = .waits u) :
    gangOp i run s e act = { s := u.updTeam e.t.uid fun t => { t with latches := e.t.latches }, waits := act } := by
  obtain ⟨together, first⟩ := notAlone shared first
  have agree := List.all_eq_true.2 agree
  unfold Env.latched Env.arrival at complete
  unfold Env.arrival at agree leads waits
  simp only [gangOp, together, first, complete, agree, leads, waits, Bool.false_eq_true, if_false, if_true]

end together
end gang

/-- Settles O38: a group alone, one that waits, and the last to arrive, by what the operation comes to. -/
theorem gangRendezvous : Obligations.GangRendezvous := by
  unfold Obligations.GangRendezvous
  intro i run s e act me t
  refine ⟨fun alone u => ⟨?_, ?_, ?_, ?_⟩, gangOp_waits, fun xs f u shared first => gangOp_done shared first,
    fun xs f u shared first => gangOp_held shared first, fun xs shared first => gangOp_differs shared first⟩
  · intro done; rw [gangOp_alone alone, done]
  · intro held; rw [gangOp_alone alone, held]
  · intro waits; rw [gangOp_alone alone, waits]
  · intro code addr traps; rw [gangOp_alone alone, traps]

end Sys2Proof.Laws
end

section
/-! The obligation about AZERO, MMA, ASCA, ARD and AWR (spec/18_tile.md R345 to R348, R351 to R353, R357). -/

namespace Sys2Proof.Laws
open Sys2Proof Sys2Proof.Machine

/-- An instruction that checks its registers and passes the gate of tile state performs on what it then sees. -/
theorem does_of_tiles {i : Instr} {h : Hdr} {rule : SpanRule} {body : Body} {ok : Env → Nat → Prop} {out : Env → Nat → Out}
    (runs : ∀ s, exec i s = issue i rule body s)
    (effect : ∀ e act, (∀ c ∈ e.st.contexts, c.2.absent = []) → ok e act → body e.st e act = out e act) : Does i h ok out :=
  does_of_issues runs fun _ lanes _ _ e0 e issues => effect e (e0.act h lanes) (issues_present issues)

section arithmetic
variable {h : Hdr} {an ap : BitVec 4} {f : Env}

theorem lanesIn_alone (uid act : Nat) : Machine.lanesIn [(uid, act)] uid = act := by
  simp [Machine.lanesIn]

theorem does_mma {m : MmaMod} {ta tb : BitVec 3} : Does (.mma h m an ta tb) h (fun e act =>
      let rs := accRegs (m.ty == .f64) an.toNat
      let fresh := m.new || m.nb
      e.tileBound [ta.toNat, tb.toNat] rs = false ∧ e.g.gang = 2 ^ e.g.gid
      ∧ (m.ty.narrow = true → fmtFits (m.ty == .n4) (e.g.fmtreg m.fmta.toNat) = true ∧ fmtFits (m.ty == .n4) (e.g.fmtreg m.fmtb.toNat) = true)
      ∧ e.Tiles act ([(true, ta.toNat), (true, tb.toNat)] ++ if fresh then [] else aRegs rs) (aRegs rs) (if fresh then rs else []) rs f) fun e act =>
    let rs := accRegs (m.ty == .f64) an.toNat
    let old := if m.new || m.nb then List.replicate (1024 * rs.length) 0 else f.t.accWords rs
    let r := mmaWords m (fmtOf (e.g.fmtreg m.fmta.toNat)) (fmtOf (e.g.fmtreg m.fmtb.toNat)) (f.t.tRows ta.toNat) (f.t.tRows tb.toNat) old
    { s := (f.st.putAcc f.t.uid true rs r.1).tileFlags [(e.g.uid, act)] r.2 } := by
  refine does_of_tiles (fun _ => rfl) fun e act present ⟨bound, alone, fits, tiles⟩ => ?_
  have formats : (m.ty.narrow && !(fmtFits (m.ty == .n4) (e.g.fmtreg m.fmta.toNat) && fmtFits (m.ty == .n4) (e.g.fmtreg m.fmtb.toNat))) = false := by
    cases narrow : m.ty.narrow with
    | false => rfl
    | true => obtain ⟨a, b⟩ := fits narrow; rw [a, b]; rfl
  simp only [bound, formats, Bool.false_eq_true, if_false]
  rw [gangOp_alone alone, lanesIn_alone, gangGate_of_tiles present tiles]

end arithmetic

/-- Settles O36: each instruction checks its registers, passes the gate, and writes what its rule gives. -/
theorem tileArithmetic : Obligations.TileArithmetic := by
  unfold Obligations.TileArithmetic
  intro h an ap f64 m ta tb row fm d a f
  refine ⟨does_of_tiles (fun _ => rfl) ?azero, does_mma, does_of_tiles (fun _ => rfl) ?asca, does_of_tiles (fun _ => rfl) ?ard,
    does_of_tiles (fun _ => rfl) ?awr⟩
  all_goals
    intro e act present ⟨bound, tiles⟩
    simp only [bound, Bool.false_eq_true, if_false]
    rw [tileGate_of_tiles present tiles]

end Sys2Proof.Laws
end

section
/-! The obligation about the start of ALD, AST and TLD (spec/18_tile.md R354, R355). -/

namespace Sys2Proof.Laws
open Sys2Proof Sys2Proof.Machine

/-- R355: a move that may start does so; a synchronous one holds its lanes. -/
theorem startMove_of_mayMove {e f : Env} {act : Nat} {i : Instr} {hd : Option (BitVec 4)} {m : AMap} {d : Option AMap} {am2 : List Byte} {am : BitVec 4}
    {b c : Opnd} {rows : Nat} {rd wr : List TReg} {need : List Nat} {t : State} (present : ∀ c ∈ e.st.contexts, c.2.absent = [])
    (may : e.MayMove act i hd m d (e.w64 (lowLane act) b) (if c.isS then e.w64 (lowLane act) c else 0) rows rd wr need f t) :
    startMove i hd m d am2 am b c rows rd wr need e.st e act =
      { s := if hd.isSome
          then t.beginMove f act i hd m d am.toNat am2 (e.w64 (lowLane act) b) (if c.isS then e.w64 (lowLane act) c else 0) rows rd wr
          else (t.beginMove f act i hd m d am.toNat am2 (e.w64 (lowLane act) b) (if c.isS then e.w64 (lowLane act) c else 0) rows rd wr).hold
            f.g.uid act (.engine t.uids)
        stays := if hd.isSome then 0 else act } := by
  obtain ⟨even, handle, tiles, room, unsealed, performed⟩ := may
  have aligned : (m.esz == 0 && e.w64 (lowLane act) b % 2 == 1) = false := by
    rw [Bool.and_eq_false_iff, beq_eq_false_iff_ne, beq_eq_false_iff_ne]
    exact even.imp_right fun even => by omega
  cases hd with
  | none =>
    simp only [startMove, aligned, Bool.false_eq_true, if_false]
    rw [tileGate_of_tiles present tiles]
    simp only [room, unsealed, performed, Option.isSome_none, Bool.false_eq_true, if_false]
    rfl
  | some n =>
    simp only [startMove, aligned, handle n rfl, Bool.false_eq_true, if_false]
    rw [tileGate_of_tiles present tiles]
    simp only [room, unsealed, performed, Option.isSome_some, Bool.false_eq_true, if_false, if_true]
    rfl

/-- Settles O37: each move by its map and its registers, then as any move starts. -/
theorem movesBegin : Obligations.MovesBegin := by
  unfold Obligations.MovesBegin
  intro h hd f64 an am rows1 b c m md f t cv after rs
  refine ⟨does_of_tiles (fun _ => rfl) ?ald, does_of_tiles (fun _ => rfl) ?ast, does_of_tiles (fun _ => rfl) ?tld, does_of_tiles (fun _ => rfl) ?tldts⟩
  case ald =>
    intro e act present ⟨(bound : e.tileBound [] (accRegs f64 an.toNat) = false), map, size, may⟩
    simp only [accMove, bound, map, size, bne_self_eq_false, Bool.false_eq_true, if_false, if_true]
    exact startMove_of_mayMove present may
  case ast =>
    intro e act present ⟨(bound : e.tileBound [] (accRegs f64 an.toNat) = false), map, size, may⟩
    simp only [accMove, bound, map, size, bne_self_eq_false, Bool.false_eq_true, if_false]
    exact startMove_of_mayMove present may
  case tld =>
    intro e act present ⟨bound, map, may⟩
    simp only [bound, map, Bool.not_false, Bool.true_and, Bool.false_eq_true, if_false]
    exact startMove_of_mayMove present may
  case tldts =>
    intro e act present ⟨map, destination, tile, size, may⟩
    simp only [map, destination, tile, size, Bool.not_true, Bool.false_and, Bool.false_or, bne_self_eq_false, Option.map_some, Bool.false_eq_true, if_false, if_true]
    exact startMove_of_mayMove present may

end Sys2Proof.Laws
end

section
/-! The obligation about ATTMRG, ATTFIN, ARSET and KVTR (spec/19_attention.md R368 to R373). -/

namespace Sys2Proof.Laws
open Sys2Proof Sys2Proof.Machine

section sets
variable {h : Hdr} {nh : BitVec 2} {ad asrc : BitVec 4} {f : Env}

/-- R360: the accumulators of the outputs of an attention set follow that of its state. -/
theorem setRegs_drop (aset n : Nat) : (setRegs aset n).drop 1 = (List.range n).map fun k => aset + 1 + k := by
  simp only [setRegs, List.range_succ_eq_map, List.map_cons, List.drop_one, List.tail_cons, List.map_map]
  exact List.map_congr_left fun k _ => by simp only [Function.comp_apply]; omega

/-- R368: the rows of ATTMRG lie in both sets, no other bit of their operand is set, and neither set is merged over. -/
theorem merge_good {x sr dr nr : Nat} {m n : Word} (some_row : 0 < nr) (source : sr + nr ≤ 32) (target : dr + nr ≤ 32)
    (word : x = sr + 2 ^ 8 * dr + 2 ^ 16 * nr) (merged : m ≠ 1) (merges : n ≠ 1) :
    (nr == 0 || decide (32 < nr) || decide (32 < sr + nr) || decide (32 < dr + nr) || x != sr + 2 ^ 8 * dr + 2 ^ 16 * nr || m == 1 || n == 1) = false := by
  rw [← word, bne_self_eq_false, beq_eq_false_iff_ne.2 merged, beq_eq_false_iff_ne.2 merges, beq_eq_false_iff_ne.2 (by omega),
    decide_eq_false (by omega), decide_eq_false (by omega), decide_eq_false (by omega)]
  rfl

theorem does_attmrg {b : Opnd} : Does (.attmrg h nh ad asrc b) h (fun e act =>
      let rd := setRegs ad.toNat (nh.toNat + 1)
      let rs := setRegs asrc.toNat (nh.toNat + 1)
      let x := e.w64 (lowLane act) b
      let sr := x % 2 ^ 5
      let dr := x / 2 ^ 8 % 2 ^ 5
      let nr := x / 2 ^ 16 % 2 ^ 6
      e.tileBound [] (rd ++ rs) = false ∧ e.Tiles act (aRegs (rd ++ rs)) (aRegs rd) [] rd f
      ∧ 0 < nr ∧ sr + nr ≤ 32 ∧ dr + nr ≤ 32 ∧ x = sr + 2 ^ 8 * dr + 2 ^ 16 * nr
      ∧ (f.t.accWords rd).getD 16 0 ≠ 1 ∧ (f.t.accWords rs).getD 16 0 ≠ 1) fun e act =>
    let rd := setRegs ad.toNat (nh.toNat + 1)
    let rs := setRegs asrc.toNat (nh.toNat + 1)
    let x := e.w64 (lowLane act) b
    let rows := (List.range (x / 2 ^ 16 % 2 ^ 6)).map fun k =>
      mergeRowWords (nh.toNat + 1) (f.t.accWords rd) (f.t.accWords rs) (x % 2 ^ 5 + k) (x / 2 ^ 8 % 2 ^ 5 + k)
    { s := (f.st.putAcc f.t.uid true rd (setWords (f.t.accWords rd) (rows.flatMap (·.1)))).tileFlags [(f.g.uid, act)] (rows.foldl (fun f r => orN f r.2) 0) } := by
  refine does_of_tiles (fun _ => rfl) fun e act present ⟨bound, tiles, some_row, source, target, word, merged, merges⟩ => ?_
  simp only [bound, Bool.false_eq_true, if_false]
  rw [tileGate_of_tiles present tiles]
  simp only [fld_zero]
  exact if_neg (Bool.eq_false_iff.1 (merge_good some_row source target word merged merges))

theorem does_attfin : Does (.attfin h nh ad) h (fun e act =>
      let rd := setRegs ad.toNat (nh.toNat + 1)
      e.tileBound [] rd = false ∧ e.Tiles act (aRegs rd) (aRegs (rd.drop 1)) [] (rd.drop 1) f ∧ (f.t.accWords rd).getD 16 0 ≠ 1) fun _ act =>
    let rd := setRegs ad.toNat (nh.toNat + 1)
    let ws := f.t.accWords rd
    let ls := (List.range 32).map fun i => (Fp.add false (val32 (ws.getD (32 * i + 2) 0)) (val32 (ws.getD (32 * i + 3) 0))).1
    let ys := ((chunks 32 (32 * (nh.toNat + 1)) (ws.drop 1024)).zip ((List.range (nh.toNat + 1)).flatMap fun _ => ls)).flatMap fun x => x.1.map fun w => attDiv (val32 w) x.2
    { s := (f.st.putAcc f.t.uid true (rd.drop 1) (ys.map fun y => BitVec.ofNat 32 y.1)).tileFlags [(f.g.uid, act)] (ys.foldl (fun f y => orN f y.2) 0) } := by
  refine does_of_tiles (fun _ => rfl) fun e act present ⟨bound, tiles, unmerged⟩ => ?_
  simp only [bound, ← setRegs_drop, Bool.false_eq_true, if_false]
  rw [tileGate_of_tiles present tiles]
  simp only [beq_eq_false_iff_ne.2 unmerged, Bool.false_eq_true, if_false]

theorem does_arset : Does (.arset h nh ad) h (fun e act =>
      let rd := setRegs ad.toNat (nh.toNat + 1)
      e.tileBound [] rd = false ∧ e.Tiles act [] (aRegs rd) rd rd f) fun _ _ =>
    { s := (f.st.putAcc f.t.uid true [ad.toNat] ((List.range 32).flatMap fun _ => 0xFF800000 :: List.replicate 31 (0 : Word))).putAcc
        f.t.uid false ((setRegs ad.toNat (nh.toNat + 1)).drop 1) [] } := by
  refine does_of_tiles (fun _ => rfl) fun e act present ⟨bound, tiles⟩ => ?_
  have lowest : BitVec.ofNat 32 negInf = 0xFF800000 := by decide
  simp only [bound, lowest, Bool.false_eq_true, if_false]
  rw [tileGate_of_tiles present tiles]

/-- R373: the lanes of KVTR in turn, each with the address that its lookup finds. -/
theorem does_kvtr {vhalf : Bool} {d a b : Opnd} {t u : State} {vs : List (Nat × Nat)} : Does (.kvtr h vhalf d a b) h (fun e act =>
      e.st.drain e.g.uid = (t, true) ∧
      lanesMade (fun s l => match s.kvLookup e.t.core e.gr.ctx e.t.uid e.gr.version 0 (e.w64 l a) (e.w32 l b) vhalf with
        | ((x, .ok), s) => .done x s
        | (_, s) => .wait s) t (lanesOf act) = some (u, vs)) fun e act =>
    { s := u.result e.g.uid h act .var (resOf d 2 (lowLane act) (ofLane vs 0)) 0 } := by
  refine does_of_lanes (fun _ => rfl) fun e act lanes _ ⟨performed, made⟩ => ?_
  have looked := foldl_of_lanesMade (step := fun (r : Out × List (Nat × Nat)) l =>
      match r.1.s.kvLookup e.t.core e.gr.ctx e.t.uid e.gr.version 0 (e.w64 l a) (e.w32 l b) vhalf with
      | ((x, .ok), s) => ({ r.1 with s }, r.2 ++ [(l, x)])
      | ((_, .absent va p), s) => ({ r.1 with s, raises := r.1.raises ++ [{ lane := l, code := .pageAbsent, addr := va, absent := some p }] }, r.2)
      | ((_, .error c va), s) =>
        ({ r.1 with s, raises := r.1.raises ++ [{ lane := l, code := c, addr := if c == .kvDepth then (e.pc l).toNat else va, absent := none }] }, r.2)
      | ((_, .wait), s) => ({ r.1 with s, waits := maskOr r.1.waits (2 ^ l) }, r.2))
    (g := fun l x => (l, x)) (fun r l x s done => by
      split at done
      next found => cases done; simp only [found]
      next => cases done) made
  simp only [performed]
  refine (congrArg (fun r : Out × List (Nat × Nat) =>
    ({ r.1 with s := r.1.s.result e.g.uid h (maskOfVals r.2) .var (resOf d 2 (lowLane (maskOfVals r.2)) (valOf r.2)) 0 } : Out)) looked).trans ?_
  simp only [List.map_id', maskOfVals_eq lanes (lanesMade_lanes made)]
  rfl

end sets

/-- Settles O40: each instruction on a set checks it, passes the gate and writes what its rule gives; KVTR is its lanes in turn. -/
theorem attentionSets : Obligations.AttentionSets := by
  unfold Obligations.AttentionSets
  intro h nh ad asrc vhalf d a b f t u vs n rd rs
  exact ⟨does_attmrg, does_attfin, does_arset, does_kvtr⟩

end Sys2Proof.Laws
end

section
/-! SUPPORT. Performing pending accesses leaves the contexts, on which what must be made present before a tile is touched depends
(spec/14_memory.md R265, spec/15_ordering.md R287). -/

namespace Sys2Proof.Laws
open Sys2Proof Sys2Proof.Machine

/-! ### Performing pending accesses leaves the contexts -/

theorem deliver_contexts (s : State) (group : Nat) (r : Reg) (k l n : Nat) (w : Word) : (s.deliver group r k l n w).contexts = s.contexts := by
  unfold State.deliver; split <;> rfl

theorem deliverN_contexts (s : State) (group : Nat) (r : Reg) (l fl x n : Nat) : (s.deliverN group r l fl x n).contexts = s.contexts := by
  induction n generalizing s with
  | zero => rfl
  | succ n ih => rw [State.deliverN, ih, deliver_contexts]

theorem sinkWord_contexts (s : State) (n : Nat) (f : Flight) (r : Reg) (k l : Nat) : (s.sinkWord n f r k l).contexts = s.contexts := by
  simp only [State.sinkWord]
  split
  · split <;> rfl
  · rfl

theorem land_contexts (s : State) (n : Nat) : (s.land n).contexts = s.contexts := by
  unfold State.land
  split
  · rfl
  next f _ =>
    split
    · rfl
    · extract_lets sunk owed flagged
      have same : sunk.contexts = s.contexts := foldl_proj State.contexts _ (fun s x => by
        split
        case h_1 | h_2 | h_3 | h_4 => exact foldl_proj State.contexts _ (fun s l => sinkWord_contexts ..) _ s
        case h_5 => rw [sinkWord_contexts, sinkWord_contexts]
        case h_6 => exact sinkWord_contexts ..
        case h_7 => rfl) _ s
      split <;> exact same

theorem unwind_contexts (s : State) (n m : Nat) : (s.unwind n m).contexts = s.contexts := by
  unfold State.unwind
  split
  · rfl
  next f _ =>
    extract_lets mm low back fallen rest
    exact foldl_proj State.contexts _ (fun s x => by
      split
      case h_1 | h_2 | h_3 => exact foldl_proj State.contexts _ (fun s l => deliver_contexts ..) _ s
      case h_4 =>
        split
        · rw [deliver_contexts, deliver_contexts]
        · rfl
      case h_5 =>
        split
        · exact deliver_contexts ..
        · rfl
      case h_6 => rfl) _ s

theorem failLanes_contexts (s : State) (flight m : Nat) (code : TrapCode) (addr : Nat → Nat) :
    (s.failLanes flight m code addr).contexts = s.contexts := by
  unfold State.failLanes
  split
  · rfl
  · exact unwind_contexts ..

theorem wakeMwait_contexts (s : State) (uid l status : Nat) : (s.wakeMwait uid l status).contexts = s.contexts := by
  unfold State.wakeMwait
  split
  · exact (land_contexts ..).trans (deliver_contexts ..)
  · rfl

theorem fireLine_contexts (s : State) (line : Nat) (on : Nat → Bool) : (s.fireLine line on).contexts = s.contexts := by
  simp only [State.fireLine]
  rw [foldl_proj State.contexts _ (fun s x => foldl_proj State.contexts _ (fun s l => wakeMwait_contexts ..) _ s),
    foldl_proj State.contexts _ (fun s x => State.updGroup_contexts ..)]

theorem dropL1_contexts (s : State) (core : Nat) (p : L1Line → Bool) : (s.dropL1 core p).contexts = s.contexts :=
  foldl_proj State.contexts _ (fun _ _ => fireLine_contexts ..) _ _

theorem hostUse_contexts (s : State) (pol : Pol) (loc n : Nat) : (s.hostUse pol loc n).contexts = s.contexts := by
  unfold State.hostUse; split <;> rfl

theorem fillL1_contexts (s : State) (core ctx va loc n : Nat) : (s.fillL1 core ctx va loc n).contexts = s.contexts := by
  simp only [State.fillL1]
  split
  · exact hostUse_contexts ..
  · rw [State.updCore_contexts]
    split
    · exact hostUse_contexts ..
    · rw [dropL1_contexts, hostUse_contexts]

theorem returnLine_contexts {s t : State} {x : VLine} (back : s.returnLine x = some t) : t.contexts = s.contexts := by
  simp only [State.returnLine] at back
  split_ifs at back
  · cases back; rfl
  · cases back; rfl
  · split at back
    · cases back; rfl
    · split_ifs at back
      cases back; rfl

theorem useLine_contexts (s : State) (v line : Nat) : (s.useLine v line).contexts = s.contexts := by
  unfold State.useLine
  cases used : s.useLine? v line with
  | none => rfl
  | some t =>
    simp only [State.useLine?] at used
    split at used
    · cases used; rfl
    · split_ifs at used
      · exact (returnLine_contexts used).trans rfl
      · cases used; rfl

theorem useView_contexts (s : State) (v : Nat) (t : Tr) (n : Nat) : (s.useView v t n).contexts = s.contexts := by
  simp only [State.useView]
  split_ifs
  · rfl
  · exact foldl_proj State.contexts _ (fun s _ => useLine_contexts s _ _) _ s

theorem loadAt_contexts (s : State) (core ctx ver va n : Nat) (pol : Pol) (t : Tr) : (s.loadAt core ctx ver va n pol t).2.contexts = s.contexts := by
  unfold State.loadAt
  split
  · extract_lets filled
    have same : filled.contexts = s.contexts := by
      unfold filled
      split
      · rfl
      · exact fillL1_contexts ..
    split <;> exact same
  · exact (hostUse_contexts ..).trans (useView_contexts ..)

theorem poke_contexts (s : State) (loc : Nat) (b : Byte) : (s.poke loc b).contexts = s.contexts := by
  unfold State.poke; split <;> rfl

theorem withFrames_contexts (s : State) (fs : List Frame) : ({ s with frames := fs } : State).contexts = s.contexts := rfl

theorem viewPoke_contexts (s : State) (v : Nat) (t : Tr) (b : Byte) : (s.viewPoke v t b).contexts = s.contexts := by
  unfold State.viewPoke
  extract_lets v
  split
  · exact poke_contexts ..
  · split
    · split
      next => rw [withFrames_contexts, poke_contexts]
      next => rfl
    · rfl

theorem viewPokeN_contexts (bs : List Byte) (s : State) (v : Nat) (t : Tr) : (s.viewPokeN v t bs).contexts = s.contexts := by
  induction bs generalizing s t with
  | nil => rfl
  | cons b bs ih => rw [State.viewPokeN, ih, viewPoke_contexts]

theorem storeL1_contexts (s : State) (core : Nat) (pol : Pol) (loc : Nat) (bs : List Byte) : (s.storeL1 core pol loc bs).contexts = s.contexts := by
  unfold State.storeL1
  split
  · rfl
  · exact dropL1_contexts ..

theorem storeAt_contexts (s : State) (core ver : Nat) (pol : Pol) (t : Tr) (bs : List Byte) : (s.storeAt core ver pol t bs).contexts = s.contexts := by
  have poked : ((s.hostUse pol t.loc bs.length).viewPokeN ver t bs).contexts = s.contexts := by rw [viewPokeN_contexts, hostUse_contexts]
  simp only [State.storeAt, fireLine_contexts]
  split
  · rw [storeL1_contexts, poked]
  · exact poked

theorem clearWhole_contexts (s : State) (core ver : Nat) (pol : Pol) (locs : List Nat) : (s.clearWhole core ver pol locs).contexts = s.contexts := by
  simp only [State.clearWhole, State.clearL1Poison, State.clearView, State.clearPoison, State.markWhole]
  split_ifs <;> rfl

theorem spanOn_contexts (s : State) (uid : Nat) : (s.spanOn uid).contexts = s.contexts := by
  unfold State.spanOn; split <;> rfl

theorem giveLoad_contexts (s : State) (group lanes : Nat) (sz : Sz) (d : Reg) (fl l : Nat) (bs : List Byte) :
    (s.giveLoad group lanes sz d fl l bs).contexts = s.contexts := by
  unfold State.giveLoad
  extract_lets owed v
  split
  · split
    · rw [deliver_contexts, deliver_contexts]
    · rfl
  · split
    · exact deliverN_contexts ..
    · rfl

theorem readPiece_contexts (s : State) (p : PStore) (x : Piece) : (s.readPiece p x).2.contexts = s.contexts := by
  unfold State.readPiece
  split
  · rfl
  · exact loadAt_contexts ..

theorem loadPiece_contexts (s : State) (p : PStore) (sz : Sz) (d : Reg) (fl : Nat) (x : Piece) : (s.loadPiece p sz d fl x).contexts = s.contexts := by
  have read := readPiece_contexts s p x
  unfold State.loadPiece
  split
  next got => rw [failLanes_contexts, ← read, got]
  next got => rw [giveLoad_contexts, ← read, got]

theorem storePiece_contexts (s : State) (p : PStore) (x : Piece) : (s.storePiece p x).contexts = s.contexts := by
  unfold State.storePiece
  split
  · rfl
  · exact storeAt_contexts ..

theorem spanHalf_contexts (s : State) (n : Nat) (p : PStore) (d : Reg) (x : Piece) : (s.spanHalf n p d x).contexts = s.contexts := by
  have read := readPiece_contexts s p x
  unfold State.spanHalf
  split
  next got => rw [State.updSpan_contexts, ← read, got]
  next got =>
    rw [got] at read
    split
    · split
      · split
        · exact read
        · exact (spanOn_contexts ..).trans read
      · exact read
    · exact read

theorem atomicPiece_contexts (s : State) (p : PStore) (m : AMod) (x : Piece) : (s.atomicPiece p m x).2.contexts = s.contexts := by
  unfold State.atomicPiece
  split
  · rfl
  · unfold State.atomicAt
    split
    · rfl
    · exact (storeAt_contexts ..).trans (useView_contexts ..)

theorem perform1_contexts (s : State) (n : Nat) : (s.perform1 n).1.contexts = s.contexts := by
  simp only [State.perform1]
  split
  · rfl
  next p _ =>
    split
    · rfl
    · split
      · split
        · split
          · exact spanHalf_contexts ..
          · rfl
        · exact foldl_proj State.contexts _ (fun s x => loadPiece_contexts ..) _ _
      · have stored := foldl_proj State.contexts _ (fun s x => storePiece_contexts s p x) p.pieces { s with stores := Tab.del s.stores n }
        rw [spanOn_contexts]
        split
        · split <;> exact stored
        · rw [clearWhole_contexts]
          split <;> exact stored
      next m d fl _ _ =>
        refine foldl_proj State.contexts _ (fun s x => ?_) _ _
        have performed := atomicPiece_contexts s p m x
        split
        next got => rw [deliverN_contexts, ← performed, got]
        next got => rw [failLanes_contexts, ← performed, got]

theorem performAll_contexts (ns : List Nat) (s : State) : (s.performAll ns).1.contexts = s.contexts := by
  induction ns generalizing s with
  | nil => rfl
  | cons n ns ih =>
    have one := perform1_contexts s n
    unfold State.performAll
    split
    next got => rw [ih, ← one, got]
    next => exact one

/-- R288: making a group's accesses performed leaves the contexts as they were. -/
theorem drain_contexts {s t : State} {group : Nat} {b : Bool} (drained : s.drain group = (t, b)) : t.contexts = s.contexts := by
  have same := performAll_contexts (s.before fun _ x => x.group == group || (x.inL1 && some x.core ==
    match Tab.get? s.groups group, Tab.get? s.spans group with
    | some g, _ => some (s.coreOfGroup g)
    | none, some p => p.team.bind fun t => (Tab.get? s.teams t).map (·.core)
    | none, none => none)) s
  rw [← same]
  exact congrArg (·.1.contexts) drained.symm

end Sys2Proof.Laws
end

section
/-! The obligation about ATTS and ATTV (spec/19_attention.md R361 to R367). -/

namespace Sys2Proof.Laws
open Sys2Proof Sys2Proof.Machine

section attention
variable {e f : Env} {act : Nat} {i : Instr} {m : AttMod} {src : KvSrc} {c : Opnd} {rd wr need : List TReg} {marks : List Nat} {bs : List Byte} {t : State}

theorem Named.drain {u : Nat} {s t : State} {group : Nat} {b : Bool} (named : Named u s) (drained : s.drain group = (t, b)) : Named u t := by
  have kept := named.performAll (s.before fun _ x => x.group == group || (x.inL1 && some x.core ==
    match Tab.get? s.groups group, Tab.get? s.spans group with
    | some g, _ => some (s.coreOfGroup g)
    | none, some p => p.team.bind fun t => (Tab.get? s.teams t).map (·.core)
    | none, none => none))
  exact (congrArg (·.1) drained : (s.drain group).1 = t) ▸ kept

theorem tiles_uid {ren need : List Nat} (named : Named e.g.uid e.st) (tiles : e.Tiles act rd wr ren need f) : f.g.uid = e.g.uid := by
  have kept : Named e.g.uid (e.tileState act need) := by
    unfold Env.tileState
    split
    · exact named
    · exact named.congr (State.updCore_groups ..)
  exact kept.uid_eq _ (env?_eq_some tiles.2.2).2.1

/-- R367: an operation of attention that may start does, alone and once its group's accesses are performed. -/
theorem startAtt_of_mayAttend {pre : Env → Nat → Bool} (present : ∀ c ∈ e.st.contexts, c.2.absent = []) (named : Named e.g.uid e.st)
    (may : e.MayAttend act m src c rd wr (need.map (·.2)) bs t f) (allowed : pre f (e.w64 (lowLane act) c / 2 ^ 32) = true) :
    startAtt i m src c rd wr need marks pre e.st e act =
      { s := if m.hd.isSome then beginAtt f act i m src e (e.w64 (lowLane act) c) bs wr marks
          else (beginAtt f act i m src e (e.w64 (lowLane act) c) bs wr marks).hold e.g.uid act (.engine f.st.uids)
        stays := if m.hd.isSome then 0 else act } := by
  obtain ⟨alone, source, handle, performed, tiles, room⟩ := may
  have own : f.g.uid = e.g.uid := tiles_uid (e := { e with st := t }) (named.drain performed) tiles
  have gate : ∀ k, gangGate t e act rd wr [] (need.map (·.2)) k = k f.st f :=
    gangGate_of_tiles (e := { e with st := t }) (drain_contexts performed ▸ present) tiles
  have free := room (i := i)
  have others : List.filter (fun g => g != f.g.uid) [e.g.uid] = [] := by rw [own, List.filter_singleton, bne_self_eq_false]; rfl
  have open_ : (match m.hd with | some n => e.createWaits n.toNat | none => false) = false := by
    cases hd : m.hd with
    | none => rfl
    | some n => exact handle n hd
  unfold startAtt
  simp only [source]
  refine (if_neg (Bool.eq_false_iff.1 open_)).trans ?_
  simp only [performed]
  rw [gangOp_alone alone]
  simp only [List.find?_cons, beq_self_eq_true, Option.map_some, Option.getD_some, source, gate, allowed, Bool.not_true, Bool.false_eq_true, if_false]
  refine (congrArg (fun r : GangEnd => match r with
    | .done s => ({ s } : Out)
    | .held s => { s, stays := act }
    | .waits s => { s, waits := act }
    | .trap s code addr => { s, raises := e.raiseAt act code addr }) (if_neg (Bool.eq_false_iff.1 free))).trans ?_
  simp only [List.map_cons, List.map_nil, others, List.foldl_cons, List.foldl_nil]
  unfold beginAtt attRangesOf attOp
  cases m.hd <;> rfl

end attention

/-- Settles O39: each passes its checks and starts alone, ATTV where the scores it reads are those of its block. -/
theorem attentionBegins : Obligations.AttentionBegins := by
  unfold Obligations.AttentionBegins
  intro h m causal aset tq tp src c window bs t f n rs after
  refine ⟨does_of_issues (fun _ => rfl) ?atts, does_of_issues (fun _ => rfl) ?attv⟩
  case atts =>
    intro s lanes pc next e0 e issues ⟨(bound : e.tileBound ((List.range n).map (tq.toNat + ·) ++ [tp.toNat]) rs = false), may⟩
    simp only [n, rs] at bound
    simp only [bound, Bool.false_eq_true, if_false]
    exact startAtt_of_mayAttend (issues_present issues) (issues_named issues) may rfl
  case attv =>
    intro s lanes pc next e0 e issues ⟨(bound : e.tileBound [tp.toNat] rs = false), may, started, position, keys⟩
    simp only [rs] at bound
    have same : (aRegs (setRegs aset.toNat (m.nh.toNat + 1))).map (·.2) = setRegs aset.toNat (m.nh.toNat + 1) := by
      simp only [aRegs, List.map_map, Function.comp_def, List.map_id']
    refine (if_neg (Bool.eq_false_iff.1 bound)).trans (startAtt_of_mayAttend (issues_present issues) (issues_named issues) (by rw [same]; exact may) ?_)
    simp only [position, keys, beq_self_eq_true, bne_iff_ne.2 started, Bool.and_self]
end Sys2Proof.Laws
end

section
/-! The obligations about SPLNCH, RESOLVE, VQRY and VABORT (spec/20_version.md R381 to R398). -/

namespace Sys2Proof.Laws
open Sys2Proof Sys2Proof.Machine

section versions
variable {e : Env} {s : State}

/-- R381: a version that is being squashed or has been. -/
theorem leaving_iff (s : State) (c : Nat) : (match Tab.get? s.versions c with | some x => x.state == 3 || x.state == 4 | none => false) = true
    ↔ ∃ x, Tab.get? s.versions c = some x ∧ (x.state = 3 ∨ x.state = 4) := by
  cases Tab.get? s.versions c <;> simp

theorem closed_iff (s : State) (q : Nat) : (match Tab.get? s.queues q with | some k => k.closed | none => true) = true
    ↔ ∀ k, Tab.get? s.queues q = some k → k.closed = true := by
  cases Tab.get? s.queues q <;> simp

theorem full_iff (s : State) (ctx c : Nat) :
    ((match Tab.get? s.versions c with | some x => x.state == 3 || x.state == 4 | none => false) || !s.verRoom ctx c || s.freeNum.isNone) = true
    ↔ (∃ x, Tab.get? s.versions c = some x ∧ (x.state = 3 ∨ x.state = 4)) ∨ s.verRoom ctx c = false ∨ s.freeNum = none := by
  rw [Bool.or_eq_true, Bool.or_eq_true, leaving_iff, Bool.not_eq_true', Option.isNone_iff_eq_none, or_assoc]

theorem twin_iff (s : State) (ctx c slot pred : Nat) :
    (s.versions.any fun x => x.2.ctx == ctx && s.eff x.2.parent == c && x.2.slot == slot && x.2.opened && x.2.state == 0 && x.2.pred == pred) = true
    ↔ ∃ x ∈ s.versions, x.2.ctx = ctx ∧ s.eff x.2.parent = c ∧ x.2.slot = slot ∧ x.2.opened = true ∧ x.2.state = 0 ∧ x.2.pred = pred := by
  simp only [List.any_eq_true, Bool.and_eq_true, beq_iff_eq, and_assoc]

end versions

section splnch
variable {h : Hdr} {d : Opnd} {e : Env} {act rec va pred slot n fl tag : Nat} {nb : Bool} {t u v w : State} {pl : Tr} {r : Record} {x : Ver}
  {go : State → Nat → Record → Out}

theorem splnchBody_fresh (waiting : e.st.splaunching e.g.uid act (e.pc (lowLane act)).toNat = none) (record : rec % 64 = 0) (aligned : va % 8 = 0)
    (inside : va < 2 ^ 49) (checked : e.st.predCheck e va = (.pass pl, t)) :
    splnchBody h d rec va pred slot nb e.st e act = splnchTake h d rec va pred slot nb (fun s v r => splnchGo h d e act pl s v pred r) t e act := by
  simp only [splnchBody, waiting, record, aligned, decide_eq_false (Nat.not_le.2 inside), bne_self_eq_false, Bool.or_self, Bool.false_eq_true, if_false,
    splnchChecked, checked]

theorem splnchBody_record (waiting : e.st.splaunching e.g.uid act (e.pc (lowLane act)).toNat = none) (record : rec % 64 ≠ 0) :
    splnchBody h d rec va pred slot nb e.st e act = { s := e.st, raises := e.raiseAt act .misaligned (some rec) } := by
  simp only [splnchBody, waiting, bne_iff_ne.2 record, if_true]

theorem splnchBody_address (waiting : e.st.splaunching e.g.uid act (e.pc (lowLane act)).toNat = none) (record : rec % 64 = 0)
    (address : va % 8 ≠ 0 ∨ 2 ^ 49 ≤ va) : splnchBody h d rec va pred slot nb e.st e act = { s := e.st, raises := e.raiseAt act .misaligned (some va) } := by
  have bad : (va % 8 != 0 || decide (2 ^ 49 ≤ va)) = true := by rwa [Bool.or_eq_true, bne_iff_ne, decide_eq_true_iff]
  simp only [splnchBody, waiting, record, bne_self_eq_false, bad, Bool.false_eq_true, if_false, if_true]

theorem splnchBody_again (waiting : e.st.splaunching e.g.uid act (e.pc (lowLane act)).toNat = some (n, x, r))
    (checked : e.st.predCheck e x.launchVa = (.pass pl, t)) : splnchBody h d rec va pred slot nb e.st e act = splnchGo h d e act pl t n x.pred r := by
  simp only [splnchBody, waiting, splnchChecked, checked]

theorem splnchGo_starts (starts : t.splaunch e (e.writer (lowLane act)) n pred pl r = (some tag, w)) :
    splnchGo h d e act pl t n pred r = { s := (w.unborn e.g.uid act).result e.g.uid h act .var (resOf d 2 (lowLane act) fun _ => 2 ^ 40 * n + tag % 2 ^ 40) 0 } := by
  simp only [splnchGo, starts, launchWord_taken]
  rfl

theorem splnchGo_waits (waits : t.splaunch e (e.writer (lowLane act)) n pred pl r = (none, w)) :
    splnchGo h d e act pl t n pred r = { s := w, waits := act } := by
  simp only [splnchGo, waits]

/-- R381: what SPLNCH answers in place of a tag. -/
def splnchTells (h : Hdr) (d : Opnd) (s : State) (e : Env) (act x : Nat) : Out := { s := s.result e.g.uid h act .var (resOf d 2 (lowLane act) fun _ => x) 0 }

theorem splnchTake_bad (released : t.release e.g.uid .device = (u, true)) (taken : u.takeRecord e.gr.home e.gr.ctx e.gr.version rec = (.bad fl, v)) :
    splnchTake h d rec va pred slot nb go t e act = splnchTells h d v e act (2 ^ 56 * 2) := by
  simp only [splnchTake, released, taken, launchWord_refused 0 (by decide : 2 ≠ 0)]
  rfl

/-- R381: the checks of a launch whose record is good, in order, each with the status that answers it. -/
theorem splnchTake_good (released : t.release e.g.uid .device = (u, true)) (taken : u.takeRecord e.gr.home e.gr.ctx e.gr.version rec = (.ok r, v)) :
    splnchTake h d rec va pred slot nb go t e act =
      let y := v.sweepVersions
      let c := y.eff e.gr.version
      if 4 ≤ e.gr.level then splnchTells h d y e act (2 ^ 56 * 4)
      else if (match Tab.get? y.queues e.gr.queue with | some k => k.closed | none => true) = true then splnchTells h d y e act (2 ^ 56 * 3)
      else if ((match Tab.get? y.versions c with | some x => x.state == 3 || x.state == 4 | none => false) || !y.verRoom e.gr.ctx c || y.freeNum.isNone) = true
        then splnchTells h d y e act (2 ^ 56 * 5)
      else if (y.versions.any fun x => x.2.ctx == e.gr.ctx && y.eff x.2.parent == c && x.2.slot == slot && x.2.opened && x.2.state == 0 && x.2.pred == pred) = true
        then splnchTells h d y e act (2 ^ 56 * 6)
      else if (!y.canBuffer e.gr.queue) = true then (if nb = true then splnchTells h d y e act (2 ^ 56) else { s := y, waits := act })
      else go { y with
          versions := Tab.set y.versions (y.freeNum.getD 0) { ctx := e.gr.ctx, state := 0, parent := c, slot, opened := true, pred, target := 0, launchVa := va } } (y.freeNum.getD 0) r := by
  simp only [splnchTake, released, taken, launchWord_refused 0 (by decide : 4 ≠ 0), launchWord_refused 0 (by decide : 3 ≠ 0),
    launchWord_refused 0 (by decide : 5 ≠ 0), launchWord_refused 0 (by decide : 6 ≠ 0), launchWord_refused 0 (by decide : 1 ≠ 0), Nat.mul_one]
  rfl

/-- R381: a launch that passes every check opens its version. -/
theorem splnchTake_opens (released : t.release e.g.uid .device = (u, true)) (taken : u.takeRecord e.gr.home e.gr.ctx e.gr.version rec = (.ok r, v))
    (level : e.gr.level < 4) (closed : ¬ ∀ k, Tab.get? v.sweepVersions.queues e.gr.queue = some k → k.closed = true)
    (full : ¬ ((∃ x, Tab.get? v.sweepVersions.versions (v.sweepVersions.eff e.gr.version) = some x ∧ (x.state = 3 ∨ x.state = 4))
      ∨ v.sweepVersions.verRoom e.gr.ctx (v.sweepVersions.eff e.gr.version) = false ∨ v.sweepVersions.freeNum = none))
    (twin : ¬ ∃ x ∈ v.sweepVersions.versions, x.2.ctx = e.gr.ctx ∧ v.sweepVersions.eff x.2.parent = v.sweepVersions.eff e.gr.version ∧ x.2.slot = slot
      ∧ x.2.opened = true ∧ x.2.state = 0 ∧ x.2.pred = pred) (room : v.sweepVersions.canBuffer e.gr.queue = true) (number : v.sweepVersions.freeNum = some n) :
    splnchTake h d rec va pred slot nb go t e act = go { v.sweepVersions with
      versions := Tab.set v.sweepVersions.versions n
        { ctx := e.gr.ctx, state := 0, parent := v.sweepVersions.eff e.gr.version, slot, opened := true, pred, target := 0, launchVa := va } } n r := by
  rw [splnchTake_good released taken]
  refine (if_neg (Nat.not_le.2 level)).trans ((if_neg (mt (closed_iff ..).1 closed)).trans ((if_neg (mt (full_iff ..).1 full)).trans
    ((if_neg (mt (twin_iff ..).1 twin)).trans ((if_neg ?_).trans ?_))))
  · rw [room]; exact Bool.false_ne_true
  · rw [number]; rfl

/-- R390: a version that is squashed before its grid starts leaves a child that completes as a squashed one does. -/
theorem splaunch_dead {me : Writer} {p : Nat} (found : Tab.get? u.versions n = some x) (dead : x.state = 3 ∨ x.state = 4) :
    u.splaunch e me n p pl r = (some u.uids, { u.setLaunch n none with
      uids := u.uids + 1
      children := Tab.set u.children u.uids
        { ctx := e.gr.ctx, parent := e.gr.uid, queue := e.gr.queue, pos := e.gr.pos, home := e.gr.home, grid := none, marker := none
          done := if u.squashes.any fun q => q.vers.contains n then none else some 0xF4, ver := n } }) := by
  have gone : (x.state == 3 || x.state == 4) = true := by rw [Bool.or_eq_true, beq_iff_eq, beq_iff_eq]; exact dead
  simp only [State.splaunch, found, gone, if_true]
  rfl

end splnch

/-- Settles O43: SPLNCH takes its record, opens its version and starts its grid, or answers the first check that fails. -/
theorem speculativeLaunch : Obligations.SpeculativeLaunch := by
  unfold Obligations.SpeculativeLaunch
  intro h d a b c slot ps nb lit t u v w pl r born n tag fl rec_ va pred who tells waiting passes again takes y parent leaving closed full twin made opens
  refine ⟨does_of_issue (fun _ => rfl) ?starts, does_of_issue (fun _ => rfl) ?stalls, does_of_issue (fun _ => rfl) ?resumes,
    does_of_issue (fun _ => rfl) ?stays, fun e me x p found dead => splaunch_dead found dead, does_of_issue (fun _ => rfl) ?bad,
    does_of_issue (fun _ => rfl) ?deep, does_of_issue (fun _ => rfl) ?shut, does_of_issue (fun _ => rfl) ?full, does_of_issue (fun _ => rfl) ?twin,
    does_of_issue (fun _ => rfl) ?buffers, does_of_issue (fun _ => rfl) ?record, does_of_issue (fun _ => rfl) ?address⟩
  case starts =>
    rintro e act ⟨⟨⟨waiting, ⟨record, aligned, inside, checked⟩, released, taken⟩, level, closed, full, twin, room, number⟩, starts⟩
    exact (splnchBody_fresh waiting record aligned inside checked).trans ((splnchTake_opens released taken level closed full twin room number).trans
      (splnchGo_starts starts))
  case stalls =>
    rintro e act ⟨⟨⟨waiting, ⟨record, aligned, inside, checked⟩, released, taken⟩, level, closed, full, twin, room, number⟩, stalls⟩
    exact (splnchBody_fresh waiting record aligned inside checked).trans ((splnchTake_opens released taken level closed full twin room number).trans
      (splnchGo_waits stalls))
  case resumes =>
    rintro e act ⟨⟨waiting, checked⟩, starts⟩
    exact (splnchBody_again waiting checked).trans (splnchGo_starts starts)
  case stays =>
    rintro e act ⟨⟨waiting, checked⟩, stalls⟩
    exact (splnchBody_again waiting checked).trans (splnchGo_waits stalls)
  case bad =>
    rintro e act ⟨waiting, ⟨record, aligned, inside, checked⟩, released, taken⟩
    exact (splnchBody_fresh waiting record aligned inside checked).trans (splnchTake_bad released taken)
  case deep =>
    rintro e act ⟨⟨waiting, ⟨record, aligned, inside, checked⟩, released, taken⟩, level⟩
    exact (splnchBody_fresh waiting record aligned inside checked).trans ((splnchTake_good released taken).trans (if_pos level))
  case shut =>
    rintro e act ⟨⟨waiting, ⟨record, aligned, inside, checked⟩, released, taken⟩, level, closed⟩
    exact (splnchBody_fresh waiting record aligned inside checked).trans ((splnchTake_good released taken).trans
      ((if_neg (Nat.not_le.2 level)).trans (if_pos ((closed_iff ..).2 closed))))
  case full =>
    rintro e act ⟨⟨waiting, ⟨record, aligned, inside, checked⟩, released, taken⟩, level, closed, full⟩
    exact (splnchBody_fresh waiting record aligned inside checked).trans ((splnchTake_good released taken).trans
      ((if_neg (Nat.not_le.2 level)).trans ((if_neg (mt (closed_iff ..).1 closed)).trans (if_pos ((full_iff ..).2 full)))))
  case twin =>
    rintro e act ⟨⟨waiting, ⟨record, aligned, inside, checked⟩, released, taken⟩, level, closed, full, twin⟩
    exact (splnchBody_fresh waiting record aligned inside checked).trans ((splnchTake_good released taken).trans
      ((if_neg (Nat.not_le.2 level)).trans ((if_neg (mt (closed_iff ..).1 closed)).trans ((if_neg (mt (full_iff ..).1 full)).trans
        (if_pos ((twin_iff ..).2 twin))))))
  case buffers =>
    rintro e act ⟨⟨waiting, ⟨record, aligned, inside, checked⟩, released, taken⟩, level, closed, full, twin, room⟩
    exact (splnchBody_fresh waiting record aligned inside checked).trans ((splnchTake_good released taken).trans
      ((if_neg (Nat.not_le.2 level)).trans ((if_neg (mt (closed_iff ..).1 closed)).trans ((if_neg (mt (full_iff ..).1 full)).trans
        ((if_neg (mt (twin_iff ..).1 twin)).trans (if_pos (by rw [room]; rfl)))))))
  case record =>
    rintro e act ⟨waiting, record⟩
    exact splnchBody_record waiting record
  case address =>
    rintro e act ⟨waiting, record, address⟩
    exact splnchBody_address waiting record address

/-! ### RESOLVE, VQRY and VABORT -/

/-- R398: VABORT names no version that is alive, of its context and below the caller's. -/
theorem abortable_iff {s : State} {ctx mine v : Nat} {x : Ver} :
    (x.state != 0 || x.ctx != ctx || !(mine == 0 || s.under mine 1100 v)) = true
    ↔ x.state ≠ 0 ∨ x.ctx ≠ ctx ∨ (mine ≠ 0 ∧ s.under mine 1100 v = false) := by
  simp only [Bool.or_eq_true, bne_iff_ne, Bool.not_eq_true', Bool.or_eq_false_iff, beq_eq_false_iff_ne, or_assoc]

/-- Settles O44: RESOLVE, VQRY and VABORT by the branches of what they find among the versions. -/
theorem resolution : Obligations.Resolution := by
  unfold Obligations.Resolution
  intro h d a b slot x tells st parent ours kids wins leaving
  refine ⟨does_of_issue (fun _ => rfl) ?leaving, does_of_issue (fun _ => rfl) ?none, does_of_issue (fun _ => rfl) ?resolves,
    fun v loc => does_of_issue (fun _ => rfl) ?held, fun v => does_of_issue (fun _ => rfl) ?sealed_, does_of_issue (fun _ => rfl) ?drops,
    does_of_issue (fun _ => rfl) ?reads, does_of_issue (fun _ => rfl) ?base, does_of_issue (fun _ => rfl) ?refused, does_of_issue (fun _ => rfl) ?aborts⟩
  case leaving => exact fun e act leaves => if_pos ((leaving_iff ..).2 leaves)
  case none =>
    rintro e act ⟨stays, none⟩
    exact (if_neg (mt (leaving_iff ..).1 stays)).trans (if_pos (List.isEmpty_iff.2 none))
  case resolves =>
    rintro e act ⟨stays, some_, free⟩
    refine (if_neg (mt (leaving_iff ..).1 stays)).trans ((if_neg (mt List.isEmpty_iff.1 some_)).trans ((if_neg ?_).trans ?_))
    · intro joins
      obtain ⟨v, won, joins⟩ := (Option.any_eq_true ..).1 joins
      rw [(free v won).1] at joins
      cases joins
    · split
      next loc held =>
        obtain ⟨v, won, held⟩ := Option.bind_eq_some_iff.1 held
        rw [(free v won).2] at held
        cases held
      next => rfl
  case held =>
    rintro e act ⟨stays, some_, won, unsealed, held⟩
    refine (if_neg (mt (leaving_iff ..).1 stays)).trans ((if_neg (mt List.isEmpty_iff.1 some_)).trans ((if_neg ?_).trans ?_))
    · intro joins
      obtain ⟨w, won', joins⟩ := (Option.any_eq_true ..).1 joins
      cases won.symm.trans won'
      rw [unsealed] at joins
      cases joins
    · have first : (wins e act).bind (fun v => (st e).joinHeld v (parent e)) = some loc := Option.bind_eq_some_iff.2 ⟨v, won, held⟩
      split
      next x found => cases first.symm.trans found; rfl
      next none => cases first.symm.trans none
  case sealed_ =>
    rintro e act ⟨stays, some_, won, sealed_⟩
    exact (if_neg (mt (leaving_iff ..).1 stays)).trans ((if_neg (mt List.isEmpty_iff.1 some_)).trans
      (if_pos ((Option.any_eq_true ..).2 ⟨v, won, sealed_⟩)))
  case drops => exact fun e act _ => rfl
  case reads => exact fun e act _ => rfl
  case base => exact fun e act base => if_pos (beq_iff_eq.2 base)
  case refused =>
    rintro e act ⟨other, refused⟩
    refine (if_neg (mt beq_iff_eq.1 other)).trans ?_
    split
    next x found => exact if_pos (abortable_iff.2 (refused x found))
    next => rfl
  case aborts =>
    rintro e act ⟨other, found, alive, own, below⟩
    refine (if_neg (mt beq_iff_eq.1 other)).trans ?_
    split
    next y found' =>
      cases found.symm.trans found'
      refine (if_neg (mt abortable_iff.1 ?_)).trans ?_
      · rintro (dead | foreign | ⟨mine, outside⟩)
        · exact dead alive
        · exact foreign own
        · rcases below with base | inside
          · exact mine base
          · rw [inside] at outside; cases outside
      · rfl
    next none => cases found.symm.trans none

end Sys2Proof.Laws
end

section
/-! The obligations about the fabric's instructions (spec/21_link.md R413 to R419). -/

namespace Sys2Proof.Laws
open Sys2Proof Sys2Proof.Machine

/-! ### The checks of the lanes in turn -/

section checks
variable {s : State} {e : Env} {each : Bool} {act n stream : Nat} {addr : Nat → Nat}

theorem lanesOf_pairwise (act : Nat) : (lanesOf act).Pairwise (· < ·) := List.pairwise_lt_range.filter _

/-- R413: where each lane passes behind those before it, all go on with their addresses. -/
theorem rLanes_pass (passes : ∀ l, inMask act l = true →
      s.rCheck e each (((lanesOf act).map fun l => (l, addr l)).filter fun x => decide (x.1 < l)) l (addr l) n stream = .ok) :
    rLanes s e each act n stream addr = ({ s }, (lanesOf act).map fun l => (l, addr l)) := by
  have fold : ∀ done todo : List Nat, done ++ todo = lanesOf act →
      todo.foldl (fun (r : Out × List (Nat × Nat)) l =>
        match s.rCheck e each r.2 l (addr l) n stream with
        | .ok => (r.1, r.2 ++ [(l, addr l)])
        | .wait => ({ r.1 with waits := maskOr r.1.waits (2 ^ l) }, r.2)
        | .bad code => ({ r.1 with raises := r.1.raises ++ [{ lane := l, code, addr := addr l, absent := none }] }, r.2))
        ({ s }, done.map fun l => (l, addr l)) = ({ s }, (done ++ todo).map fun l => (l, addr l)) := by
    intro done todo
    induction todo generalizing done with
    | nil => intro _; rw [List.append_nil]; rfl
    | cons l todo ih =>
      intro split
      have sorted := split ▸ lanesOf_pairwise act
      rw [List.pairwise_append, List.pairwise_cons] at sorted
      obtain ⟨_, ⟨after, _⟩, before⟩ := sorted
      have mine := passes l ((mem_lanesOf act l).1 (split ▸ by simp)).2
      have earlier : ((lanesOf act).map fun l => (l, addr l)).filter (fun x => decide (x.1 < l)) = done.map fun l => (l, addr l) := by
        rw [← split, List.map_append, List.filter_append, List.filter_eq_self.2, List.filter_eq_nil_iff.2, List.append_nil]
        · simpa using fun k later => (after k later).le
        · simpa using fun k earlier => before k earlier l (List.mem_cons_self ..)
      rw [earlier] at mine
      rw [List.foldl_cons, mine]
      have := ih (done ++ [l]) (by rw [List.append_assoc, List.singleton_append, split])
      rwa [List.map_append, List.append_assoc] at this
  have all := fold [] (lanesOf act) rfl
  exact congrArg (fun r : Out × List (Nat × Nat) => if r.1.waits == 0 then r else ({ r.1 with waits := maskOr r.1.waits (maskOfVals r.2) }, [])) all

/-- R413: a lane of an address that a device may have waits for its link or for a request on another stream, or passes. -/
theorem rCheck_good {before : List (Nat × Nat)} {l a : Nat} (inside : fabBad a = false) (aligned : a % n = 0)
    (carries : (s.link (fabDevice a)).refuses = false) : s.rCheck e each before l a n stream = .ok ∨ s.rCheck e each before l a n stream = .wait := by
  simp only [State.rCheck, inside, aligned, carries, bne_self_eq_false, Bool.or_self, Bool.false_eq_true, if_false]
  split
  · exact .inr rfl
  · exact .inl rfl

theorem rCheck_waits {before : List (Nat × Nat)} {l a : Nat} (inside : fabBad a = false) (aligned : a % n = 0)
    (carries : (s.link (fabDevice a)).refuses = false)
    (busy : (s.link (fabDevice a)).state = .training ∨ s.lineBusy e.gr.uid (e.itemRanges (2 ^ l)) a stream = true) :
    s.rCheck e each before l a n stream = .wait := by
  simp only [State.rCheck, inside, aligned, carries, bne_self_eq_false, Bool.or_self, Bool.false_eq_true, if_false]
  refine if_pos ?_
  rw [Bool.or_eq_true, Bool.or_eq_true, beq_iff_eq]
  exact busy.imp_left .inl

/-- R413: where a lane waits and no lane traps, all wait. -/
theorem rLanes_waits (lanes : LaneSet act)
    (good : ∀ l, inMask act l = true → fabBad (addr l) = false ∧ addr l % n = 0 ∧ (s.link (fabDevice (addr l))).refuses = false)
    (busy : ∃ l, l < 64 ∧ inMask act l = true ∧ ((s.link (fabDevice (addr l))).state = .training
      ∨ s.lineBusy e.gr.uid (e.itemRanges (2 ^ l)) (addr l) stream = true)) :
    rLanes s e each act n stream addr = ({ s, waits := act }, []) := by
  have fold : ∀ (todo : List Nat) (w : Nat) (ls : List (Nat × Nat)), (∀ l ∈ todo, inMask act l = true) →
      ∃ w' ls', todo.foldl (fun (r : Out × List (Nat × Nat)) l =>
        match s.rCheck e each r.2 l (addr l) n stream with
        | .ok => (r.1, r.2 ++ [(l, addr l)])
        | .wait => ({ r.1 with waits := maskOr r.1.waits (2 ^ l) }, r.2)
        | .bad code => ({ r.1 with raises := r.1.raises ++ [{ lane := l, code, addr := addr l, absent := none }] }, r.2))
        ({ s, waits := w }, ls) = ({ s, waits := w' }, ls')
      ∧ (∀ k, (inMask w' k = true ∨ k ∈ ls'.map (·.1)) ↔ inMask w k = true ∨ k ∈ ls.map (·.1) ∨ k ∈ todo)
      ∧ (∀ l, (inMask w l = true ∨ l ∈ todo ∧ ((s.link (fabDevice (addr l))).state = .training
          ∨ s.lineBusy e.gr.uid (e.itemRanges (2 ^ l)) (addr l) stream = true)) → inMask w' l = true) := by
    intro todo
    induction todo with
    | nil => exact fun w ls _ => ⟨w, ls, rfl, by simp, by simp⟩
    | cons l todo ih =>
      intro w ls active
      obtain ⟨inside, aligned, carries⟩ := good l (active l (List.mem_cons_self ..))
      have rest := fun k later => active k (List.mem_cons_of_mem l later)
      rcases rCheck_good (e := e) (each := each) (before := ls) (l := l) (stream := stream) inside aligned carries with ok | wait
      · obtain ⟨w', ls', eq, names, stays⟩ := ih w (ls ++ [(l, addr l)]) rest
        refine ⟨w', ls', by rw [List.foldl_cons, ok]; exact eq, fun k => (names k).trans ?_, fun k waits => stays k (waits.imp_right ?_)⟩
        · simp only [List.map_append, List.map_cons, List.map_nil, List.mem_append, List.mem_cons, List.not_mem_nil, or_false, or_assoc]
        · rintro ⟨mem, held⟩
          rcases List.mem_cons.1 mem with rfl | later
          · cases ok.symm.trans (rCheck_waits inside aligned carries held)
          · exact ⟨later, held⟩
      · obtain ⟨w', ls', eq, names, stays⟩ := ih (maskOr w (2 ^ l)) ls rest
        have enters : ∀ k, inMask (maskOr w (2 ^ l)) k = true ↔ inMask w k = true ∨ k = l := fun k => by
          rw [inMask_maskOr, inMask_pow, Bool.or_eq_true, decide_eq_true_iff, eq_comm (a := l)]
        refine ⟨w', ls', by rw [List.foldl_cons, wait]; exact eq, fun k => (names k).trans ?_, fun k waits => stays k ?_⟩
        · simp only [enters, List.mem_cons, or_assoc, or_left_comm]
        · rw [enters]
          rcases waits with waits | ⟨mem, waits⟩
          · exact .inl (.inl waits)
          · rcases List.mem_cons.1 mem with rfl | later
            · exact .inl (.inr rfl)
            · exact .inr ⟨later, waits⟩
  obtain ⟨w, ls, all, names, stays⟩ := fold (lanesOf act) 0 [] fun l active => ((mem_lanesOf act l).1 active).2
  obtain ⟨l, small, active, busy⟩ := busy
  have waits : inMask w l = true := stays l (.inr ⟨(mem_lanesOf act l).2 ⟨small, active⟩, busy⟩)
  have some_ : (w == 0) = false := by
    rw [beq_eq_false_iff_ne]
    rintro rfl
    simp at waits
  have whole : maskOr w (maskOfVals ls) = act := by
    refine mask_ext fun k => ?_
    have listed : (ls.any fun x => x.1 == k) = true ↔ k ∈ ls.map (·.1) := by simp
    have named := names k
    simp only [inMask_zero, Bool.false_eq_true, List.map_nil, List.not_mem_nil, false_or, mem_lanesOf, ← listed] at named
    rw [Bool.eq_iff_iff, inMask_maskOr, maskOfVals, inMask_laneMask, Bool.or_eq_true, Bool.and_eq_true, decide_eq_true_iff]
    have inside := lanes k
    tauto
  refine (congrArg (fun r : Out × List (Nat × Nat) => if r.1.waits == 0 then r else ({ r.1 with waits := maskOr r.1.waits (maskOfVals r.2) }, [])) all).trans ?_
  simp only [some_, whole, Bool.false_eq_true, if_false]

theorem namesMask_eq (lanes : LaneSet act) (f : Nat → Nat) : (laneMask fun l => ((lanesOf act).map fun l => (l, f l)).any fun x => x.1 == l) = act :=
  maskOfVals_eq lanes (by rw [List.map_map]; exact List.map_id' _)

theorem laneMask_none : (laneMask fun _ => false) = 0 := laneMask_false fun _ => rfl

theorem hold_zero (s : State) (uid : Nat) (b : Block) : s.hold uid 0 b = s :=
  s.updGroup_id uid fun g => by
    rw [Group.updLanes, mapFrom_id]
    simp

end checks

/-- Settles O45: every lane passes, and the requests go out in order; or a lane waits, and all do. -/
theorem remoteAccesses : Obligations.RemoteAccesses := by
  unfold Obligations.RemoteAccesses
  intro h sz m ns stream d a b c off r lanes pass after waits
  refine ⟨does_of_lanes (fun _ => rfl) ?loadWaits, does_of_lanes (fun _ => rfl) ?storeWaits, fun scope ord => ?atomicWaits,
    fun dest => does_of_lanes (fun _ => rfl) ?load, does_of_lanes (fun _ => rfl) ?store, fun scope ord dest => ?atomic⟩
  case loadWaits =>
    intro e act set _ ⟨good, busy⟩
    simp only [rLanes_waits set good busy]
    simp only [blocksOf, List.map_nil, List.eraseDups_nil, List.foldl_nil, List.any_nil, laneMask_none, hold_zero]
    split <;> rfl
  case storeWaits =>
    intro e act set _ ⟨good, busy⟩
    simp only [rLanes_waits set good busy]
    rfl
  case atomicWaits =>
    obtain ⟨op, sgn, x64, _, _⟩ := m
    cases scope
    cases ord
    refine does_of_lanes (fun _ => rfl) ?_
    intro e act set _ ⟨good, busy⟩
    simp only [rLanes_waits set good busy]
    simp only [List.foldl_nil, List.any_nil, laneMask_none, hold_zero]
    split <;> rfl
  case load =>
    intro e act set _ passes
    simp only [rLanes_pass passes, dest]
    simp only [namesMask_eq set]
    cases ns <;> rfl
  case store =>
    intro e act set _ passes
    simp only [rLanes_pass passes]
    rfl
  case atomic =>
    obtain ⟨op, sgn, x64, _, _⟩ := m
    cases scope
    cases ord
    refine does_of_lanes (fun _ => rfl) ?_
    intro e act set _ passes
    simp only [rLanes_pass passes, dest]
    simp only [namesMask_eq set, List.foldl_map]
    cases ns <;> rfl

/-- R417: the checks of an SREL that goes on. -/
theorem release_passes {s : State} {va : Nat} (aligned : va % 8 = 0) (inside : fabBad va = false)
    (carries : (s.link (fabDevice va)).refuses = false) (trained : (s.link (fabDevice va)).state ≠ .training) :
    (fabBad va || va % 8 != 0) = false ∧ (s.link (fabDevice va)).refuses = false ∧ ((s.link (fabDevice va)).state == LState.training) = false := by
  rw [inside, aligned]
  exact ⟨rfl, carries, beq_eq_false_iff_ne.2 trained⟩

/-- Settles O46: each does what its checks leave to do. -/
theorem remoteStreams : Obligations.RemoteStreams := by
  unfold Obligations.RemoteStreams
  intro h ssp lens str stream hd j a b c d lit t x op va peer can latch
  refine ⟨does_of_issue (fun _ => rfl) ?copy, does_of_issue (fun _ => rfl) ?releases, does_of_issue (fun _ => rfl) ?reports,
    does_of_issue (fun _ => rfl) fun e act _ => rfl, does_of_issue (fun _ => rfl) ?word⟩
  case copy =>
    intro e act ⟨good, handle, locks, trained, performed⟩
    simp only [op] at good locks trained
    simp only [good, handle, locks, beq_eq_false_iff_ne.2 trained, performed, Bool.or_self, Bool.false_eq_true, if_false]
    rfl
  case releases =>
    intro e act ⟨⟨aligned, inside, carries, trained, performed⟩, clear, idle, room⟩
    obtain ⟨good, carries, trained⟩ := release_passes aligned inside carries trained
    simp only [va, peer, latch] at good carries trained clear idle room
    simp only [good, carries, trained, performed, clear, idle, room, Bool.not_true, Bool.or_self, Bool.false_eq_true, if_false]
    rfl
  case reports =>
    intro e act ⟨⟨aligned, inside, carries, trained, performed⟩, found⟩
    obtain ⟨good, carries, trained⟩ := release_passes aligned inside carries trained
    simp only [va, peer, latch] at good carries trained found
    simp only [good, carries, trained, performed, found, Bool.false_eq_true, if_false, Env.raiseAt, List.map_map]
    rfl
  case word =>
    intro e act _
    simp only [fld, Nat.pow_zero, Nat.div_one]
    rfl

end Sys2Proof.Laws
end

section
/-! The obligation about beats of copies and pieces of RCOPY (spec/16_future.md R306, R309, R319, spec/21_link.md R416). -/

namespace Sys2Proof.Laws
open Sys2Proof Sys2Proof.Machine

section beats
variable {s s1 s2 : State} {core ch : Nat} {o : CopyOp} {q : List CopyOp} {f : Future} {bs : List Byte} {ts : List Tr} {head : Bool}

/-- R319: the operations of a channel that are cancelled, or whose future is no more. -/
def copyCancelled (s : State) (x : CopyOp) : Bool := match s.futureOf x.team x.fid with | some f => f.cancel | none => true

theorem execCopyBeat_eq : execCopyBeat core ch s = match ((Tab.get (s.core core).channels ch []).find? (copyCancelled s)).or
      (Tab.get (s.core core).channels ch []).head? with
    | some o => .next (s.copyBeat1 core ((Tab.get (s.core core).channels ch []).head?.any fun x => x.op == o.op) o)
    | none => .next s := rfl

theorem execCopyBeat_oldest (queue : Tab.get (s.core core).channels ch [] = o :: q)
    (live : ∀ x ∈ o :: q, ∃ f, s.futureOf x.team x.fid = some f ∧ f.cancel = false) :
    execCopyBeat core ch s = .next (s.copyBeat1 core true o) := by
  have none_ : (o :: q).find? (copyCancelled s) = none := by
    rw [List.find?_eq_none]
    intro x mem
    obtain ⟨f, found, goes⟩ := live x mem
    simp [copyCancelled, found, goes]
  simp only [execCopyBeat_eq, queue, none_, Option.none_or, List.head?_cons, Option.any_some, beq_self_eq_true]

theorem cancel_of_live (live : ∃ f, s.futureOf o.team o.fid = some f ∧ f.cancel = false) (future : s.futureOf o.team o.fid = some f) :
    f.cancel = false := by
  obtain ⟨g, found, goes⟩ := live
  cases future.symm.trans found
  exact goes

theorem execCopyBeat_cancelled (queue : Tab.get (s.core core).channels ch [] = q) (first : q.find? (copyCancelled s) = some o) :
    execCopyBeat core ch s = .next (s.copyBeat1 core (q.head?.any fun x => x.op == o.op) o) := by
  simp only [execCopyBeat_eq, queue, first, Option.some_or]

/-- R309: what a beat that reads and passes its checks does. -/
theorem copyBeat1_moves (future : s.futureOf o.team o.fid = some f) (goes : o.paused = false) (running : f.cancel = false ∨ head = true)
    (read : s.engRead core (s.teamView o.team).1 (s.teamView o.team).2 o.team o.ssp o.kept (o.srcAt f.wptr) (o.beat f.wptr / 4) = ((bs, .ok), s1))
    (checked : s1.engChecks core (s.teamView o.team).1 (s.teamView o.team).2 o.team o.op o.dsp (o.dstAt f.wptr) (o.beat f.wptr / 4) = ((ts, .ok), s2)) :
    s.copyBeat1 core head o =
      let ctx := (s.teamView o.team).1
      let ver := (s.teamView o.team).2
      let x : CopyOp := { o with kept := o.keep f.wptr bs }
      let w := s2.engWrite core ver o.team o.dsp ts bs
      if f.cancel = true then (w.copyOn core ctx x f (f.wptr + o.beat f.wptr)).endCopy core ctx ver x 5 0 0
      else if f.wptr + o.beat f.wptr < o.total then w.copyOn core ctx x f (f.wptr + o.beat f.wptr)
      else (w.setFuture o.team o.fid { f with wptr := f.wptr + o.beat f.wptr }).endCopy core ctx ver x 3 0 0 := by
  have on : (f.cancel && (false || !head)) = false := by
    rcases running with live | first
    · rw [live]; rfl
    · rw [first, Bool.not_true, Bool.or_self, Bool.and_false]
  simp only [State.copyBeat1, future, goes, on, read, Bool.false_eq_true, if_false]
  split
  next ts' t' found =>
    cases checked.symm.trans found
    rfl
  next ts' x t' ended found =>
    cases checked.symm.trans found
    exact (ended rfl).elim

end beats
/-- Settles O49: a beat of the operation that the channel picks, to its end; and the next piece of RCOPY. -/
theorem enginesCopy : Obligations.EnginesCopy := by
  unfold Obligations.EnginesCopy
  intro s s1 s2 core ch o q f bs ts t ctx ver n live x moved
  refine ⟨?goes, ?ends, ?behind, ?atHead, ?piece⟩
  case goes =>
    intro queue running future unpaused ⟨read, checked⟩ more
    have on := cancel_of_live (running o (List.mem_cons_self ..)) future
    refine (execCopyBeat_oldest queue running).trans (congrArg Host.Outcome.next ?_)
    rw [copyBeat1_moves future unpaused (.inl on) read checked]
    exact (if_neg (Bool.eq_false_iff.1 on)).trans (if_pos more)
  case ends =>
    intro queue running future unpaused ⟨read, checked⟩ last
    have on := cancel_of_live (running o (List.mem_cons_self ..)) future
    refine (execCopyBeat_oldest queue running).trans (congrArg Host.Outcome.next ?_)
    rw [copyBeat1_moves future unpaused (.inl on) read checked]
    exact (if_neg (Bool.eq_false_iff.1 on)).trans (if_neg (Nat.not_lt.2 last))
  case behind =>
    intro queue first future cancelled idle
    refine (execCopyBeat_cancelled queue first).trans (congrArg Host.Outcome.next ?_)
    have stops : (f.cancel && (o.paused || !(q.head?.any fun x => x.op == o.op))) = true := by
      rw [cancelled]
      rcases idle with paused | behind
      · rw [paused]; rfl
      · rw [behind, Bool.not_false, Bool.or_true]; rfl
    simp only [State.copyBeat1, future, stops, if_true]
    rfl
  case atHead =>
    intro queue future cancelled unpaused ⟨read, checked⟩
    have first : (o :: q).find? (copyCancelled s) = some o := List.find?_cons_of_pos (by simp only [copyCancelled, future, cancelled])
    refine (execCopyBeat_cancelled queue first).trans (congrArg Host.Outcome.next ?_)
    rw [List.head?_cons, Option.any_some, beq_self_eq_true, copyBeat1_moves future unpaused (.inr rfl) read checked]
    exact if_pos cancelled
  case piece =>
    intro a m present found future on resident unpaused unsent carries trained room read
    have runs : (((!t.resident || s.ctxHalted ctx) && o.ssp != .g) || o.paused || decide (o.total ≤ o.sent)) = false := by
      rw [unpaused, decide_eq_false (Nat.not_le.2 unsent), Bool.or_false, Bool.or_false]
      by_cases global : o.ssp = .g
      · rw [global]; exact Bool.and_false _
      · rw [(resident global).1, (resident global).2]; rfl
    simp only [a, m, ctx, ver] at runs read
    simp only [exec, execRcopyPieceSend, present, found, future, on, runs, carries, beq_eq_false_iff_ne.2 trained, room, read, Bool.not_true, Bool.or_self,
      Bool.false_eq_true, if_false]
    rfl

end Sys2Proof.Laws
end

section
/-! The obligation about sealing, page service and TLB invalidation (spec/14_memory.md R277, R280, spec/17_page.md R329 to R332). -/

namespace Sys2Proof.Laws
open Sys2Proof Sys2Proof.Machine

/-! ### Where a span is and when: what the delivery of results leaves -/

/-- What the core of a span and its epoch are read from. -/
def spanPlaces (s : State) : List (Nat × Core) × List (Nat × Team) × List (Nat × Grid) := (s.cores, s.teams, s.grids)

section places
variable {s t : State}

theorem epoch_congr (same : spanPlaces t = spanPlaces s) (p : Span) : (t.core (t.spanCore p)).epoch = (s.core (s.spanCore p)).epoch := by
  obtain ⟨cores, teams, grids⟩ : t.cores = s.cores ∧ t.teams = s.teams ∧ t.grids = s.grids := by simpa [spanPlaces] using same
  simp only [State.core, State.spanCore, cores, teams, grids]

theorem deliver_places (s : State) (group : Nat) (r : Reg) (k l n : Nat) (w : Word) : spanPlaces (s.deliver group r k l n w) = spanPlaces s := by
  unfold State.deliver; split <;> rfl

theorem sinkWord_places (s : State) (n : Nat) (f : Flight) (r : Reg) (k l : Nat) : spanPlaces (s.sinkWord n f r k l) = spanPlaces s := by
  simp only [State.sinkWord]
  split
  · split <;> rfl
  · rfl

theorem land_places (s : State) (n : Nat) : spanPlaces (s.land n) = spanPlaces s := by
  unfold State.land
  split
  · rfl
  next f _ =>
    split
    · rfl
    · extract_lets sunk owed flagged
      have same : spanPlaces sunk = spanPlaces s := foldl_proj spanPlaces _ (fun s x => by
        split
        case h_1 | h_2 | h_3 | h_4 => exact foldl_proj spanPlaces _ (fun s l => sinkWord_places ..) _ s
        case h_5 => rw [sinkWord_places, sinkWord_places]
        case h_6 => exact sinkWord_places ..
        case h_7 => rfl) _ s
      split <;> exact same

theorem unsealed_places (s : State) (uid base : Nat) : spanPlaces (s.unsealed uid base) = spanPlaces s := by
  simp only [State.unsealed]
  refine foldl_proj spanPlaces _ (fun s l => ?_) _ s
  split
  · split
    · exact (land_places ..).trans ((deliver_places ..).trans (deliver_places ..))
    · rfl
  · rfl

end places

/-! ### The lane that waits for the unsealing -/

/-- A fold of which only one step does anything. -/
theorem foldl_only {α β : Type} {f : β → α → β} {a : α} (idle : ∀ b x, x ≠ a → f b x = b) {xs : List α} (once : xs.Nodup) (mem : a ∈ xs) (b : β) :
    xs.foldl f b = f b a := by
  have rest : ∀ ys : List α, a ∉ ys → ∀ b, ys.foldl f b = b := fun ys out b =>
    List.foldlRecOn (motive := fun c => c = b) ys f rfl fun c same x here => (idle c x fun eq => out (eq ▸ here)).trans same
  obtain ⟨before, after, rfl⟩ := List.append_of_mem mem
  obtain ⟨_, tail, apart⟩ := List.nodup_append.1 once
  rw [List.foldl_append, List.foldl_cons, rest before (fun here => apart a here a (List.mem_cons_self ..) rfl), rest after (List.nodup_cons.1 tail).1]

theorem blocks_getD (g : Group) (l : Nat) : (g.lanes.map (·.block)).getD l .free = (g.lane l).block := by
  exact List.getD_map g.lanes Lane.none (fun x => x.block)

/-- R280: the one lane of a group that waits for a range goes on with status 0. -/
theorem unsealed_lane {s : State} {uid base l d n : Nat} {g : Group} (found : Tab.get? s.groups uid = some g) (small : l < 64)
    (waits : (g.lane l).block = .unseal base d n) (alone : ∀ j, j ≠ l → ∀ d n, (g.lane j).block ≠ .unseal base d n) :
    s.unsealed uid base = ((((s.deliver uid (.s d) 0 l n 0).deliver uid (.s d) 1 l n 0).land n).updGroup uid fun g =>
      g.updLanes (2 ^ l) fun _ x => { x with block := .free, pc := x.pc + 12 }) := by
  simp only [State.unsealed, found, Option.map_some, Option.getD_some, blocks_getD]
  refine (foldl_only (a := l) (fun s j other => ?_) List.nodup_range (List.mem_range.2 small) s).trans ?_
  · split
    next b d n block =>
      exact if_neg fun same => alone j other d n ((beq_iff_eq.1 same : b = base) ▸ block)
    next => rfl
  · simp only [waits, beq_self_eq_true, if_true]

/-! ### What the host asks in its turn -/

/-- R425: a request of the host whose turn it is, and that need not wait, is served. -/
theorem serve_done {s u : State} {i : Instr} {f : State → Bool × State} (turn : s.port.again = true ∨ ∀ j ∈ s.port.held, hostTurn j ≠ hostTurn i)
    (done : f { s with port := { s.port with again := false } } = (true, u)) : s.serve i f = .next u := by
  have first : (!s.port.again && s.port.held.any fun j => hostTurn j == hostTurn i) = false := by
    rcases turn with again | first
    · rw [again]; rfl
    · rw [List.any_eq_false.2 fun j mem => by rw [beq_iff_eq]; exact first j mem, Bool.and_false]
  simp only [State.serve, first, done, Bool.false_eq_true, if_false]

/-! ### The service of a page fault -/

section service
variable {s : State} {die slot : Nat} {p : PFault} {c : Context}

/-- R329: a fault that the service may look at is neither the host's nor of a page that migrates. -/
theorem service_begins (mine : p.host = false) (moved : eST p.entry ≠ 3) : ¬ (p.host || eST p.entry == 3) = true := by
  rw [mine, beq_eq_false_iff_ne.2 moved]
  exact Bool.false_ne_true

theorem service_leaf (leaf : p.level = 1) {pfn ilv : Nat} (some_ : pfn ≠ 0) (host : ilv = 2) : (p.level == 1 && pfn != 0 && ilv == 2) = true := by
  rw [leaf, bne_iff_ne.2 some_, host]
  rfl

theorem service_other {pfn ilv : Nat} (other : p.level ≠ 1 ∨ pfn = 0 ∨ ilv ≠ 2) : ¬ (p.level == 1 && pfn != 0 && ilv == 2) = true := by
  rw [Bool.and_eq_true, Bool.and_eq_true, beq_iff_eq, bne_iff_ne, beq_iff_eq]
  tauto

theorem service_replays (there : Tab.get? s.pfaults (256 * die + slot) = some p ∧ p.host = false ∧ eST p.entry ≠ 3 ∧ s.heldHalf (physLoc 0 p.key) 8 = false)
    (present : eST (s.entryAt p.key) ≠ 2) : exec (.hwFaultService die slot) s = .next (s.replay (256 * die + slot)) := by
  obtain ⟨found, mine, moved, free⟩ := there
  rw [exec, execHwFaultService, found]
  exact (if_neg (service_begins mine moved)).trans ((if_neg (Bool.eq_false_iff.1 free)).trans (if_pos (bne_iff_ne.2 present)))

theorem service_maps (there : Tab.get? s.pfaults (256 * die + slot) = some p ∧ p.host = false ∧ eST p.entry ≠ 3 ∧ s.heldHalf (physLoc 0 p.key) 8 = false)
    (absent : eST (s.entryAt p.key) = 2) (leaf : p.level = 1) (some_ : ePFN (s.entryAt p.key) ≠ 0) (host : eILV (s.entryAt p.key) = 2)
    (small : ePS64 (s.entryAt p.key) = false) : exec (.hwFaultService die slot) s = .next ((s.setEntry p.key
      (1 + (8 * b2n (eW (s.entryAt p.key)) + 16 * b2n (eX (s.entryAt p.key))) + 2 ^ 7 * 2 + 2 ^ 12 * ePFN (s.entryAt p.key))).replay (256 * die + slot)) := by
  obtain ⟨found, mine, moved, free⟩ := there
  rw [exec, execHwFaultService, found]
  exact (if_neg (service_begins mine moved)).trans ((if_neg (Bool.eq_false_iff.1 free)).trans ((if_neg (by rw [absent]; exact Bool.false_ne_true)).trans
    ((if_pos (service_leaf leaf some_ host)).trans (if_pos (by rw [small]; rfl)))))

theorem service_copies {fr : Nat} {rest : List Nat} {bs : List Byte}
    (there : Tab.get? s.pfaults (256 * die + slot) = some p ∧ p.host = false ∧ eST p.entry ≠ 3 ∧ s.heldHalf (physLoc 0 p.key) 8 = false)
    (absent : eST (s.entryAt p.key) = 2) (leaf : p.level = 1) (some_ : ePFN (s.entryAt p.key) ≠ 0) (host : eILV (s.entryAt p.key) = 2)
    (big : ePS64 (s.entryAt p.key) = true) (context : Tab.get? s.contexts p.ctx = some c) (frames : (if die = 0 then c.frames0 else c.frames1) = fr :: rest)
    (page : s.hostPage (ePFN (s.entryAt p.key) * 4096) 65536 = some bs) (clear : s.frameHeld fr = none) :
    exec (.hwFaultService die slot) s = .next (
      let e := s.entryAt p.key
      let s := s.updCtx p.ctx fun c => if die == 0 then { c with frames0 := rest } else { c with frames1 := rest }
      let s := (List.range 16).foldl (fun (s : State) k => s.pokeN (physLoc 0 (fr + 4096 * k)) ((bs.drop (4096 * k)).take 4096)) s
      let s := s.clearPoison ((List.range 65536).map fun k => physLoc 0 (fr + k))
      (s.setEntry p.key (1 + (8 * b2n (eW e) + 16 * b2n (eX e)) + 2 ^ 6 + 2 ^ 12 * (fr / 4096))).replay (256 * die + slot)) := by
  obtain ⟨found, mine, moved, free⟩ := there
  have list : ((Tab.get? s.contexts p.ctx).map fun c => if die == 0 then c.frames0 else c.frames1).getD [] = fr :: rest := by
    rw [context]
    simpa using frames
  rw [exec, execHwFaultService, found]
  refine (if_neg (service_begins mine moved)).trans ((if_neg (Bool.eq_false_iff.1 free)).trans ((if_neg (by rw [absent]; exact Bool.false_ne_true)).trans
    ((if_pos (service_leaf leaf some_ host)).trans ((if_neg (by rw [big]; exact Bool.false_ne_true)).trans ?_))))
  rw [list, page]
  simp only [clear]

theorem service_forwards (there : Tab.get? s.pfaults (256 * die + slot) = some p ∧ p.host = false ∧ eST p.entry ≠ 3 ∧ s.heldHalf (physLoc 0 p.key) 8 = false)
    (absent : eST (s.entryAt p.key) = 2) (other : p.level ≠ 1 ∨ ePFN (s.entryAt p.key) = 0 ∨ eILV (s.entryAt p.key) ≠ 2) :
    exec (.hwFaultService die slot) s = .next (s.forward (256 * die + slot)) := by
  obtain ⟨found, mine, moved, free⟩ := there
  rw [exec, execHwFaultService, found]
  exact (if_neg (service_begins mine moved)).trans ((if_neg (Bool.eq_false_iff.1 free)).trans ((if_neg (by rw [absent]; exact Bool.false_ne_true)).trans
    (if_neg (service_other other))))

end service

/-- Settles O51: each event by the branches of its rule; at the end of an unsealing the spans are dated as they were before their groups went on. -/
theorem memoryEvents : Obligations.MemoryEvents := by
  unfold Obligations.MemoryEvents
  refine ⟨fun s ctx base fl k => ⟨?seals, ?unseals⟩, fun s uid base l d n g found small waits alone => unsealed_lane found small waits alone,
    fun s die slot ctx n p c range => ?pages⟩
  case seals =>
    intro found sealing open_ idle whole free
    simp only [exec, execSealComplete, found, sealing, open_]
    refine (if_neg ?_).trans ((if_neg ?_).trans ?_)
    · simp only [List.any_eq_true, Bool.and_eq_true, beq_iff_eq, Option.isNone_iff_eq_none]
      rintro ⟨p, mem, ⟨same, global⟩, x, piece, hit⟩
      rw [idle p mem same global x piece] at hit
      cases hit
    · intro half
      obtain ⟨x, mem, half⟩ := List.any_eq_true.1 half
      rw [whole x mem] at half
      cases half
    · have none_ : s.port.lines.filter (fun x => (s.sealLines k).contains x.1 && (x.2.lower || x.2.upper)) = [] := by
        refine List.filter_eq_nil_iff.2 fun x mem held => ?_
        obtain ⟨hit, held⟩ := Bool.and_eq_true_iff.1 held
        rw [(free x mem hit).1, (free x mem hit).2] at held
        cases held
      split
      next y ys some_ => cases none_.symm.trans some_
      next => rfl
  case unseals =>
    intro found sealing open_ none_
    simp only [exec, execUnsealComplete, found, open_]
    refine (if_neg ?_).trans ?_
    · rw [none_, sealing]
      exact Bool.false_ne_true
    · have dated := fun (s : State) (ids : List Nat) (p : Span) =>
        epoch_congr (foldl_proj spanPlaces (fun s g => State.unsealed s g base) (fun s g => unsealed_places s g base) ids s) p
      simp only [dated]
  case pages =>
    intro key e there
    refine ⟨?replays, ?maps, ?copies, ?forwards, ?again, ?invalidates, ?completes⟩
    case replays => exact fun there present => service_replays there present
    case maps => exact fun there absent leaf some_ host small => service_maps there absent leaf some_ host small
    case copies =>
      exact fun fr rest bs there absent leaf some_ host big context frames page clear => service_copies there absent leaf some_ host big context frames page clear
    case forwards => exact fun there absent other => service_forwards there absent other
    case again =>
      intro k t turn first open_ found host moved free
      rw [exec, execFaultReplayWrite]
      refine serve_done first ?_
      have none_ : p.attached.find? (fun m => (t.walk p.ctx m.va).kind == .held) = none :=
        List.find?_eq_none.2 fun m mem held => free m mem (beq_iff_eq.1 held)
      have begins : (eST p.entry == 3 || !p.host) = false := by rw [beq_eq_false_iff_ne.2 moved, host]; rfl
      simp only [k, t] at open_ found none_
      simp only [open_, found, begins, none_, Bool.not_true, Bool.false_eq_true, if_false]
      rfl
    case invalidates =>
      intro open_ found idle alive
      simp only [exec, execTlbInvalidate, open_, found, idle, beq_eq_false_iff_ne.2 alive, Bool.not_true, Option.isSome_none, Bool.or_self, Bool.false_eq_true, if_false]
    case completes =>
      intro found invalidates whole idle
      simp only [exec, execTlbInvalidateComplete, found, Option.bind_some, invalidates]
      refine (if_neg ?_).trans rfl
      simp only [Bool.or_eq_true, List.any_eq_true, Bool.and_eq_true, beq_iff_eq, Option.isNone_iff_eq_none]
      rintro (⟨x, mem, half⟩ | ⟨y, mem, ⟨same, global⟩, x, piece, hit⟩)
      · rw [whole x mem] at half
        cases half
      · rw [idle y mem same global x piece] at hit
        cases hit

end Sys2Proof.Laws
end

section
/-! The obligation about the accesses of the host (spec/22_host.md R423 to R427). -/

namespace Sys2Proof.Laws
open Sys2Proof Sys2Proof.Machine

/-! ### Recalls -/

/-- R425: the bit of a half in a mask of the halves of a line, once it is cleared. -/
theorem clearHalf_same : ∀ m < 4, ∀ k < 2, bitOf (m - if bitOf m k then 2 ^ k else 0) k = false := by decide
theorem clearHalf_other : ∀ m < 4, ∀ k < 2, bitOf (m - if bitOf m k then 2 ^ k else 0) (1 - k) = bitOf m (1 - k) := by decide

theorem b2n_lt (b : Bool) : b2n b < 2 := by cases b <;> decide
theorem b2n_not (b : Bool) : b2n (!b) = 1 - b2n b := by cases b <;> decide

section recalls
variable {c : Bridge} {up : Bool}

theorem hold_holds_same (c : Bridge) (up on : Bool) : (c.hold up on).holds up = on := by cases up <;> rfl
theorem hold_holds_other (c : Bridge) (up on : Bool) : (c.hold up on).holds (!up) = c.holds (!up) := by cases up <;> rfl

/-- R425: a response that the device has yielded to since the snoop leaves the recall as it is. -/
theorem answered_stale (stale : (bitOf c.stale (b2n up) && c.holds up) = true) :
    (c.answered up).recalled = c.recalled ∧ ∀ h, (c.answered up).holds h = c.holds h := by
  have keeps : c.answered up = { c with stale := c.stale - if bitOf c.stale (b2n up) then 2 ^ b2n up else 0 } := if_pos stale
  rw [keeps]
  exact ⟨rfl, fun _ => rfl⟩

/-- R425: any other completes it. -/
theorem answered_done (done : (bitOf c.stale (b2n up) && c.holds up) = false) :
    (c.answered up).recalled = c.recalled - (if bitOf c.recalled (b2n up) then 2 ^ b2n up else 0) ∧ ∀ h, (c.answered up).holds h = (c.hold up false).holds h := by
  rw [Bridge.answered, if_neg (Bool.eq_false_iff.1 done)]
  cases up <;> exact ⟨rfl, fun _ => rfl⟩

theorem answered_recall (small : c.recalled < 4) (asked : bitOf c.recalled (b2n up) = true) :
    bitOf (c.answered up).recalled (b2n up) = (bitOf c.stale (b2n up) && c.holds up) ∧ (c.answered up).holds up = (bitOf c.stale (b2n up) && c.holds up)
    ∧ (c.answered up).holds (!up) = c.holds (!up) ∧ bitOf (c.answered up).recalled (b2n !up) = bitOf c.recalled (b2n !up) := by
  cases stale : bitOf c.stale (b2n up) && c.holds up with
  | true =>
    obtain ⟨recalled, holds⟩ := answered_stale stale
    rw [recalled, holds, holds, asked]
    exact ⟨rfl, (Bool.and_eq_true_iff.1 stale).2, rfl, rfl⟩
  | false =>
    obtain ⟨recalled, holds⟩ := answered_done stale
    rw [recalled, holds, holds, hold_holds_same, hold_holds_other, b2n_not]
    exact ⟨clearHalf_same _ small _ (b2n_lt up), rfl, rfl, clearHalf_other _ small _ (b2n_lt up)⟩

end recalls

/-! ### Requests in their turn -/

/-- R425: a request of the host whose turn it is, but that must wait. -/
theorem serve_waits {s u : State} {i : Instr} {f : State → Bool × State} (turn : s.port.again = true ∨ ∀ j ∈ s.port.held, hostTurn j ≠ hostTurn i)
    (waits : f { s with port := { s.port with again := false } } = (false, u)) :
    s.serve i f = .next { u with port := { u.port with held := if s.port.again then i :: u.port.held else u.port.held ++ [i] } } := by
  have first : (!s.port.again && s.port.held.any fun j => hostTurn j == hostTurn i) = false := by
    rcases turn with again | first
    · rw [again]; rfl
    · rw [List.any_eq_false.2 fun j mem => by rw [beq_iff_eq]; exact first j mem, Bool.and_false]
  simp only [State.serve, first, waits, Bool.false_eq_true, if_false]

theorem hostServes {s : State} {p : Nat} (mem : s.hasMem = true) (inside : p < 2 ^ 39) : ¬ (!s.hasMem || decide (2 ^ 39 ≤ p)) = true := by
  rw [mem, decide_eq_false (Nat.not_le.2 inside)]
  exact Bool.false_ne_true

theorem hostTakesBack {s : State} {p : Nat} {holds : Bool} (mem : s.hasMem = true) (inside : p < 2 ^ 39) (held : holds = true) :
    ¬ (!s.hasMem || decide (2 ^ 39 ≤ p) || !holds) = true := by
  rw [mem, decide_eq_false (Nat.not_le.2 inside), held]
  exact Bool.false_ne_true

theorem recallServed {s : State} {asked : Bool} (mem : s.hasMem = true) (holds : asked = true) : ¬ (!s.hasMem || !asked) = true := by
  rw [mem, holds]
  exact Bool.false_ne_true

/-! ### BAR2 -/

section bar2
variable {s : State} {p n : Nat} {ps : List Nat}

theorem bar2_reaches (open_ : s.port.up = true) (inside : p + n ≤ 2 ^ 39) (runs : s.manage.recovery = false) :
    ¬ (!s.port.up || s.manage.recovery || decide (2 ^ 39 < p + n)) = true := by
  rw [open_, runs, decide_eq_false (Nat.not_lt.2 inside)]
  exact Bool.false_ne_true

theorem bar2_stacks (low : s.manage.perigee = true → ∀ x ∈ ps, locStack x < 4) :
    ¬ (s.manage.perigee && ps.any fun x => decide (4 ≤ locStack x)) = true := by
  intro high
  obtain ⟨perigee, any⟩ := Bool.and_eq_true_iff.1 high
  obtain ⟨x, mem, high⟩ := List.any_eq_true.1 any
  exact absurd (low perigee x mem) (Nat.not_lt.2 (of_decide_eq_true high))

theorem noneHeld (free : ∀ x ∈ ps, s.heldHalf x 1 = false) : ps.filter (fun x => s.heldHalf x 1) = [] :=
  List.filter_eq_nil_iff.2 fun x mem held => by rw [free x mem] at held; cases held

theorem noneSealed (unsealed : ∀ x ∈ ps, s.lineSealed (x / 128) = false) : ¬ (true && (ps.map (· / 128)).eraseDups.any s.lineSealed) = true := by
  intro shut
  obtain ⟨line, named, shut⟩ := List.any_eq_true.1 (Bool.and_eq_true_iff.1 shut).2
  obtain ⟨x, mem, rfl⟩ := List.mem_map.1 (List.mem_eraseDups.1 named)
  rw [unsealed x mem] at shut
  cases shut

end bar2

theorem markPoison_stores (s : State) (loc : Nat) : (s.markPoison loc).stores = s.stores := by
  unfold State.markPoison; split <;> rfl

/-- Settles O59: each access in its turn and by the state of its line; and what the loss of the port leaves. -/
theorem hostAccesses : Obligations.HostAccesses := by
  unfold Obligations.HostAccesses
  intro s0 u p own poison up' data bs i s line up loc b turn waits mine t ps
  refine ⟨?readSealed, ?reads, ?back, ?writes, ?writeSealed, ?closed, ?answers, fun c small _ asked => answered_recall small asked, ?snoop, ?snoopWrites, ⟨?bar2Reads, ?bar2Writes⟩, ?down⟩
  case readSealed =>
    intro first ⟨mem, inside, opened⟩ loads shut
    rw [exec, execHostRead]
    refine serve_done first ((if_neg (hostServes mem inside)).trans ((if_neg (Bool.eq_false_iff.1 opened)).trans ?_))
    split
    next v stays => cases loads.symm.trans stays
    next v goes =>
      cases loads.symm.trans goes
      exact if_pos shut
  case reads =>
    intro first ⟨mem, inside, opened⟩ loads free
    rw [exec, execHostRead]
    refine serve_done first ((if_neg (hostServes mem inside)).trans ((if_neg (Bool.eq_false_iff.1 opened)).trans ?_))
    split
    next v stays => cases loads.symm.trans stays
    next v goes =>
      cases loads.symm.trans goes
      exact if_neg (Bool.eq_false_iff.1 free)
  case back =>
    intro first ⟨mem, inside, opened⟩ held
    rw [exec, execHostWriteback]
    exact serve_done first ((if_neg (hostTakesBack mem inside held)).trans (if_neg (Bool.eq_false_iff.1 opened)))
  case writes =>
    intro first ⟨mem, inside, opened⟩ free loads
    rw [exec, execHostWrite]
    refine serve_done first ((if_neg (hostServes mem inside)).trans ((if_neg (Bool.eq_false_iff.1 opened)).trans
      ((if_neg (Bool.eq_false_iff.1 free)).trans ?_)))
    split
    next v stays => cases loads.symm.trans stays
    next v goes =>
      cases loads.symm.trans goes
      rfl
  case writeSealed =>
    intro first ⟨mem, inside, opened⟩ shut
    rw [exec, execHostWrite]
    exact serve_done first ((if_neg (hostServes mem inside)).trans ((if_neg (Bool.eq_false_iff.1 opened)).trans (if_pos shut)))
  case closed =>
    intro first mem inside shut kind
    rcases kind with rfl | rfl | ⟨rfl, held⟩
    · rw [exec, execHostRead]
      exact serve_waits first ((if_neg (hostServes mem inside)).trans (if_pos shut))
    · rw [exec, execHostWrite]
      exact serve_waits first ((if_neg (hostServes mem inside)).trans (if_pos shut))
    · rw [exec, execHostWriteback]
      exact serve_waits first ((if_neg (hostTakesBack mem inside held)).trans (if_pos shut))
  case answers =>
    intro mem asked
    rw [exec, execRecallResponse]
    exact if_neg (recallServed mem asked)
  case snoop =>
    intro open_ mode held
    rw [exec, execHostSnoop]
    refine (if_neg (by rw [open_]; exact Bool.false_ne_true)).trans (congrArg Host.Outcome.next ?_)
    exact (if_pos rfl).trans ((if_pos (by rw [decide_eq_true mode, held]; rfl)).trans (if_neg Bool.false_ne_true))
  case snoopWrites =>
    intro open_ away some_
    rw [exec, execHostSnoop]
    refine (if_neg (by rw [open_]; exact Bool.false_ne_true)).trans (congrArg Host.Outcome.next ?_)
    refine (if_neg (mt List.isEmpty_iff.1 some_)).trans ?_
    exact congrArg (fun s => State.hostPut s _ _ _) (if_neg (by rw [away, Bool.and_false]; exact Bool.false_ne_true))
  case bar2Reads =>
    intro first ⟨open_, inside, runs, low⟩ free
    rw [exec, execBar2Access]
    refine serve_done first ((if_neg (bar2_reaches open_ inside runs)).trans ((if_neg (bar2_stacks low)).trans ((if_neg Bool.false_ne_true).trans ?_)))
    split
    next x xs held => cases (noneHeld free).symm.trans held
    next => rfl
  case bar2Writes =>
    intro first ⟨open_, inside, runs, low⟩ free unsealed
    rw [exec, execBar2Access]
    refine serve_done first ((if_neg (bar2_reaches open_ inside runs)).trans ((if_neg (bar2_stacks low)).trans ((if_neg ?_).trans ?_)))
    · exact noneSealed unsealed
    · split
      next x xs held => cases (noneHeld free).symm.trans held
      next => rfl
  case down =>
    rw [exec, execPortDown]
    refine congrArg (fun ns => Host.Outcome.next (State.failEngines (List.foldl _ _ (List.map _ ns)))) ?_
    exact foldl_proj State.stores _ (fun s loc => markPoison_stores s loc) _ _

end Sys2Proof.Laws
end

section
/-! The obligation about the requests and replies of peers (spec/21_link.md R408 to R415). -/

namespace Sys2Proof.Laws
open Sys2Proof Sys2Proof.Machine

section requests
variable {s t u : State} {r : Req} {ctx st : Nat} {data bs : List Byte}

/-- R409: a request in its turn of a context that is mapped is performed; one that is answered leaves its place in the stream. -/
theorem request_performs (turn : s.reqTurn r = true ∧ s.deadHere r.version = false) (mapped : s.fctxCtx r.fctx = some ctx) :
    exec (.remoteRequestPerform r) s = match s.remoteDo r ctx with
      | (.answer st data, t) => .next (if decide (0 < (s.stream r.peer r.stream).old) then t.seqOn r
          else (t.seqOn r).sendCargo r.peer (.reply t.device r.stream r.seq st data))
      | (_, t) => .next t := by
  simp only [exec, execRemoteRequestPerform, turn.1, turn.2, mapped, Bool.not_true, Bool.false_eq_true, if_false] <;> rfl

theorem request_unmapped (turn : s.reqTurn r = true ∧ s.deadHere r.version = false) (unmapped : s.fctxCtx r.fctx = none) :
    exec (.remoteRequestPerform r) s = .next (if decide (0 < (s.stream r.peer r.stream).old) then s.seqOn r
          else (s.seqOn r).sendCargo r.peer (.reply s.device r.stream r.seq 4 [])) := by
  simp only [exec, execRemoteRequestPerform, turn.1, turn.2, unmapped, Bool.not_true, Bool.false_eq_true, if_false]

theorem request_late (late : (s.stream r.peer r.stream).old ≠ 0) : decide (0 < (s.stream r.peer r.stream).old) = true :=
  decide_eq_true (Nat.pos_of_ne_zero late)
theorem request_timely (timely : ¬ (s.stream r.peer r.stream).old ≠ 0) : decide (0 < (s.stream r.peer r.stream).old) = false :=
  decide_eq_false (by omega)

/-- R414: what a reply does with the request that the stream owes of its number. -/
theorem reply_owed {peer n seq status : Nat} {o : Owed} (owed : ((u.stream peer n).owed.find? fun o => o.seq == seq) = some o) :
    u.reply peer n seq status data =
      let off := u.setStream { u.stream peer n with owed := (u.stream peer n).owed.erase o }
      let code := if status == 1 then TrapCode.dataPoison else TrapCode.remoteError
      if o.kind % 2 == 0 && o.copy.isNone then
        if status == 0 then
          (State.land ((o.lanes.zip o.offs).foldl (fun s p => s.deliverN o.group o.reg p.1 o.flight (o.value data p.2) o.regs) off) o.flight).remoteGo o true
        else (off.failLanes o.flight (laneMask fun l => o.lanes.contains l) code
          fun l => o.addr + (((o.lanes.zip o.offs).find? fun p => p.1 == l).map (·.2)).getD 0).remoteGo o false
      else match o.copy with
        | none => if status == 0 then off else off.setLatch o.ctx peer n o.addr
        | some (_, op) => match off.fabricOp op with
          | none => off
          | some (core, c) =>
            if status == 0 then
              let c := { c with unacked := c.unacked.filter fun p => p.1 != o.offs.headD 0 }
              (off.setFabricOp core c).fabricMoves core c
            else off.endFabric core c 4 code.num o.addr := by
  simp only [State.reply, owed] <;> rfl

end requests

/-- Settles O58: a request by its turn, its version and its context; a reply by its kind and status. -/
theorem remoteEvents : Obligations.RemoteEvents := by
  unfold Obligations.RemoteEvents
  intro s t u r ctx st data peer n seq status o x turn reply comes off late
  refine ⟨?answers, ?parts, ?late, ?lateUnmapped, ?unmapped, ?dead, ⟨?drops, ?dropsOwn⟩, ?waits, ?whole, ?lost, ?half, ?lands, ?fails, ?latches⟩
  case answers =>
    intro turn timely mapped done
    rw [request_performs turn mapped, done]
    simp only [request_timely timely, Bool.false_eq_true, if_false]
  case parts =>
    intro bs turn mapped done
    rw [request_performs turn mapped]
    rcases done with done | done <;> rw [done]
  case late =>
    intro turn late mapped done
    rw [request_performs turn mapped, done]
    simp only [request_late late, if_true]
  case lateUnmapped =>
    intro turn late unmapped
    rw [request_unmapped turn unmapped, request_late late, if_pos rfl]
  case unmapped =>
    intro turn timely unmapped
    rw [request_unmapped turn unmapped, request_timely timely, if_neg Bool.false_ne_true]
  case dead =>
    intro turn dead mapped
    simp only [exec, execRemoteRequestPerform, turn, dead, mapped, Bool.not_true, Bool.false_eq_true, if_false]
  case drops =>
    intro other
    have own : (r.peer == s.device && (s.stream r.peer r.stream).old == 0) = false := by
      rw [Bool.and_eq_false_iff, beq_eq_false_iff_ne, beq_eq_false_iff_ne]
      exact other
    simp only [State.dropReq, own]
    split <;> rfl
  case dropsOwn =>
    intro own timely found
    have mine : (r.peer == s.device && (s.stream r.peer r.stream).old == 0) = true := by
      rw [Bool.and_eq_true, beq_iff_eq, beq_iff_eq]
      exact ⟨own, not_not.1 timely⟩
    simp only [State.dropReq, mine, if_true]
    split
    next o' found' => cases found.symm.trans found'; rfl
    next none => cases found.symm.trans none
  case waits =>
    intro waits
    simp only [exec, execRemoteRequestPerform, waits, Bool.not_false, if_true]
  case whole =>
    intro first checked whole
    simp only [State.remoteDo, first, checked, whole, Bool.not_false, if_true]
  case lost =>
    intro h second lost
    simp only [State.remoteDo, second, lost, if_true]
  case half =>
    intro h second up free
    simp only [State.remoteDo, second, up, free, Bool.false_eq_true, if_false]
  case lands =>
    intro ⟨arrived, taken, owed⟩ good value local_
    have kind : (o.kind % 2 == 0 && o.copy.isNone) = true := by rw [value, local_]; rfl
    rw [exec, execRemoteReply, if_pos arrived, taken]
    refine congrArg Host.Outcome.next ((reply_owed owed).trans ((if_pos kind).trans ?_))
    exact if_pos (beq_iff_eq.2 good)
  case fails =>
    intro ⟨arrived, taken, owed⟩ bad value local_
    have kind : (o.kind % 2 == 0 && o.copy.isNone) = true := by rw [value, local_]; rfl
    rw [exec, execRemoteReply, if_pos arrived, taken]
    refine congrArg Host.Outcome.next ((reply_owed owed).trans ((if_pos kind).trans ((if_neg (mt beq_iff_eq.1 bad)).trans ?_)))
    simp only [beq_iff_eq]
    rfl
  case latches =>
    intro ⟨arrived, taken, owed⟩ bad store local_
    have kind : (o.kind % 2 == 0 && o.copy.isNone) = false := by rw [store]; rfl
    rw [exec, execRemoteReply, if_pos arrived, taken]
    refine congrArg Host.Outcome.next ((reply_owed owed).trans ((if_neg (Bool.eq_false_iff.1 kind)).trans ?_))
    rw [local_]
    exact if_neg (mt beq_iff_eq.1 bad)

end Sys2Proof.Laws
end

section
/-! The obligation about squashes, retagging and notices (spec/20_version.md R388 to R394). -/

namespace Sys2Proof.Laws
open Sys2Proof Sys2Proof.Machine

section notices
variable {s : State} {peer version target : Nat} {marks : List Nat}

/-- R391, R393: the view that a commit joins is of a version that is dead here or no more. -/
theorem commitGone_iff {c : Nat} : (c != 0 && (s.deadHere c || (Tab.get? s.foreign c).isNone)) = true
    ↔ c ≠ 0 ∧ (s.deadHere c = true ∨ Tab.get? s.foreign c = none) := by
  rw [Bool.and_eq_true, bne_iff_ne, Bool.or_eq_true, Option.isNone_iff_eq_none]

/-- R391: a commit notice waits: what it asks is kept with the version. -/
def commitHolds (version target : Nat) (marks : List Nat) (s : State) (joined : Bool) : State :=
  { s with foreign := Tab.upd s.foreign version fun f => { f with commits := some (target, marks), joined := f.joined || joined } }

theorem commitForeign_early (early : s.marksPassed peer marks = false) :
    s.commitForeign peer version target marks = commitHolds version target marks s false := by
  simp only [State.commitForeign, early, Bool.not_false, if_true]
  rfl

/-- R391: a commit notice whose marks are passed. -/
theorem commitForeign_passed (passed : s.marksPassed peer marks = true) :
    s.commitForeign peer version target marks =
      let c := s.effForeign 16 target
      let gone := c != 0 && (s.deadHere c || (Tab.get? s.foreign c).isNone)
      let ends := fun (u : State) => if u.noFrame version then (u.dropForeign version c).sendCargo peer (.ack version false) else commitHolds version target marks u true
      if gone then ends (s.dropView version)
      else if s.joinSealed version c then commitHolds version target marks s false
      else match s.joinHeld version c with
        | some loc => commitHolds version target marks (s.recallAt loc 1) false
        | none => ends ((s.join version c).retagAll version c) := by
  simp only [State.commitForeign, passed, Bool.not_true, Bool.false_eq_true, if_false]
  cases s.effForeign 16 target != 0 && (s.deadHere (s.effForeign 16 target) || (Tab.get? s.foreign (s.effForeign 16 target)).isNone) with
  | true => rfl
  | false => rfl

theorem commitNotice_comes {t : State} {f : Foreign} (arrived : s.arrived peer (.commit version target marks) = true)
    (taken : s.takeIn peer (.commit version target marks) = t) (comes : Tab.get? s.foreign version = some f ∧ f.commits = none) :
    exec (.commitNotice peer version target marks) s = .next (t.commitForeign peer version target marks) := by
  simp only [exec, execCommitNotice, comes.1, comes.2, arrived, taken, if_true]

/-- R406: the requests of a stream that came before a reset of its link go before every notice. -/
theorem marksPassed_old {k : Nat} (small : k < 16) (old : (s.stream peer k).old ≠ 0) : s.marksPassed peer marks = false := by
  rw [State.marksPassed, List.all_eq_false]
  refine ⟨k, List.mem_range.2 small, ?_⟩
  rw [beq_eq_false_iff_ne.2 old, Bool.false_and]
  exact Bool.false_ne_true

end notices

/-- Settles O56: the rules of a squash in order; then each notice by what it finds of its version. -/
theorem versionEvents : Obligations.VersionEvents := by
  unfold Obligations.VersionEvents
  intro s ctx version peer target marks ancestors q x f on squash
  refine ⟨?rule0, ?rule1, ?rule2, ?rule3, ?rule4, ?rule5, ?rule6, ?rule7, ?retag, ?notice, ?commits, ?deads, ?acked, ?buried⟩
  case rule0 =>
    intro found rule
    rw [exec, execSquashRuleStep, found]
    simp only [rule]
  case rule1 =>
    intro gs r found rule
    rw [exec, execSquashRuleStep, found]
    simp only [on, rule]
    rfl
  case rule2 | rule3 | rule4 | rule5 =>
    intro found rule
    rw [exec, execSquashRuleStep, found]
    simp only [on, rule]
  case rule6 =>
    intro found rule free
    rw [exec, execSquashRuleStep, found]
    simp only [on, rule, free]
  case rule7 =>
    intro found rule
    obtain ⟨n, rule⟩ : ∃ n, q.rule = n + 7 := ⟨q.rule - 7, by omega⟩
    rw [exec, execSquashRuleStep, found]
    simp only [rule]
  case retag =>
    intro found state
    have alive : (x.state == 1 || x.state == 2) = true := by rwa [Bool.or_eq_true, beq_iff_eq, beq_iff_eq]
    simp only [exec, execVersionRetag, found, alive, if_true]
  case notice =>
    intro all need arrived room
    have takes : (!s.arrived peer (.version version ctx ancestors) || decide (255 < s.foreign.length + need.length)) = false := by
      rw [arrived, decide_eq_false (Nat.not_lt.2 room)]
      rfl
    rw [exec, execVersionNotice]
    exact if_neg (Bool.eq_false_iff.1 takes)
  case commits =>
    intro t arrived taken c hold goes comes ends
    refine ⟨?early, ?gone, ?shut, ?held, ?joins, ?stands, ?stood, ?old, ?unknown⟩
    case early =>
      intro comes early
      rw [commitNotice_comes arrived taken comes, commitForeign_early early]
      rfl
    case gone =>
      intro comes passed gone
      rw [commitNotice_comes arrived taken comes, commitForeign_passed passed]
      exact congrArg Host.Outcome.next (if_pos (commitGone_iff.2 gone))
    case shut =>
      intro comes passed stays shut
      rw [commitNotice_comes arrived taken comes, commitForeign_passed passed]
      exact congrArg Host.Outcome.next ((if_neg (mt commitGone_iff.1 stays)).trans (if_pos shut))
    case held =>
      intro loc comes passed stays unsealed held
      rw [commitNotice_comes arrived taken comes, commitForeign_passed passed]
      refine congrArg Host.Outcome.next ((if_neg (mt commitGone_iff.1 stays)).trans ((if_neg (Bool.eq_false_iff.1 unsealed)).trans ?_))
      rw [held]
      rfl
    case joins =>
      intro comes passed stays unsealed free
      rw [commitNotice_comes arrived taken comes, commitForeign_passed passed]
      refine congrArg Host.Outcome.next ((if_neg (mt commitGone_iff.1 stays)).trans ((if_neg (Bool.eq_false_iff.1 unsealed)).trans ?_))
      rw [free]
      rfl
    case stands =>
      intro y found apart
      simp only [c, State.effForeign, found, apart]
    case stood =>
      intro z ms y found joins joined last
      simp only [c, State.effForeign, found, joins, joined, last]
    case old => exact fun k small old => marksPassed_old small old
    case unknown =>
      intro unknown
      simp only [exec, execCommitNotice, unknown, arrived, taken, if_true]
  case deads =>
    intro t u arrived taken dropped
    refine ⟨?marked, ?unknown⟩
    case marked =>
      intro found fresh
      simp only [exec, execDeadNotice, found, fresh, arrived, taken, State.deadForeign, dropped, if_true]
    case unknown =>
      intro unknown
      simp only [exec, execDeadNotice, unknown, arrived, taken, if_true]
  case acked =>
    intro t arrived taken found state
    simp only [exec, execNoticeAck, arrived, taken, found, state]
    rfl
  case buried =>
    intro t arrived taken found state
    simp only [exec, execNoticeAck, arrived, taken, found, state]
    rfl

end Sys2Proof.Laws
end

section
/-! The obligation about links and flits (spec/21_link.md R399 to R411). -/

namespace Sys2Proof.Laws
open Sys2Proof Sys2Proof.Machine

/-! ### The ends of a link -/

section ends
variable {s : State} {peer : Nat}

theorem inLink_updInLink (s : State) (peer : Nat) (f : InLink → InLink) : (s.updInLink peer f).inLink peer = f (s.inLink peer) := by
  rw [State.inLink, State.updInLink_inLinks, Tab.get_set_same]

theorem inLink_updLink (s : State) (p peer : Nat) (f : Link → Link) : (s.updLink p f).inLink peer = s.inLink peer := rfl

end ends

/-! ### Streams that start again (R406) -/

section streams
variable {s : State} {peer : Nat}

/-- The stream of a pair and a number bears both. -/
theorem stream_key (s : State) (peer n : Nat) : (s.stream peer n).peer = peer ∧ (s.stream peer n).stream = n := by
  unfold State.stream
  cases found : s.streams.find? fun x => x.peer == peer && x.stream == n with
  | none => exact ⟨rfl, rfl⟩
  | some x =>
    have key := List.find?_some found
    rwa [Bool.and_eq_true, beq_iff_eq, beq_iff_eq] at key

theorem mem_setStream {x y : Stream} (mem : y ∈ (s.setStream x).streams) : y = x ∨ y ∈ s.streams ∧ ¬ (y.peer = x.peer ∧ y.stream = x.stream) := by
  simp only [State.setStream] at mem
  split at mem
  next =>
    obtain ⟨z, here, rfl⟩ := List.mem_map.1 mem
    split
    next => exact .inl rfl
    next other => exact .inr ⟨here, by simpa using other⟩
  next none_ =>
    rcases List.mem_append.1 mem with mem | mem
    · refine .inr ⟨mem, fun same => none_ (List.any_eq_true.2 ⟨y, mem, ?_⟩)⟩
      rw [same.1, same.2, beq_self_eq_true, beq_self_eq_true]
      rfl
    · exact .inl (List.mem_singleton.1 mem)

/-- What a stream is looked up by. -/
def keyed (p n : Nat) (y : Stream) : Bool := y.peer == p && y.stream == n

theorem keyed_iff {p n : Nat} {y : Stream} : keyed p n y = true ↔ y.peer = p ∧ y.stream = n := by
  rw [keyed, Bool.and_eq_true, beq_iff_eq, beq_iff_eq]

/-- A stream put in the place of that of its key is found there by the keys that found the other. -/
theorem find?_put (x : Stream) (p n : Nat) (l : List Stream) :
    (l.map fun y => if keyed x.peer x.stream y then x else y).find? (keyed p n)
      = (l.find? (keyed p n)).map fun y => if keyed x.peer x.stream y then x else y := by
  rw [List.find?_map]
  congr 2
  funext y
  simp only [Function.comp_apply]
  split
  next same =>
    obtain ⟨peer, number⟩ := keyed_iff.1 same
    rw [keyed, keyed, peer, number]
  next => rfl

theorem stream_setStream (s : State) (x : Stream) (p n : Nat) :
    (s.setStream x).stream p n = if x.peer = p ∧ x.stream = n then x else s.stream p n := by
  have put : (s.setStream x).streams = if s.streams.any (keyed x.peer x.stream) then s.streams.map fun y => if keyed x.peer x.stream y then x else y
    else s.streams ++ [x] := rfl
  change ((s.setStream x).streams.find? (keyed p n)).getD (Stream.blank p n) = if x.peer = p ∧ x.stream = n then x
    else (s.streams.find? (keyed p n)).getD (Stream.blank p n)
  rw [put]
  split
  next there =>
    rw [find?_put]
    obtain ⟨z, mem, key⟩ := List.any_eq_true.1 there
    split
    next same =>
      obtain ⟨rfl, rfl⟩ := same
      cases found : s.streams.find? (keyed x.peer x.stream) with
      | none => exact absurd key (List.find?_eq_none.1 found z mem)
      | some y => rw [Option.map_some, if_pos (List.find?_some found), Option.getD_some]
    next other =>
      cases found : s.streams.find? (keyed p n) with
      | none => rfl
      | some y =>
        obtain ⟨rfl, rfl⟩ := keyed_iff.1 (List.find?_some found)
        rw [Option.map_some, if_neg fun same => other ⟨(keyed_iff.1 same).1.symm, (keyed_iff.1 same).2.symm⟩]
  next away =>
    rw [List.find?_append]
    split
    next same =>
      obtain ⟨rfl, rfl⟩ := same
      rw [List.find?_eq_none.2 fun y mem key => away (List.any_eq_true.2 ⟨y, mem, key⟩), Option.none_or,
        List.find?_cons_of_pos (keyed_iff.2 ⟨rfl, rfl⟩), Option.getD_some]
    next other => rw [List.find?_cons_of_neg (mt keyed_iff.1 other), List.find?_nil, Option.or_none]

/-- A stream starts again from 0, behind `old` requests that have come. -/
def restart (peer : Nat) (waiting : Nat → Nat) (s : State) (n : Nat) : State :=
  s.setStream { s.stream peer n with next := 0, expect := 0, old := waiting n }

theorem restarts_zero {waiting : Nat → Nat} (ns : List Nat) (s : State)
    (rest : ∀ y ∈ s.streams, y.peer = peer → y.stream < 16 → y.stream ∈ ns ∨ y.next = 0 ∧ y.expect = 0) :
    ∀ y ∈ (ns.foldl (restart peer waiting) s).streams, y.peer = peer → y.stream < 16 → y.next = 0 ∧ y.expect = 0 := by
  induction ns generalizing s with
  | nil => exact fun y mem own small => (rest y mem own small).resolve_left (List.not_mem_nil)
  | cons n ns ih =>
    refine ih _ fun y mem own small => ?_
    rcases mem_setStream mem with rfl | ⟨mem, other⟩
    · exact .inr ⟨rfl, rfl⟩
    · refine (rest y mem own small).imp_left fun listed => (List.mem_cons.1 listed).resolve_left fun same => other ?_
      exact ⟨own.trans (stream_key s peer n).1.symm, same.trans (stream_key s peer n).2.symm⟩

theorem restarts_old {waiting : Nat → Nat} (ns : List Nat) (s : State) (n : Nat) :
    ((ns.foldl (restart peer waiting) s).stream peer n).old = if n ∈ ns then waiting n else (s.stream peer n).old := by
  induction ns generalizing s with
  | nil => rw [if_neg List.not_mem_nil]; rfl
  | cons k ns ih =>
    rw [List.foldl_cons, ih, restart, stream_setStream]
    simp only [stream_key, true_and, List.mem_cons]
    by_cases same : n = k
    · subst same
      simp
    · simp [same, Ne.symm same]

end streams
/-! ### The obligation -/

theorem carries_of {x : LState} (on : x = .up ∨ x = .degraded) : (x == .up || x == .degraded) = true := by
  rwa [Bool.or_eq_true, beq_iff_eq, beq_iff_eq]

/-- R407: what a change of the mask reports: the channels that it leaves out, else those that it takes in. -/
theorem restripe_report {gone back : Nat} {t : State} (report : Nat → Nat → State) :
    (if (if gone != 0 then gone else back) == 0 then t else report (if gone != 0 then 2 else 3) (if gone != 0 then gone else back))
      = if gone ≠ 0 then report 2 gone else if back ≠ 0 then report 3 back else t := by
  by_cases out : gone = 0
  · by_cases in_ : back = 0 <;> simp [out, in_]
  · simp [out]

theorem payload_flit {ty : Nat} (data : ty ≠ 1) (other : ty ≠ 3) : ¬ (ty == 1 || ty == 3) = true := by
  rw [beq_eq_false_iff_ne.2 data, beq_eq_false_iff_ne.2 other]
  exact Bool.false_ne_true

/-- Settles O57: each event of a link by the branches of its rule. -/
theorem linkEvents : Obligations.LinkEvents := by
  unfold Obligations.LinkEvents
  rintro s peer ch m c rest k i f x kept rfl rfl
  refine ⟨?lost, ?back, ?tells, ?hears, ?retrains, ?restripe, ?restripeIn, ?agreed, ?agreedLoop, ?trained, ?untrained, ?trainedIn, ?mask, ?reset, ?replies,
    ?perigee, ?resetIn, ?zero, ?old, ?rekey, ?flits, ?dark, ?sends, ?auth, ?chunk, ?resend, ?packs, ?begins⟩
  case lost =>
    intro some_ carries
    rw [exec, execLossOfLight, State.loseChannels]
    refine congrArg Host.Outcome.next (if_neg ?_)
    rw [beq_eq_false_iff_ne.2 some_, carries]
    exact Bool.false_ne_true
  case back =>
    intro small dark state
    rw [exec, execChannelRetrained]
    refine if_pos ?_
    rw [decide_eq_true small, Bool.true_and, Bool.and_eq_true, Bool.or_eq_true, Bool.or_eq_true, Bool.not_eq_true', beq_iff_eq, beq_iff_eq]
    exact ⟨dark, state⟩
  case tells => exact fun w => ⟨fun far => if_neg (mt beq_iff_eq.1 far), fun loop => if_pos (beq_iff_eq.2 loop)⟩
  case hears =>
    intro l some_ carries
    exact if_pos (by rw [bne_iff_ne.2 some_, carries]; rfl)
  case retrains =>
    intro l b fresh host
    simp only [State.retrain, host, bne_iff_ne.2 fresh, Bool.and_false, Bool.false_eq_true, if_false, if_true]
  case restripe =>
    intro new t ev changes state byHost
    have goes : ¬ ((s.link peer).state != .retraining || (s.link peer).byHost) = true := by
      rw [state, byHost]
      exact Bool.false_ne_true
    have reported (enough : 4 ≤ popN 16 new) : exec (.restripeComplete { peer, incoming := false }) s = .next
        (if chanDiff (s.link peer).mask new ≠ 0 then ev 2 (chanDiff (s.link peer).mask new)
          else if chanDiff new (s.link peer).mask ≠ 0 then ev 3 (chanDiff new (s.link peer).mask) else t) := by
      rw [exec, execRestripeComplete]
      refine (if_neg Bool.false_ne_true).trans ((if_neg goes).trans ((if_neg (Nat.not_lt.2 enough)).trans ?_))
      exact congrArg Host.Outcome.next (restripe_report ev)
    refine ⟨fun enough moves => ?gone, fun enough stays moves => ?taken, fun enough stays same => ?same, fun few => ?few⟩
    case gone => exact (reported enough).trans (congrArg Host.Outcome.next (if_pos moves))
    case taken => exact (reported enough).trans (congrArg Host.Outcome.next ((if_neg (not_not.2 stays)).trans (if_pos moves)))
    case same => exact (reported enough).trans (congrArg Host.Outcome.next ((if_neg (not_not.2 stays)).trans (if_neg (not_not.2 same))))
    case few =>
      show exec _ s = _
      rw [exec, execRestripeComplete]
      exact (if_neg Bool.false_ne_true).trans ((if_neg goes).trans (if_pos few))
  case restripeIn =>
    intro new state agreed
    rw [exec, execRestripeComplete]
    refine (if_pos rfl).trans ?_
    rw [agreed]
    refine (if_neg (by rw [state]; exact Bool.false_ne_true)).trans ?_
    by_cases few : popN 16 new < 4
    · simp only [few, if_true]
    · simp only [few, if_false]
  case agreed => exact fun far => if_pos (bne_iff_ne.2 far)
  case agreedLoop =>
    intro loop settled
    refine (if_neg (by rw [loop, bne_self_eq_false]; exact Bool.false_ne_true)).trans (if_neg (mt beq_iff_eq.1 settled))
  case trained =>
    intro training enough
    rw [exec, execLinkTrainingComplete]
    exact (if_neg Bool.false_ne_true).trans ((if_neg (by rw [training]; exact Bool.false_ne_true)).trans (if_neg (Nat.not_lt.2 enough)))
  case untrained =>
    intro training few
    rw [exec, execLinkTrainingComplete]
    exact (if_neg Bool.false_ne_true).trans ((if_neg (by rw [training]; exact Bool.false_ne_true)).trans (if_pos few))
  case trainedIn =>
    intro training
    rw [exec, execLinkTrainingComplete]
    refine (if_pos rfl).trans ((if_neg (by rw [training]; exact Bool.false_ne_true)).trans ?_)
    by_cases few : popN 16 m.toNat < 4
    · simp only [few, if_true]
    · simp only [few, if_false]
  case mask =>
    intro open_ state byHost
    rw [exec, execLinkMaskWrite, State.windowed_open open_]
    exact congrArg Host.Outcome.next (if_pos (by rw [state, byHost]; rfl))
  case reset =>
    intro open_ state
    rw [exec, execLinkReset]
    refine (if_pos rfl).trans ((State.windowed_open open_ _).trans (congrArg Host.Outcome.next ((if_neg ?_).trans ?_)))
    · rw [state]
      exact Bool.false_ne_true
    · simp only [beq_iff_eq]
      rfl
  case replies =>
    intro y
    rw [State.dropReplies, inLink_updInLink, List.mem_filter]
    refine and_congr_right fun _ => ?_
    cases y <;> simp
  case perigee =>
    intro perigee
    rw [exec, execLinkReset]
    exact (if_neg Bool.false_ne_true).trans (if_pos (by rw [perigee]; rfl))
  case resetIn =>
    intro full pod far
    rw [exec, execLinkReset]
    exact (if_neg Bool.false_ne_true).trans (if_neg (by rw [full, pod, beq_eq_false_iff_ne.2 far]; exact Bool.false_ne_true))
  case zero =>
    refine restarts_zero _ s fun y mem own small => .inl (List.mem_filter.2 ⟨List.mem_range.2 small, ?_⟩)
    rw [Bool.or_eq_true]
    exact .inr (List.any_eq_true.2 ⟨y, mem, keyed_iff.2 ⟨own, rfl⟩⟩)
  case old =>
    intro n small
    refine (restarts_old _ s n).trans ?_
    split
    next => rfl
    next away =>
      rw [List.mem_filter, Bool.or_eq_true, not_and_or, not_or] at away
      obtain ⟨nothing, unused⟩ := away.resolve_left fun out => out (List.mem_range.2 small)
      have blank : s.stream peer n = Stream.blank peer n := by
        have none_ : s.streams.find? (keyed peer n) = none := List.find?_eq_none.2 fun y mem key => unused (List.any_eq_true.2 ⟨y, mem, key⟩)
        change (s.streams.find? (keyed peer n)).getD _ = _
        rw [none_]
        rfl
      rw [blank]
      exact (not_not.1 (mt bne_iff_ne.2 nothing)).symm
  case rekey =>
    intro enc on
    rw [exec, execRekey]
    exact if_pos (by rw [enc, carries_of on]; rfl)
  case flits =>
    intro t1 t2 t carries
    have open_ : ¬ (!(s.inLink peer).state.carries) = true := by rw [carries]; exact Bool.false_ne_true
    have rx : (t.inLink peer).rx = (s.inLink peer).rx := by
      have same : t.inLink peer = t2.inLink peer := by
        simp only [t]
        split <;> rfl
      rw [same]
      simp only [t2, t1, inLink_updInLink]
      rfl
    refine ⟨fun data other next => ?inTurn, fun data other skips taken => ?taken, fun data other skips ahead => ?ahead, fun control => ?acks, ?forged, ?broken⟩
    case inTurn =>
      rw [exec, execFlitReceive]
      refine (if_neg open_).trans ((if_neg (payload_flit data other)).trans (if_pos ?_))
      exact beq_iff_eq.2 (next.trans (by rw [rx]))
    case taken =>
      rw [exec, execFlitReceive]
      refine (if_neg open_).trans ((if_neg (payload_flit data other)).trans ((if_neg ?_).trans (if_pos ?_)))
      · exact fun same => skips ((beq_iff_eq.1 same).trans (by rw [← rx]))
      · rw [← rx] at taken
        exact taken
    case ahead =>
      rw [exec, execFlitReceive]
      refine (if_neg open_).trans ((if_neg (payload_flit data other)).trans ((if_neg ?_).trans (if_neg ?_)))
      · exact fun same => skips ((beq_iff_eq.1 same).trans (by rw [← rx]))
      · rw [← rx] at ahead
        exact Nat.not_lt.2 ahead
    case acks =>
      rw [exec, execFlitReceive]
      exact (if_neg open_).trans (if_pos (by rwa [Bool.or_eq_true, beq_iff_eq, beq_iff_eq]))
    case forged =>
      rw [exec, execFlitReceive]
      refine (if_neg open_).trans ?_
      simp only [inLink_updInLink]
      rfl
    case broken =>
      rw [exec, execFlitReceive]
      exact if_neg open_
  case dark =>
    intro dark got
    rw [exec, execFlitReceive]
    exact if_pos (by rw [dark]; rfl)
  case sends =>
    intro ready head
    refine ⟨fun ready room notes => ?notice, fun ready room quiet packs => ?packed, fun ready quiet empty due => ?idle⟩
    all_goals
      obtain ⟨on, first, key⟩ := ready
      have carries : ¬ (!((s.link peer).state == .up || (s.link peer).state == .degraded)) = true := by rw [carries_of on]; exact Bool.false_ne_true
      have sealing_ : ((s.link peer).enc && decide (2 ^ 32 - 1 ≤ (s.link peer).sealedCount)) = false := by
        cases enc : (s.link peer).enc with
        | false => rfl
        | true => exact decide_eq_false (Nat.not_le.2 (key enc))
      rw [exec, execFlitSend]
      refine (if_neg carries).trans ?_
      rw [first]
      refine (if_neg (Bool.eq_false_iff.1 sealing_)).trans ?_
    case notice =>
      rw [decide_eq_true room, notes]
    case packed =>
      rw [decide_eq_true room, quiet, packs]
    case idle =>
      rw [quiet, empty]
      have due : ((s.inLink peer).nak || (s.inLink peer).ackDue) = true := by rwa [Bool.or_eq_true]
      cases decide ((s.link peer).replay.length < 4096) <;> exact if_pos due
  case auth =>
    intro n carries
    exact if_neg (by rw [carries]; exact Bool.false_ne_true)
  case chunk =>
    exact fun n _ => ⟨rfl, rfl⟩
  case resend =>
    intro n on first found few
    rw [exec, execFlitSend]
    refine (if_neg (by rw [carries_of on]; exact Bool.false_ne_true)).trans ?_
    rw [first]
    refine congrArg Host.Outcome.next ?_
    rw [State.resend, found]
    exact if_neg (Nat.not_le.2 few)
  case packs =>
    intro cap room fits
    rw [pack]
    exact (if_neg (mt beq_iff_eq.1 room.ne')).trans (if_pos (by rw [Nat.zero_add]; exact fits))
  case begins =>
    intro cap room long
    rw [pack]
    refine (if_neg (mt beq_iff_eq.1 room.ne')).trans ((if_neg (by rw [Nat.zero_add]; exact Nat.not_le.2 long)).trans ?_)
    rw [Nat.zero_add]

end Sys2Proof.Laws
end

section
/-! The frame of a store as it is performed (spec/22_host.md R424). A piece that crosses a line is held by the host in the second line too. -/

namespace Sys2Proof.Laws
open Sys2Proof Sys2Proof.Machine

/-- A store of two bytes at place 127, of which the second lies in the next line. -/
def crossingStore : PStore :=
  { group := 0, lanes := 1, core := 0, ctx := 0, version := 0, pol := .sys, scope := .device
    pieces := [{ lane := 0, va := 127, loc := 127, ov := none, bytes := [1, 1], b := 0, c := 0 }], atomic := none, load := none, inTeam := none }

/-- It waits while the host holds the lower half of that line. -/
def crossingState : State :=
  { State.reset with
    stores := [(0, crossingStore)]
    port := { State.reset.port with lines := [(1, { lower := true, upper := false, recalled := 0, stale := 0, yields0 := 0, yields1 := 0 })] } }

/-- R424: the store waits for the half, and not a byte of it is performed. -/
theorem crossingState_waits : exec (.storePerformed 0) crossingState = .next (crossingState.recallAt 128 1) := by
  have held : crossingState.pieceHeld crossingStore = some 128 := by decide
  have found : Tab.get? crossingState.stores 0 = some crossingStore := rfl
  rw [exec_storePerformed (by decide)]
  simp only [State.perform1, found, held]

/-- Refutes O12: of a store that crosses into a line whose half the host holds no byte is performed, though the half of its first byte's line is free. -/
theorem not_storeFrame : ¬ Obligations.StoreFrame := by
  unfold Obligations.StoreFrame
  intro holds
  obtain ⟨t, next, bytes, _⟩ := (holds crossingState 0 crossingStore rfl (by decide) rfl rfl rfl).1 (by decide) rfl (by decide) (by decide)
  cases crossingState_waits.symm.trans next
  exact absurd (bytes 127) (by decide)

end Sys2Proof.Laws
end
